-- ==== Sys2Proof/Word.lean ====
section
/-! DEFINITION. The words that cross the V740's links, and the plainest arithmetic on counts. -/

namespace Sys2Proof

/-- One byte of a link, a record or the store. -/
abbrev Byte := BitVec 8

/-- One data word of a sensor lane (Formats, "Sensor port words"). -/
abbrev Word16 := BitVec 16

/-- One slot word of the lens link (Formats, "Lens slot words"). -/
abbrev Word32 := BitVec 32

/-- A count of 32 bits that stops at its upper limit ("Saturating", 00_scope.md, Conventions). -/
def sat32 (n : Nat) : Nat := min (n + 1) 4294967295

/-- A count of 64 bits that stops at its upper limit. -/
def sat64 (n k : Nat) : Nat := min (n + k) 18446744073709551615

/-- `ceil(a / b)` on counts ("ceil", 00_scope.md, Conventions). -/
def ceilDiv (a b : Nat) : Nat := (a + b - 1) / b

/-- `v` clamped to `lo…hi`: raised to `lo` if below it, lowered to `hi` if above it. -/
def clampInt (lo hi v : Int) : Int := min hi (max lo v)

/-- `ceil(a / b)` on integers, for `b` above 0. -/
def ceilDivInt (a b : Int) : Int := -((-a) / b)

/-- `a / b` rounded half away from zero, for `b` above 0 (00_scope.md, "Division and rounding"). -/
def roundHalfAway (a b : Int) : Int :=
  if 0 ≤ a then (2 * a + b) / (2 * b) else -((2 * (-a) + b) / (2 * b))

end Sys2Proof
end

