-- ==== Sys2Proof/Syntax.lean ====
section
/-! DEFINITION. The commands of the V740: one constructor per row of spec/opcode_table.json, and the operand types the
commands carry. A host command carries its frame's tag and its payload's fields; an event on another port carries what
that port receives; a completion or expiry inside the part carries nothing. -/

namespace Sys2Proof

/-- A card slot (R138). -/
inductive Slot | a | b
  deriving DecidableEq, Repr

/-- A reader of the shot store (R23): card slot A, card slot B, the development engine, the tether port. -/
inductive Reader | a | b | d | t
  deriving DecidableEq, Repr

/-- The kinds of data a card file or a transfer carries (R143, R164). -/
inductive FileKind | raw | proof | memo | caption
  deriving DecidableEq, Repr

/-- The CFA orders (R44). -/
inductive Cfa | rggb | grbg | gbrg | bggr
  deriving DecidableEq, Repr

/-- The servo modes of AF_START (R87). -/
inductive ServoMode | single | continuous | monitor
  deriving DecidableEq, Repr

/-- A rectangle of AF areas: first row, first column, last row, last column (R80). -/
structure Rect where
  row0 : Nat
  col0 : Nat
  row1 : Nat
  col1 : Nat
  deriving DecidableEq, Repr

/-- The three forms of AF_AREA (R80). -/
inductive AreaArg
  | singleArea (area : Nat)
  | zone (rect : Rect)
  | track (area : Nat)
  deriving DecidableEq, Repr

/-- The nine configuration groups (10_command_port_notices_and_settings.md, "Settings"). -/
inductive Group | capture | burst | focus | lens | plans | store | tether | memo | numbering
  deriving DecidableEq, Repr

/-- The fields of the configuration record, group by group, as each chapter's field table lists them. -/
inductive Field
  | sensorId | laneCount | laneMap | polarity | depth | width | height | cfaOrder | errorThreshold | fixedBlack
  | releaseLatency | framePeriod | latenessLimit | readoutTimeout | releaseFilter | focusPriority | focusWait
  | syncMode | syncWindow | syncOut
  | searchRange | contrastThreshold | inFocusWindow | searchStep | driveSpeed | searchSpeed | watcherThreshold | wakeStartsFocus
  | lensFramePeriod | counterMode | countDirection | referenceMode | indexValue | homeTimeout
  | cardPlan | proofFiles | developPlan | tetherPlan | standingCaption
  | captureFloor | lowThreshold | hold | wheel
  | ackTimeout | peerRelease | peerMark | peerPull
  | startMode | energyThreshold | crossingThreshold | trailingSilence
  | firstShotNumber
  deriving DecidableEq, Repr

/-- A configuration value as SET_CONFIG carries it: a number, a name, a list of numbers or of names, or an optional
caption. -/
inductive CfgVal
  | num (n : Int)
  | word (w : String)
  | nums (l : List Int)
  | words (l : List String)
  | text (t : Option (List Byte))
  deriving DecidableEq, Repr

/-- SET_CONFIG's payload (R204). `none` stands for a name that is no group or no field. -/
structure ConfigArg where
  group : Option Group
  pairs : List (Option Field × CfgVal)
  deriving DecidableEq, Repr

/-- A run of card sectors: start sector and sector count (R140). -/
structure Run where
  start : Nat
  count : Nat
  deriving DecidableEq, Repr

/-- A recipe (R117). Matrix entries are held row by row. -/
structure Recipe where
  scale : Nat
  white : Nat
  trimR : Int
  trimGr : Int
  trimGb : Int
  trimB : Int
  gainR : Nat
  gainG : Nat
  gainB : Nat
  gainE : Nat
  matrix : List Int
  tone : List Nat
  deriving DecidableEq, Repr

/-- LENS_LIMITS's four values (R109). -/
structure LimitsArg where
  far : Int
  near : Int
  irisMin : Nat
  irisMax : Nat
  deriving DecidableEq, Repr

/-- A value or a named alternative: a shot number or CURRENT, a shot number or LATEST, a count or UNTIL_END, a caption
or CLEAR (Formats, "Payload fields on the command port"). -/
inductive OrNamed (α : Type) where
  | value (a : α)
  | named
  deriving DecidableEq, Repr

/-- A host command's frame as taken: its tag, and the fields of its payload. `fields` is `none` when the payload does
not hold the fields that the command calls for, in their order and sizes (R198, fourth check). -/
structure Req (α : Type) where
  tag : Byte
  fields : Option α
  deriving DecidableEq, Repr

/-- The commands: host commands, link events, and the part's own steps. One constructor per row of
spec/opcode_table.json. -/
inductive Instr
  -- Shot Store
  | shotMark (r : Req (OrNamed Nat))
  | shotKeep (r : Req Nat)
  | shotRelease (r : Req Nat)
  | shotDelete (r : Req Nat)
  | shotInfo (r : Req Nat)
  | shotList (r : Req Nat)
  -- Sensor Port
  | linkStart (r : Req Unit)
  | linkStop (r : Req Unit)
  | laneTestStart (r : Req Unit)
  | laneTestRead (r : Req Unit)
  | laneTestStop (r : Req Unit)
  | linkStats (r : Req Unit)
  -- Release and timing unit
  | release (r : Req (OrNamed Nat))
  | releaseEnd (r : Req Unit)
  | burstState (r : Req Unit)
  | burstAbort (r : Req Unit)
  | syncArm (r : Req Unit)
  | syncState (r : Req Unit)
  | latencyStats (r : Req Unit)
  | latencyClear (r : Req Unit)
  -- Focus engine
  | afLensCoef (r : Req Int)
  | afArea (r : Req AreaArg)
  | afStart (r : Req (Option ServoMode))
  | afStop (r : Req Unit)
  | watchSet (r : Req Bool)
  | watchReset (r : Req Unit)
  | afState (r : Req Unit)
  | afGrid (r : Req Nat)
  -- Lens port
  | lensStart (r : Req Unit)
  | lensStop (r : Req Unit)
  | lensHome (r : Req Unit)
  | lensIris (r : Req Nat)
  | lensLimits (r : Req LimitsArg)
  | lensAux (r : Req Word16)
  | positionSet (r : Req Int)
  | lensState (r : Req Unit)
  -- Development engine
  | recipeSet (r : Req (Nat × Recipe))
  | recipeGet (r : Req Nat)
  | recipeSelect (r : Req Nat)
  | developState (r : Req Unit)
  -- Card writer (`none` stands for a slot other than A or B)
  | cardExtents (r : Req (Option Slot × List Run))
  | cardFinal (r : Req (Option Slot))
  | cardClear (r : Req (Option Slot))
  | fileTake (r : Req (Option Slot))
  | cardEject (r : Req (Option Slot))
  | cardState (r : Req (Option Slot))
  | cardSet (r : Req (Option Slot × Nat × Nat))
  -- Tether port
  | tetherState (r : Req Unit)
  -- Captions and memos
  | captionSet (r : Req (Nat × List Byte))
  | captionStanding (r : Req (OrNamed (List Byte)))
  | memoLevel (r : Req (Int × Int))
  | memoStart (r : Req (OrNamed Nat))
  | memoStop (r : Req Unit)
  | memoState (r : Req Unit)
  -- Command port
  | getNotice (r : Req Unit)
  | status (r : Req Unit)
  | setConfig (r : Req ConfigArg)
  | getConfig (r : Req (Option Group))
  | sleep (r : Req Unit)
  | reset (r : Req Unit)
  | badFrame
  | unknown (tag : Byte)
  | notReady (tag : Byte)
  | replyCollected
  | powerUpReset
  | commandReset
  | closingComplete
  | enterStandby
  | wakeLine
  -- Sensor link events: `wt` is the word time of the arrival
  | laneSymbol (lane : Nat) (sym : BitVec 18) (wt : Nat)
  | laneMark (lane : Nat) (wt : Nat)
  | alignmentWindowExpiry
  | noMarkTimeout
  | linkParametersHeader
  | trainingReassert
  | laneDrift (wt : Nat)
  | readoutHeader
  | line
  | readoutEnd
  | readoutSilence
  | retrainPerformed
  -- Store steps
  | reservationGrant
  | wheelSlot
  -- Release and timing events
  | releaseLineChange (pressed : Bool)
  | releaseFilterExpiry
  | frameFire
  | focusWaitExpiry
  | readoutTimeout
  | syncEdge
  | settleTimeout
  -- Lens events
  | lensDetectChange (active : Bool)
  | statusSlot (w : Option Word32)
  | driveSlot
  | irisSlot
  | auxSlot (w : Option Word32)
  | lensFrameEnd
  | homeTimeout
  | encoderEdge (a : Bool) (b : Bool)
  | indexEvent
  -- Development steps
  | developJobStart
  | allocationGrant
  | developComplete
  -- Card events
  | cardPresentChange (slot : Slot) (active : Bool)
  | fileStart (slot : Slot)
  | cardWriteIssue (slot : Slot)
  | cardWriteDone (slot : Slot) (write : Nat)
  | cardWriteError (slot : Slot) (write : Nat)
  | writeTimeout (slot : Slot)
  -- Tether events
  | tetherLinkChange (up : Bool)
  | peerBadFrame
  | transferStart
  | accept (id : Nat) (start : Nat)
  | decline (id : Nat)
  | credit (count : Nat)
  | ack (id : Nat) (offset : Nat)
  | segSend
  | ackTimerExpiry
  | captionUpdate
  | remoteRelease (count : Nat)
  | remoteEnd
  | mark (shot : Nat)
  | pull (shot : Nat) (kind : Option FileKind)
  -- Memo events
  | memoSample (bits : BitVec 192)
  | activityFrameEnd
  deriving DecidableEq, Repr

end Sys2Proof
end

