-- ==== Sys2Proof/Decode.lean ====
section
/-! DEFINITION. The commands by the opcode table's bits. spec/opcode_table.json gives no row any bits: a command arrives as
a frame, a symbol, an edge or an event of the part itself. How frames spell commands is in `Machine/Operands.lean`. -/

namespace Sys2Proof

/-- The command that a word spells by the table's bits: none, for the table gives no bits to any row. -/
def decodeTableWord (_nbits _w : Nat) : Option Instr := none

end Sys2Proof
end

