-- ==== Sys2Proof/Config.lean ====
section
/-! DEFINITION. The sizes and times that the specification fixes for the part. The settings that the host may change
are state (`Sys2Proof.Machine.Cfg`), not constants. -/

namespace Sys2Proof.Config

/-- Blocks of the shot store (R1). -/
def blocks : Nat := 65536
/-- Bytes of one block (R1). -/
def blockBytes : Nat := 65536
/-- What a byte of the store that nothing has written reads as. DESIGN CHOICE (log entry 2): the specification does not
say what the stacked DRAM holds at power-up. UNSAFE. -/
def unwritten : Byte := 0
/-- Entries of the shot table (R2). -/
def entries : Nat := 256
/-- The largest shot or burst number (R3, R54). -/
def maxNumber : Nat := 4294967295
/-- Entries of the notice queue (R201). -/
def noticeRoom : Nat := 32
/-- Bytes of one read of the store's port (R23). -/
def readBytes : Nat := 4096
/-- Words of one skew FIFO (R33). -/
def fifoWords : Nat := 16
/-- Word times of the alignment window, and of the empty-lane drift test (R30, R33). -/
def windowWords : Nat := 12
/-- Time from the training request to NO_MARK, 5 ms (R30). -/
def noMarkTime : Nat := 5000
/-- Time from a failed training attempt to the next assertion, 100 µs (R32). -/
def reassertTime : Nat := 100
/-- Failed attempts that make the link FAILED (R32). -/
def maxAttempts : Nat := 4
/-- Frames of an UNTIL_END burst (R55). -/
def maxFrames : Nat := 999
/-- The shortest frame spacing, 20,000 µs (R69). -/
def minSpacing : Nat := 20000
/-- The settle wait's timeout, 500 ms (R89). -/
def settleTime : Nat := 500000
/-- Fail count that makes a SINGLE servo FAILED (R88). -/
def maxFails : Nat := 16
/-- Track misses that make the track LOST (R84). -/
def maxMisses : Nat := 8
/-- Samples of one phase-detect sequence (Focus Engine, "The AF area grid"). -/
def phaseSamples : Nat := 64
/-- The position counter's ends (R111). -/
def counterMax : Int := 8388607
/-- The position counter's lower end (R111). -/
def counterMin : Int := -8388608
/-- Words of the AUX queue and of the AUX history (R110). -/
def auxRoom : Nat := 4
/-- Sectors of one card write (R146). -/
def writeSectors : Nat := 2048
/-- Bytes of a card sector and of a file header (R144). -/
def sectorBytes : Nat := 512
/-- Runs of an extent list, records of a return list, fragments of a file (R140, R155, R147). -/
def cardRoom : Nat := 64
/-- Entries of the transfer queue (R164). -/
def transferRoom : Nat := 256
/-- Bytes of a full tether segment (R167). -/
def segBytes : Nat := 16384
/-- Segments that may be unacknowledged (R169). -/
def maxInFlight : Nat := 8
/-- The cap on the credits (R170). -/
def maxCredits : Nat := 64
/-- Ack timeouts that fail a transfer (R173). -/
def maxTimeouts : Nat := 4
/-- PDM bits per decimated value (R190). -/
def decimation : Nat := 192
/-- Samples of an activity frame (R191). -/
def frameSamples : Nat := 320
/-- Samples of the longest memo, 60 s (R193). -/
def maxSamples : Nat := 960000
/-- Samples held by one block (R193). -/
def blockSamples : Nat := 32768
/-- Values of the decimator discarded after a clearing (R190). -/
def discardValues : Nat := 2

end Sys2Proof.Config
end

