-- ==== Sys2Proof/Machine/State.lean ====
section
/-! DEFINITION. The state of the V740: every register, queue, counter, mode, line and record that the specification
gives the part, the queue of waiting commands, and the state after power-up reset. Plain data throughout. -/

namespace Sys2Proof.Machine

open Sys2Proof

/-! ## Values on the command link -/

/-- One field of a reply or a notice, by its kind (Formats, "Payload fields on the command port"). A record is a list
of these in the order the owning rule names them; `Machine/Formats.lean` gives their bytes. -/
inductive Wire
  | u8 (n : Nat)
  | u16 (n : Nat)
  | u32 (n : Nat)
  | u64 (n : Nat)
  | i8 (v : Int)
  | i16 (v : Int)
  | i32 (v : Int)
  | i64 (v : Int)
  | word (w : String)
  | items (n : Nat)
  | present (b : Bool)
  | named (b : Bool)
  | bytes (l : List Byte)
  deriving DecidableEq, Repr

/-- The reply statuses (R200). -/
inductive Status
  | ok | accepted | busy | badValue | badState | notHeld | inUse | notReady | badFrame | unknown
  deriving DecidableEq, Repr

/-- A reply in the reply slot (R199). `resets` marks the reply of RESET (R211). -/
structure Reply where
  tag : Byte
  status : Status
  result : List Wire
  resets : Bool
  deriving DecidableEq, Repr

/-- The notice kinds (10_command_port_notices_and_settings.md, "The notice queue"). -/
inductive NoticeKind
  | linkState | retrain | shotVoid | shotKept | storeLow | burstEnd | lateFrames | syncWindow | focusState | activity
  | lensState | cardState | extentsLow | filesWaiting | tetherState | transferFailed | peerCommand | memoEnd
  | configDefaulted | slept
  deriving DecidableEq, Repr

/-- A notice's subject: a number, a slot, or a group name. -/
inductive Subject
  | num (n : Nat)
  | slot (s : Slot)
  | group (g : Group)
  deriving DecidableEq, Repr

/-- A queued notice (R201). -/
structure Notice where
  kind : NoticeKind
  subject : Subject
  values : List Wire
  repeats : Nat
  time : Nat
  deriving DecidableEq, Repr

/-! ## The configuration record -/

/-- Capture group (02_sensor_port_and_readout.md, "Capture group fields"). -/
structure CaptureCfg where
  sensorId : Nat := 0
  lanes : Nat := 4
  laneMap : List Nat := [0, 1, 2, 3, 4, 5, 6, 7]
  inverted : List Bool := [false, false, false, false, false, false, false, false]
  depth : Nat := 14
  width : Nat := 5120
  height : Nat := 3456
  cfa : Cfa := .rggb
  errThreshold : Nat := 16
  fixedBlack : Nat := 4096
  deriving DecidableEq, Repr

/-- The sync modes (R68). -/
inductive SyncMode | off | once | every | watch | follow
  deriving DecidableEq, Repr

/-- Burst group (03_release_burst_and_exposure_timing.md, "Burst group"). -/
structure BurstCfg where
  latency : Nat := 0
  period : Nat := 33333
  latenessLimit : Nat := 2000
  readoutMs : Nat := 200
  filterMs : Nat := 4
  focusPriority : Bool := false
  focusWaitMs : Nat := 500
  syncMode : SyncMode := .off
  window : Nat := 500
  syncOut : Bool := false
  deriving DecidableEq, Repr

/-- Focus group (04_focus_engine.md, "Focus group"). -/
structure FocusCfg where
  range : Nat := 12
  threshold : Nat := 2048
  window : Nat := 10
  step : Nat := 400
  driveSpeed : Nat := 5
  searchSpeed : Nat := 7
  watchT : Nat := 8
  wakeStarts : Bool := false
  deriving DecidableEq, Repr

/-- Lens group (05_lens_port.md, "Lens group"). -/
structure LensCfg where
  framePeriod : Nat := 1000
  upOnly : Bool := false
  reversed : Bool := false
  indexMode : Bool := true
  indexValue : Int := 0
  homeMs : Nat := 3000
  deriving DecidableEq, Repr

/-- The card plans (R10). -/
inductive CardPlan | off | singleA | mirror | overflow | split
  deriving DecidableEq, Repr

/-- The develop plans (R10). -/
inductive DevelopPlan | never | urgentOnly | all
  deriving DecidableEq, Repr

/-- The tether plans (R10). -/
inductive TetherPlan | none | urgentProof | allProof | urgentRaw | urgentBoth
  deriving DecidableEq, Repr

/-- Plans group (10_command_port_notices_and_settings.md, "Settings"). -/
structure PlansCfg where
  card : CardPlan := .singleA
  proofFiles : Bool := false
  develop : DevelopPlan := .urgentOnly
  tether : TetherPlan := .urgentProof
  standing : Option (List Byte) := none
  deriving DecidableEq, Repr

/-- The default read wheel (R23). -/
def defaultWheel : List Reader :=
  [.a, .b, .d, .t, .a, .b, .d, .t, .a, .b, .d, .t, .a, .b, .a, .b]

/-- Store group (01_shot_store.md, "Store settings"). -/
structure StoreCfg where
  floor : Nat := 1024
  low : Nat := 4096
  hold : Bool := false
  wheel : List Reader := defaultWheel
  deriving DecidableEq, Repr

/-- Tether group (R182). -/
structure TetherCfg where
  ackMs : Nat := 400
  peerRelease : Bool := false
  peerMark : Bool := true
  peerPull : Bool := true
  deriving DecidableEq, Repr

/-- Memo group (R196). -/
structure MemoCfg where
  onVoice : Bool := false
  energy : Nat := 400
  crossing : Nat := 40
  silence : Nat := 75
  deriving DecidableEq, Repr

/-- The applied values of the configuration record (R204, R212). -/
structure Cfg where
  capture : CaptureCfg := {}
  burst : BurstCfg := {}
  focus : FocusCfg := {}
  lens : LensCfg := {}
  plans : PlansCfg := {}
  store : StoreCfg := {}
  tether : TetherCfg := {}
  memo : MemoCfg := {}
  firstShot : Nat := 1
  deriving DecidableEq, Repr

/-! ## The lines of the part's ports -/

/-- Levels of the input lines. -/
structure Lines where
  lensDetect : Bool := false
  cardA : Bool := false
  cardB : Bool := false
  linkUp : Bool := false
  releasePressed : Bool := false
  encA : Bool := false
  encB : Bool := false
  deriving DecidableEq, Repr

/-! ## Shot store -/

/-- The states of a shot table entry (R2). -/
inductive EntryState | free | reserved | landing | held
  deriving DecidableEq, Repr

/-- The states of a duty (R11). -/
inductive DutyState | pending | active | done | failed | cancelled
  deriving DecidableEq, Repr

/-- A duty's kind and target (R11): a file kind on a card, DEVELOP, or a send. -/
inductive DutyKey
  | card (k : FileKind) (s : Slot)
  | develop
  | send (k : FileKind)
  deriving DecidableEq, Repr

/-- How a send duty became DONE (R168, R172). -/
inductive SendOutcome | delivered | declined
  deriving DecidableEq, Repr

/-- One duty of a shot. A send duty keeps its class and resume offset here (R164), and whether it is deferred; a DEVELOP
duty keeps the class its queue entry took (R121); a CAPTION card duty keeps the stale mark of R187. -/
structure Duty where
  key : DutyKey
  state : DutyState := .pending
  urgent : Bool := false
  resume : Nat := 0
  outcome : Option SendOutcome := none
  deferred : Bool := false
  stale : Bool := false
  deriving DecidableEq, Repr

/-- A pin: the reader and the extent read (R24). -/
structure Pin where
  reader : Reader
  kind : FileKind
  deriving DecidableEq, Repr

/-- The servo states (R87). -/
inductive ServoState | idle | seeking | locked | following | failed | suspended
  deriving DecidableEq, Repr

/-- The focus snapshot (R93). -/
structure Snapshot where
  mode : Option ServoMode := none
  state : ServoState := .idle
  area : Option Nat := none
  defocus : Int := 0
  counter : Int := 0
  moving : Bool := false
  confirmed : Bool := false
  deriving DecidableEq, Repr

/-- Four values, one per colour plane (R44). -/
structure Planes where
  r : Nat := 0
  gr : Nat := 0
  gb : Nat := 0
  b : Nat := 0
  deriving DecidableEq, Repr

/-- The capture facts that decide a shot's layout (R4, R6). -/
structure Geometry where
  width : Nat := 0
  height : Nat := 0
  depth : Nat := 0
  cfa : Cfa := .rggb
  deriving DecidableEq, Repr

/-- The channels whose span R130 raised. All clear means develop status OK, any set means BLACK_HIGH. -/
structure HighMask where
  r : Bool := false
  g : Bool := false
  b : Bool := false
  deriving DecidableEq, Repr

/-- A proof extent with its byte count and size in pixels (R5, R123). -/
structure Proof where
  blocks : List Nat
  bytes : Nat
  width : Nat
  height : Nat
  deriving DecidableEq, Repr

/-- A memo extent with its length in bytes (R5). -/
structure MemoExt where
  blocks : List Nat
  length : Nat
  deriving DecidableEq, Repr

/-- A shot table entry and its record (R2, R4, R5). `serial` is the model's own: the order in which shot numbers were
assigned. -/
structure Shot where
  state : EntryState := .free
  number : Nat := 0
  serial : Nat := 0
  burst : Nat := 0
  frame : Nat := 0
  released : Nat := 0
  scheduled : Nat := 0
  exposed : Nat := 0
  lateness : Int := 0
  phase : Int := 0
  snapshot : Snapshot := {}
  geom : Geometry := {}
  sequence : Nat := 0
  damaged : Nat := 0
  black : Planes := {}
  recipe : Nat := 0
  urgent : Bool := false
  keep : Bool := false
  deleting : Bool := false
  markPending : Bool := false
  pins : List Pin := []
  duties : List Duty := []
  raw : List Nat := []
  proof : Option Proof := none
  memo : Option MemoExt := none
  caption : Option (List Byte) := none
  develop : Option HighMask := none
  deriving DecidableEq, Repr

/-- A waiting reservation request (R6, R58). -/
structure ResReq where
  burst : Nat
  frame : Nat
  released : Nat
  scheduled : Nat
  geom : Geometry
  deriving DecidableEq, Repr

/-- The shot store's state but for its bytes and its settings. -/
structure Store where
  free : List Nat
  table : List Shot
  next : Nat := 1
  serial : Nat := 0
  request : Option ResReq := none
  wheelPos : Nat := 0
  lastLanded : Option Nat := none
  deriving DecidableEq, Repr

/-! ## Sensor port -/

/-- The link states (R29). -/
inductive LinkState | down | training | aligned | failed
  deriving DecidableEq, Repr

/-- The reasons of a failed training attempt (R32). -/
inductive FailReason | noMark | skew | headerMismatch
  deriving DecidableEq, Repr

/-- The reasons of a retrain request (R40). -/
inductive RetrainReason | errors | drift
  deriving DecidableEq, Repr

/-- An entry of a skew FIFO (R27, R38): a data word, a LINE word or an END word. -/
inductive LaneWord
  | data (w : Word16)
  | line
  | stop
  deriving DecidableEq, Repr

/-- What reassembly has ready, in order: the words between two sets of LINE or END words (a header or a line), or a set
of END words (R34, R38). `cut` holds the words of a line that drift cut off (R33). -/
inductive Assembled
  | unit (ws : List Word16)
  | cut (ws : List Word16)
  | stop
  deriving DecidableEq, Repr

/-- The kinds of readout (R34). -/
inductive ReadoutKind | shot | watch | test
  deriving DecidableEq, Repr

/-- One black accumulator: a sum and a count (R45). -/
structure Accum where
  sum : Nat := 0
  count : Nat := 0
  deriving DecidableEq, Repr

/-- The four black accumulators. -/
structure Accums where
  r : Accum := {}
  gr : Accum := {}
  gb : Accum := {}
  b : Accum := {}
  deriving DecidableEq, Repr

/-- The readout in progress (R34 to R45). -/
structure Readout where
  kind : ReadoutKind
  sequence : Nat
  nb : Nat
  np : Nat
  nh : Nat
  start : Nat
  blackOpen : Bool
  blackSeen : List Nat
  phaseSeen : List Nat
  nextImage : Nat
  means : Planes
  deriving DecidableEq, Repr

/-- Whether the port is between readouts, in a readout, or in a discarded readout (R34). -/
inductive Reading
  | between
  | active (r : Readout)
  | discarded
  deriving DecidableEq, Repr

/-- A lane pattern checker (R48). `state` is the 15-bit sequence state, absent where no state is loaded: at reset, at
LANE_TEST START and at a TEST header the first word then follows nothing (DESIGN CHOICE, log entry 8). -/
structure Checker where
  state : Option (BitVec 15) := none
  run : Nat := 0
  locked : Bool := false
  mismatch : Nat := 0
  compared : Nat := 0
  deriving DecidableEq, Repr

/-- The sensor port's state. Per-lane lists are indexed by logical lane. R50 does not give the last failure reason after a
reset or a wake; the model makes it none (DESIGN CHOICE, log entry 8). -/
structure SensorPort where
  link : LinkState := .down
  attempts : Nat := 0
  lastFail : Option FailReason := none
  skew : Nat := 0
  trainReq : Bool := false
  markBy : Option Nat := none
  reassertAt : Option Nat := none
  windowFrom : Option Nat := none
  marked : List Bool := List.replicate 8 false
  fifos : List (List LaneWord) := List.replicate 8 []
  emptyFrom : List Nat := List.replicate 8 0
  resync : Bool := false
  turn : Nat := 0
  unitOpen : Bool := false
  assembly : List Word16 := []
  items : List Assembled := []
  lastWordAt : Nat := 0
  reading : Reading := .between
  accums : Accums := {}
  errs : List Nat := List.replicate 8 0
  retrain : Option RetrainReason := none
  retrains : Nat := 0
  unexpected : Nat := 0
  badHeaders : Nat := 0
  lineOrder : Nat := 0
  checkOn : Bool := false
  checkers : List Checker := List.replicate 8 {}
  deriving DecidableEq, Repr

/-! ## Release and timing unit -/

/-- The burst states (R56). -/
inductive BurstPhase | idle | waiting | exposing | reading | stopping
  deriving DecidableEq, Repr

/-- The release sources (R52). -/
inductive Owner | host | line | peer | sync
  deriving DecidableEq, Repr

/-- The reasons of BURST_END (R67). -/
inductive EndReason | count | ownerEnd | link | command
  deriving DecidableEq, Repr

/-- The burst record (R54, R56). `count` is `none` for UNTIL_END; `ending` is the end in hand. -/
structure BurstRec where
  number : Nat
  owner : Owner
  count : Option Nat
  triggered : Nat := 0
  landed : Nat := 0
  voided : Nat := 0
  late : Nat := 0
  ignored : Nat := 0
  byWait : Nat := 0
  t0 : Nat
  latency : Nat
  period : Nat
  tg : Int
  kg : Nat := 0
  ending : Option EndReason := none
  deriving DecidableEq, Repr

/-- A standing grid (R69, R70): the origin it was set with, the instant its present period counts from, the period. -/
structure Grid where
  origin : Int
  anchor : Int
  period : Nat
  deriving DecidableEq, Repr

/-- The conditions a ready-delay sample may name (R71). -/
inductive Limit | none | reservation | link | focus
  deriving DecidableEq, Repr

/-- One set of ready-delay statistics (R71). -/
structure DelaySet where
  count : Nat := 0
  min : Nat := 0
  max : Nat := 0
  none : Nat := 0
  reservation : Nat := 0
  link : Nat := 0
  focus : Nat := 0
  deriving DecidableEq, Repr

/-- The release and timing unit's state. -/
structure Rtu where
  phase : BurstPhase := .idle
  burst : Option BurstRec := none
  nextBurst : Nat := 1
  level : Option Bool := none
  filterAt : Option Nat := none
  armed : Bool := false
  aligned : Bool := false
  standing : Option Grid := none
  lastError : Option (Int × Nat) := none
  edges : Nat := 0
  realigns : Nat := 0
  windows : Nat := 0
  first : DelaySet := {}
  nexts : DelaySet := {}
  readoutAt : Option Nat := none
  waitAt : Option Nat := none
  waitExpired : Bool := false
  readyFrom : Nat := 0
  ready : Option (Nat × Limit) := none
  triggerAt : Option Nat := none
  syncOutAt : Option Nat := none
  deriving DecidableEq, Repr

/-! ## Focus engine -/

/-- The kinds of an area result (R78). -/
inductive AreaKind | noData | lowContrast | edge | flat | valid
  deriving DecidableEq, Repr

/-- An area record (R78, R79). `near` is the direction of an EDGE. -/
structure AreaResult where
  kind : AreaKind := .noData
  contrast : Nat := 0
  shift : Int := 0
  near : Bool := false
  d16 : Int := 0
  defocus : Int := 0
  deriving DecidableEq, Repr

/-- The lens states (R102). -/
inductive LensPhase | stopped | waiting | running | lost
  deriving DecidableEq, Repr

/-- The readout in hand (R75, R76, R94). -/
structure InHand where
  kind : ReadoutKind
  start : Nat
  counter : Int
  referenced : Bool
  lens : LensPhase
  moving : Bool
  cfg : FocusCfg
  coef : Int
  rows : List Nat
  skipped : Bool
  sampled : Bool
  complete : Bool
  deriving DecidableEq, Repr

/-- The area modes (R80). -/
inductive AreaMode
  | single (area : Nat)
  | zone (rect : Rect)
  | track
  deriving DecidableEq, Repr

/-- The track record (R83, R84). -/
structure Track where
  lost : Bool := false
  current : Nat := 60
  target : Option Int := none
  misses : Nat := 0
  deriving DecidableEq, Repr

/-- The outcomes of the area choice (R81 to R83). -/
inductive Choice | target | search | none
  deriving DecidableEq, Repr

/-- The last result (R85). R98 gives the outcome, area, defocus and target at reset; the other fields' values there are the
model's (DESIGN CHOICE, log entry 18). -/
structure LastResult where
  outcome : Choice := .none
  area : Option Nat := none
  defocus : Int := 0
  near : Bool := false
  counter : Int := 0
  referenced : Bool := false
  moving : Bool := false
  kind : ReadoutKind := .watch
  start : Nat := 0
  target : Option Int := none
  atLimit : Bool := false
  discarded : Bool := false
  deriving DecidableEq, Repr

/-- A settle wait in progress (R89): its timeout, whether the staged word has been sent, and whether a moving STATUS
word has followed. -/
structure Settle where
  due : Nat
  sent : Bool := false
  moved : Bool := false
  deriving DecidableEq, Repr

/-- The activity watcher (R94 to R96). -/
structure Watcher where
  enabled : Bool := false
  full : Bool := false
  counter : Nat := 0
  reference : Option Nat := none
  last : Option Nat := none
  wakes : Nat := 0
  deriving DecidableEq, Repr

/-- The whole AF grid (R98). -/
def wholeGrid : Rect := ⟨0, 0, 10, 10⟩

/-- The focus engine's state. -/
structure Focus where
  areas : List AreaResult := List.replicate 121 {}
  inHand : Option InHand := none
  mode : AreaMode := .zone wholeGrid
  track : Track := {}
  trackStart : Nat := 60
  watchZone : Rect := wholeGrid
  last : LastResult := {}
  servoMode : Option ServoMode := none
  servo : ServoState := .idle
  fails : Nat := 0
  settle : Option Settle := none
  settledAt : Option Nat := none
  settleTimedOut : Bool := false
  coef : Int := 256
  watcher : Watcher := {}
  deriving DecidableEq, Repr

/-! ## Lens port -/

/-- The fields of a STATUS word (R100). -/
structure StatusWord where
  moving : Bool
  nearStop : Bool
  farStop : Bool
  irisMoving : Bool
  fault : Bool
  lensType : Nat
  sequence : Nat
  deriving DecidableEq, Repr

/-- The reasons of a failing STATUS slot (R101). -/
inductive SlotFailure | missing | parity | absent | repeated
  deriving DecidableEq, Repr

/-- A DRIVE word that may be staged (R106). -/
inductive DriveWord
  | driveTo (target : Int) (speed : Nat)
  | home
  deriving DecidableEq, Repr

/-- Why the port waits to stop at its frame's end: LENS_STOP (R104) or SLEEP (R116). -/
inductive StopCause | command | sleep
  deriving DecidableEq, Repr

/-- The lens port's state. R115 gives no reset value for the recorded near stop, far stop, iris moving and lens fault bits;
the model clears them (DESIGN CHOICE, log entry 19). -/
structure Lens where
  enable : Bool := true
  phase : LensPhase := .stopped
  stopping : Option StopCause := none
  frameFrom : Nat := 0
  framePeriod : Nat := 1000
  slot : Nat := 0
  frames : Nat := 0
  latest : Option StatusWord := none
  lastSeq : Option Nat := none
  lensType : Option Nat := none
  nearStop : Bool := false
  farStop : Bool := false
  irisMoving : Bool := false
  fault : Bool := false
  failRun : Nat := 0
  goodRun : Nat := 0
  missing : Nat := 0
  parity : Nat := 0
  absent : Nat := 0
  repeated : Nat := 0
  stage : Option DriveWord := none
  lastDrive : Option DriveWord := none
  drives : Nat := 0
  homes : Nat := 0
  driveOut : Option Word32 := none
  homing : Bool := false
  homeAt : Option Nat := none
  irisStage : Option Nat := none
  irisSent : Nat := 0
  irisOut : Option Word32 := none
  far : Int := -8388608
  near : Int := 8388607
  irisMin : Nat := 0
  irisMax : Nat := 255
  auxQueue : List Word16 := []
  auxHistory : List Word16 := []
  auxReceived : Nat := 0
  auxDiscards : Nat := 0
  auxOut : Option Word32 := none
  counter : Int := 0
  referenced : Bool := false
  overrun : Bool := false
  encErrors : Nat := 0
  deriving DecidableEq, Repr

/-! ## Development engine -/

/-- The engine states (R122). -/
inductive EngineState | idle | stalled | developing | halted
  deriving DecidableEq, Repr

/-- The current job (R123 to R126). -/
structure Job where
  shot : Nat
  recipeNo : Nat
  recipe : Recipe
  geom : Geometry
  black : Planes
  width : Nat
  height : Nat
  bytes : Nat
  blocks : Nat
  stalledAt : Nat
  bytesRead : Nat
  rows : Nat
  deriving DecidableEq, Repr

/-- An entry of the develop queue (R121). -/
structure DevEntry where
  shot : Nat
  serial : Nat
  urgent : Bool
  deriving DecidableEq, Repr

/-- The default recipe (R117). -/
def defaultRecipe : Recipe where
  scale := 4
  white := 65532
  trimR := 0
  trimGr := 0
  trimGb := 0
  trimB := 0
  gainR := 4096
  gainG := 4096
  gainB := 4096
  gainE := 4096
  matrix := [4096, 0, 0, 0, 4096, 0, 0, 0, 4096]
  tone := (List.range 257).map (fun i => min i 255)

/-- The development engine's state. -/
structure Develop where
  phase : EngineState := .idle
  recipes : List Recipe := List.replicate 4 defaultRecipe
  recipe : Nat := 0
  selected : Option Nat := none
  queue : List DevEntry := []
  job : Option Job := none
  completed : Nat := 0
  aborts : Nat := 0
  abandons : Nat := 0
  stalls : Nat := 0
  highs : Nat := 0
  deriving DecidableEq, Repr

/-! ## Card writer -/

/-- The slot states (R138). -/
inductive SlotState | absent | ready | writing | starved | faulted | ejecting
  deriving DecidableEq, Repr

/-- The hold reasons (R138). -/
inductive Hold | none | ejected | returnFull | closed
  deriving DecidableEq, Repr

/-- A file job (R143). -/
structure FileJob where
  shot : Nat
  kind : FileKind
  deriving DecidableEq, Repr

/-- A write on the card link (R146, R149): the sectors it names and their bytes. `serial` is the model's own: it tells the
card's answers apart. -/
structure CardWrite where
  start : Nat
  count : Nat
  data : List Byte
  retry : Bool
  due : Nat
  serial : Nat
  deriving DecidableEq, Repr

/-- The current file (R144 to R147). `sameRun` tells that the head run is partly used by this file's last fragment;
`again` holds a failed write whose data are being read again for its retry; `inHand` counts payload bytes read. -/
structure CardFile where
  shot : Nat
  kind : FileKind
  header : List Byte
  payload : Nat
  sectors : Nat
  issued : Nat := 0
  written : Nat := 0
  fragments : List Run := []
  sameRun : Bool := false
  flight : Option CardWrite := none
  again : Option CardWrite := none
  inHand : Nat := 0
  deriving DecidableEq, Repr

/-- The causes of an abandonment (R154). -/
inductive Cause | deleted | removed | overflow | sleep | replaced | fragmented | fault
  deriving DecidableEq, Repr

/-- A file return record (R155). `cause` is `none` for WRITTEN. -/
structure FileRecord where
  shot : Nat
  kind : FileKind
  cause : Option Cause
  bytes : Nat
  sectors : Nat
  fragments : List Run
  deriving DecidableEq, Repr

/-- A card slot's state (R138, R158). `serial` is the model's own count of writes issued. -/
structure CardSlot where
  state : SlotState := .absent
  hold : Hold := .none
  extents : List Run := []
  final : Bool := false
  queue : List FileJob := []
  file : Option CardFile := none
  returns : List FileRecord := []
  lowArmed : Bool := true
  lowMark : Nat := 262144
  writeMs : Nat := 1000
  serial : Nat := 0
  written : Nat := 0
  abandoned : Nat := 0
  failed : Nat := 0
  errors : Nat := 0
  recovered : Nat := 0
  sectors : Nat := 0
  deriving DecidableEq, Repr

/-- The card writer's state. -/
structure CardWriter where
  a : CardSlot := {}
  b : CardSlot := {}
  overflow : Bool := false
  closing : Bool := false
  deriving DecidableEq, Repr

/-! ## Tether port -/

/-- The port states (R163). -/
inductive PortState | down | idle | offering | sending
  deriving DecidableEq, Repr

/-- An entry of the transfer queue (R164, R165). `order` is its entry order. -/
structure Entry where
  shot : Nat
  kind : FileKind
  urgent : Bool
  order : Int
  deriving DecidableEq, Repr

/-- The reasons of ABORT (Formats, "Tether frames"). -/
inductive AbortReason | failed | deleted | replaced
  deriving DecidableEq, Repr

/-- The peer's requests (R178). -/
inductive PeerRequest | remoteRelease | remoteEnd | mark | pull
  deriving DecidableEq, Repr

/-- The reasons of REFUSED (R178). -/
inductive RefuseReason | disabled | badValue | busy | notOwner
  deriving DecidableEq, Repr

/-- The reasons of NOT_AVAILABLE (R178). -/
inductive MissingReason | notHeld | noData | delivered
  deriving DecidableEq, Repr

/-- The frames the part sends to the peer (R162). -/
inductive TetherFrame
  | offer (id shot burst frame : Nat) (kind : FileKind) (urgent : Bool) (total resume : Nat) (caption : List Byte)
  | seg (id offset : Nat) (data : List Byte)
  | captionUpdate (id : Nat) (caption : List Byte)
  | abort (id : Nat) (reason : AbortReason)
  | refused (request : PeerRequest) (shot : Nat) (reason : RefuseReason)
  | notAvailable (request : PeerRequest) (shot : Nat) (kind : Option FileKind) (reason : MissingReason)
  deriving DecidableEq, Repr

/-- The current transfer (R167 to R177). `readTo` is how far the data are in hand. -/
structure Transfer where
  shot : Nat
  kind : FileKind
  urgent : Bool
  id : Nat
  total : Nat
  resume : Nat
  acked : Nat := 0
  sent : Nat := 0
  timeouts : Nat := 0
  expires : Nat
  captionDue : Bool := false
  readTo : Nat := 0
  deriving DecidableEq, Repr

/-- The tether port's state. `out` is the model's own record of the frames sent, oldest first. -/
structure Tether where
  phase : PortState := .down
  queue : List Entry := []
  nextOrder : Int := 0
  deferred : Nat := 0
  credits : Nat := 0
  ids : Nat := 0
  transfer : Option Transfer := none
  offers : Nat := 0
  delivered : Nat := 0
  declined : Nat := 0
  failed : Nat := 0
  aborted : Nat := 0
  goBacks : Nat := 0
  segments : Nat := 0
  bytesAcked : Nat := 0
  badFrames : Nat := 0
  staleFrames : Nat := 0
  refused : Nat := 0
  out : List TetherFrame := []
  deriving DecidableEq, Repr

/-! ## Memo input -/

/-- The memo states (R192). -/
inductive MemoPhase | idle | armed | recording
  deriving DecidableEq, Repr

/-- The reasons of MEMO_END (R196). -/
inductive MemoReason | stop | silence | limit | truncated | aborted | cancelled
  deriving DecidableEq, Repr

/-- The current memo record (R192, R193). `blocks` is the recording extent. -/
structure MemoRec where
  shot : Nat
  onVoice : Bool
  samples : Nat := 0
  blocks : List Nat := []
  silence : Nat := 0
  start : Nat
  deriving DecidableEq, Repr

/-- The decimator: integrators, comb delays, and values still to discard (R190). -/
structure Decimator where
  i1 : BitVec 32 := 0
  i2 : BitVec 32 := 0
  i3 : BitVec 32 := 0
  c1 : BitVec 32 := 0
  c2 : BitVec 32 := 0
  c3 : BitVec 32 := 0
  discard : Nat := 2
  deriving DecidableEq, Repr

/-- What the end of an activity frame formed (R191). -/
structure FrameResult where
  energy : Nat
  crossings : Nat
  voiced : Bool
  deriving DecidableEq, Repr

/-- The memo input's state. -/
structure Memo where
  phase : MemoPhase := .idle
  gain : Nat := 0
  offset : Int := 0
  decimator : Decimator := {}
  current : Option MemoRec := none
  samples : List Int := []
  lastFrame : Option FrameResult := none
  latest : Option Nat := none
  attached : Nat := 0
  truncated : Nat := 0
  aborted : Nat := 0
  cancelled : Nat := 0
  deriving DecidableEq, Repr

/-! ## Command port -/

/-- The power states (R207). -/
inductive Power | active | closing | closed | standby
  deriving DecidableEq, Repr

/-- The command port's state. `heldKind` is the standby kind recorded at SLEEP. -/
structure CommandPort where
  slot : Option Reply := none
  marker : Option (Byte × Status) := none
  notices : List Notice := []
  lost : Bool := false
  power : Power := .active
  heldKind : Bool := false
  deriving DecidableEq, Repr

/-! ## The part -/

/-- The state of the V740. `pending` is the queue of commands that wait, first in, first out. -/
structure State where
  pending : List Instr
  time : Nat
  lines : Lines
  cfg : Cfg
  waiting : List (Field × CfgVal)
  mem : List Host.Cell
  ss : Store
  sp : SensorPort
  rtu : Rtu
  fe : Focus
  lp : Lens
  de : Develop
  cw : CardWriter
  tp : Tether
  mi : Memo
  cp : CommandPort
  deriving DecidableEq, Repr

/-- The reasons a step may stop with a fault. Every effect the specification describes ends in a next state, so no
meaning of this model raises it; it is kept so that the type has a named reason. Safe. -/
inductive Fault
  /-- An access outside the store's 65,536 blocks (R1). No meaning raises it. Safe. -/
  | outsideStore
  deriving DecidableEq, Repr

/-- The reasons a command may be refused. -/
inductive Refusal
  /-- A command whose meaning is not written. No arm of `exec` raises it. Safe. -/
  | notModelled (mnemonic : String)
  deriving DecidableEq, Repr

/-- The empty store of R25: all blocks free in ascending order, all 256 entries FREE. -/
def Store.reset : Store where
  free := List.range' 0 Config.blocks
  table := List.replicate Config.entries {}

/-- The part right after power-up reset with every input line inactive (R212, R25, R50, R74, R98, R115, R137, R160,
R184, R197). The release-line filter settles by R53, so its timer runs from the start. -/
def State.reset : State where
  pending := []
  time := 0
  lines := {}
  cfg := {}
  waiting := []
  mem := []
  ss := Store.reset
  sp := {}
  rtu := { filterAt := some 4000 }
  fe := {}
  lp := {}
  de := {}
  cw := {}
  tp := {}
  mi := {}
  cp := {}

end Sys2Proof.Machine
end

