-- ==== Sys2Proof/Machine/Correlate.lean ====
section
/-! DEFINITION. The focus engine's arithmetic: correlation of one AF area, the area choice and the target
(04_focus_engine.md, R77 to R85). -/

namespace Sys2Proof.Machine

open Sys2Proof

/-- `|a − b|` on samples. -/
def absDiff (a b : Nat) : Nat := (a - b) + (b - a)

/-- SAD at shift `j − S` (R77): the window is `k = S … 63 − S` of the left sequence. -/
def sadAt (L R : List Nat) (S j : Nat) : Nat :=
  ((List.zipWith absDiff ((L.drop S).take (Config.phaseSamples - 2 * S)) ((R.drop j).take (Config.phaseSamples - 2 * S)))).sum

/-- SAD at the signed shift `s`, for `−S ≤ s ≤ S` (R77). -/
def sad (L R : List Nat) (S : Nat) (s : Int) : Nat := sadAt L R S (s + S).toNat

/-- The shifts in order of preference: smaller size first, the negative one first among equals (R77). -/
def shiftOrder (S : Nat) : List Int := 0 :: (List.range S).flatMap (fun k => [-(k + 1 : Int), (k + 1 : Int)])

/-- The best shift: the lowest SAD, the preferred one among equals (R77). -/
def bestShift (L R : List Nat) (S : Nat) : Int :=
  (shiftOrder S).foldl (fun best s => if sad L R S s < sad L R S best then s else best) 0

/-- The sum of differences between neighbours. -/
def variation : List Nat → Nat
  | a :: b :: l => absDiff b a + variation (b :: l)
  | _ => 0

/-- The contrast C (R77): `k = S … N − 2 − S`. -/
def contrast (L : List Nat) (S : Nat) : Nat := variation ((L.drop S).take (Config.phaseSamples - 2 * S))

/-- The curvature D at a shift (R78). -/
def curvature (L R : List Nat) (S : Nat) (s : Int) : Int :=
  (sad L R S (s - 1) : Int) - 2 * sad L R S s + sad L R S (s + 1)

/-- The disparity in sixteenths of a sample (R79). -/
def disparity (L R : List Nat) (S : Nat) (s : Int) : Int :=
  16 * s + Int.tdiv (16 * ((sad L R S (s - 1) : Int) - sad L R S (s + 1))) (2 * curvature L R S s)

/-- One area's result from its two sequences, the tests in the order of R78. -/
def areaResult (cfg : FocusCfg) (coef : Int) (L R : List Nat) : AreaResult :=
  let S := cfg.range
  let c := contrast L S
  let s := bestShift L R S
  if c < cfg.threshold then { kind := .lowContrast, contrast := c }
  else if s = -(S : Int) ∨ s = S then { kind := .edge, contrast := c, shift := s, near := decide (0 < s * coef) }
  else if curvature L R S s ≤ 0 then { kind := .flat, contrast := c }
  else
    let d := disparity L R S s
    { kind := .valid, contrast := c, shift := s, d16 := d, defocus := roundHalfAway (d * coef) 4096 }

/-- The 11 area results of a good PHASE row: 128 words each, left then right (Formats, "PHASE payload"). -/
def rowResults (cfg : FocusCfg) (coef : Int) (payload : List Word16) : List AreaResult :=
  (List.range 11).map (fun c =>
    let w := (payload.drop (128 * c)).map (·.toNat)
    areaResult cfg coef (w.take 64) ((w.drop 64).take 64))

/-- The areas of a rectangle in index order. -/
def rectAreas (r : Rect) : List Nat :=
  (List.range 121).filter (fun a => decide (r.row0 ≤ a / 11 ∧ a / 11 ≤ r.row1 ∧ r.col0 ≤ a % 11 ∧ a % 11 ≤ r.col1))

/-- An area's record. -/
def areaOf (areas : List AreaResult) (a : Nat) : AreaResult := areas.getD a {}

/-- What the area choice gives: outcome, chosen area, defocus, search direction, and the track record. -/
structure Chosen where
  outcome : Choice
  area : Option Nat
  defocus : Int
  near : Bool
  track : Track
  deriving DecidableEq, Repr

/-- The area with the largest defocus, the lowest index among equals, of areas listed in index order. -/
def largest (areas : List AreaResult) : List Nat → Option Nat
  | [] => none
  | a :: l =>
    match largest areas l with
    | none => some a
    | some b => if (areaOf areas b).defocus > (areaOf areas a).defocus then some b else some a

/-- SINGLE_AREA (R81). -/
def chooseSingle (areas : List AreaResult) (tr : Track) (a : Nat) : Chosen :=
  let r := areaOf areas a
  match r.kind with
  | .valid => ⟨.target, some a, r.defocus, false, tr⟩
  | .edge => ⟨.search, some a, 0, r.near, tr⟩
  | _ => ⟨.none, some a, 0, false, tr⟩

/-- ZONE (R82). -/
def chooseZone (areas : List AreaResult) (tr : Track) (rect : Rect) : Chosen :=
  let within := rectAreas rect
  match largest areas (within.filter (fun a => (areaOf areas a).kind == .valid)) with
  | some a => ⟨.target, some a, (areaOf areas a).defocus, false, tr⟩
  | none =>
    let edges := within.filter (fun a => (areaOf areas a).kind == .edge)
    let nears := edges.filter (fun a => (areaOf areas a).near)
    let fars := edges.filter (fun a => !(areaOf areas a).near)
    if edges = [] then ⟨.none, none, 0, false, tr⟩
    else if fars.length ≤ nears.length then ⟨.search, nears.head?, 0, true, tr⟩
    else ⟨.search, fars.head?, 0, false, tr⟩

/-- The current area and its neighbours, in index order (R83). -/
def candidates (current : Nat) : List Nat :=
  (List.range 121).filter (fun a =>
    decide (absDiff (a / 11) (current / 11) ≤ 1 ∧ absDiff (a % 11) (current % 11) ≤ 1))

/-- The VALID candidate closest to the last target: on equal distance the current area, then the lowest index (R83). -/
def closest (areas : List AreaResult) (counter target : Int) (current : Nat) : List Nat → Option Nat
  | [] => none
  | a :: l =>
    let dist := fun x => (counter + (areaOf areas x).defocus - target).natAbs
    match closest areas counter target current l with
    | none => some a
    | some b => if dist b < dist a ∨ (dist b = dist a ∧ b = current) then some b else some a

/-- TRACK (R83, R84). -/
def chooseTrack (areas : List AreaResult) (tr : Track) (counter : Int) : Chosen :=
  if tr.lost then ⟨.none, some tr.current, 0, false, tr⟩
  else
    let valid := (candidates tr.current).filter (fun a => (areaOf areas a).kind == .valid)
    let pick :=
      match tr.target with
      | some t => closest areas counter t tr.current valid
      | none => if tr.current ∈ valid then some tr.current else largest areas valid
    match pick with
    | some a =>
      let d := (areaOf areas a).defocus
      ⟨.target, some a, d, false, { lost := false, current := a, target := some (counter + d), misses := 0 }⟩
    | none =>
      let m := tr.misses + 1
      ⟨.none, none, 0, false, { tr with misses := m, lost := decide (Config.maxMisses ≤ m) }⟩

/-- The area choice of the applied area mode (R81 to R83). -/
def chooseArea (mode : AreaMode) (areas : List AreaResult) (tr : Track) (counter : Int) : Chosen :=
  match mode with
  | .single a => chooseSingle areas tr a
  | .zone r => chooseZone areas tr r
  | .track => chooseTrack areas tr counter

/-- The last result formed from the area choice (R85). -/
def formResult (ih : InHand) (c : Chosen) (far near : Int) : LastResult :=
  let target :=
    match c.outcome with
    | .target => some (clampInt far near (ih.counter + c.defocus))
    | .search => some (clampInt far near (if c.near then ih.counter + ih.cfg.step else ih.counter - ih.cfg.step))
    | .none => none
  let asksMove := c.outcome == .search || (c.outcome == .target && decide (ih.cfg.window < c.defocus.natAbs))
  { outcome := c.outcome, area := c.area, defocus := c.defocus, near := c.near
    counter := ih.counter, referenced := ih.referenced, moving := ih.moving, kind := ih.kind, start := ih.start
    target := target, atLimit := asksMove && target == some ih.counter, discarded := false }

end Sys2Proof.Machine
end

