-- ==== Sys2Proof/Machine/Formats.lean ====
section
/-! DEFINITION. The byte and word layouts of everything that crosses a link (11_formats.md): check sequences, the field
encodings of replies and notices, the names of enumerated values, sensor and lens words, card file headers and tether
frames. -/

namespace Sys2Proof

/-! ## Names and codes of the commands' operands -/

/-- A slot's name. -/
def Slot.name : Slot → String | .a => "A" | .b => "B"

/-- A reader's name. -/
def Reader.name : Reader → String | .a => "A" | .b => "B" | .d => "D" | .t => "T"

/-- A file or transfer kind's name. -/
def FileKind.name : FileKind → String | .raw => "RAW" | .proof => "PROOF" | .memo => "MEMO" | .caption => "CAPTION"

/-- A CFA order's name. -/
def Cfa.name : Cfa → String | .rggb => "RGGB" | .grbg => "GRBG" | .gbrg => "GBRG" | .bggr => "BGGR"

/-- A servo mode's name. -/
def ServoMode.name : ServoMode → String | .single => "SINGLE" | .continuous => "CONTINUOUS" | .monitor => "MONITOR"

/-- A group's name, in lower case. -/
def Group.name : Group → String
  | .capture => "capture" | .burst => "burst" | .focus => "focus" | .lens => "lens" | .plans => "plans" | .store => "store"
  | .tether => "tether" | .memo => "memo" | .numbering => "numbering"

/-- A field's name, in lower case, as its field table writes it. -/
def Field.name : Field → String
  | .sensorId => "sensor id" | .laneCount => "lane count" | .laneMap => "lane map" | .polarity => "polarity"
  | .depth => "depth" | .width => "width" | .height => "height" | .cfaOrder => "cfa order"
  | .errorThreshold => "error threshold" | .fixedBlack => "fixed black" | .releaseLatency => "release latency"
  | .framePeriod => "frame period" | .latenessLimit => "lateness limit" | .readoutTimeout => "readout timeout"
  | .releaseFilter => "release-line filter" | .focusPriority => "focus priority" | .focusWait => "focus wait"
  | .syncMode => "sync mode" | .syncWindow => "sync window" | .syncOut => "sync out" | .searchRange => "search range"
  | .contrastThreshold => "contrast threshold" | .inFocusWindow => "in-focus window" | .searchStep => "search step"
  | .driveSpeed => "drive speed" | .searchSpeed => "search speed" | .watcherThreshold => "watcher threshold"
  | .wakeStartsFocus => "wake starts focus" | .lensFramePeriod => "frame period" | .counterMode => "counter mode"
  | .countDirection => "count direction" | .referenceMode => "reference mode" | .indexValue => "index value"
  | .homeTimeout => "home timeout" | .cardPlan => "card plan" | .proofFiles => "proof files"
  | .developPlan => "develop plan" | .tetherPlan => "tether plan" | .standingCaption => "standing caption"
  | .captureFloor => "capture floor" | .lowThreshold => "low threshold" | .hold => "hold" | .wheel => "wheel"
  | .ackTimeout => "ack timeout" | .peerRelease => "peer release" | .peerMark => "peer mark" | .peerPull => "peer pull"
  | .startMode => "start mode" | .energyThreshold => "energy threshold" | .crossingThreshold => "crossing threshold"
  | .trailingSilence => "trailing silence" | .firstShotNumber => "first shot number"

/-- File kind codes. -/
def FileKind.code : FileKind → Nat | .raw => 1 | .proof => 2 | .memo => 3 | .caption => 4

/-- CFA order codes. -/
def Cfa.code : Cfa → Nat | .rggb => 0 | .grbg => 1 | .gbrg => 2 | .bggr => 3

end Sys2Proof

namespace Sys2Proof.Machine

open Sys2Proof

/-! ## Check sequences -/

/-- One bit through the CRC-16 register (R213). -/
def crc16Bit (reg : Nat) (bit : Bool) : Nat :=
  let shifted := reg * 2 % 65536
  if reg.testBit 15 != bit then shifted ^^^ 0x1021 else shifted

/-- One byte through the CRC-16 register, most significant bit first (R213). -/
def crc16Byte (reg : Nat) (b : Byte) : Nat :=
  [7, 6, 5, 4, 3, 2, 1, 0].foldl (fun r i => crc16Bit r (b.toNat.testBit i)) reg

/-- The CRC-16 of a byte string (R213). -/
def crc16 (l : List Byte) : Nat := l.foldl crc16Byte 0xFFFF

/-- One bit through the CRC-32 register (R214). -/
def crc32Bit (reg : Nat) (bit : Bool) : Nat :=
  let shifted := reg / 2
  if reg.testBit 0 != bit then shifted ^^^ 0xEDB88320 else shifted

/-- One byte through the CRC-32 register, least significant bit first (R214). -/
def crc32Byte (reg : Nat) (b : Byte) : Nat :=
  [0, 1, 2, 3, 4, 5, 6, 7].foldl (fun r i => crc32Bit r (b.toNat.testBit i)) reg

/-- The CRC-32 of a byte string (R214). -/
def crc32 (l : List Byte) : Nat := l.foldl crc32Byte 0xFFFFFFFF ^^^ 0xFFFFFFFF

/-! ## Bytes of numbers -/

/-- The `k` bytes of `n`, least significant first (00_scope.md, "Byte order"). -/
def leBytes : Nat → Nat → List Byte
  | 0, _ => []
  | k + 1, n => BitVec.ofNat 8 n :: leBytes k (n / 256)

/-- The number whose bytes, least significant first, are `l`. -/
def leNat : List Byte → Nat
  | [] => 0
  | b :: l => b.toNat + 256 * leNat l

/-- The `k` bytes of `v` in two's complement. -/
def leInt (k : Nat) (v : Int) : List Byte := leBytes k (v % (256 ^ k : Nat)).toNat

/-- The bytes of a word, low byte first (Formats, "Sensor port words"). -/
def wordBytes (l : List Word16) : List Byte := l.flatMap (fun w => leBytes 2 w.toNat)

/-- The CRC-16 over words, each taken as two bytes, low byte first. -/
def crcWords (l : List Word16) : Nat := crc16 (wordBytes l)

/-- The ASCII bytes of a name. -/
def asciiBytes (w : String) : List Byte := w.toList.map (fun c => BitVec.ofNat 8 c.toNat)

/-! ## Names of enumerated values -/

/-- A reply status as it is written on the link (R200). -/
def Status.name : Status → String
  | .ok => "OK" | .accepted => "ACCEPTED" | .busy => "BUSY" | .badValue => "BAD_VALUE" | .badState => "BAD_STATE"
  | .notHeld => "NOT_HELD" | .inUse => "IN_USE" | .notReady => "NOT_READY" | .badFrame => "BAD_FRAME" | .unknown => "UNKNOWN"

/-- A notice kind as it is written on the link. -/
def NoticeKind.name : NoticeKind → String
  | .linkState => "LINK_STATE" | .retrain => "RETRAIN" | .shotVoid => "SHOT_VOID" | .shotKept => "SHOT_KEPT"
  | .storeLow => "STORE_LOW" | .burstEnd => "BURST_END" | .lateFrames => "LATE_FRAMES" | .syncWindow => "SYNC_WINDOW"
  | .focusState => "FOCUS_STATE" | .activity => "ACTIVITY" | .lensState => "LENS_STATE" | .cardState => "CARD_STATE"
  | .extentsLow => "EXTENTS_LOW" | .filesWaiting => "FILES_WAITING" | .tetherState => "TETHER_STATE"
  | .transferFailed => "TRANSFER_FAILED" | .peerCommand => "PEER_COMMAND" | .memoEnd => "MEMO_END"
  | .configDefaulted => "CONFIG_DEFAULTED" | .slept => "SLEPT"

/-- A setting that is ON or OFF. -/
def onOff (b : Bool) : String := if b then "ON" else "OFF"

/-- A servo state's name. -/
def ServoState.name : ServoState → String
  | .idle => "IDLE" | .seeking => "SEEKING" | .locked => "LOCKED" | .following => "FOLLOWING" | .failed => "FAILED"
  | .suspended => "SUSPENDED"
/-- A link state's name. -/
def LinkState.name : LinkState → String
  | .down => "DOWN" | .training => "TRAINING" | .aligned => "ALIGNED" | .failed => "FAILED"
/-- A training failure's name. -/
def FailReason.name : FailReason → String | .noMark => "NO_MARK" | .skew => "SKEW" | .headerMismatch => "HEADER_MISMATCH"
/-- A retrain reason's name. -/
def RetrainReason.name : RetrainReason → String | .errors => "ERRORS" | .drift => "DRIFT"
/-- A burst state's name. -/
def BurstPhase.name : BurstPhase → String
  | .idle => "IDLE" | .waiting => "WAITING" | .exposing => "EXPOSING" | .reading => "READING" | .stopping => "STOPPING"
/-- A release source's name. -/
def Owner.name : Owner → String | .host => "HOST" | .line => "LINE" | .peer => "PEER" | .sync => "SYNC"
/-- A burst end's name. -/
def EndReason.name : EndReason → String
  | .count => "COUNT" | .ownerEnd => "OWNER_END" | .link => "LINK" | .command => "COMMAND"
/-- A sync mode's name. -/
def SyncMode.name : SyncMode → String
  | .off => "OFF" | .once => "ONCE" | .every => "EVERY" | .watch => "WATCH" | .follow => "FOLLOW"
/-- An area result's kind. -/
def AreaKind.name : AreaKind → String
  | .noData => "NO_DATA" | .lowContrast => "LOW_CONTRAST" | .edge => "EDGE" | .flat => "FLAT" | .valid => "VALID"
/-- A focus direction. -/
def nearFar (near : Bool) : String := if near then "NEAR" else "FAR"
/-- An outcome's name. -/
def Choice.name : Choice → String | .target => "TARGET" | .search => "SEARCH" | .none => "NONE"
/-- A readout kind's name. -/
def ReadoutKind.name : ReadoutKind → String | .shot => "SHOT" | .watch => "WATCH" | .test => "TEST"
/-- A lens state's name. -/
def LensPhase.name : LensPhase → String
  | .stopped => "STOPPED" | .waiting => "WAITING" | .running => "RUNNING" | .lost => "LOST"
/-- A failing STATUS slot's reason. -/
def SlotFailure.name : SlotFailure → String
  | .missing => "MISSING" | .parity => "PARITY" | .absent => "ABSENT" | .repeated => "REPEAT"
/-- The counter's reference state. -/
def refName (r : Bool) : String := if r then "REFERENCED" else "UNREFERENCED"
/-- An entry state's name. -/
def EntryState.name : EntryState → String
  | .free => "FREE" | .reserved => "RESERVED" | .landing => "LANDING" | .held => "HELD"
/-- A duty state's name. -/
def DutyState.name : DutyState → String
  | .pending => "PENDING" | .active => "ACTIVE" | .done => "DONE" | .failed => "FAILED" | .cancelled => "CANCELLED"
/-- A duty's kind (R11). -/
def DutyKey.kindName : DutyKey → String
  | .card k _ => k.name
  | .develop => "DEVELOP"
  | .send .raw => "SEND_RAW" | .send .proof => "SEND_PROOF" | .send .memo => "SEND_MEMO" | .send .caption => "SEND_CAPTION"
/-- A duty's target (R11), under the model's names: R11 writes card A, card B, development and tether and gives no
enumerated names (DESIGN CHOICE, log entry 23). -/
def DutyKey.targetName : DutyKey → String
  | .card _ s => s.name
  | .develop => "DEVELOPMENT"
  | .send _ => "TETHER"
/-- An engine state's name. -/
def EngineState.name : EngineState → String
  | .idle => "IDLE" | .stalled => "STALLED" | .developing => "DEVELOPING" | .halted => "HALTED"
/-- A slot state's name. -/
def SlotState.name : SlotState → String
  | .absent => "ABSENT" | .ready => "READY" | .writing => "WRITING" | .starved => "STARVED" | .faulted => "FAULTED"
  | .ejecting => "EJECTING"
/-- A hold reason's name. -/
def Hold.name : Hold → String
  | .none => "NONE" | .ejected => "EJECTED" | .returnFull => "RETURN_FULL" | .closed => "CLOSED"
/-- An abandonment cause's name. -/
def Cause.name : Cause → String
  | .deleted => "DELETED" | .removed => "REMOVED" | .overflow => "OVERFLOW" | .sleep => "SLEEP" | .replaced => "REPLACED"
  | .fragmented => "FRAGMENTED" | .fault => "FAULT"
/-- A tether port state's name. -/
def PortState.name : PortState → String
  | .down => "DOWN" | .idle => "IDLE" | .offering => "OFFERING" | .sending => "SENDING"
/-- A class's name. -/
def className (urgent : Bool) : String := if urgent then "URGENT" else "NORMAL"
/-- A peer request's name. -/
def PeerRequest.name : PeerRequest → String
  | .remoteRelease => "REMOTE_RELEASE" | .remoteEnd => "REMOTE_END" | .mark => "MARK" | .pull => "PULL"
/-- A memo state's name. -/
def MemoPhase.name : MemoPhase → String | .idle => "IDLE" | .armed => "ARMED" | .recording => "RECORDING"
/-- A memo end's reason. -/
def MemoReason.name : MemoReason → String
  | .stop => "STOP" | .silence => "SILENCE" | .limit => "LIMIT" | .truncated => "TRUNCATED" | .aborted => "ABORTED"
  | .cancelled => "CANCELLED"
/-- A power state's name. -/
def Power.name : Power → String
  | .active => "ACTIVE" | .closing => "CLOSING" | .closed => "CLOSED" | .standby => "STANDBY"
/-- A card plan's name. -/
def CardPlan.name : CardPlan → String
  | .off => "OFF" | .singleA => "SINGLE_A" | .mirror => "MIRROR" | .overflow => "OVERFLOW" | .split => "SPLIT"
/-- A develop plan's name. -/
def DevelopPlan.name : DevelopPlan → String | .never => "NEVER" | .urgentOnly => "URGENT_ONLY" | .all => "ALL"
/-- A tether plan's name. -/
def TetherPlan.name : TetherPlan → String
  | .none => "NONE" | .urgentProof => "URGENT_PROOF" | .allProof => "ALL_PROOF" | .urgentRaw => "URGENT_RAW"
  | .urgentBoth => "URGENT_BOTH"

/-! ## Reply and notice fields -/

/-- The bytes of one field (Formats, "Payload fields on the command port"). -/
def Wire.encode : Wire → List Byte
  | .u8 n => leBytes 1 n
  | .u16 n => leBytes 2 n
  | .u32 n => leBytes 4 n
  | .u64 n => leBytes 8 n
  | .i8 v => leInt 1 v
  | .i16 v => leInt 2 v
  | .i32 v => leInt 4 v
  | .i64 v => leInt 8 v
  | .word w => BitVec.ofNat 8 w.length :: asciiBytes w
  | .items n => leBytes 2 n
  | .present b => leBytes 1 b.toNat
  | .named b => leBytes 1 b.toNat
  | .bytes l => BitVec.ofNat 8 l.length :: l

/-- The bytes of a record. -/
def encodeAll (l : List Wire) : List Byte := l.flatMap Wire.encode

/-- A flag: one byte, 0 or 1. -/
def flag (b : Bool) : Wire := .u8 b.toNat

/-- An optional part: a presence byte, then its content if present. -/
def opt {α : Type} (o : Option α) (f : α → List Wire) : List Wire :=
  match o with
  | none => [.present false]
  | some a => .present true :: f a

/-- The parts of a record, in order. -/
def record (l : List (List Wire)) : List Wire := l.flatten

/-- A list: its item count, then its items. -/
def listOf {α : Type} (l : List α) (f : α → List Wire) : List Wire := .items l.length :: l.flatMap f

/-- A frame on the command link (Formats, "Command and reply frames"). -/
def frameBytes (tag : Byte) (name : String) (payload : List Byte) : List Byte :=
  let body := tag :: BitVec.ofNat 8 name.length :: asciiBytes name ++ leBytes 2 payload.length ++ payload
  0xA5#8 :: body ++ leBytes 2 (crc16 body)

/-- The bytes of a reply: a frame named REPLY whose payload begins with the status (Formats). -/
def Reply.encode (r : Reply) : List Byte :=
  frameBytes r.tag "REPLY" ((Wire.word r.status.name).encode ++ encodeAll r.result)

/-- A notice's subject (Formats, "Notice record"). -/
def Subject.wires : Subject → List Wire
  | .num n => [.u8 0, .u32 n]
  | .slot .a => [.u8 1, .u8 65]
  | .slot .b => [.u8 1, .u8 66]
  | .group g => [.u8 2, .word g.name]

/-- The notice record (Formats, "Notice record"). -/
def Notice.wires (n : Notice) : List Wire :=
  .word n.kind.name :: n.subject.wires ++ [.u8 n.repeats, .u64 n.time, .u16 (encodeAll n.values).length] ++ n.values

/-! ## Sensor words -/

/-- What a lane symbol decodes to (R27; Formats, "Lane symbols"). -/
inductive Symbol
  | data (w : Word16)
  | idle | mark | line | stop | error
  deriving DecidableEq, Repr

/-- A symbol decoded: prefix 01 a data word, prefix 10 one of four control words, anything else an error. -/
def decodeSymbol (sym : BitVec 18) : Symbol :=
  let body := sym.toNat % 65536
  match sym.toNat / 65536 with
  | 1 => .data (BitVec.ofNat 16 body)
  | 2 => if body = 1 then .idle else if body = 2 then .mark else if body = 4 then .line else if body = 8 then .stop else .error
  | _ => .error

/-- The payload stream of an IMAGE or BLACK line as one number: stream bit 0 is its least significant bit (Formats,
"Pixel packing"). -/
def streamNat : List Word16 → Nat
  | [] => 0
  | w :: l => w.toNat + 65536 * streamNat l

/-- Pixel `x` of a payload stream. -/
def pixelOf (stream depth x : Nat) : Nat := stream / 2 ^ (x * depth) % 2 ^ depth

/-- The stream that holds the given pixels in order. -/
def packPixels (depth : Nat) : List Nat → Nat
  | [] => 0
  | p :: l => p % 2 ^ depth + 2 ^ depth * packPixels depth l

/-- The bytes of a line of `n` bytes whose stream is `stream`. -/
def streamBytes (n stream : Nat) : List Byte := leBytes n stream

/-- The check byte of a line header: the low byte of the CRC-16 over the kind byte and the index word's two bytes (R213). -/
def lineCheck (kind : Nat) (index : Word16) : Nat :=
  crc16 (BitVec.ofNat 8 kind :: leBytes 2 index.toNat) % 256

/-- The next bit of the lane pattern, from the latest 15 bits with the latest in bit 0 (R215). -/
def patternBit (s : BitVec 15) : Bool := s.getLsbD 13 != s.getLsbD 14

/-- `n` steps of the lane pattern: the state after them and the bits they gave, the earliest highest (R215). -/
def patternRun : Nat → BitVec 15 → Nat → BitVec 15 × Nat
  | 0, s, acc => (s, acc)
  | n + 1, s, acc =>
    let bit := patternBit s
    patternRun n (BitVec.ofNat 15 (s.toNat * 2 + bit.toNat)) (acc * 2 + bit.toNat)

/-- The next word of the lane pattern and the state after it (R215). -/
def patternNext (s : BitVec 15) : BitVec 15 × Word16 :=
  let r := patternRun 16 s 0
  (r.1, BitVec.ofNat 16 r.2)

/-! ## Lens words -/

/-- The number of one bits among the low `n` bits. -/
def onesBelow : Nat → Nat → Nat
  | 0, _ => 0
  | n + 1, v => (v.testBit n).toNat + onesBelow n v

/-- A lens word completed with its parity bit, bit 31, so that it holds an even number of one bits. -/
def withParity (v : Nat) : Word32 :=
  BitVec.ofNat 32 (if onesBelow 31 v % 2 = 1 then v + 2147483648 else v)

/-- Whether a lens word's parity is right. -/
def parityRight (w : Word32) : Bool := onesBelow 32 w.toNat % 2 == 0

/-- The present bit of a STATUS word. -/
def presentBit (w : Word32) : Bool := w.getLsbD 0

/-- The fields of a STATUS word (Formats, "Lens slot words"). -/
def statusWord (w : Word32) : StatusWord where
  moving := w.getLsbD 1
  nearStop := w.getLsbD 2
  farStop := w.getLsbD 3
  irisMoving := w.getLsbD 4
  fault := w.getLsbD 5
  lensType := w.toNat / 256 % 256
  sequence := w.toNat / 65536 % 16

/-- The DRIVE word for a staged word, or HOLD (Formats, "Lens slot words"). -/
def driveBits : Option DriveWord → Word32
  | none => withParity 0
  | some (.driveTo target speed) =>
    withParity ((target % 16777216).toNat + 16777216 * (speed % 8) + 268435456)
  | some .home => withParity 536870912

/-- The IRIS word. -/
def irisBits (v : Nat) : Word32 := withParity (v % 256)

/-- The AUX word for a passthrough word, or idle. -/
def auxBits : Option Word16 → Word32
  | none => withParity 0
  | some w => withParity (w.toNat + 65536)

/-! ## Card file header -/

/-- Servo mode codes. -/
def modeCode : Option ServoMode → Nat
  | none => 0 | some .single => 1 | some .continuous => 2 | some .monitor => 3
/-- Servo state codes. -/
def ServoState.code : ServoState → Nat
  | .idle => 0 | .seeking => 1 | .locked => 2 | .following => 3 | .failed => 4 | .suspended => 5

/-- Whether a mask names a channel, that is, whether the develop status is BLACK_HIGH. -/
def HighMask.any (h : HighMask) : Bool := h.r || h.g || h.b

/-- Develop status code and channel byte. -/
def developCodes : Option HighMask → Nat × Nat
  | none => (0, 0)
  | some h => (if h.any then 2 else 1, h.r.toNat + 2 * h.g.toNat + 4 * h.b.toNat)

/-- `l` padded with zero bytes to `n` bytes. -/
def padTo (n : Nat) (l : List Byte) : List Byte := l ++ List.replicate (n - l.length) 0

/-- The 512-byte header of a card file (R144; Formats, "Card file header"). The develop status and the proof's size are
there only with a proof. -/
def fileHeader (kind : FileKind) (payload : Nat) (t : Shot) : List Byte :=
  let dev := if t.proof.isSome then developCodes t.develop else (0, 0)
  let cap := t.caption.getD []
  let size := match t.proof with | some p => (p.width, p.height) | none => (0, 0)
  let head :=
    asciiBytes "DV74" ++ leBytes 1 1 ++ leBytes 1 kind.code ++ leBytes 1 t.geom.cfa.code ++ leBytes 1 t.geom.depth
    ++ leBytes 4 t.number ++ leBytes 4 t.burst ++ leBytes 2 t.frame ++ leBytes 2 t.geom.width ++ leBytes 2 t.geom.height
    ++ leBytes 1 t.sequence ++ leBytes 1 t.recipe ++ leBytes 8 t.released ++ leBytes 8 t.scheduled ++ leBytes 8 t.exposed
    ++ leInt 8 t.lateness ++ leInt 4 t.phase ++ leBytes 2 t.damaged ++ leBytes 1 dev.1 ++ leBytes 1 dev.2
    ++ leBytes 2 t.black.r ++ leBytes 2 t.black.gr ++ leBytes 2 t.black.gb ++ leBytes 2 t.black.b
    ++ leBytes 2 size.1 ++ leBytes 2 size.2 ++ leBytes 4 ((t.memo.map (·.length)).getD 0) ++ leBytes 4 payload
    ++ leBytes 1 (modeCode t.snapshot.mode) ++ leBytes 1 t.snapshot.state.code
    ++ leBytes 1 (t.snapshot.area.getD 255) ++ leBytes 1 (t.snapshot.moving.toNat + 2 * t.snapshot.confirmed.toNat)
    ++ leInt 4 t.snapshot.defocus ++ leInt 4 t.snapshot.counter ++ leBytes 1 cap.length ++ cap
  let body := padTo 508 head
  body ++ leBytes 4 (crc32 body)

/-! ## Tether frames -/

/-- Class codes. -/
def classCode (urgent : Bool) : Nat := if urgent then 1 else 2
/-- ABORT reason codes. -/
def AbortReason.code : AbortReason → Nat | .failed => 1 | .deleted => 2 | .replaced => 3
/-- REFUSED reason codes. -/
def RefuseReason.code : RefuseReason → Nat | .disabled => 1 | .badValue => 2 | .busy => 3 | .notOwner => 4
/-- NOT_AVAILABLE reason codes. -/
def MissingReason.code : MissingReason → Nat | .notHeld => 1 | .noData => 2 | .delivered => 3
/-- The type byte of the peer frame that a request came in. -/
def PeerRequest.code : PeerRequest → Nat
  | .remoteRelease => 0x15 | .remoteEnd => 0x16 | .mark => 0x17 | .pull => 0x18
/-- A kind or none. -/
def kindCode (k : Option FileKind) : Nat := (k.map FileKind.code).getD 0

/-- A frame's type byte and body (Formats, "Tether frames"). -/
def TetherFrame.body : TetherFrame → Nat × List Byte
  | .offer id shot burst frame kind urgent total resume cap =>
    (0x01, leBytes 2 id ++ leBytes 4 shot ++ leBytes 4 burst ++ leBytes 2 frame ++ leBytes 1 kind.code
      ++ leBytes 1 (classCode urgent) ++ leBytes 4 total ++ leBytes 4 resume ++ leBytes 1 cap.length ++ cap)
  | .seg id offset data =>
    (0x02, leBytes 2 id ++ leBytes 4 offset ++ leBytes 2 data.length ++ data ++ leBytes 4 (crc32 data))
  | .captionUpdate id cap => (0x03, leBytes 2 id ++ leBytes 1 cap.length ++ cap)
  | .abort id reason => (0x04, leBytes 2 id ++ leBytes 1 reason.code)
  | .refused request shot reason => (0x05, leBytes 1 request.code ++ leBytes 4 shot ++ leBytes 1 reason.code)
  | .notAvailable request shot kind reason =>
    (0x06, leBytes 1 request.code ++ leBytes 4 shot ++ leBytes 1 (kindCode kind) ++ leBytes 1 reason.code)

/-- A frame's bytes on the tether link: type, body length, body, CRC-32 (Formats, "Tether frames"). -/
def TetherFrame.encode (f : TetherFrame) : List Byte :=
  let b := f.body
  let head := leBytes 1 b.1 ++ leBytes 2 b.2.length ++ b.2
  head ++ leBytes 4 (crc32 head)

end Sys2Proof.Machine
end

