-- ==== Sys2Proof/Machine/Ops.lean ====
section
/-! DEFINITION. The shared operations: raising a notice, the store's bytes, the free block list, the shot table, duties,
pins, and the tests that release a proof and free a shot. Every block's chapter works through these. -/

namespace Sys2Proof.Machine

open Sys2Proof

/-! ## The notice queue -/

/-- Whether a queued notice has this kind and subject (R201). -/
def sameNotice (k : NoticeKind) (sub : Subject) (n : Notice) : Bool := n.kind == k && n.subject == sub

/-- A queued notice updated by another raising (R201). -/
def bumpNotice (time : Nat) (vals : List Wire) (n : Notice) : Notice :=
  { n with values := vals, time := time, repeats := min (n.repeats + 1) 255 }

/-- The queue after a notice that is queued already is raised again. The entry keeps its place (R201). -/
def bumpQueue (k : NoticeKind) (sub : Subject) (time : Nat) (vals : List Wire) (q : List Notice) : List Notice :=
  q.map (fun n => if sameNotice k sub n then bumpNotice time vals n else n)

/-- The command port after a notice is raised at `time` (R201): an entry of the same kind and subject is updated in
place, otherwise the notice joins the tail, otherwise it is dropped and NOTICES_LOST set. -/
def raiseIn (k : NoticeKind) (sub : Subject) (vals : List Wire) (time : Nat) (c : CommandPort) : CommandPort :=
  if c.notices.any (sameNotice k sub) then { c with notices := bumpQueue k sub time vals c.notices }
  else if c.notices.length < Config.noticeRoom then { c with notices := c.notices ++ [⟨k, sub, vals, 1, time⟩] }
  else { c with lost := true }

/-- A block raises a notice (R201). -/
def raise (k : NoticeKind) (sub : Subject) (vals : List Wire) (s : State) : State :=
  { s with cp := raiseIn k sub vals s.time s.cp }

/-- ATTN (R200): asserted while the reply slot holds a reply or the notice queue an entry. -/
def State.attn (s : State) : Bool := s.cp.slot.isSome || !s.cp.notices.isEmpty

/-! ## The store's bytes -/

/-- A byte of the store. -/
def memRead : List Host.Cell → Nat → Byte
  | [], _ => Config.unwritten
  | (a, b) :: l, x => if x = a then b else if x < a then Config.unwritten else memRead l x

/-- The store with a byte written. The list stays in its canonical form. -/
def memWrite : List Host.Cell → Nat → Byte → List Host.Cell
  | [], x, v => if v = Config.unwritten then [] else [(x, v)]
  | (a, b) :: l, x, v =>
    if x < a then (if v = Config.unwritten then (a, b) :: l else (x, v) :: (a, b) :: l)
    else if x = a then (if v = Config.unwritten then l else (x, v) :: l)
    else (a, b) :: memWrite l x v

/-- Addresses strictly rising from `lo`, and no entry equal to what an unlisted address reads as. -/
def wfFrom : Nat → List Host.Cell → Bool
  | _, [] => true
  | lo, (a, b) :: l => decide (lo ≤ a) && b != Config.unwritten && wfFrom (a + 1) l

/-- The canonical form of the store's bytes. -/
def Memory.wf (m : List Host.Cell) : Bool := wfFrom 0 m

/-- The store address of byte `off` of an extent, counted across its blocks in list order (R5). -/
def extentAddr (blocks : List Nat) (off : Nat) : Option Nat :=
  (blocks[off / Config.blockBytes]?).map (fun b => b * Config.blockBytes + off % Config.blockBytes)

/-- Byte `off` of an extent. -/
def readExtent (m : List Host.Cell) (blocks : List Nat) (off : Nat) : Byte :=
  match extentAddr blocks off with
  | some a => memRead m a
  | none => Config.unwritten

/-- `n` bytes of an extent from byte `off`. -/
def readRange (m : List Host.Cell) (blocks : List Nat) (off n : Nat) : List Byte :=
  (List.range n).map (fun i => readExtent m blocks (off + i))

/-- The store with bytes written into an extent from byte `off`. -/
def writeExtent (blocks : List Nat) : List Byte → Nat → List Host.Cell → List Host.Cell
  | [], _, m => m
  | v :: l, off, m =>
    writeExtent blocks l (off + 1) (match extentAddr blocks off with | some a => memWrite m a v | none => m)

/-! ## Geometry -/

/-- Bytes of one line (R5). -/
def lineBytes (g : Geometry) : Nat := g.width * g.depth / 8

/-- Bytes of a raw shot (R6). -/
def rawBytes (g : Geometry) : Nat := g.width * g.height * g.depth / 8

/-- Blocks that hold `n` bytes. -/
def blocksFor (n : Nat) : Nat := ceilDiv n Config.blockBytes

/-- The applied capture group's geometry. -/
def Cfg.geometry (c : Cfg) : Geometry := ⟨c.capture.width, c.capture.height, c.capture.depth, c.capture.cfa⟩

/-- R, the blocks of one raw shot at the applied geometry (R6). -/
def State.shotBlocks (s : State) : Nat := blocksFor (rawBytes s.cfg.geometry)

/-! ## The free block list -/

/-- The free count (R1). -/
def State.freeCount (s : State) : Nat := s.ss.free.length

/-- The shots that fit (R22). -/
def State.shotsFit (s : State) : Nat := s.freeCount / s.shotBlocks

/-- STORE_LOW is armed while the free count stands at the low threshold or above (R22, R25, R26): a view of the count and
the threshold, not a bit beside them. -/
def State.lowArmed (s : State) : Bool := decide (s.cfg.store.low ≤ s.freeCount)

/-- The free list replaced. STORE_LOW is raised when the free count passes from at or above the low threshold to below it
(R22; log entry 12). -/
def setFree (l : List Nat) (s : State) : State :=
  let t := { s with ss := { s.ss with free := l } }
  if s.lowArmed && !t.lowArmed then raise .storeLow (.num 0) [.u32 t.freeCount, .u32 t.shotsFit] t else t

/-- Blocks given back join the tail in the given order (R1). -/
def giveBlocks (l : List Nat) (s : State) : State := setFree (s.ss.free ++ l) s

/-- `n` blocks taken from the head (R1). -/
def takeBlocks (n : Nat) (s : State) : List Nat × State := (s.ss.free.take n, setFree (s.ss.free.drop n) s)

/-- Whether an allocation of `n` blocks meets the capture floor (R8). -/
def mayAllocate (n : Nat) (s : State) : Bool := decide (n + s.cfg.store.floor ≤ s.freeCount)

/-! ## The shot table -/

/-- The first entry that meets `p`, changed by `f`. -/
def updateFirst (p : Shot → Bool) (f : Shot → Shot) : List Shot → List Shot
  | [] => []
  | t :: l => if p t then f t :: l else t :: updateFirst p f l

/-- The table with the first entry that meets `p` changed by `f`. -/
def modEntry (p : Shot → Bool) (f : Shot → Shot) (s : State) : State :=
  { s with ss := { s.ss with table := updateFirst p f s.ss.table } }

/-- A HELD entry of shot number `n`. -/
def isHeld (n : Nat) (t : Shot) : Bool := t.state == .held && t.number == n

/-- A RESERVED entry whose TRIGGER has been sent. -/
def isTriggered (t : Shot) : Bool := t.state == .reserved && t.number != 0

/-- A RESERVED entry whose TRIGGER has not been sent. -/
def isClaimed (t : Shot) : Bool := t.state == .reserved && t.number == 0

/-- The LANDING entry. -/
def isLanding (t : Shot) : Bool := t.state == .landing

/-- The record of a HELD shot. -/
def State.held (s : State) (n : Nat) : Option Shot := s.ss.table.find? (isHeld n)

/-- The record of a HELD shot that is not deleting: the shots that requests may act on (R2). -/
def State.usable (s : State) (n : Nat) : Option Shot := (s.held n).filter (fun t => !t.deleting)

/-- The HELD shots, in table order. -/
def State.heldShots (s : State) : List Shot := s.ss.table.filter (fun t => t.state == .held)

/-- A HELD shot's record changed. -/
def modHeld (n : Nat) (f : Shot → Shot) (s : State) : State := modEntry (isHeld n) f s

/-- Shots in the order in which their numbers were assigned. -/
def bySerial (l : List Shot) : List Shot := l.insertionSort (fun x y => x.serial ≤ y.serial)

/-! ## Duties -/

/-- The duty of a key, if the shot has one (R11). -/
def Shot.duty (t : Shot) (k : DutyKey) : Option Duty := t.duties.find? (fun d => d.key == k)

/-- The state of a duty, if the shot has one. -/
def Shot.dutyState (t : Shot) (k : DutyKey) : Option DutyState := (t.duty k).map (·.state)

/-- The state of a HELD shot's duty, if the shot has one. -/
def State.dutyOf (s : State) (n : Nat) (k : DutyKey) : Option DutyState := (s.held n).bind (fun t => t.dutyState k)

/-- A shot's duty of a key changed. -/
def Shot.setDuty (k : DutyKey) (f : Duty → Duty) (t : Shot) : Shot :=
  { t with duties := t.duties.map (fun d => if d.key == k then f d else d) }

/-- A HELD shot's duty changed. -/
def setDuty (n : Nat) (k : DutyKey) (f : Duty → Duty) (s : State) : State := modHeld n (Shot.setDuty k f) s

/-- A duty in a new state. A duty that leaves ACTIVE loses its stale mark; one that is settled has resume offset 0
(R164, R187). -/
def Duty.into (st : DutyState) (d : Duty) : Duty :=
  match st with
  | .pending => { d with state := st, stale := false }
  | .active => { d with state := st }
  | _ => { d with state := st, stale := false, resume := 0 }

/-- Whether a duty is PENDING or ACTIVE. -/
def Duty.owed (d : Duty) : Bool := d.state == .pending || d.state == .active

/-- Whether a duty waits for a proof (R12). -/
def DutyKey.needsProof : DutyKey → Bool
  | .card .proof _ => true
  | .send .proof => true
  | _ => false

/-- The other card slot. -/
def otherSlot : Slot → Slot | .a => .b | .b => .a

/-! ## Pins -/

/-- A reader's pin added at its first read (R24). -/
def addPin (n : Nat) (r : Reader) (k : FileKind) (s : State) : State :=
  modHeld n (fun t => if t.pins.any (fun p => p.reader == r) then t else { t with pins := t.pins ++ [⟨r, k⟩] }) s

/-- A reader's pin on a shot dropped (R24). -/
def dropPin (n : Nat) (r : Reader) (s : State) : State :=
  modHeld n (fun t => { t with pins := t.pins.filter (fun p => p.reader != r) }) s

/-! ## Proof release and freeing -/

/-- The proof release test (R17, R126). -/
def Shot.proofReleasable (t : Shot) : Bool :=
  t.proof.isSome && t.dutyState .develop != some .active
    && !t.duties.any (fun d => d.key.needsProof && d.owed) && !t.pins.any (fun p => p.kind == .proof)

/-- A HELD shot's proof extent given back and absent. -/
def dropProof (n : Nat) (s : State) : State :=
  match (s.held n).bind (·.proof) with
  | some p => giveBlocks p.blocks (modHeld n (fun t => { t with proof := none }) s)
  | none => s

/-- The proof release test applied (R17). -/
def proofTest (n : Nat) (s : State) : State :=
  match s.held n with
  | some t => if t.proofReleasable then dropProof n s else s
  | none => s

/-- MEMO_END raised (R196). -/
def raiseMemoEnd (shot : Nat) (r : MemoReason) (length : Nat) (replaced : Bool) (start : Nat) (s : State) : State :=
  raise .memoEnd (.num shot) [.word r.name, .u32 length, flag replaced, .u64 start, .u64 s.time] s

/-- An ARMED memo of the shot ends ABORTED (R195). -/
def abortArmed (n : Nat) (s : State) : State :=
  match s.mi.current with
  | some m =>
    if s.mi.phase = .armed ∧ m.shot = n then
      raiseMemoEnd n .aborted 0 false m.start
        { s with mi := { s.mi with phase := .idle, current := none, samples := [], aborted := sat32 s.mi.aborted } }
    else s
  | none => s

/-- Whether a memo is recording into the shot (R18). -/
def State.recordsInto (s : State) (n : Nat) : Bool :=
  s.mi.phase == .recording && (s.mi.current.map (·.shot)) == some n

/-- The freeing test (R18). -/
def Shot.freeable (t : Shot) : Bool := t.duties.all (fun d => !d.owed) && t.pins.isEmpty && !t.keep

/-- The blocks a shot gives back when it is freed: raw, proof, memo, each in extent order (R18). -/
def Shot.blocks (t : Shot) : List Nat :=
  t.raw ++ ((t.proof.map (·.blocks)).getD []) ++ ((t.memo.map (·.blocks)).getD [])

/-- The freeing test applied (R18). Freeing clears the record; an ARMED memo of the shot ends (R195). -/
def freeTest (n : Nat) (s : State) : State :=
  match s.held n with
  | some t =>
    if t.freeable && !s.recordsInto n then abortArmed n (giveBlocks t.blocks (modHeld n (fun _ => {}) s)) else s
  | none => s

/-- The tests that follow a duty change or a pin drop (R11, R24): proof release, then freeing. -/
def shotTests (n : Nat) (s : State) : State := freeTest n (proofTest n s)

/-! ## Failing a duty -/

/-- Whether a failed duty sets KEEP (R13). -/
def Shot.keepsOnFail (t : Shot) : DutyKey → Bool
  | .card k sl => t.dutyState (.card k (otherSlot sl)) != some .done
  | .send _ => t.urgent
  | .develop => false

/-- A duty becomes FAILED, with the KEEP decision and SHOT_KEPT of R13, and the tests of R11. -/
def failDuty (n : Nat) (k : DutyKey) (s : State) : State :=
  match s.held n with
  | none => s
  | some t =>
    let s1 := setDuty n k (Duty.into .failed) s
    let s2 :=
      if t.keepsOnFail k then
        raise .shotKept (.num n) [.word k.kindName, .word k.targetName] (modHeld n (fun t => { t with keep := true }) s1)
      else s1
    shotTests n s2

/-! ## Derived facts that several blocks read -/

/-- Whether the unit expects a readout: a shot RESERVED with TRIGGER sent (R61). -/
def State.expectsReadout (s : State) : Bool := s.ss.table.any isTriggered

/-- Whether the link is ready (R29). -/
def State.linkReady (s : State) : Bool := s.sp.link == .aligned && s.sp.retrain.isNone && !s.sp.checkOn

/-- Whether the focus condition holds but for an expired focus wait (R59). -/
def State.focusReady (s : State) : Bool :=
  !s.cfg.burst.focusPriority || s.fe.servoMode != some .single || s.fe.servo == .idle || s.fe.servo == .locked

/-- Whether conditions 1 to 4 of R59 hold together. -/
def State.conditions (s : State) : Bool :=
  s.ss.table.any isClaimed && s.linkReady && (s.focusReady || s.rtu.waitExpired)

/-- The unit re-tests its conditions, `c` being the one just reported (R59, R71): the moment at which they came to hold
together is kept, and dropped when one lapses. So a frame whose conditions held at its readiness start, lapsed and held again
takes the last moment, and not the delay of 0 that R71 gives a frame ready at its start (DESIGN CHOICE, log entry 24). -/
def retest (c : Limit) (s : State) : State :=
  if s.rtu.phase = .waiting then
    match s.conditions, s.rtu.ready with
    | true, none => { s with rtu := { s.rtu with ready := some (s.time, c) } }
    | false, some _ => { s with rtu := { s.rtu with ready := none } }
    | _, _ => s
  else s

end Sys2Proof.Machine
end

