-- ==== Sys2Proof/Machine/FocusOps.lean ====
section
/-! DEFINITION. The focus engine's operations (04_focus_engine.md): the readout in hand, the servo, the settle wait, the
suspension and return, and the activity watcher. -/

namespace Sys2Proof.Machine

open Sys2Proof

/-! ## Servo changes -/

/-- FOCUS_STATE raised (R92). -/
def raiseFocus (reason : String) (s : State) : State :=
  raise .focusState (.num 0)
    (.word s.fe.servo.name :: opt s.fe.servoMode (fun m => [.word m.name]) ++ [.word reason, .word s.fe.last.outcome.name]
      ++ opt s.fe.last.area (fun a => [.u8 a]) ++ [.i32 s.fe.last.defocus]) s

/-- The servo enters another state: FOCUS_STATE is raised and the release and timing unit re-tests (R92). -/
def enterServo (st : ServoState) (reason : String) (s : State) : State :=
  retest .focus (raiseFocus reason { s with fe := { s.fe with servo := st } })

/-- An unsent DRIVE_TO emptied from the drive stage. A staged HOME is untouched (R106). -/
def emptyDrive (s : State) : State :=
  match s.lp.stage with
  | some (.driveTo _ _) => { s with lp := { s.lp with stage := none } }
  | _ => s

/-- The settle wait cleared (R89). The end of the wait that last ran is kept, and so is the waiver of the moving test that
its timeout gave; a wait that is cleared while it runs leaves no end (log entry 18). -/
def clearSettle (s : State) : State := { s with fe := { s.fe with settle := none } }

/-- Whether the lens is RUNNING with its counter REFERENCED. -/
def State.lensUsable (s : State) : Bool := s.lp.phase == .running && s.lp.referenced

/-- The state a running servo takes when the lens is there (R87). -/
def runState : ServoMode → ServoState
  | .single => .seeking
  | _ => .following

/-- A servo started (R87, R96). FOCUS_STATE is raised when the state changes. -/
def startServo (m : ServoMode) (reason : String) (s : State) : State :=
  let st : ServoState := if s.lensUsable then runState m else .suspended
  let s1 := clearSettle (emptyDrive { s with fe := { s.fe with servoMode := some m, fails := 0 } })
  if s.fe.servo = st then retest .focus s1 else enterServo st reason s1

/-- The watcher at its start (R94): LOW rate, counter 0, no reference, no last energy. -/
def Watcher.started (w : Watcher) : Watcher := { w with full := false, counter := 0, reference := none, last := none }

/-- The servo enters IDLE with no mode, and the drive stage stands (R87, R99). FOCUS_STATE is raised when the state
changes. -/
def quitServo (s : State) : State :=
  let s1 := clearSettle { s with fe := { s.fe with servoMode := none, fails := 0 } }
  if s.fe.servo = .idle then retest .focus s1 else enterServo .idle "STOP" s1

/-- The servo stopped by AF_STOP, which empties an unsent DRIVE_TO (R87, R106). -/
def stopServo (s : State) : State := quitServo (emptyDrive s)

/-- Whether the watcher is active (R94). -/
def State.watching (s : State) : Bool := s.fe.watcher.enabled && s.fe.servo == .idle

/-! ## Suspension and return -/

/-- Whether a servo state is one that R91 suspends. -/
def ServoState.running : ServoState → Bool
  | .seeking | .locked | .following | .failed => true
  | _ => false

/-- The lens port has reported a change of its state or of the counter's reference: the servo is suspended or returns
(R91). -/
def lensCheck (s : State) : State :=
  if s.fe.servo.running && !s.lensUsable then enterServo .suspended "SUSPENDED" (clearSettle (emptyDrive s))
  else if s.fe.servo = .suspended && s.lensUsable then
    match s.fe.servoMode with
    | some m => enterServo (runState m) "RESUMED" { s with fe := { s.fe with fails := 0 } }
    | none => s
  else s

/-! ## The settle wait -/

/-- A good STATUS word's moving flag reported to the settle wait (R89). -/
def settleReport (moving : Bool) (s : State) : State :=
  match s.fe.settle with
  | some w =>
    if !w.sent then s
    else if moving then { s with fe := { s.fe with settle := some { w with moved := true } } }
    else if w.moved then { s with fe := { s.fe with settle := none, settledAt := some s.time } }
    else s
  | none => s

/-- The DRIVE slot has sent the staged word (R89). -/
def settleSent (s : State) : State :=
  { s with fe := { s.fe with settle := s.fe.settle.map (fun w => { w with sent := true }) } }

/-! ## The servo acts on a result -/

/-- Whether a SINGLE servo discards the result (R89). -/
def State.discards (s : State) (r : LastResult) : Bool :=
  (r.moving && !s.fe.settleTimedOut) || s.fe.settle.isSome
    || (match s.fe.settledAt with | some e => decide (r.start < e) | none => false)

/-- A DRIVE_TO staged with the last result's target (R86). Nothing is staged unless the lens is RUNNING and the counter
REFERENCED. The staging ends the waiver of R89's moving test. -/
def stageDrive (ih : InHand) (r : LastResult) (s : State) : State :=
  match r.target with
  | some t =>
    if s.lensUsable then
      let speed := if r.outcome = .target then ih.cfg.driveSpeed else ih.cfg.searchSpeed
      { s with lp := { s.lp with stage := some (.driveTo t speed) }, fe := { s.fe with settleTimedOut := false } }
    else s
  | none => s

/-- The settle wait begins at a staging (R89). -/
def beginSettle (s : State) : State :=
  { s with fe := { s.fe with settle := some { due := s.time + Config.settleTime }, settledAt := none } }

/-- Whether a result is a TARGET within the window. -/
def LastResult.inWindow (r : LastResult) (w : Nat) : Bool := r.outcome == .target && decide (r.defocus.natAbs ≤ w)

/-- A SINGLE servo in SEEKING acts on a taken result (R88). -/
def seek (ih : InHand) (r : LastResult) (s : State) : State :=
  if r.inWindow ih.cfg.window then
    enterServo .locked "LOCKED" (emptyDrive { s with fe := { s.fe with fails := 0 } })
  else if r.outcome = .none || r.atLimit then
    let n := s.fe.fails + 1
    let s1 := { s with fe := { s.fe with fails := n } }
    if Config.maxFails ≤ n then enterServo .failed "FAILED" s1 else s1
  else beginSettle (stageDrive ih r { s with fe := { s.fe with fails := 0 } })

/-- A CONTINUOUS servo in FOLLOWING acts on a result (R90). -/
def follow (ih : InHand) (r : LastResult) (s : State) : State :=
  if r.inWindow ih.cfg.window || r.outcome = .none || r.atLimit then s else stageDrive ih r s

/-- The servo takes or discards the last result and acts on it (R87 to R90). -/
def servoAct (ih : InHand) (s : State) : State :=
  let r := s.fe.last
  match s.fe.servoMode with
  | some .single =>
    if s.discards r then { s with fe := { s.fe with last := { r with discarded := true } } }
    else if s.fe.servo = .seeking then seek ih r s
    else s
  | some .continuous => if s.fe.servo = .following then follow ih r s else s
  | _ => s

/-! ## The activity watcher -/

/-- The energy of the watch zone, or none where an area of it is NO_DATA (R95). -/
def zoneEnergy (areas : List AreaResult) (zone : Rect) : Option Nat :=
  let l := rectAreas zone
  if l.any (fun a => (areaOf areas a).kind == .noData) then none else some (l.map (fun a => (areaOf areas a).contrast)).sum

/-- The wake test (R95): `|E − E_ref| × 64 > E_ref × T`. -/
def wakes (e ref t : Nat) : Bool := decide (ref * t < absDiff e ref * 64)

/-- A wake (R96). The wake count is of 32 bits and saturates (DESIGN CHOICE, log entry 23). -/
def wakeWatcher (ih : InHand) (e ref : Nat) (s : State) : State :=
  let s1 := { s with fe := { s.fe with
    watcher := { s.fe.watcher with full := true, last := some e, wakes := sat32 s.fe.watcher.wakes } } }
  let s2 := raise .activity (.num 0) [.u32 e, .u32 ref, .u64 ih.start] s1
  if ih.cfg.wakeStarts then startServo .continuous "AUTO_START" s2 else s2

/-- The watcher takes a sampled readout's energy (R95). -/
def watchSample (ih : InHand) (s : State) : State :=
  if !ih.sampled || !s.watching then s
  else
    match zoneEnergy s.fe.areas s.fe.watchZone with
    | none => s
    | some e =>
      match s.fe.watcher.reference with
      | none => { s with fe := { s.fe with watcher := { s.fe.watcher with reference := some e, last := some e } } }
      | some ref =>
        if wakes e ref ih.cfg.watchT then wakeWatcher ih e ref s
        else { s with fe := { s.fe with
          watcher := { s.fe.watcher with reference := some ((3 * ref + e + 2) / 4), last := some e } } }

/-! ## The readout in hand -/

/-- Whether the watcher drops a WATCH readout that begins now, and whether it samples it (R94). The plan stands to the
readout's end, also where the watcher starts, stops or is reset within it (DESIGN CHOICE, log entry 18). -/
def State.watchPlan (s : State) (k : ReadoutKind) : Bool × Bool :=
  if k = .watch && s.watching then
    if s.fe.watcher.full then (false, true) else if s.fe.watcher.counter = 0 then (false, true) else (true, false)
  else (false, false)

/-- The engine opens a readout in hand (R75), and the watcher's sample counter advances at LOW rate (R94). -/
def openReadout (k : ReadoutKind) (start : Nat) (s : State) : State :=
  let plan := s.watchPlan k
  let ih : InHand :=
    { kind := k, start := start, counter := s.lp.counter, referenced := s.lp.referenced, lens := s.lp.phase
      moving := (s.lp.latest.map (·.moving)).getD false, cfg := s.cfg.focus, coef := s.fe.coef, rows := []
      skipped := plan.1, sampled := plan.2, complete := false }
  let w := s.fe.watcher
  let w1 := if k = .watch && s.watching && !w.full then { w with counter := (w.counter + 1) % 8 } else w
  { s with fe := { s.fe with inHand := some ih, watcher := w1 } }

/-- The computation of a readout completes (R76): area choice, last result, servo, watcher. -/
def completeReadout (ih : InHand) (s : State) : State :=
  let c := chooseArea s.fe.mode s.fe.areas s.fe.track ih.counter
  let fellLost := !s.fe.track.lost && c.track.lost
  let s1 := { s with fe := { s.fe with
    track := c.track, last := formResult ih c s.lp.far s.lp.near, inHand := some { ih with complete := true } } }
  let s2 := if fellLost then raiseFocus "TRACK_LOST" s1 else s1
  watchSample ih (servoAct ih s2)

/-- The areas with row `r` replaced. -/
def setRow (r : Nat) (l : List AreaResult) (areas : List AreaResult) : List AreaResult :=
  areas.take (11 * r) ++ l ++ areas.drop (11 * r + 11)

/-- A PHASE row handed to the engine: its payload if it is good, none if it is damaged (R46, R76). -/
def handRow (r : Nat) (payload : Option (List Word16)) (s : State) : State :=
  match s.fe.inHand with
  | none => s
  | some ih =>
    let ih1 := { ih with rows := ih.rows ++ [r] }
    if ih.skipped then { s with fe := { s.fe with inHand := some ih1 } }
    else
      let row :=
        match payload with
        | some p => rowResults ih.cfg ih.coef p
        | none => List.replicate 11 {}
      let s1 := { s with fe := { s.fe with inHand := some ih1, areas := setRow r row s.fe.areas } }
      if !ih.complete && (List.range 11).all (fun k => ih1.rows.contains k) then completeReadout ih1 s1 else s1

end Sys2Proof.Machine
end

