-- ==== Sys2Proof/Machine/LensOps.lean ====
section
/-! DEFINITION. The lens port's operations (05_lens_port.md): the LENS_STATE notice, the reference state, homing, the lens
states and their entry actions, the judging of a STATUS word, and the position counter. -/

namespace Sys2Proof.Machine

open Sys2Proof

/-! ## The notice -/

/-- LENS_STATE raised (R103). The OVERRUN flag stands last (R112). Where one step raises LENS_STATE and FOCUS_STATE both, for
which the spec names no order, the port raises its own first and then tells the focus engine (`lensCheck`), in `unreference`,
`reference`, `lensStopped`, `lensLost`, `compareWord`, `lensAnswered` and `lensRecovered` (DESIGN CHOICE, log entry 19). -/
def raiseLens (reason : String) (s : State) : State :=
  raise .lensState (.num 0)
    [.word s.lp.phase.name, .word reason, .i32 s.lp.counter, .word (refName s.lp.referenced), flag s.lp.overrun] s

/-! ## Homing and the reference state -/

/-- The homing test (R107): when it holds, HOME is staged, the flag set and the home timer started. -/
def homingTest (s : State) : State :=
  if s.lp.phase = .running ∧ s.cfg.lens.indexMode ∧ !s.lp.referenced ∧ !s.lp.homing then
    let due := if s.cfg.lens.homeMs = 0 then none else some (s.time + s.cfg.lens.homeMs * 1000)
    raiseLens "HOMING" { s with lp := { s.lp with stage := some .home, homing := true, homeAt := due } }
  else s

/-- The homing flag cleared and its timer stopped (R107). -/
def clearHoming (s : State) : State := { s with lp := { s.lp with homing := false, homeAt := none } }

/-- The counter UNREFERENCED, with its notice if it was REFERENCED (R113). The homing test and the focus engine are the
caller's. -/
def dropReference (s : State) : State :=
  if s.lp.referenced then raiseLens "UNREFERENCED" { s with lp := { s.lp with referenced := false } } else s

/-- A change of the counter to UNREFERENCED, with the homing test and the report to the focus engine (R113). Its LENS_STATE
stands before a FOCUS_STATE that it raises (DESIGN CHOICE, log entry 19). -/
def unreference (s : State) : State :=
  if s.lp.referenced then lensCheck (homingTest (dropReference s)) else s

/-- The counter REFERENCED: its notice, the end of homing, and the report to the focus engine (R113, R107). -/
def reference (s : State) : State :=
  if s.lp.referenced then s
  else
    let s1 := raiseLens "REFERENCED" { s with lp := { s.lp with referenced := true } }
    let s2 := if s.lp.homing then raiseLens "HOMED" (clearHoming s1) else s1
    lensCheck s2

/-! ## Lens states -/

/-- Entry to WAITING (R103): lens frames begin, the runs are 0, the sequence check starts afresh. -/
def lensWaiting (reason : String) (s : State) : State :=
  lensCheck (raiseLens reason { s with lp := { s.lp with
    phase := .waiting, stopping := none, frameFrom := s.time, framePeriod := s.cfg.lens.framePeriod, slot := 0
    failRun := 0, goodRun := 0, lastSeq := none } })

/-- Entry to STOPPED from another state (R103). The AUX discard count is of 32 bits and saturates (DESIGN CHOICE, log entry
23), a frame cut off by the detect line is not counted, and LENS_STATE stands before FOCUS_STATE (DESIGN CHOICE, log entry
19). -/
def lensStopped (reason : String) (s : State) : State :=
  if s.lp.phase = .stopped then s
  else
    lensCheck (raiseLens reason (dropReference { s with lp := { s.lp with
      phase := .stopped, stopping := none, slot := 0, failRun := 0, goodRun := 0, lastSeq := none
      stage := none, auxQueue := [], auxDiscards := min (s.lp.auxDiscards + s.lp.auxQueue.length) Config.maxNumber
      homing := false, homeAt := none, lensType := none, latest := none } }))

/-- Entry to LOST (R103). LENS_STATE stands before FOCUS_STATE (DESIGN CHOICE, log entry 19). -/
def lensLost (why : SlotFailure) (s : State) : State :=
  lensCheck (raiseLens why.name (dropReference { s with lp := { s.lp with
    phase := .lost, failRun := 0, goodRun := 0, stage := none, homing := false, homeAt := none } }))

/-- The recorded bits and lens type taken from a good word (R103, R105). -/
def recordWord (w : StatusWord) (s : State) : State :=
  { s with lp := { s.lp with
    lensType := some w.lensType, nearStop := w.nearStop, farStop := w.farStop, irisMoving := w.irisMoving
    fault := w.fault } }

/-- A good word compared with the recorded bits and type, then recorded (R105). -/
def compareWord (w : StatusWord) (s : State) : State :=
  let s1 := recordWord w s
  let s2 := if w.fault = s.lp.fault then s1 else if w.fault then raiseLens "FAULT" s1 else raiseLens "FAULT_CLEAR" s1
  if s.lp.lensType = some w.lensType then s2
  else lensCheck (homingTest (raiseLens "TYPE_CHANGE" (dropReference s2)))

/-- Entry to RUNNING from WAITING: the focus engine is told, and then the homing test is applied (R103). LENS_STATE stands
before FOCUS_STATE (DESIGN CHOICE, log entry 19). -/
def lensAnswered (w : StatusWord) (s : State) : State :=
  homingTest (lensCheck (raiseLens "ANSWERED" (recordWord w
    { s with lp := { s.lp with phase := .running, failRun := 0, goodRun := 0 } })))

/-- Return from LOST to RUNNING (R103, R105). RECOVERED is raised first, then the word is compared (DESIGN CHOICE, log entry
19), and then the focus engine is told and the homing test applied (R103). -/
def lensRecovered (w : StatusWord) (s : State) : State :=
  homingTest (lensCheck (compareWord w (raiseLens "RECOVERED"
    { s with lp := { s.lp with phase := .running, failRun := 0, goodRun := 0 } })))

/-- What a good STATUS word does to the lens state (R102). -/
def goodWord (w : StatusWord) (s : State) : State :=
  match s.lp.phase with
  | .waiting => lensAnswered w s
  | .running => compareWord w { s with lp := { s.lp with failRun := 0 } }
  | .lost =>
    if 3 ≤ s.lp.goodRun + 1 then lensRecovered w s
    else { s with lp := { s.lp with goodRun := s.lp.goodRun + 1 } }
  | .stopped => s

/-- What a failing STATUS slot does to the lens state (R102). -/
def failingSlot (why : SlotFailure) (s : State) : State :=
  match s.lp.phase with
  | .running =>
    if 3 ≤ s.lp.failRun + 1 then lensLost why s else { s with lp := { s.lp with failRun := s.lp.failRun + 1 } }
  | .lost => { s with lp := { s.lp with goodRun := 0 } }
  | _ => s

/-- Why a STATUS slot fails, the first of the four tests that fails, or none for a good word (R101). -/
def judgeSlot (lastSeq : Option Nat) : Option Word32 → Option SlotFailure
  | none => some .missing
  | some w =>
    if !parityRight w then some .parity
    else if !presentBit w then some .absent
    else if lastSeq = some (statusWord w).sequence then some .repeated
    else none

/-- A failing slot's count (R101). -/
def countFailure (why : SlotFailure) (l : Lens) : Lens :=
  match why with
  | .missing => { l with missing := sat32 l.missing }
  | .parity => { l with parity := sat32 l.parity }
  | .absent => { l with absent := sat32 l.absent }
  | .repeated => { l with repeated := sat32 l.repeated }

/-- The STATUS slot ends (R101). -/
def takeStatus (w : Option Word32) (s : State) : State :=
  let s0 := { s with lp := { s.lp with slot := 1 } }
  match judgeSlot s.lp.lastSeq w, w with
  | some why, _ => failingSlot why { s0 with lp := countFailure why s0.lp }
  | none, some w =>
    let st := statusWord w
    goodWord st (settleReport st.moving
      { s0 with lp := { s0.lp with latest := some st, lastSeq := some st.sequence } })
  | none, none => s0

/-- The STATUS word whose fields these are, in the layout of the Formats chapter. -/
def StatusWord.bits (w : StatusWord) : Word32 :=
  withParity (1 + 2 * w.moving.toNat + 4 * w.nearStop.toNat + 8 * w.farStop.toNat + 16 * w.irisMoving.toNat
    + 32 * w.fault.toNat + 256 * w.lensType + 65536 * w.sequence)

/-! ## Slots that send -/

/-- The DRIVE slot (R106). The counts of words sent are of 32 bits and saturate (DESIGN CHOICE, log entry 23). -/
def sendDrive (s : State) : State :=
  match s.lp.stage with
  | none => { s with lp := { s.lp with slot := 2, driveOut := some (driveBits none) } }
  | some w =>
    let s1 := { s with lp := { s.lp with
      slot := 2, driveOut := some (driveBits (some w)), stage := none, lastDrive := some w } }
    match w with
    | .driveTo _ _ => settleSent { s1 with lp := { s1.lp with drives := sat32 s.lp.drives } }
    | .home => { s1 with lp := { s1.lp with homes := sat32 s.lp.homes } }

/-- The IRIS slot (R108). -/
def sendIris (s : State) : State :=
  let v := s.lp.irisStage.getD s.lp.irisSent
  { s with lp := { s.lp with slot := 3, irisOut := some (irisBits v), irisSent := v, irisStage := none } }

/-- The AUX slot's second half: the lens's answer, taken when it is not idle (R110). -/
def takeAux (w : Option Word32) (l : Lens) : Lens :=
  match w with
  | some v =>
    if v.getLsbD 16 then
      let h := l.auxHistory ++ [v.setWidth 16]
      { l with auxHistory := h.drop (h.length - Config.auxRoom), auxReceived := sat32 l.auxReceived }
    else l
  | none => l

/-- The AUX slot (R110). -/
def sendAux (w : Option Word32) (s : State) : State :=
  let q := if s.lp.phase = .running then s.lp.auxQueue else []
  let rest := if s.lp.phase = .running then s.lp.auxQueue.drop 1 else s.lp.auxQueue
  { s with lp := takeAux w { s.lp with slot := 4, auxOut := some (auxBits q.head?), auxQueue := rest } }

/-- The lens frame ends and, unless a stop awaited it, the next begins (R100, R104, R116). -/
def endFrame (s : State) : State :=
  let s1 := { s with lp := { s.lp with frames := sat32 s.lp.frames } }
  if s.lp.stopping.isSome then lensStopped "STOP" s1
  else
    let from_ := s.lp.frameFrom + s.lp.framePeriod
    { s1 with lp := { s1.lp with frameFrom := from_, framePeriod := s.cfg.lens.framePeriod, slot := 0 } }

/-! ## The position counter -/

/-- The counter moved by one step (R111, R112). -/
def countStep (delta : Int) (s : State) : State :=
  let v := s.lp.counter + delta
  if Config.counterMin ≤ v ∧ v ≤ Config.counterMax then { s with lp := { s.lp with counter := v } }
  else if s.lp.overrun then s
  else raiseLens "OVERRUN" { s with lp := { s.lp with overrun := true } }

/-- The place of a pair of levels in the order (0,0), (1,0), (1,1), (0,1) (R111). -/
def quadPlace (a b : Bool) : Nat :=
  match a, b with
  | false, false => 0
  | true, false => 1
  | true, true => 2
  | false, true => 3

/-- The count of an encoder edge in QUADRATURE mode, NORMAL direction: forward, backward, none, or a skipped step
(R111). -/
def quadStep (oldA oldB a b : Bool) : Option Int :=
  match (quadPlace a b + 4 - quadPlace oldA oldB) % 4 with
  | 0 => some 0
  | 1 => some 1
  | 3 => some (-1)
  | _ => none

/-- Whether the lens frames run: WAITING, RUNNING or LOST (R100). -/
def State.lensFrames (s : State) : Bool := s.lp.phase != .stopped

/-- The levels of A and B change (R111). -/
def encoderStep (a b : Bool) (s : State) : State :=
  let s1 := { s with lines := { s.lines with encA := a, encB := b } }
  if !s.lensFrames then s1
  else if s.cfg.lens.upOnly then (if a && !s.lines.encA then countStep 1 s1 else s1)
  else
    match quadStep s.lines.encA s.lines.encB a b with
    | some 0 => s1
    | some d => countStep (if s.cfg.lens.reversed then -d else d) s1
    | none => unreference { s1 with lp := { s1.lp with encErrors := sat32 s1.lp.encErrors } }

/-- The rising edge of the index line (R113). -/
def indexStep (s : State) : State :=
  if s.lensFrames && s.cfg.lens.indexMode then
    reference { s with lp := { s.lp with counter := s.cfg.lens.indexValue } }
  else s

/-! ## The lens-detect line and the settings -/

/-- The lens-detect line sampled or changed while the port takes it (R102). -/
def detectStep (s : State) : State :=
  if s.lines.lensDetect then
    (if s.lp.phase = .stopped && s.lp.enable then lensWaiting "DETECT" s else s)
  else lensStopped "UNDETECT" s

/-- What new lens values do when they become applied (R107, R113). -/
def lensApplied (old : LensCfg) (s : State) : State :=
  let new := s.cfg.lens
  let s1 := if old.indexMode && !new.indexMode then clearHoming s else s
  let s2 :=
    if old.upOnly ≠ new.upOnly ∨ old.reversed ≠ new.reversed ∨ old.indexMode ≠ new.indexMode then unreference s1 else s1
  if !old.indexMode && new.indexMode then homingTest s2 else s2

/-! ## Sleep and wake -/

/-- The lens port at SLEEP (R116). -/
def lensSleep (s : State) : State :=
  if s.lp.phase = .stopped then s else { s with lp := { s.lp with stopping := some .sleep } }

/-- The lens port after a wake (R116): counts 0, AUX history empty, STOPPED; then the line is sampled. The recorded bits, the
last DRIVE word and a value that POSITION_SET set in STOPPED are kept, and a counter that becomes UNREFERENCED here raises no
LENS_STATE (DESIGN CHOICE, log entry 19). -/
def lensWake (s : State) : State :=
  let l := s.lp
  detectStep { s with lp := { l with
    phase := .stopped, stopping := none, referenced := false, auxHistory := []
    frames := 0, missing := 0, parity := 0, absent := 0, repeated := 0, drives := 0, homes := 0
    auxReceived := 0, auxDiscards := 0, encErrors := 0 } }

end Sys2Proof.Machine
end

