-- ==== Sys2Proof/Machine/CardOps.lean ====
section
/-! DEFINITION. The card writer's operations (07_card_writer.md): the slot's record and notices, the file queue, files and
their writes, starvation, the overflow move, abandonment, faults, and the closing of the writer. -/

namespace Sys2Proof.Machine

open Sys2Proof

/-! ## Slots and notices -/

/-- A slot's record. -/
def State.slot (s : State) : Slot → CardSlot
  | .a => s.cw.a
  | .b => s.cw.b

/-- A slot's record changed. -/
def modSlot (sl : Slot) (f : CardSlot → CardSlot) (s : State) : State :=
  match sl with
  | .a => { s with cw := { s.cw with a := f s.cw.a } }
  | .b => { s with cw := { s.cw with b := f s.cw.b } }

/-- The reader a slot reads as (R146). -/
def slotReader : Slot → Reader
  | .a => .a
  | .b => .b

/-- A slot's card-present line. -/
def State.cardLine (s : State) : Slot → Bool
  | .a => s.lines.cardA
  | .b => s.lines.cardB

/-- The sectors of a list of runs. -/
def sectorsOf (l : List Run) : Nat := (l.map (·.count)).sum

/-- The shot and kind of the file that a notice concerns, or 0 (R157). -/
def fileWires : Option CardFile → List Wire
  | some f => [.u32 f.shot, .word f.kind.name]
  | none => [.u32 0]

/-- CARD_STATE raised (R157). -/
def raiseCard (sl : Slot) (reason : String) (extra : List Wire) (s : State) : State :=
  let c := s.slot sl
  raise .cardState (.slot sl)
    ([.word c.state.name, .word c.hold.name, .word reason, .u64 (sectorsOf c.extents), flag c.final] ++ extra) s

/-- EXTENTS_LOW raised after a consumption that meets R142. -/
def lowTest (sl : Slot) (s : State) : State :=
  let c := s.slot sl
  if c.lowArmed && !c.final && decide (sectorsOf c.extents < c.lowMark) then
    raise .extentsLow (.slot sl) [.u64 (sectorsOf c.extents), .u8 c.extents.length]
      (modSlot sl (fun x => { x with lowArmed := false }) s)
  else s

/-! ## Records -/

/-- The slot enters READY with hold RETURN_FULL (R155). -/
def holdFull (sl : Slot) (s : State) : State :=
  raiseCard sl "RETURN_FULL" [] (modSlot sl (fun x => { x with state := .ready, hold := .returnFull }) s)

/-- Whether a state lets a full return list hold the slot (R155). -/
def SlotState.fills : SlotState → Bool
  | .ready | .writing => true
  | _ => false

/-- A record added to the return list (R155). -/
def addRecord (sl : Slot) (r : FileRecord) (s : State) : State :=
  let s1 := modSlot sl (fun x => { x with returns := x.returns ++ [r] }) s
  let c := s1.slot sl
  let s2 := raise .filesWaiting (.slot sl) [.u8 c.returns.length] s1
  if Config.cardRoom ≤ c.returns.length && c.state.fills && c.hold == .none then holdFull sl s2 else s2

/-! ## What the slot does with no file active -/

/-- The slot enters STARVED (R151). -/
def starve (sl : Slot) (s : State) : State :=
  raiseCard sl "STARVED" [] (modSlot sl (fun x => { x with state := .starved }) s)

/-- The slot between files: EJECTED, CLOSED, RETURN_FULL, READY, STARVED, or as it is because a file may start (R138,
R145, R151, R155, R156, R159). -/
def slotRest (sl : Slot) (s : State) : State :=
  let c := s.slot sl
  if c.file.isSome then s
  else
    match c.state with
    | .absent | .faulted => s
    | .ejecting => raiseCard sl "EJECTED" [] (modSlot sl (fun x => { x with state := .ready, hold := .ejected }) s)
    | _ =>
      if s.cw.closing then
        (if c.hold = .ejected then s else modSlot sl (fun x => { x with state := .ready, hold := .closed }) s)
      else if c.hold ≠ .none then s
      else if c.queue = [] then modSlot sl (fun x => { x with state := .ready }) s
      else if c.extents = [] then (if c.state = .starved then s else starve sl s)
      else if Config.cardRoom ≤ c.returns.length then holdFull sl s
      else s

/-! ## Abandonment -/

/-- Whether an abandonment counts as a failed file (R154). -/
def Cause.fails : Cause → Bool
  | .fragmented | .fault => true
  | _ => false

/-- The duty and the pin of an abandoned file (R154). -/
def abandonDuty (sl : Slot) (c : Cause) (f : CardFile) (s : State) : State :=
  let key := DutyKey.card f.kind sl
  match c with
  | .deleted => shotTests f.shot (dropPin f.shot (slotReader sl) (setDuty f.shot key (Duty.into .cancelled) s))
  | .fragmented | .fault => shotTests f.shot (dropPin f.shot (slotReader sl) (failDuty f.shot key s))
  | _ =>
    let s1 := modSlot sl (fun x => { x with queue := ⟨f.shot, f.kind⟩ :: x.queue }) s
    shotTests f.shot (dropPin f.shot (slotReader sl) (setDuty f.shot key (Duty.into .pending) s1))

/-- The active file abandoned (R154). A file that consumed no sector adds no record. -/
def abandon (sl : Slot) (c : Cause) (s : State) : State :=
  match (s.slot sl).file with
  | none => s
  | some f =>
    let s1 := modSlot sl (fun x => { x with
      file := none
      abandoned := if c.fails then x.abandoned else sat32 x.abandoned
      failed := if c.fails then sat32 x.failed else x.failed }) s
    let rec_ : FileRecord := ⟨f.shot, f.kind, some c, Config.sectorBytes + f.payload, sectorsOf f.fragments, f.fragments⟩
    abandonDuty sl c f (if f.fragments = [] then s1 else addRecord sl rec_ s1)

/-! ## The overflow move -/

/-- Whether a duty of slot A may move to slot B (R152). -/
def State.mayMove (s : State) (j : FileJob) : Bool :=
  match s.held j.shot with
  | some t => (t.duty (.card j.kind .b)).isNone
  | none => false

/-- A duty's target becomes card B (R152). -/
def retarget (j : FileJob) (s : State) : State :=
  setDuty j.shot (.card j.kind .a) (fun d => { d with key := .card j.kind .b }) s

/-- Slot A's PENDING PROOF duties that wait for their proof, in the order of their shots' numbers (R152). -/
def State.waitingProofs (s : State) : List FileJob :=
  ((bySerial s.heldShots).filter (fun t => t.dutyState (.card .proof .a) == some .pending)).map (fun t => ⟨t.number, .proof⟩)
    |>.filter (fun j => !s.cw.a.queue.contains j)

/-- A queued job of slot A moved to slot B's tail, its duty's target becoming card B, if it may move (R152). -/
def moveJob (s : State) (j : FileJob) : State :=
  if s.mayMove j then
    modSlot .b (fun x => { x with queue := x.queue ++ [j] })
      (modSlot .a (fun x => { x with queue := x.queue.filter (· != j) }) (retarget j s))
  else s

/-- A PENDING PROOF duty of slot A that waits for its proof becomes one of slot B, if it may move (R152). -/
def moveWaiting (s : State) (j : FileJob) : State := if s.mayMove j then retarget j s else s

/-- The overflow move (R152): the active file abandoned, the queued jobs moved in their order, then the PROOF duties that
wait, then the switch and A's notice. Slot B acts on the moved jobs last, so its STARVED notice stands behind A's OVERFLOW
(DESIGN CHOICE, log entry 14). -/
def overflowMove (s : State) : State :=
  let file := s.cw.a.file
  let s1 := abandon .a .overflow s
  let s2 := s1.cw.a.queue.foldl moveJob s1
  let s3 := s2.waitingProofs.foldl moveWaiting s2
  let s4 := modSlot .a (fun x => { x with state := if x.queue = [] then .ready else .starved }) s3
  slotRest .b (raiseCard .a "OVERFLOW" (fileWires file) { s4 with cw := { s4.cw with overflow := true } })

/-- The overflow move at the first moment its conditions hold together (R152). -/
def overflowTest (s : State) : State :=
  if s.cfg.plans.card = .overflow ∧ !s.cw.overflow ∧ s.cw.a.state = .starved ∧ s.cw.a.final then overflowMove s else s

/-- A slot settles between files, and the overflow move follows if it now may. -/
def slotSettle (sl : Slot) (s : State) : State := overflowTest (slotRest sl s)

/-! ## The queue -/

/-- A PENDING card duty handed to its slot joins the queue at the tail, unless its job is there already (R143). While the
overflow switch is set, one for A moves to B unless the shot holds the same kind for B (R153). -/
def handCard (n : Nat) (k : FileKind) (sl : Slot) (s : State) : State :=
  let j : FileJob := ⟨n, k⟩
  if s.dutyOf n (.card k sl) ≠ some .pending ∨ j ∈ (s.slot sl).queue then s
  else
    let moves := sl == .a && s.cw.overflow && s.mayMove j
    let target := if moves then Slot.b else sl
    slotSettle target (modSlot target (fun x => { x with queue := x.queue ++ [j] }) (if moves then retarget j s else s))

/-- A slot without a shot's jobs (R143). -/
def CardSlot.without (n : Nat) (c : CardSlot) : CardSlot := { c with queue := c.queue.filter (fun j => j.shot != n) }

/-! ## Starting a file -/

/-- Whether a slot may start a file (R145). -/
def State.mayStartFile (s : State) (sl : Slot) : Bool :=
  let c := s.slot sl
  c.file.isNone && (c.state == .ready || c.state == .writing || c.state == .starved) && c.hold == .none
    && !c.queue.isEmpty && !c.extents.isEmpty && decide (c.returns.length < Config.cardRoom) && !s.cw.closing

/-- The payload length of a file (R144). -/
def Shot.payload (t : Shot) : FileKind → Nat
  | .raw => rawBytes t.geom
  | .proof => (t.proof.map (·.bytes)).getD 0
  | .memo => (t.memo.map (·.length)).getD 0
  | .caption => 0

/-- The extent a kind is read from (R144, R167). -/
def Shot.extent (t : Shot) : FileKind → List Nat
  | .raw => t.raw
  | .proof => (t.proof.map (·.blocks)).getD []
  | .memo => (t.memo.map (·.blocks)).getD []
  | .caption => []

/-- The slot starts its head job's file (R144, R145). -/
def startFile (sl : Slot) (s : State) : State :=
  match (s.slot sl).queue with
  | [] => s
  | j :: rest =>
    match s.held j.shot with
    | none => modSlot sl (fun x => { x with queue := rest }) s
    | some t =>
      let n := t.payload j.kind
      let f : CardFile :=
        { shot := j.shot, kind := j.kind, header := fileHeader j.kind n t, payload := n
          sectors := 1 + ceilDiv n Config.sectorBytes }
      setDuty j.shot (.card j.kind sl) (Duty.into .active)
        (modSlot sl (fun x => { x with queue := rest, file := some f, state := .writing }) s)

/-! ## Writes -/

/-- The sectors of the next write into a head run (R146). -/
def CardFile.nextCount (f : CardFile) (r : Run) : Nat := min Config.writeSectors (min (f.sectors - f.issued) r.count)

/-- The payload bytes that lie in the first `n` sectors of the file. -/
def CardFile.payloadIn (f : CardFile) (n : Nat) : Nat := min f.payload ((n - 1) * Config.sectorBytes)

/-- Byte `i` of a card file: its header, its payload from the extent's blocks, and the zero bytes that pad the last sector
(R144). -/
def CardFile.byte (f : CardFile) (m : List Host.Cell) (blocks : List Nat) (i : Nat) : Byte :=
  if i < Config.sectorBytes then f.header.getD i 0
  else if i - Config.sectorBytes < f.payload then readExtent m blocks (i - Config.sectorBytes)
  else 0

/-- The bytes of `n` sectors of a card file from its sector `k` (R144, R146). -/
def CardFile.sectorData (f : CardFile) (m : List Host.Cell) (blocks : List Nat) (k n : Nat) : List Byte :=
  (List.range (n * Config.sectorBytes)).map (fun i => f.byte m blocks (k * Config.sectorBytes + i))

/-- The extent that a card file's payload is read from (R144). -/
def State.fileBlocks (s : State) (f : CardFile) : List Nat := ((s.held f.shot).map (·.extent f.kind)).getD []

/-- How many payload bytes the next write needs in hand (R146, R149). -/
def CardSlot.need (c : CardSlot) (f : CardFile) : Option Nat :=
  match f.again with
  | some _ => some (f.payloadIn f.issued)
  | none =>
    if f.issued < f.sectors then c.extents.head?.map (fun r => f.payloadIn (f.issued + f.nextCount r)) else none

/-- Whether the slot has a read request waiting (R146). -/
def CardSlot.wantsRead (c : CardSlot) : Bool :=
  match c.file with
  | some f => f.flight.isNone && (match c.need f with | some n => decide (f.inHand < n) | none => false)
  | none => false

/-- Whether the next write would begin a 65th fragment (R147). -/
def CardSlot.wouldFragment (c : CardSlot) : Bool :=
  match c.file with
  | some f =>
    f.flight.isNone && f.again.isNone && decide (f.issued < f.sectors) && !c.extents.isEmpty && !f.sameRun
      && decide (Config.cardRoom ≤ f.fragments.length)
  | none => false

/-- Whether the slot's next write has its data in hand (R146). -/
def CardSlot.mayWrite (c : CardSlot) : Bool :=
  match c.file with
  | some f => f.flight.isNone && (match c.need f with | some n => decide (n ≤ f.inHand) | none => false)
  | none => false

/-- One read granted to the slot (R146): at most 4,096 bytes, with the pin added at the first. -/
def cardRead (sl : Slot) (s : State) : State :=
  match (s.slot sl).file with
  | none => s
  | some f =>
    let n := min Config.readBytes (f.payload - f.inHand)
    addPin f.shot (slotReader sl) f.kind
      (modSlot sl (fun x => { x with file := some { f with inHand := f.inHand + n } }) s)

/-- Fragments with a write's sectors added (R146). -/
def growFragments (same : Bool) (start n : Nat) (l : List Run) : List Run :=
  match same, l.reverse with
  | true, last :: before => (({ last with count := last.count + n } : Run) :: before).reverse
  | _, _ => l ++ [⟨start, n⟩]

/-- The active file needs a next write and the list holds no run (R151, R159). -/
def starveActive (sl : Slot) (s : State) : State :=
  if (s.slot sl).state = .ejecting then
    (if s.cw.closing then slotSettle sl (abandon sl .sleep s) else s)
  else if s.cw.closing then slotSettle sl (abandon sl .sleep (starve sl s))
  else overflowTest (starve sl s)

/-- Whether the active file needs sectors that the list does not hold. -/
def CardSlot.short (c : CardSlot) : Bool :=
  match c.file with
  | some f => decide (f.issued < f.sectors) && c.extents.isEmpty
  | none => false

/-- A write of the next sectors issued on the head run, carrying their data (R146). -/
def issueFresh (sl : Slot) (f : CardFile) (r : Run) (rest : List Run) (s : State) : State :=
  let n := f.nextCount r
  let data := f.sectorData s.mem (s.fileBlocks f) f.issued n
  let s1 := modSlot sl (fun x => { x with
    extents := if n = r.count then rest else ⟨r.start + n, r.count - n⟩ :: rest
    serial := x.serial + 1
    file := some { f with
      issued := f.issued + n, fragments := growFragments f.sameRun r.start n f.fragments, sameRun := n != r.count
      flight := some ⟨r.start, n, data, false, s.time + x.writeMs * 1000, x.serial⟩ } }) s
  let s2 := lowTest sl s1
  if (s2.slot sl).short then starveActive sl s2 else s2

/-- A failed write issued again on the same sectors with the same data, read again (R149): those of the file's last
`w.count` sectors issued. -/
def issueAgain (sl : Slot) (f : CardFile) (w : CardWrite) (s : State) : State :=
  let data := f.sectorData s.mem (s.fileBlocks f) (f.issued - w.count) w.count
  modSlot sl (fun x => { x with
    serial := x.serial + 1
    file := some { f with
      again := none
      flight := some { w with data := data, retry := true, due := s.time + x.writeMs * 1000, serial := x.serial } } }) s

/-- The slot issues its next write, or fails the file at the fragment limit (R146, R147, R149). -/
def issueWrite (sl : Slot) (s : State) : State :=
  let c := s.slot sl
  if c.wouldFragment then slotSettle sl (abandon sl .fragmented s)
  else if !c.mayWrite then s
  else
    match c.file, c.extents with
    | some f, l =>
      match f.again, l with
      | some w, _ => issueAgain sl f w s
      | none, r :: rest => issueFresh sl f r rest s
      | none, [] => s
    | none, _ => s

/-- A stale CAPTION duty that has become DONE is re-opened and handed to its slot again (R187). -/
def reopenStale (n : Nat) (sl : Slot) (stale : Bool) (s : State) : State :=
  if stale then handCard n .caption sl (setDuty n (.card .caption sl) (Duty.into .pending) s) else s

/-- The file is complete (R148). -/
def completeFile (sl : Slot) (f : CardFile) (s : State) : State :=
  let key := DutyKey.card f.kind sl
  let stale := f.kind == .caption && (((s.held f.shot).bind (fun t => t.duty key)).map (·.stale)) == some true
  let s1 := modSlot sl (fun x => { x with file := none }) s
  let s2 := addRecord sl ⟨f.shot, f.kind, none, Config.sectorBytes + f.payload, f.sectors, f.fragments⟩ s1
  let s3 := dropPin f.shot (slotReader sl) (setDuty f.shot key (Duty.into .done) s2)
  let s4 := modSlot sl (fun x => { x with written := sat32 x.written }) s3
  slotSettle sl (shotTests f.shot (reopenStale f.shot sl stale s4))

/-- The card answers DONE to the write in flight (R146, R149). -/
def writeDone (sl : Slot) (f : CardFile) (w : CardWrite) (s : State) : State :=
  let f1 := { f with flight := none, written := f.written + w.count }
  let s1 := modSlot sl (fun x => { x with
    file := some f1, sectors := sat64 x.sectors w.count
    recovered := if w.retry then sat32 x.recovered else x.recovered }) s
  if f1.written = f1.sectors then completeFile sl f1 s1 else s1

/-! ## Faults -/

/-- The PENDING card duties of a slot, by the order of their shots' numbers and then the order of the duty list. R150 gives
no order in which they fail; this is the model's (DESIGN CHOICE, log entry 14). -/
def State.pendingOn (s : State) (sl : Slot) : List (Nat × DutyKey) :=
  (bySerial s.heldShots).flatMap (fun t =>
    (t.duties.filter (fun d => d.state == .pending && (match d.key with | .card _ x => x == sl | _ => false))).map
      (fun d => (t.number, d.key)))

/-- The slot faults (R150). -/
def faultSlot (sl : Slot) (s : State) : State :=
  let file := (s.slot sl).file
  let s1 := abandon sl .fault (modSlot sl (fun x => { x with state := .faulted, hold := .none }) s)
  let s2 := modSlot sl (fun x => { x with queue := [] }) s1
  let s3 := (s2.pendingOn sl).foldl (fun t p => failDuty p.1 p.2 t) s2
  raiseCard sl "FAULT" (fileWires file) s3

/-- The write in flight fails: its data are read again for one retry, or the slot faults (R149). -/
def writeFailed (sl : Slot) (f : CardFile) (w : CardWrite) (s : State) : State :=
  let f1 := { f with flight := none, again := some w, inHand := f.payloadIn (f.issued - w.count) }
  let s1 := modSlot sl (fun x => { x with errors := sat32 x.errors, file := some f1 }) s
  if w.retry then faultSlot sl s1 else s1

/-! ## The card-present line -/

/-- A card found in an ABSENT slot (R139). -/
def insertCard (sl : Slot) (s : State) : State :=
  let s1 := modSlot sl (fun x => { x with
    state := .ready, hold := .none, extents := [], final := false, lowArmed := true }) s
  let s2 := if sl = .a then { s1 with cw := { s1.cw with overflow := false } } else s1
  slotSettle sl (raiseCard sl "INSERTED" [] s2)

/-- The card removed (R139). -/
def removeCard (sl : Slot) (s : State) : State :=
  let file := (s.slot sl).file
  let s1 := abandon sl .removed (modSlot sl (fun x => { x with state := .absent, hold := .none }) s)
  raiseCard sl "REMOVED" (fileWires file) (modSlot sl (fun x => { x with extents := [], final := false }) s1)

/-- The slot follows its card-present line (R139). -/
def presentStep (sl : Slot) (s : State) : State :=
  if s.cardLine sl then (if (s.slot sl).state = .absent then insertCard sl s else s)
  else if (s.slot sl).state = .absent then s
  else removeCard sl s

/-! ## Extents -/

/-- Whether two runs share a sector. -/
def runsOverlap (x y : Run) : Bool := decide (x.start < y.start + y.count ∧ y.start < x.start + x.count)

/-- Whether a list of runs overlaps within itself. -/
def selfOverlap : List Run → Bool
  | [] => false
  | r :: l => l.any (fun x => runsOverlap r x) || selfOverlap l

/-- A STARVED slot that has received extents leaves STARVED (R151), unless its return list is full (R145, R155). -/
def resumeSlot (sl : Slot) (s : State) : State :=
  let c := s.slot sl
  if c.state ≠ .starved then slotSettle sl s
  else if c.file.isNone && decide (Config.cardRoom ≤ c.returns.length) then holdFull sl s
  else raiseCard sl "RESUMED" [] (modSlot sl (fun x => { x with state := .writing }) s)

/-! ## Closing and wake -/

/-- One slot at SLEEP (R159). -/
def closeSlot (sl : Slot) (s : State) : State :=
  let c := s.slot sl
  if c.short && (c.state == .starved || c.state == .ejecting) then slotSettle sl (abandon sl .sleep s) else slotSettle sl s

/-- The card writer at SLEEP (R159). -/
def cardSleep (s : State) : State := closeSlot .b (closeSlot .a { s with cw := { s.cw with closing := true } })

/-- The card writer has closed: no slot holds an active file (R159). -/
def State.cardClosed (s : State) : Bool := s.cw.closing && s.cw.a.file.isNone && s.cw.b.file.isNone

/-- A slot before its line is sampled at wake (R161). -/
def CardSlot.woken (held : Bool) (c : CardSlot) : CardSlot :=
  { c with
    state := .absent, hold := .none, extents := [], final := false, queue := [], file := none, lowArmed := true
    returns := if held then c.returns else [] }

/-- The card writer after a wake, each slot's line sampled (R161). -/
def cardWake (held : Bool) (s : State) : State :=
  presentStep .b (presentStep .a
    { s with cw := { a := s.cw.a.woken held, b := s.cw.b.woken held, overflow := false, closing := false } })

end Sys2Proof.Machine
end

