-- ==== Sys2Proof/Machine/Proofs.lean ====
section
/-! DEFINITION. The colour planes of a CFA order (R44) and the development engine's arithmetic on one proof pixel
(06_development_engine.md, R127 to R133). -/

namespace Sys2Proof.Machine

open Sys2Proof

/-- A colour plane (R44). -/
inductive Plane | r | gr | gb | b
  deriving DecidableEq, Repr

/-- The plane of quad position `(x mod 2, p)` (R44). -/
def planeAt : Cfa → Nat → Nat → Plane
  | .rggb, 0, 0 => .r | .rggb, 1, 0 => .gr | .rggb, 0, _ => .gb | .rggb, _, _ => .b
  | .grbg, 0, 0 => .gr | .grbg, 1, 0 => .r | .grbg, 0, _ => .b | .grbg, _, _ => .gb
  | .gbrg, 0, 0 => .gb | .gbrg, 1, 0 => .b | .gbrg, 0, _ => .r | .gbrg, _, _ => .gr
  | .bggr, 0, 0 => .b | .bggr, 1, 0 => .gb | .bggr, 0, _ => .gr | .bggr, _, _ => .r

/-- Sums over the quads of a proof pixel: R, both greens together, B (R128). -/
structure Bins where
  r : Nat := 0
  g : Nat := 0
  b : Nat := 0
  deriving DecidableEq, Repr

/-- A normalized value added to its channel's sum (R128). -/
def Bins.add (p : Plane) (v : Nat) (s : Bins) : Bins :=
  match p with
  | .r => { s with r := s.r + v }
  | .gr | .gb => { s with g := s.g + v }
  | .b => { s with b := s.b + v }

/-- The sums over the `2s × 2s` raw pixels of proof pixel `px`, from the streams of the row's `2s` raw lines in order
(R127, R128). -/
def binSums (cfa : Cfa) (depth s px : Nat) (lines : List Nat) : Bins :=
  (List.range (2 * s)).foldl (fun acc j =>
    (List.range (2 * s)).foldl (fun acc i =>
      acc.add (planeAt cfa (i % 2) (j % 2)) (pixelOf (lines.getD j 0) depth (2 * s * px + i) * 2 ^ (16 - depth))) acc) {}

/-- Three values, one per output channel. -/
structure Rgb where
  r : Nat
  g : Nat
  b : Nat
  deriving DecidableEq, Repr

/-- The binned means, rounded half up (R128). -/
def binMeans (s : Nat) (x : Bins) : Rgb where
  r := (x.r + s * s / 2) / (s * s)
  g := (x.g + s * s) / (2 * (s * s))
  b := (x.b + s * s / 2) / (s * s)

/-- A value clamped to `0…65,535`. -/
def clamp16 (v : Int) : Nat := (clampInt 0 65535 v).toNat

/-- The black of each channel (R129). -/
def channelBlacks (r : Recipe) (k : Planes) : Rgb where
  r := clamp16 (k.r + r.trimR)
  g := clamp16 (((k.gr : Int) + r.trimGr + k.gb + r.trimGb + 1) / 2)
  b := clamp16 (k.b + r.trimB)

/-- The span of a channel before R130 raises it. -/
def rawSpan (white b : Nat) : Int := (white : Int) - b

/-- The span used: at least 256 (R130). -/
def spanOf (white b : Nat) : Nat := if rawSpan white b < 256 then 256 else white - b

/-- The channels whose span R130 raises. -/
def highMask (r : Recipe) (k : Planes) : HighMask :=
  let x := channelBlacks r k
  { r := decide (rawSpan r.white x.r < 256), g := decide (rawSpan r.white x.g < 256), b := decide (rawSpan r.white x.b < 256) }

/-- Black subtraction and scaling to white (R129, R130). -/
def scaled (white m b : Nat) : Nat := min 65535 ((m - b) * 65535 / spanOf white b)

/-- The combined gain of a channel (R131). -/
def combinedGain (g e : Nat) : Nat := max 1 (min 65535 ((g * e + 2048) / 4096))

/-- The gained value (R131). -/
def gained (l g : Nat) : Nat := min 65535 ((l * g + 2048) / 4096)

/-- One output channel of the matrix (R132). `/` on integers floors for a divisor above 0. -/
def mixed (m0 m1 m2 : Int) (y : Rgb) : Nat := clamp16 ((m0 * y.r + m1 * y.g + m2 * y.b + 2048) / 4096)

/-- The tone curve (R133). -/
def toned (t : List Nat) (o : Nat) : Nat :=
  let i := o / 256
  let f := o % 256
  (t.getD i 0 * (256 - f) + t.getD (i + 1) 0 * f + 128) / 256

/-- A proof pixel from its binned means (R129 to R133). -/
def proofPixel (rc : Recipe) (k : Planes) (m : Rgb) : Rgb :=
  let b := channelBlacks rc k
  let y : Rgb :=
    { r := gained (scaled rc.white m.r b.r) (combinedGain rc.gainR rc.gainE)
      g := gained (scaled rc.white m.g b.g) (combinedGain rc.gainG rc.gainE)
      b := gained (scaled rc.white m.b b.b) (combinedGain rc.gainB rc.gainE) }
  let e := fun i => rc.matrix.getD i 0
  { r := toned rc.tone (mixed (e 0) (e 1) (e 2) y)
    g := toned rc.tone (mixed (e 3) (e 4) (e 5) y)
    b := toned rc.tone (mixed (e 6) (e 7) (e 8) y) }

/-- The bytes of a proof row of `width` pixels, R then G then B, from the streams of its `2s` raw lines (R126, R127). -/
def proofRow (cfa : Cfa) (depth width : Nat) (rc : Recipe) (k : Planes) (lines : List Nat) : List Byte :=
  (List.range width).flatMap (fun px =>
    let p := proofPixel rc k (binMeans rc.scale (binSums cfa depth rc.scale px lines))
    [BitVec.ofNat 8 p.r, BitVec.ofNat 8 p.g, BitVec.ofNat 8 p.b])

end Sys2Proof.Machine
end

