-- ==== Sys2Proof/Machine/DevelopOps.lean ====
section
/-! DEFINITION. The development engine's operations (06_development_engine.md): the develop queue, the job and its
allocation, its reads and rows, its completion, and the delete and sleep that end it. -/

namespace Sys2Proof.Machine

open Sys2Proof

/-! ## The develop queue -/

/-- The order of the develop queue: URGENT ahead of NORMAL, then by the order of assignment (R121). -/
def DevEntry.before (x y : DevEntry) : Bool :=
  (x.urgent && !y.urgent) || (x.urgent == y.urgent && decide (x.serial ≤ y.serial))

/-- The queue put in its order. -/
def sortDevelop (l : List DevEntry) : List DevEntry := l.insertionSort (fun x y => x.before y)

/-- The entry of a shot whose DEVELOP is PENDING joins the queue in a class, unless the engine is HALTED (R121, R135). -/
def joinDevelop (n serial : Nat) (urgent : Bool) (s : State) : State :=
  if s.de.phase = .halted ∨ s.dutyOf n .develop ≠ some .pending then s
  else
    let rest := s.de.queue.filter (fun e => e.shot != n)
    { s with de := { s.de with queue := sortDevelop (rest ++ [⟨n, serial, urgent⟩]) } }

/-- A shot's entry, if it has one, moves to the URGENT class (R121). -/
def hastenDevelop (n : Nat) (s : State) : State :=
  { s with de := { s.de with
    queue := sortDevelop (s.de.queue.map (fun e => if e.shot = n then { e with urgent := true } else e)) } }

/-! ## The job -/

/-- Whether the waiting reservation request may be granted (R6). -/
def State.mayReserve (s : State) : Bool :=
  match s.ss.request with
  | some r =>
    s.ss.table.any (fun t => t.state == .free) && !s.ss.table.any (fun t => t.state == .reserved)
      && decide (blocksFor (rawBytes r.geom) ≤ s.freeCount)
  | none => false

/-- Whether the store grants the engine's allocation now (R8, R6). -/
def State.mayGrantJob (s : State) (j : Job) : Bool := mayAllocate j.blocks s && !s.mayReserve

/-- The raw bytes that a job reads (R125). -/
def Job.toRead (j : Job) : Nat := 2 * j.recipe.scale * j.height * lineBytes j.geom

/-- The job of a shot (R120, R123). -/
def newJob (t : Shot) (s : State) : Job :=
  let rc := s.de.recipes.getD t.recipe defaultRecipe
  let w := t.geom.width / (2 * rc.scale)
  let h := t.geom.height / (2 * rc.scale)
  { shot := t.number, recipeNo := t.recipe, recipe := rc, geom := t.geom, black := t.black, width := w, height := h
    bytes := w * h * 3, blocks := blocksFor (w * h * 3), stalledAt := s.time, bytesRead := 0, rows := 0 }

/-- The allocation granted: the shot takes its proof extent and the engine is DEVELOPING (R124). -/
def grantJob (j : Job) (s : State) : State :=
  let r := takeBlocks j.blocks s
  let s1 := modHeld j.shot (fun t => { t with proof := some ⟨r.1, j.bytes, j.width, j.height⟩ }) r.2
  { s1 with de := { s1.de with phase := .developing } }

/-- A job starts on the head entry (R123). -/
def startJob (s : State) : State :=
  match s.de.queue with
  | [] => s
  | e :: rest =>
    let s0 := { s with de := { s.de with queue := rest } }
    match s0.held e.shot with
    | none => s0
    | some t =>
      let j := newJob t s0
      let s1 := setDuty e.shot .develop (Duty.into .active) s0
      let s2 := { s1 with de := { s1.de with job := some j } }
      if s2.mayGrantJob j then grantJob j s2
      else { s2 with de := { s2.de with phase := .stalled, stalls := sat32 s2.de.stalls } }

/-- The streams of the raw lines of proof row `py` (R126). -/
def rowStreams (m : List Host.Cell) (raw : List Nat) (j : Job) (py : Nat) : List Nat :=
  (List.range (2 * j.recipe.scale)).map (fun i =>
    leNat (readRange m raw ((2 * j.recipe.scale * py + i) * lineBytes j.geom) (lineBytes j.geom)))

/-- The rows whose raw lines are all read (R126). -/
def Job.rowsReady (j : Job) : Nat := min j.height (j.bytesRead / (2 * j.recipe.scale * lineBytes j.geom))

/-- Proof row `py` computed and written into the proof extent (R126). -/
def writeRow (raw proof : List Nat) (j : Job) (py : Nat) (m : List Host.Cell) : List Host.Cell :=
  writeExtent proof (proofRow j.geom.cfa j.geom.depth j.width j.recipe j.black (rowStreams m raw j py)) (py * j.width * 3) m

/-- The rows that the engine writes while its job reads: those whose raw lines are all read, but for the last of the
proof, which DEVELOP_COMPLETE writes, since the last proof byte, the develop status and DONE are one moment (R126, R134). -/
def Job.rowsDuring (j : Job) : Nat := min (j.height - 1) j.rowsReady

/-- The rows from `j.rows` up to but not including `n`, written in order (R126). -/
def writeRows (raw proof : List Nat) (j : Job) (n : Nat) (m : List Host.Cell) : List Host.Cell :=
  ((List.range n).drop j.rows).foldl (fun m py => writeRow raw proof j py m) m

/-- The raw extent and the proof extent of the job's shot. -/
def State.jobExtents (s : State) (j : Job) : List Nat × List Nat :=
  (((s.held j.shot).map (·.raw)).getD [], (((s.held j.shot).bind (·.proof)).map (·.blocks)).getD [])

/-- Whether the engine has a read request waiting (R125). -/
def State.developWants (s : State) : Bool :=
  match s.de.job with
  | some j => s.de.phase == .developing && decide (j.bytesRead < j.toRead)
  | none => false

/-- One read granted to the engine: at most 4,096 bytes, the pin added at the first and dropped after the last, and the
rows that it completes computed and written, but for the proof's last (R125, R126). -/
def developRead (s : State) : State :=
  match s.de.job with
  | none => s
  | some j =>
    let n := min Config.readBytes (j.toRead - j.bytesRead)
    let j1 := { j with bytesRead := j.bytesRead + n }
    let e := s.jobExtents j
    let s1 := addPin j.shot .d .raw
      { s with
        mem := writeRows e.1 e.2 j1 j1.rowsDuring s.mem, de := { s.de with job := some { j1 with rows := j1.rowsDuring } } }
    if j.toRead ≤ j1.bytesRead then shotTests j.shot (dropPin j.shot .d s1) else s1

/-- The last proof bytes are written, and at the same moment the job completes (R126, R134): the develop status, DONE and
the counts, with the offers of R12 and the tests of R17 and R18. -/
def completeJob (j : Job) (s : State) : State :=
  let high := highMask j.recipe j.black
  let e := s.jobExtents j
  let s0 := { s with mem := writeRows e.1 e.2 j j.height s.mem }
  let s1 := setDuty j.shot .develop (Duty.into .done) (modHeld j.shot (fun t => { t with develop := some high }) s0)
  let s2 := { s1 with de := { s1.de with
    phase := .idle, job := none, completed := sat32 s1.de.completed
    highs := if high.any then sat32 s1.de.highs else s1.de.highs } }
  shotTests j.shot (handCard j.shot .proof .b (handCard j.shot .proof .a s2))

/-- What the job holds is given back: its pin and its proof extent (R134, R135). -/
def clearJob (j : Job) (s : State) : State :=
  let s1 := if s.de.phase = .developing then dropProof j.shot (dropPin j.shot .d s) else s
  { s1 with de := { s1.de with job := none } }

/-- A delete of the job's shot (R134). The freeing test is the caller's. -/
def abortJob (n : Nat) (s : State) : State :=
  match s.de.job with
  | some j =>
    if j.shot = n then
      let s1 := setDuty n .develop (Duty.into .cancelled) (clearJob j s)
      { s1 with de := { s1.de with phase := .idle, aborts := sat32 s1.de.aborts } }
    else s
  | none => s

/-- The engine at SLEEP (R135). -/
def developSleep (s : State) : State :=
  let s1 :=
    match s.de.job with
    | some j =>
      let t := setDuty j.shot .develop (Duty.into .pending) (clearJob j s)
      { t with de := { t.de with abandons := sat32 t.de.abandons } }
    | none => s
  { s1 with de := { s1.de with phase := .halted, queue := [] } }

/-- The engine after a wake, its queue not yet rebuilt (R137). -/
def developWake (s : State) : State := { s with de := { s.de with phase := .idle, job := none, queue := [] } }

/-- The raw bytes are all read: the last proof row may be written and the job complete (R126). -/
def State.jobDone (s : State) : Bool :=
  match s.de.job with
  | some j => s.de.phase == .developing && decide (j.toRead ≤ j.bytesRead)
  | none => false

end Sys2Proof.Machine
end

