-- ==== Sys2Proof/Machine/TetherOps.lean ====
section
/-! DEFINITION. The tether port's operations (08_tether_port.md): the transfer queue and its deferred duties, one
transfer from OFFER to its end, its interruptions, and the answers to the peer's requests. -/

namespace Sys2Proof.Machine

open Sys2Proof

/-! ## Frames and notices -/

/-- A frame sent to the peer. -/
def sendFrame (f : TetherFrame) (s : State) : State := { s with tp := { s.tp with out := s.tp.out ++ [f] } }

/-- TETHER_STATE raised (R163). -/
def raiseTether (reason : String) (s : State) : State :=
  raise .tetherState (.num 0) [.word s.tp.phase.name, .word reason, .u16 s.tp.queue.length] s

/-- The current transfer replaced. -/
def setTransfer (t : Option Transfer) (s : State) : State := { s with tp := { s.tp with transfer := t } }

/-! ## The transfer queue -/

/-- The order of the queue: URGENT ahead of NORMAL, then the entry order (R165). -/
def Entry.before (x y : Entry) : Bool :=
  (x.urgent && !y.urgent) || (x.urgent == y.urgent && decide (x.order ≤ y.order))

/-- The queue put in its order. -/
def sortTether (l : List Entry) : List Entry := l.insertionSort (fun x y => x.before y)

/-- Whether the port queues no duty: from the acceptance of SLEEP to wake (R183). -/
def State.tetherClosed (s : State) : Bool := s.cp.power != .active

/-- The order of an entry that joins its class at the head: ahead of every entry then in the class (R165), the lowest order
of the class less 1, and in an empty class the next order at a tail. R165 says no more of it, and it decides the entry's place
if the entry later becomes URGENT (DESIGN CHOICE, log entry 13). -/
def headOrder (urgent : Bool) (t : Tether) : Int :=
  match (t.queue.filter (fun e => e.urgent == urgent)).map (·.order) with
  | [] => t.nextOrder
  | o :: l => l.foldl min o - 1

/-- A send duty's record in the shot. -/
def State.sendDuty (s : State) (n : Nat) (k : FileKind) : Option Duty := (s.held n).bind (fun t => t.duty (.send k))

/-- A PENDING send duty joins its class at the tail or at the head, or is deferred (R164 to R166). The entry of a suspended
transfer (R175), or of one aborted with REPLACED (R194), that meets a full queue is deferred too, and joins at the tail later
(DESIGN CHOICE, log entry 15). -/
def joinTether (atHead : Bool) (n : Nat) (k : FileKind) (s : State) : State :=
  if s.tetherClosed ∨ s.dutyOf n (.send k) ≠ some .pending then s
  else if s.tp.queue.any (fun e => e.shot == n && e.kind == k) then s
  else if Config.transferRoom ≤ s.tp.queue.length then
    let s1 := setDuty n (.send k) (fun d => { d with deferred := true }) s
    { s1 with tp := { s1.tp with deferred := s1.tp.deferred + 1 } }
  else
    let urgent := ((s.sendDuty n k).map (·.urgent)).getD false
    let o := if atHead then headOrder urgent s.tp else s.tp.nextOrder
    { s with tp := { s.tp with
      queue := sortTether (s.tp.queue ++ [⟨n, k, urgent, o⟩]), nextOrder := s.tp.nextOrder + 1 } }

/-- The send kinds in the order in which R164 and R185 take them. -/
def sendKinds : List FileKind := [.raw, .proof, .memo, .caption]

/-- The PENDING send duties of a shot that meet `p`, in the order of the kinds. -/
def Shot.pendingSends (p : Duty → Bool) (t : Shot) : List (Nat × FileKind) :=
  sendKinds.filterMap (fun k =>
    match t.duty (.send k) with
    | some d => if d.state == .pending && p d then some (t.number, k) else none
    | none => none)

/-- The PENDING send duties of HELD shots that meet `p`: URGENT first, then by assignment order, then by kind. -/
def State.sendsInOrder (s : State) (p : Duty → Bool) : List (Nat × FileKind) :=
  let shots := bySerial s.heldShots
  shots.flatMap (Shot.pendingSends (fun d => p d && d.urgent)) ++ shots.flatMap (Shot.pendingSends (fun d => p d && !d.urgent))

/-- A deferred duty queued (R164). -/
def queueDeferred (s : State) (p : Nat × FileKind) : State :=
  let s1 := setDuty p.1 (.send p.2) (fun d => { d with deferred := false }) s
  joinTether false p.1 p.2 { s1 with tp := { s1.tp with deferred := s1.tp.deferred - 1 } }

/-- Deferred duties queued as entries have left the queue (R164). -/
def refill (s : State) : State :=
  ((s.sendsInOrder (·.deferred)).take (Config.transferRoom - s.tp.queue.length)).foldl queueDeferred s

/-- The port without a shot's entries and with `deferred` duties fewer deferred (R166). -/
def Tether.without (n deferred : Nat) (p : Tether) : Tether :=
  { p with queue := p.queue.filter (fun e => e.shot != n), deferred := p.deferred - deferred }

/-- A shot's entries, duties and transfer become URGENT (R164, R180). -/
def hastenSends (p : FileKind → Bool) (n : Nat) (s : State) : State :=
  let isSend := fun (k : DutyKey) => match k with | .send x => p x | _ => false
  let s1 := modHeld n (fun t => { t with duties := t.duties.map (fun d => if isSend d.key then { d with urgent := true } else d) }) s
  { s1 with tp := { s1.tp with
    queue := sortTether (s1.tp.queue.map (fun e => if e.shot = n ∧ p e.kind then { e with urgent := true } else e))
    transfer := s1.tp.transfer.map (fun t => if t.shot = n ∧ p t.kind then { t with urgent := true } else t) } }

/-- Whether an entry is eligible (R165). -/
def State.eligible (s : State) (e : Entry) : Bool :=
  match e.kind with
  | .proof => s.dutyOf e.shot .develop == some .done
  | .memo => !s.recordsInto e.shot
  | _ => true

/-- The queue's head: the first eligible entry (R165). -/
def State.sendHead (s : State) : Option Entry := s.tp.queue.find? s.eligible

/-! ## A transfer's start -/

/-- The moment at which the ack timer, started now, expires (R173). -/
def State.ackDue (s : State) : Nat := s.time + s.cfg.tether.ackMs * 1000

/-- OFFER sent for a transfer, first or repeated (R167). -/
def sendOffer (t : Transfer) (s : State) : State :=
  let sh := (s.held t.shot).getD {}
  let s1 := sendFrame
    (.offer t.id t.shot sh.burst sh.frame t.kind t.urgent t.total t.resume (sh.caption.getD [])) s
  { s1 with tp := { s1.tp with offers := sat32 s1.tp.offers } }

/-- Whether the IDLE port may start a transfer (R167). -/
def State.mayOffer (s : State) : Bool := s.tp.phase == .idle && s.sendHead.isSome

/-- A transfer starts on the queue's head (R167). A SEND_MEMO of a shot that has no memo, as a PULL adds one during a recording
that then ends empty, is offered with a total of 0 (DESIGN CHOICE, log entry 15). -/
def startTransfer (s : State) : State :=
  match s.sendHead with
  | none => s
  | some e =>
    let d := s.sendDuty e.shot e.kind
    let id := (s.tp.ids + 1) % 65536
    let t : Transfer :=
      { shot := e.shot, kind := e.kind, urgent := e.urgent, id := id
        total := ((s.held e.shot).map (fun x => x.payload e.kind)).getD 0
        resume := (d.map (·.resume)).getD 0, expires := s.ackDue }
    let s1 := setDuty e.shot (.send e.kind) (Duty.into .active) s
    let s2 := { s1 with tp := { s1.tp with
      phase := .offering, ids := id, transfer := some t
      queue := s1.tp.queue.filter (fun x => !(x.shot == e.shot && x.kind == e.kind)) } }
    refill (sendOffer t s2)

/-! ## A transfer's end -/

/-- The transfer is no longer current and the port is IDLE. Its pin drops. A caption update still pending ends with it, and
adds no SEND_CAPTION (R177, R188; DESIGN CHOICE, log entry 15). -/
def endTransfer (t : Transfer) (s : State) : State :=
  let s1 := dropPin t.shot .t s
  { s1 with tp := { s1.tp with phase := .idle, transfer := none } }

/-- The transfer completes (R172). -/
def deliver (t : Transfer) (s : State) : State :=
  let s1 := setDuty t.shot (.send t.kind) (fun d => { d.into .done with outcome := some .delivered }) s
  let s2 := endTransfer t s1
  shotTests t.shot { s2 with tp := { s2.tp with delivered := sat32 s2.tp.delivered } }

/-- The peer declines (R168). -/
def declineTransfer (t : Transfer) (s : State) : State :=
  let s1 := setDuty t.shot (.send t.kind) (fun d => { d.into .done with outcome := some .declined }) s
  let s2 := endTransfer t s1
  shotTests t.shot { s2 with tp := { s2.tp with declined := sat32 s2.tp.declined } }

/-- The transfer fails (R174). -/
def failTransfer (t : Transfer) (s : State) : State :=
  let was := s.tp.phase
  let s1 := endTransfer t (sendFrame (.abort t.id .failed) s)
  let s2 := { s1 with tp := { s1.tp with failed := sat32 s1.tp.failed } }
  let s3 := raise .transferFailed (.num t.shot) [.word t.kind.name, .u16 t.id, .u32 t.acked, .u32 t.total, .word was.name] s2
  shotTests t.shot (failDuty t.shot (.send t.kind) s3)

/-- A transfer aborted (R176, R194): ABORT is sent, the pin drops, the port is IDLE. -/
def abortTransfer (t : Transfer) (r : AbortReason) (s : State) : State :=
  let s1 := endTransfer t (sendFrame (.abort t.id r) s)
  { s1 with tp := { s1.tp with aborted := sat32 s1.tp.aborted } }

/-- SHOT_DELETE's abort of the current transfer (R176). The freeing test is the caller's. -/
def deleteTransfer (n : Nat) (s : State) : State :=
  match s.tp.transfer with
  | some t => if t.shot = n then setDuty n (.send t.kind) (Duty.into .cancelled) (abortTransfer t .deleted s) else s
  | none => s

/-- A new memo's abort of a current SEND_MEMO transfer (R194): the entry goes back to the head of its class. -/
def replaceTransfer (n : Nat) (s : State) : State :=
  match s.tp.transfer with
  | some t =>
    if t.shot = n ∧ t.kind = .memo then
      joinTether true n .memo
        (setDuty n (.send .memo) (fun d => { d.into .pending with resume := 0 }) (abortTransfer t .replaced s))
    else s
  | none => s

/-- A current transfer suspended (R175): the resume offset kept, the duty PENDING, the pin dropped. -/
def suspendTransfer (t : Transfer) (s : State) : State :=
  let keep := s.tp.phase == .sending
  let s1 := setDuty t.shot (.send t.kind)
    (fun d => { d.into .pending with resume := if keep then t.acked else d.resume }) s
  shotTests t.shot (endTransfer t s1)

/-! ## The link-up line -/

/-- The port enters DOWN (R163). -/
def tetherDown (reason : String) (s : State) : State :=
  raiseTether reason { s with tp := { s.tp with phase := .down, credits := 0 } }

/-- The link goes down (R163, R175). -/
def tetherLost (s : State) : State :=
  if s.tp.phase = .down then s
  else
    match s.tp.transfer with
    | some t => tetherDown "LINK_DOWN" (joinTether true t.shot t.kind (suspendTransfer t s))
    | none => tetherDown "LINK_DOWN" s

/-- The port follows its link-up line, outside the span from SLEEP to wake (R163). -/
def linkUpStep (s : State) : State :=
  if s.lines.linkUp then
    (if s.tp.phase = .down then raiseTether "LINK_UP" { s with tp := { s.tp with phase := .idle, credits := 0 } } else s)
  else tetherLost s

/-- The port at SLEEP (R183). -/
def tetherSleep (s : State) : State :=
  let s1 := match s.tp.transfer with | some t => suspendTransfer t s | none => s
  let s2 := { s1 with
    tp := { s1.tp with queue := [], deferred := 0, credits := 0 }
    ss := { s1.ss with table := s1.ss.table.map (fun t => { t with duties := t.duties.map (fun d => { d with deferred := false }) }) } }
  if s.tp.phase = .down then s2 else tetherDown "SLEEP" s2

/-- The port before its line is sampled at wake (R185). -/
def tetherWake (s : State) : State :=
  { s with tp := { s.tp with phase := .down, queue := [], deferred := 0, credits := 0, transfer := none } }

/-! ## Answers of the peer -/

/-- A frame that is not for the current transfer, or not valid for it (R162). -/
def staleFrame (s : State) : State := { s with tp := { s.tp with staleFrames := sat32 s.tp.staleFrames } }

/-- A bad frame (R162, R170). -/
def badPeerFrame (s : State) : State := { s with tp := { s.tp with badFrames := sat32 s.tp.badFrames } }

/-- The current transfer, if a frame's id names it (R162). -/
def State.transferOf (s : State) (id : Nat) : Option Transfer :=
  s.tp.transfer.filter (fun t => t.id == id && (s.tp.phase == .offering || s.tp.phase == .sending))

/-- Whether an offset is one that ACCEPT and ACK may carry (R168, R171). -/
def Transfer.lawful (t : Transfer) (offset : Nat) : Bool := offset % Config.segBytes == 0 || offset == t.total

/-- ACCEPT taken in OFFERING (R168). -/
def acceptTransfer (t : Transfer) (start : Nat) (s : State) : State :=
  let t1 := { t with acked := start, sent := start, timeouts := 0, readTo := start }
  if start = t.total then deliver t1 (setTransfer (some t1) s)
  else { s with tp := { s.tp with phase := .sending, transfer := some { t1 with expires := s.ackDue } } }

/-- A valid ACK that advances the acked offset (R171, R172). -/
def ackTransfer (t : Transfer) (offset : Nat) (s : State) : State :=
  let t1 := { t with acked := offset, timeouts := 0, expires := s.ackDue }
  let s1 := { s with tp := { s.tp with
    transfer := some t1, bytesAcked := sat64 s.tp.bytesAcked (offset - t.acked) } }
  if offset = t.total then deliver t1 s1 else s1

/-! ## Segments -/

/-- The segment at the sent offset: 16,384 bytes or the shorter remainder (R167). -/
def Transfer.segment (t : Transfer) : Nat := min Config.segBytes (t.total - t.sent)

/-- Segments between the acked and the sent offset (R169). -/
def Transfer.inFlight (t : Transfer) : Nat := ceilDiv (t.sent - t.acked) Config.segBytes

/-- Whether a segment may be sent (R169). -/
def State.maySend (s : State) : Bool :=
  match s.tp.transfer with
  | some t =>
    s.tp.phase == .sending && decide (t.sent < t.total) && decide (1 ≤ s.tp.credits)
      && decide (t.inFlight < Config.maxInFlight) && decide (t.sent + t.segment ≤ t.readTo) && !t.captionDue
  | none => false

/-- One segment sent (R169). -/
def sendSegment (t : Transfer) (s : State) : State :=
  let blocks := ((s.held t.shot).map (fun x => x.extent t.kind)).getD []
  let s1 := sendFrame (.seg t.id t.sent (readRange s.mem blocks t.sent t.segment)) s
  { s1 with tp := { s1.tp with
    credits := s1.tp.credits - 1, segments := sat32 s1.tp.segments
    transfer := some { t with sent := t.sent + t.segment } } }

/-- How far the port may read ahead (R169). -/
def Transfer.readLimit (t : Transfer) : Nat := min t.total (t.sent + Config.segBytes)

/-- Whether the port has a read request waiting (R169). -/
def State.tetherWants (s : State) : Bool :=
  match s.tp.transfer with
  | some t => s.tp.phase == .sending && decide (t.readTo < t.readLimit)
  | none => false

/-- One read granted to the port (R169). -/
def tetherRead (s : State) : State :=
  match s.tp.transfer with
  | none => s
  | some t =>
    addPin t.shot .t t.kind
      (setTransfer (some { t with readTo := t.readTo + min Config.readBytes (t.readLimit - t.readTo) }) s)

/-! ## The ack timer -/

/-- The ack timer expires (R173). -/
def ackExpired (t : Transfer) (s : State) : State :=
  let t1 := { t with timeouts := t.timeouts + 1, expires := s.ackDue }
  if Config.maxTimeouts ≤ t1.timeouts then failTransfer t1 s
  else if s.tp.phase = .offering then sendOffer t1 (setTransfer (some t1) s)
  else
    { s with tp := { s.tp with
      goBacks := sat32 s.tp.goBacks, transfer := some { t1 with sent := t.acked, readTo := t.acked } } }

/-! ## Captions -/

/-- The caption of the current transfer's shot was replaced (R177). -/
def captionChanged (n : Nat) (s : State) : State :=
  match s.tp.transfer with
  | some t =>
    if t.shot ≠ n then s
    else if s.tp.phase = .offering then sendFrame (.captionUpdate t.id (((s.held n).bind (·.caption)).getD [])) s
    else if s.tp.phase = .sending then setTransfer (some { t with captionDue := true }) s
    else s
  | none => s

/-- A pending caption update sent (R177). -/
def sendCaption (t : Transfer) (s : State) : State :=
  sendFrame (.captionUpdate t.id (((s.held t.shot).bind (·.caption)).getD [])) (setTransfer (some { t with captionDue := false }) s)

/-! ## Peer requests -/

/-- REFUSED sent (R178). -/
def refusePeer (r : PeerRequest) (shot : Nat) (why : RefuseReason) (s : State) : State :=
  let s1 := sendFrame (.refused r shot why) s
  { s1 with tp := { s1.tp with refused := sat32 s1.tp.refused } }

/-- NOT_AVAILABLE sent (R178). -/
def notAvailable (r : PeerRequest) (shot : Nat) (k : Option FileKind) (why : MissingReason) (s : State) : State :=
  let s1 := sendFrame (.notAvailable r shot k why) s
  { s1 with tp := { s1.tp with refused := sat32 s1.tp.refused } }

/-- PEER_COMMAND raised (R178). -/
def raisePeer (r : PeerRequest) (shot : Nat) (k : Option FileKind) (count burst : Option Nat) (s : State) : State :=
  raise .peerCommand (.num shot)
    ([.word r.name, .u32 shot] ++ opt k (fun x => [.word x.name]) ++ opt count (fun x => [.u8 x]) ++ opt burst (fun x => [.u32 x])) s

end Sys2Proof.Machine
end

