-- ==== Sys2Proof/Machine/Duties.lean ====
section
/-! DEFINITION. Duties built, added, set back and handed to their consumers (R10 to R14), and the duties that a late caption
or a PULL calls for (R181, R187, R188). -/

namespace Sys2Proof.Machine

open Sys2Proof

/-- Whether a shot's proof is ready for its consumers (R12): DEVELOP is DONE and the proof extent is present. -/
def Shot.proofReady (t : Shot) : Bool := t.dutyState .develop == some .done && t.proof.isSome

/-- A PENDING duty handed to its consumer. A card PROOF duty whose proof is not ready is held back (R10, R12); a
SEND_PROOF entry joins its queue and waits there (R165). -/
def handDuty (n : Nat) (k : DutyKey) (s : State) : State :=
  match s.held n with
  | none => s
  | some t =>
    match k with
    | .card .proof sl => if t.proofReady then handCard n .proof sl s else s
    | .card f sl => handCard n f sl s
    | .send f => joinTether false n f s
    | .develop => joinDevelop n t.serial (((t.duty .develop).map (·.urgent)).getD t.urgent) s

/-- A duty added PENDING at the end of a shot's duty list. -/
def appendDuty (n : Nat) (k : DutyKey) (urgent : Bool) (s : State) : State :=
  modHeld n (fun t => { t with duties := t.duties ++ [{ key := k, urgent := urgent }] }) s

/-- A duty set to PENDING with resume offset 0. -/
def resetDuty (n : Nat) (k : DutyKey) (urgent : Bool) (s : State) : State :=
  setDuty n k (fun d => { d.into .pending with resume := 0, outcome := none, urgent := d.urgent || urgent }) s

/-- A duty added if absent, or set back to PENDING from one of the states that `back` names, and then handed. In any
other state it is left as it is. -/
def putDuty (back : DutyState → Bool) (n : Nat) (k : DutyKey) (urgent : Bool) (s : State) : State :=
  match (s.held n).map (fun t => t.dutyState k) with
  | some none => handDuty n k (appendDuty n k urgent s)
  | some (some st) => if back st then handDuty n k (resetDuty n k urgent s) else s
  | none => s

/-- Only a FAILED duty is set back (R14). -/
def DutyState.isFailed (d : DutyState) : Bool := d == .failed

/-- A DONE or a FAILED duty is set back (R14, R187, R188, R194). -/
def DutyState.isEnded (d : DutyState) : Bool := d == .done || d == .failed

/-- A proof duty that is PENDING with the proof extent absent calls for DEVELOP: re-opened if it is DONE, added if it is
absent, its entry of the URGENT class (R14, R121, R181). -/
def needProof (n : Nat) (s : State) : State :=
  match s.held n with
  | none => s
  | some t =>
    if t.duties.any (fun d => d.key.needsProof && d.state == .pending) && t.proof.isNone then
      match t.dutyState .develop with
      | none => handDuty n .develop (appendDuty n .develop true s)
      | some .done => handDuty n .develop (resetDuty n .develop true s)
      | _ => s
    else s

/-! ## The duties that the plans give -/

/-- The card duties of the applied card plan, `switched` telling that the overflow switch is set (R10). -/
def PlansCfg.cardDuties (p : PlansCfg) (switched : Bool) : List DutyKey :=
  let both := fun (sl : Slot) => DutyKey.card .raw sl :: (if p.proofFiles then [DutyKey.card .proof sl] else [])
  match p.card with
  | .off => []
  | .singleA => both .a
  | .mirror =>
    [.card .raw .a, .card .raw .b] ++ (if p.proofFiles then [.card .proof .a, .card .proof .b] else [])
  | .overflow => both (if switched then .b else .a)
  | .split => [.card .raw .a, .card .proof .b]

/-- The send duties of the applied tether plan (R10). -/
def PlansCfg.sendDuties (p : PlansCfg) (urgent : Bool) : List DutyKey :=
  match p.tether, urgent with
  | .none, _ => []
  | .urgentProof, true => [.send .proof]
  | .urgentProof, false => []
  | .allProof, _ => [.send .proof]
  | .urgentRaw, true => [.send .raw]
  | .urgentRaw, false => []
  | .urgentBoth, true => [.send .raw, .send .proof]
  | .urgentBoth, false => []

/-- Whether the develop plan gives DEVELOP to a shot with these card and send duties (R10). -/
def PlansCfg.develops (p : PlansCfg) (urgent : Bool) (l : List DutyKey) : Bool :=
  l.any DutyKey.needsProof
    || (match p.develop with | .never => false | .urgentOnly => urgent | .all => true)

/-- The duty list that a landing builds, in order (R10). A send or DEVELOP duty is of class URGENT if the shot is. -/
def PlansCfg.duties (p : PlansCfg) (switched urgent : Bool) : List DutyKey :=
  let l := p.cardDuties switched ++ p.sendDuties urgent
  l ++ (if p.develops urgent l then [.develop] else [])

/-! ## Marks -/

/-- SHOT_MARK's steps on a usable shot (R14, R121, R180). -/
def markShot (n : Nat) (s : State) : State :=
  let s1 := modHeld n (fun t => { t with urgent := true }) s
  let sends := s.cfg.plans.sendDuties true
  let s2 := sends.foldl (fun t k => putDuty DutyState.isFailed n k true t) s1
  let s3 := if s.cfg.plans.develops true sends then putDuty DutyState.isFailed n .develop true s2 else s2
  hastenDevelop n (hastenSends (fun _ => true) n (needProof n s3))

/-! ## Late captions -/

/-- Whether a slot holds a file of the shot: a RAW, PROOF or MEMO duty on it is ACTIVE or DONE (R187). -/
def Shot.filedOn (t : Shot) (sl : Slot) : Bool :=
  [FileKind.raw, .proof, .memo].any (fun k =>
    t.dutyState (.card k sl) == some .active || t.dutyState (.card k sl) == some .done)

/-- The late-caption step of one card slot (R187). -/
def captionCard (n : Nat) (sl : Slot) (s : State) : State :=
  match s.held n with
  | none => s
  | some t =>
    if !t.filedOn sl then s
    else if t.dutyState (.card .caption sl) = some .active then setDuty n (.card .caption sl) (fun d => { d with stale := true }) s
    else putDuty DutyState.isEnded n (.card .caption sl) t.urgent s

/-- Whether a send duty of the shot is DONE (R188). -/
def Shot.sentSome (t : Shot) : Bool :=
  [FileKind.raw, .proof, .memo].any (fun k => t.dutyState (.send k) == some .done)

/-- The late-caption step of the tether (R188). -/
def captionSend (n : Nat) (s : State) : State :=
  match s.held n with
  | none => s
  | some t => if t.sentSome then putDuty DutyState.isEnded n (.send .caption) t.urgent s else s

/-- A shot's caption set or replaced, with the late-caption steps (R186 to R188). -/
def setCaption (n : Nat) (c : List Byte) (s : State) : State :=
  let s1 := modHeld n (fun t => { t with caption := some c }) s
  captionSend n (captionChanged n (captionCard n .b (captionCard n .a s1)))

end Sys2Proof.Machine
end

