-- ==== Sys2Proof/Machine/MemoOps.lean ====
section
/-! DEFINITION. The memo input's operations (09_captions_and_voice_memos.md, R190 to R197): the decimator, the levels, the
recording, the activity frame, and the ends of a memo with its attachment to the shot. -/

namespace Sys2Proof.Machine

open Sys2Proof

/-! ## The decimator and the levels -/

/-- One PDM bit through the three integrators, +1 for a one and −1 for a zero (R190). DESIGN CHOICE (log entry 16): each
stage adds the updated value of the stage before it. -/
def Decimator.bit (d : Decimator) (b : Bool) : Decimator :=
  let x1 := if b then d.i1 + 1 else d.i1 - 1
  let x2 := d.i2 + x1
  { d with i1 := x1, i2 := x2, i3 := d.i3 + x2 }

/-- `k` bits of `n` from bit `j` on through the integrators, in the order of arrival. -/
def Decimator.run : Nat → Nat → Nat → Decimator → Decimator
  | 0, _, _, d => d
  | k + 1, j, n, d => Decimator.run k (j + 1) n (d.bit (n.testBit j))

/-- The three comb stages, once per 192 bits: the value S and the decimator after it (R190). -/
def Decimator.comb (d : Decimator) : Int × Decimator :=
  let y1 := d.i3 - d.c1
  let y2 := y1 - d.c2
  let y3 := y2 - d.c3
  (y3.toInt, { d with c1 := d.i3, c2 := y1, c3 := y2 })

/-- A sample clamped to `−32,767…+32,767` (R190). -/
def clampSample (x : Int) : Int := clampInt (-32767) 32767 x

/-- The memo sample of a value S: the raw sample, the offset, the gain (R190). -/
def sampleOf (S : Int) (gain : Nat) (offset : Int) : Int :=
  clampSample (clampSample (clampSample (S / 216) - offset) * 2 ^ (gain / 6))

/-! ## Ends of a memo -/

/-- The memo input IDLE with no current memo. -/
def memoIdle (s : State) : State := { s with mi := { s.mi with phase := .idle, current := none, samples := [] } }

/-- The card targets of a MEMO duty under the applied card plan (R194). -/
def State.memoTargets (s : State) : List Slot :=
  match s.cfg.plans.card with
  | .off => []
  | .singleA | .split => [.a]
  | .mirror => [.a, .b]
  | .overflow => if s.cw.overflow then [.b] else [.a]

/-- Whether a slot's active file is the shot's MEMO file. -/
def State.writesMemo (s : State) (n : Nat) (sl : Slot) : Bool :=
  (s.slot sl).file.any (fun f => f.shot == n && f.kind == .memo)

/-- A slot abandons the shot's MEMO file (R194). -/
def replaceFile (n : Nat) (sl : Slot) (s : State) : State := if s.writesMemo n sl then abandon sl .replaced s else s

/-- The old memo's readers abandon their work and its blocks go back (R194, step 1). -/
def replaceMemo (n : Nat) (s : State) : State :=
  match (s.held n).bind (·.memo) with
  | none => s
  | some m =>
    let s1 := replaceTransfer n (replaceFile n .b (replaceFile n .a s))
    giveBlocks m.blocks (modHeld n (fun t => { t with memo := none }) s1)

/-- Whether SEND_MEMO is judged: the shot holds a SEND_RAW, SEND_PROOF or SEND_CAPTION duty (R194). -/
def Shot.sendsAny (t : Shot) : Bool :=
  [FileKind.raw, .proof, .caption].any (fun k => (t.duty (.send k)).isSome)

/-- The MEMO and SEND_MEMO duties of a new memo (R194, steps 3 and 4). -/
def memoDuties (n : Nat) (s : State) : State :=
  let s1 := s.memoTargets.foldl (fun t sl => putDuty DutyState.isEnded n (.card .memo sl) false t) s
  match s1.held n with
  | some t => if t.sendsAny then putDuty DutyState.isEnded n (.send .memo) t.urgent s1 else s1
  | none => s1

/-- A memo of a length above 0 attached to its shot (R194, steps 1 to 4). -/
def attachMemo (m : MemoRec) (s : State) : State :=
  let s1 := replaceMemo m.shot s
  let s2 := modHeld m.shot (fun t => { t with memo := some ⟨m.blocks, 2 * m.samples⟩ }) s1
  let s3 := memoDuties m.shot s2
  { s3 with mi := { s3.mi with attached := sat32 s3.mi.attached } }

/-- Whether the shot holds a memo extent. -/
def State.hasMemo (s : State) (n : Nat) : Bool := ((s.held n).bind (·.memo)).isSome

/-- A recording memo ends by R193: attached if its length is above 0, otherwise its blocks go back (DEDUCED, log entry
16). -/
def endMemo (r : MemoReason) (m : MemoRec) (s : State) : State :=
  let replaced := decide (0 < m.samples) && s.hasMemo m.shot
  let s1 := if 0 < m.samples then attachMemo m s else giveBlocks m.blocks s
  let s2 := if r = .truncated then { s1 with mi := { s1.mi with truncated := sat32 s1.mi.truncated } } else s1
  let s3 := memoIdle (raiseMemoEnd m.shot r (2 * m.samples) replaced m.start s2)
  slotSettle .b (slotSettle .a (shotTests m.shot s3))

/-- An ARMED memo cancelled (R195). -/
def cancelMemo (m : MemoRec) (s : State) : State :=
  memoIdle (raiseMemoEnd m.shot .cancelled 0 false m.start
    { s with mi := { s.mi with cancelled := sat32 s.mi.cancelled } })

/-- SHOT_DELETE of the current memo's shot (R195). The freeing test is the caller's. -/
def abortMemo (n : Nat) (s : State) : State :=
  match s.mi.current with
  | some m =>
    if m.shot ≠ n then s
    else
      let s1 := if s.mi.phase = .recording then giveBlocks m.blocks s else s
      memoIdle (raiseMemoEnd n .aborted 0 false m.start { s1 with mi := { s1.mi with aborted := sat32 s1.mi.aborted } })
  | none => s

/-! ## Recording -/

/-- The current memo's record changed. -/
def setMemo (m : MemoRec) (s : State) : State := { s with mi := { s.mi with current := some m } }

/-- One block asked of the store (R193, R8): the memo with it, or none if the request is refused. -/
def askBlock (m : MemoRec) (s : State) : Option (MemoRec × State) :=
  if mayAllocate 1 s then
    let r := takeBlocks 1 s
    some ({ m with blocks := m.blocks ++ r.1 }, r.2)
  else none

/-- The memo's record with a block for its next sample: asked for when those it has are full (R193). -/
def withRoom (m : MemoRec) (s : State) : Option (MemoRec × State) :=
  if m.samples < Config.blockSamples * m.blocks.length then some (m, s) else askBlock m s

/-- One sample written to the recording (R193). The 960,000th sample also completes an activity frame; the memo ends with
LIMIT at its writing, before that frame's end, which is not judged (DESIGN CHOICE, log entry 16). -/
def recordSample (x : Int) (m : MemoRec) (s : State) : State :=
  match withRoom m s with
  | none => endMemo .truncated m s
  | some (m1, s1) =>
    let m2 := { m1 with samples := m1.samples + 1 }
    let s2 := setMemo m2 { s1 with
      mem := writeExtent m1.blocks (leInt 2 x) (2 * m1.samples) s1.mem
      mi := { s1.mi with samples := s1.mi.samples ++ [x] } }
    if Config.maxSamples ≤ m2.samples then endMemo .limit m2 s2 else s2

/-- The memo input enters RECORDING and asks for its first block (R192, R193). -/
def startRecording (m : MemoRec) (s : State) : State :=
  let s1 := { s with mi := { s.mi with phase := .recording, current := some m } }
  match askBlock m s1 with
  | none => endMemo .truncated m s1
  | some (m1, s2) => setMemo m1 s2

/-- An accepted MEMO_START (R192). -/
def startMemo (n : Nat) (s : State) : State :=
  let m : MemoRec := { shot := n, onVoice := s.cfg.memo.onVoice, start := s.time }
  let s1 := { s with mi := { s.mi with decimator := {}, current := some m, samples := [] } }
  if s.cfg.memo.onVoice then { s1 with mi := { s1.mi with phase := .armed } } else startRecording m s1

/-! ## Activity frames -/

/-- Adjacent pairs of which one is below 0 and the other is not (R191). -/
def crossingsOf : List Int → Nat
  | a :: b :: l => (if decide (a < 0) != decide (b < 0) then 1 else 0) + crossingsOf (b :: l)
  | _ => 0

/-- What a frame's samples form under the memo group in force (R191). -/
def judgeFrame (c : MemoCfg) (l : List Int) : FrameResult :=
  let e := (l.map Int.natAbs).sum / Config.frameSamples
  let k := crossingsOf l
  { energy := e, crossings := k, voiced := decide (c.energy < e) || (decide (c.crossing < k) && decide (c.energy / 4 < e)) }

/-- A voiced frame in ARMED starts the recording with its samples (R192). -/
def voiceStart (m : MemoRec) (l : List Int) (s : State) : State :=
  let s1 := { s with mi := { s.mi with phase := .recording, current := some m } }
  match askBlock m s1 with
  | none => endMemo .truncated m s1
  | some (m1, s2) =>
    setMemo { m1 with samples := l.length }
      { s2 with mem := writeExtent m1.blocks (l.flatMap (leInt 2)) 0 s2.mem }

/-- An activity frame ends (R191 to R193). -/
def endActivity (s : State) : State :=
  let l := s.mi.samples
  let f := judgeFrame s.cfg.memo l
  let s1 := { s with mi := { s.mi with lastFrame := some f, samples := [] } }
  match s.mi.phase, s.mi.current with
  | .armed, some m => if f.voiced then voiceStart m l s1 else s1
  | .recording, some m =>
    let m1 := { m with silence := if f.voiced then 0 else m.silence + 1 }
    let s2 := setMemo m1 s1
    if s.cfg.memo.silence ≤ m1.silence then endMemo .silence m1 s2 else s2
  | _, _ => s1

/-- A sample taken in ARMED or RECORDING (R191 to R193). -/
def takeSample (x : Int) (s : State) : State :=
  match s.mi.phase, s.mi.current with
  | .armed, _ => { s with mi := { s.mi with samples := s.mi.samples ++ [x] } }
  | .recording, some m => recordSample x m s
  | _, _ => s

/-- 192 PDM bits, bit 0 the first to arrive: one value, and one sample unless it is discarded (R190). -/
def pdmWord (bits : BitVec 192) (s : State) : State :=
  if s.mi.phase = .idle then s
  else
    let r := (Decimator.run Config.decimation 0 bits.toNat s.mi.decimator).comb
    if 0 < r.2.discard then { s with mi := { s.mi with decimator := { r.2 with discard := r.2.discard - 1 } } }
    else takeSample (sampleOf r.1 s.mi.gain s.mi.offset) { s with mi := { s.mi with decimator := r.2 } }

/-- The memo input at SLEEP (R195). -/
def memoSleep (s : State) : State :=
  match s.mi.current with
  | some m => if s.mi.phase = .armed then cancelMemo m s else s
  | none => s

/-- The memo input after a wake (R197). -/
def memoWake (s : State) : State :=
  { s with mi := { s.mi with phase := .idle, current := none, samples := [], lastFrame := none, latest := none } }

end Sys2Proof.Machine
end

