-- ==== Sys2Proof/Machine/Settings.lean ====
section
/-! DEFINITION. The configuration record: each field's range, its group, pending values and effect points (R204 to R206,
and the field tables of the chapters). -/

namespace Sys2Proof

/-- The group that a field belongs to. -/
def Field.group : Field → Group
  | .sensorId | .laneCount | .laneMap | .polarity | .depth | .width | .height | .cfaOrder | .errorThreshold | .fixedBlack =>
    .capture
  | .releaseLatency | .framePeriod | .latenessLimit | .readoutTimeout | .releaseFilter | .focusPriority | .focusWait
  | .syncMode | .syncWindow | .syncOut => .burst
  | .searchRange | .contrastThreshold | .inFocusWindow | .searchStep | .driveSpeed | .searchSpeed | .watcherThreshold
  | .wakeStartsFocus => .focus
  | .lensFramePeriod | .counterMode | .countDirection | .referenceMode | .indexValue | .homeTimeout => .lens
  | .cardPlan | .proofFiles | .developPlan | .tetherPlan | .standingCaption => .plans
  | .captureFloor | .lowThreshold | .hold | .wheel => .store
  | .ackTimeout | .peerRelease | .peerMark | .peerPull => .tether
  | .startMode | .energyThreshold | .crossingThreshold | .trailingSilence => .memo
  | .firstShotNumber => .numbering

end Sys2Proof

namespace Sys2Proof.Machine

open Sys2Proof

/-! ## Ranges -/

/-- A number within `lo…hi`. -/
def numIn (lo hi : Nat) : CfgVal → Option Nat
  | .num n => if (lo : Int) ≤ n ∧ n ≤ hi then some n.toNat else none
  | _ => none

/-- A signed number within `lo…hi`. -/
def intIn (lo hi : Int) : CfgVal → Option Int
  | .num n => if lo ≤ n ∧ n ≤ hi then some n else none
  | _ => none

/-- A number that is one of those listed. -/
def numOf (l : List Nat) : CfgVal → Option Nat
  | .num n => if 0 ≤ n ∧ n.toNat ∈ l then some n.toNat else none
  | _ => none

/-- A name that is one of those listed, as the value it stands for. -/
def wordOf {α : Type} (l : List (String × α)) : CfgVal → Option α
  | .word w => (l.find? (fun p => p.1 == w)).map (·.2)
  | _ => none

/-- OFF or ON. -/
def onOffVal : CfgVal → Option Bool := wordOf [("OFF", false), ("ON", true)]

/-- Eight distinct physical lanes, each 0…7 (R28). -/
def laneMapVal : CfgVal → Option (List Nat)
  | .nums l =>
    if l.length = 8 ∧ (∀ n ∈ l, 0 ≤ n ∧ n ≤ 7) ∧ l.Nodup then some (l.map (·.toNat)) else none
  | _ => none

/-- Eight polarities. -/
def polarityVal : CfgVal → Option (List Bool)
  | .words l =>
    if l.length = 8 then l.mapM (fun w => wordOf [("NORMAL", false), ("INVERTED", true)] (.word w)) else none
  | _ => none

/-- Sixteen readers (R23). -/
def wheelVal : CfgVal → Option (List Reader)
  | .words l =>
    if l.length = 16 then l.mapM (fun w => wordOf [("A", Reader.a), ("B", .b), ("D", .d), ("T", .t)] (.word w)) else none
  | _ => none

/-- Absent, or 1 to 192 bytes (R189). -/
def captionVal : CfgVal → Option (Option (List Byte))
  | .text none => some none
  | .text (some t) => if 1 ≤ t.length ∧ t.length ≤ 192 then some (some t) else none
  | _ => none

/-- The record with a field's applied value replaced, if the value is in the field's range (R204; the field tables of
the chapters). -/
def Cfg.put (c : Cfg) : Field → CfgVal → Option Cfg
  | .sensorId, v => (numIn 0 65535 v).map fun x => { c with capture := { c.capture with sensorId := x } }
  | .laneCount, v => (numOf [1, 2, 4, 8] v).map fun x => { c with capture := { c.capture with lanes := x } }
  | .laneMap, v => (laneMapVal v).map fun x => { c with capture := { c.capture with laneMap := x } }
  | .polarity, v => (polarityVal v).map fun x => { c with capture := { c.capture with inverted := x } }
  | .depth, v => (numOf [10, 12, 14, 16] v).map fun x => { c with capture := { c.capture with depth := x } }
  | .width, v => ((numIn 64 8192 v).filter (fun x => x % 16 = 0)).map fun x => { c with capture := { c.capture with width := x } }
  | .height, v => ((numIn 16 6144 v).filter (fun x => x % 2 = 0)).map fun x => { c with capture := { c.capture with height := x } }
  | .cfaOrder, v =>
    (wordOf [("RGGB", Cfa.rggb), ("GRBG", .grbg), ("GBRG", .gbrg), ("BGGR", .bggr)] v).map fun x => { c with capture := { c.capture with cfa := x } }
  | .errorThreshold, v => (numIn 1 255 v).map fun x => { c with capture := { c.capture with errThreshold := x } }
  | .fixedBlack, v => (numIn 0 65535 v).map fun x => { c with capture := { c.capture with fixedBlack := x } }
  | .releaseLatency, v => (numIn 0 100000 v).map fun x => { c with burst := { c.burst with latency := x } }
  | .framePeriod, v => (numIn 20000 10000000 v).map fun x => { c with burst := { c.burst with period := x } }
  | .latenessLimit, v => (numIn 0 1000000 v).map fun x => { c with burst := { c.burst with latenessLimit := x } }
  | .readoutTimeout, v => (numIn 1 2000 v).map fun x => { c with burst := { c.burst with readoutMs := x } }
  | .releaseFilter, v => (numOf [0, 1, 2, 4, 8, 16] v).map fun x => { c with burst := { c.burst with filterMs := x } }
  | .focusPriority, v => (onOffVal v).map fun x => { c with burst := { c.burst with focusPriority := x } }
  | .focusWait, v => (numIn 0 2000 v).map fun x => { c with burst := { c.burst with focusWaitMs := x } }
  | .syncMode, v =>
    (wordOf [("OFF", SyncMode.off), ("ONCE", .once), ("EVERY", .every), ("WATCH", .watch), ("FOLLOW", .follow)] v).map
      fun x => { c with burst := { c.burst with syncMode := x } }
  | .syncWindow, v => (numIn 0 5000 v).map fun x => { c with burst := { c.burst with window := x } }
  | .syncOut, v => (onOffVal v).map fun x => { c with burst := { c.burst with syncOut := x } }
  | .searchRange, v => (numIn 1 24 v).map fun x => { c with focus := { c.focus with range := x } }
  | .contrastThreshold, v => (numIn 0 16777215 v).map fun x => { c with focus := { c.focus with threshold := x } }
  | .inFocusWindow, v => (numIn 0 255 v).map fun x => { c with focus := { c.focus with window := x } }
  | .searchStep, v => (numIn 1 65535 v).map fun x => { c with focus := { c.focus with step := x } }
  | .driveSpeed, v => (numIn 0 7 v).map fun x => { c with focus := { c.focus with driveSpeed := x } }
  | .searchSpeed, v => (numIn 0 7 v).map fun x => { c with focus := { c.focus with searchSpeed := x } }
  | .watcherThreshold, v => (numIn 1 64 v).map fun x => { c with focus := { c.focus with watchT := x } }
  | .wakeStartsFocus, v => (onOffVal v).map fun x => { c with focus := { c.focus with wakeStarts := x } }
  | .lensFramePeriod, v => (numOf [500, 1000, 2000] v).map fun x => { c with lens := { c.lens with framePeriod := x } }
  | .counterMode, v => (wordOf [("QUADRATURE", false), ("UP_ONLY", true)] v).map fun x => { c with lens := { c.lens with upOnly := x } }
  | .countDirection, v => (wordOf [("NORMAL", false), ("REVERSED", true)] v).map fun x => { c with lens := { c.lens with reversed := x } }
  | .referenceMode, v => (wordOf [("INDEX", true), ("COMMAND", false)] v).map fun x => { c with lens := { c.lens with indexMode := x } }
  | .indexValue, v => (intIn Config.counterMin Config.counterMax v).map fun x => { c with lens := { c.lens with indexValue := x } }
  | .homeTimeout, v => (numIn 0 10000 v).map fun x => { c with lens := { c.lens with homeMs := x } }
  | .cardPlan, v =>
    (wordOf [("OFF", CardPlan.off), ("SINGLE_A", .singleA), ("MIRROR", .mirror), ("OVERFLOW", .overflow), ("SPLIT", .split)] v).map
      fun x => { c with plans := { c.plans with card := x } }
  | .proofFiles, v => (onOffVal v).map fun x => { c with plans := { c.plans with proofFiles := x } }
  | .developPlan, v =>
    (wordOf [("NEVER", DevelopPlan.never), ("URGENT_ONLY", .urgentOnly), ("ALL", .all)] v).map
      fun x => { c with plans := { c.plans with develop := x } }
  | .tetherPlan, v =>
    (wordOf [("NONE", TetherPlan.none), ("URGENT_PROOF", .urgentProof), ("ALL_PROOF", .allProof), ("URGENT_RAW", .urgentRaw),
      ("URGENT_BOTH", .urgentBoth)] v).map fun x => { c with plans := { c.plans with tether := x } }
  | .standingCaption, v => (captionVal v).map fun x => { c with plans := { c.plans with standing := x } }
  | .captureFloor, v => (numIn 0 8192 v).map fun x => { c with store := { c.store with floor := x } }
  | .lowThreshold, v => (numIn 0 65536 v).map fun x => { c with store := { c.store with low := x } }
  | .hold, v => (onOffVal v).map fun x => { c with store := { c.store with hold := x } }
  | .wheel, v => (wheelVal v).map fun x => { c with store := { c.store with wheel := x } }
  | .ackTimeout, v => (numIn 50 5000 v).map fun x => { c with tether := { c.tether with ackMs := x } }
  | .peerRelease, v => (onOffVal v).map fun x => { c with tether := { c.tether with peerRelease := x } }
  | .peerMark, v => (onOffVal v).map fun x => { c with tether := { c.tether with peerMark := x } }
  | .peerPull, v => (onOffVal v).map fun x => { c with tether := { c.tether with peerPull := x } }
  | .startMode, v => (wordOf [("MANUAL", false), ("ON_VOICE", true)] v).map fun x => { c with memo := { c.memo with onVoice := x } }
  | .energyThreshold, v => (numIn 0 32767 v).map fun x => { c with memo := { c.memo with energy := x } }
  | .crossingThreshold, v => (numIn 0 319 v).map fun x => { c with memo := { c.memo with crossing := x } }
  | .trailingSilence, v => (numIn 10 250 v).map fun x => { c with memo := { c.memo with silence := x } }
  | .firstShotNumber, v => (numIn 1 4294967295 v).map fun x => { c with firstShot := x }

/-- A field's applied value, in the form SET_CONFIG carries it. -/
def Cfg.get (c : Cfg) : Field → CfgVal
  | .sensorId => .num c.capture.sensorId
  | .laneCount => .num c.capture.lanes
  | .laneMap => .nums (c.capture.laneMap.map Int.ofNat)
  | .polarity => .words (c.capture.inverted.map (fun b => if b then "INVERTED" else "NORMAL"))
  | .depth => .num c.capture.depth
  | .width => .num c.capture.width
  | .height => .num c.capture.height
  | .cfaOrder => .word c.capture.cfa.name
  | .errorThreshold => .num c.capture.errThreshold
  | .fixedBlack => .num c.capture.fixedBlack
  | .releaseLatency => .num c.burst.latency
  | .framePeriod => .num c.burst.period
  | .latenessLimit => .num c.burst.latenessLimit
  | .readoutTimeout => .num c.burst.readoutMs
  | .releaseFilter => .num c.burst.filterMs
  | .focusPriority => .word (onOff c.burst.focusPriority)
  | .focusWait => .num c.burst.focusWaitMs
  | .syncMode => .word c.burst.syncMode.name
  | .syncWindow => .num c.burst.window
  | .syncOut => .word (onOff c.burst.syncOut)
  | .searchRange => .num c.focus.range
  | .contrastThreshold => .num c.focus.threshold
  | .inFocusWindow => .num c.focus.window
  | .searchStep => .num c.focus.step
  | .driveSpeed => .num c.focus.driveSpeed
  | .searchSpeed => .num c.focus.searchSpeed
  | .watcherThreshold => .num c.focus.watchT
  | .wakeStartsFocus => .word (onOff c.focus.wakeStarts)
  | .lensFramePeriod => .num c.lens.framePeriod
  | .counterMode => .word (if c.lens.upOnly then "UP_ONLY" else "QUADRATURE")
  | .countDirection => .word (if c.lens.reversed then "REVERSED" else "NORMAL")
  | .referenceMode => .word (if c.lens.indexMode then "INDEX" else "COMMAND")
  | .indexValue => .num c.lens.indexValue
  | .homeTimeout => .num c.lens.homeMs
  | .cardPlan => .word c.plans.card.name
  | .proofFiles => .word (onOff c.plans.proofFiles)
  | .developPlan => .word c.plans.develop.name
  | .tetherPlan => .word c.plans.tether.name
  | .standingCaption => .text c.plans.standing
  | .captureFloor => .num c.store.floor
  | .lowThreshold => .num c.store.low
  | .hold => .word (onOff c.store.hold)
  | .wheel => .words (c.store.wheel.map Reader.name)
  | .ackTimeout => .num c.tether.ackMs
  | .peerRelease => .word (onOff c.tether.peerRelease)
  | .peerMark => .word (onOff c.tether.peerMark)
  | .peerPull => .word (onOff c.tether.peerPull)
  | .startMode => .word (if c.memo.onVoice then "ON_VOICE" else "MANUAL")
  | .energyThreshold => .num c.memo.energy
  | .crossingThreshold => .num c.memo.crossing
  | .trailingSilence => .num c.memo.silence
  | .firstShotNumber => .num c.firstShot

/-- A field's default (the field tables of the chapters; R212). -/
def Field.dflt (f : Field) : CfgVal := Cfg.get {} f

/-- The value that is taken for a field: the carried one if it is in range, otherwise the default (R204). -/
def takenVal (c : Cfg) (f : Field) (v : CfgVal) : CfgVal := if (c.put f v).isSome then v else Field.dflt f

/-- The record with a field's value applied. -/
def Cfg.apply (c : Cfg) (f : Field) (v : CfgVal) : Cfg := (c.put f v).getD c

/-- All fields of a group, in the order of its field table. -/
def Group.fields : Group → List Field
  | .capture => [.sensorId, .laneCount, .laneMap, .polarity, .depth, .width, .height, .cfaOrder, .errorThreshold, .fixedBlack]
  | .burst => [.releaseLatency, .framePeriod, .latenessLimit, .readoutTimeout, .releaseFilter, .focusPriority, .focusWait,
      .syncMode, .syncWindow, .syncOut]
  | .focus => [.searchRange, .contrastThreshold, .inFocusWindow, .searchStep, .driveSpeed, .searchSpeed, .watcherThreshold,
      .wakeStartsFocus]
  | .lens => [.lensFramePeriod, .counterMode, .countDirection, .referenceMode, .indexValue, .homeTimeout]
  | .plans => [.cardPlan, .proofFiles, .developPlan, .tetherPlan, .standingCaption]
  | .store => [.captureFloor, .lowThreshold, .hold, .wheel]
  | .tether => [.ackTimeout, .peerRelease, .peerMark, .peerPull]
  | .memo => [.startMode, .energyThreshold, .crossingThreshold, .trailingSilence]
  | .numbering => [.firstShotNumber]

/-! ## Pending values -/

/-- The pending values of the fields that meet `p` become applied (R205). -/
def applyWaiting (p : Field → Bool) (s : State) : State :=
  { s with
    cfg := (s.waiting.filter (fun w => p w.1)).foldl (fun c w => c.apply w.1 w.2) s.cfg
    waiting := s.waiting.filter (fun w => !p w.1) }

/-- A pending value set for a field, replacing an earlier one; a value equal to the applied value leaves none pending
(R205). -/
def setWaiting (f : Field) (v : CfgVal) (s : State) : State :=
  let rest := s.waiting.filter (fun w => w.1 != f)
  { s with waiting := if s.cfg.put f v = some s.cfg then rest else rest ++ [(f, v)] }

/-- What new sync values do to the sync state when they become applied (R70): a change of mode clears the armed and
aligned flags and the standing grid; a change of P alone keeps the grid's origin and counts the new period from the next
instant. A change that falls exactly on an instant counts from that instant; the new period extends backward from its anchor
too (DESIGN CHOICE, log entry 10). -/
def syncApplied (old new : BurstCfg) (time : Nat) (r : Rtu) : Rtu :=
  if old.syncMode ≠ new.syncMode then { r with armed := false, aligned := false, standing := none }
  else if old.period ≠ new.period then
    { r with standing := r.standing.map (fun g =>
        { g with anchor := g.anchor + ceilDivInt (time - g.anchor) g.period * g.period, period := new.period }) }
  else r

/-- The burst group's pending values become applied (R73). -/
def applyBurst (s : State) : State :=
  let s1 := applyWaiting (fun f => f.group == .burst) s
  { s1 with rtu := syncApplied s.cfg.burst s1.cfg.burst s.time s1.rtu }

end Sys2Proof.Machine
end

