-- ==== Sys2Proof/Machine/Timing.lean ====
section
/-! DEFINITION. The release and timing unit's operations (03_release_burst_and_exposure_timing.md): the grid, the
reservation request, voids and returns, the burst's start and end, the owner end, the frame's close and firing, and the
sync edge. -/

namespace Sys2Proof.Machine

open Sys2Proof

/-- Why a shot is voided (R20). -/
inductive VoidReason | timeout | link | headerMismatch | abort
  deriving DecidableEq, Repr

/-- A void reason's name. -/
def VoidReason.name : VoidReason → String
  | .timeout => "TIMEOUT" | .link => "LINK" | .headerMismatch => "HEADER_MISMATCH" | .abort => "ABORT"

/-! ## Grids -/

/-- The scheduled time of frame `k` on a burst's grid (R57). -/
def BurstRec.scheduled (b : BurstRec) (k : Nat) : Int := b.tg + ((k : Int) - b.kg) * b.period

/-- The first instant `anchor + j·period` at or after `x` (R57, R69); `j` may be negative, also after a change of P (DESIGN
CHOICE, log entry 10). -/
def firstInstant (anchor : Int) (period : Nat) (x : Int) : Int := anchor + ceilDivInt (x - anchor) period * period

/-- `x` minus the nearest instant of a grid, the earlier instant on a tie (R68). -/
def phaseError (anchor : Int) (period : Nat) (x : Int) : Int :=
  let d := (x - anchor) % period
  if 2 * d ≤ period then d else d - period

/-- The frames that a burst's count asks for (R55). -/
def BurstRec.limit (b : BurstRec) : Nat := b.count.getD Config.maxFrames

/-! ## Reservations and voids -/

/-- The unit asks the store for frame `k`'s reservation (R58, R6). -/
def requestFrame (b : BurstRec) (k : Nat) (s : State) : State :=
  let req : ResReq := ⟨b.number, k, b.t0, (b.scheduled k).toNat, s.cfg.geometry⟩
  { s with ss := { s.ss with request := some req } }

/-- An entry's blocks given back and the entry FREE, with its record cleared. -/
def clearEntry (p : Shot → Bool) (s : State) : State :=
  match s.ss.table.find? p with
  | some t => giveBlocks t.raw (modEntry p (fun _ => {}) s)
  | none => s

/-- A reservation returned before TRIGGER (R7). -/
def returnReservation (s : State) : State := clearEntry isClaimed s

/-- A waiting reservation request withdrawn (R7). -/
def withdrawRequest (s : State) : State := { s with ss := { s.ss with request := none } }

/-- A shot voided (R20): its blocks return, its entry is FREE, SHOT_VOID is raised. -/
def voidShot (p : Shot → Bool) (r : VoidReason) (s : State) : State :=
  match s.ss.table.find? p with
  | some t => raise .shotVoid (.num t.number) [.word r.name] (clearEntry p s)
  | none => s

/-- The running burst's record changed. -/
def modBurst (f : BurstRec → BurstRec) (s : State) : State :=
  { s with rtu := { s.rtu with burst := s.rtu.burst.map f } }

/-! ## Burst end -/

/-- The values of BURST_END (R67). -/
def burstEndWires (b : BurstRec) (r : EndReason) : List Wire :=
  [.u32 b.number, .word b.owner.name, .u16 b.triggered, .u16 b.landed, .u16 b.voided, .u16 b.late, .u32 b.ignored,
    .u16 b.byWait, .word r.name]

/-- The unit enters IDLE and raises BURST_END (R67). The next frame's reservation is returned or its request withdrawn
(R64). -/
def finishBurst (r : EndReason) (s : State) : State :=
  let s1 := withdrawRequest (returnReservation s)
  let s2 := { s1 with rtu := { s1.rtu with
    phase := .idle, readoutAt := none, waitAt := none, waitExpired := false, ready := none } }
  match s2.rtu.burst with
  | some b => raise .burstEnd (.num b.number) (burstEndWires b r) s2
  | none => s2

/-- How many shots are in flight: RESERVED with TRIGGER sent, or LANDING. -/
def State.inFlight (s : State) : Nat := (s.ss.table.filter (fun t => isTriggered t || isLanding t)).length

/-- A running burst ended at once: its shot in flight is voided, its reservation returned (R65, R66). -/
def cutBurst (r : EndReason) (v : VoidReason) (s : State) : State :=
  if s.rtu.phase = .idle then s
  else
    let n := s.inFlight
    finishBurst r (modBurst (fun b => { b with voided := b.voided + n }) (voidShot isLanding v (voidShot isTriggered v s)))

/-- The link is lost (R29, R66). `byStop` tells that LINK_STOP caused it. -/
def linkLost (byStop : Bool) (s : State) : State :=
  if byStop then cutBurst .command .abort s else cutBurst .link .link s

/-! ## Waiting, release, end -/

/-- The unit enters WAITING for the frame due: its readiness and its focus wait start now (R60, R71). -/
def enterWaiting (s : State) : State :=
  let s1 := { s with rtu := { s.rtu with
    phase := .waiting, readyFrom := s.time, waitExpired := false, readoutAt := none, ready := none
    waitAt := if s.cfg.burst.focusWaitMs = 0 then none else some (s.time + s.cfg.burst.focusWaitMs * 1000) } }
  if s1.conditions then { s1 with rtu := { s1.rtu with ready := some (s.time, .none) } } else s1

/-- The next number of a count of 1 to 4,294,967,295. -/
def nextNumber (n : Nat) : Nat := if n = Config.maxNumber then 1 else n + 1

/-- The record of a new burst with its grid laid (R54, R57). -/
def newBurst (owner : Owner) (count : Option Nat) (s : State) : BurstRec :=
  let due : Int := s.time + s.cfg.burst.latency
  { number := s.rtu.nextBurst, owner := owner, count := count, t0 := s.time
    latency := s.cfg.burst.latency, period := s.cfg.burst.period
    tg := match s.rtu.standing with | some g => firstInstant g.anchor g.period due | none => due }

/-- A burst starts (R54). With the link DOWN or FAILED it ends at once with reason LINK. -/
def startBurst (owner : Owner) (count : Option Nat) (s : State) : State :=
  let s1 := applyBurst s
  let b := newBurst owner count s1
  let s2 := { s1 with rtu := { s1.rtu with burst := some b, nextBurst := nextNumber s1.rtu.nextBurst } }
  if s2.sp.link = .down ∨ s2.sp.link = .failed then finishBurst .link s2
  else requestFrame b 0 (enterWaiting s2)

/-- A release reaches the arbiter (R54): taken while IDLE, otherwise ignored and counted. -/
def takeRelease (owner : Owner) (count : Option Nat) (s : State) : State :=
  if s.rtu.phase = .idle then startBurst owner count s else modBurst (fun b => { b with ignored := sat32 b.ignored }) s

/-- An owner end is taken (R64). -/
def takeOwnerEnd (s : State) : State :=
  match s.rtu.phase with
  | .waiting => finishBurst .ownerEnd s
  | .exposing | .reading =>
    let s1 := withdrawRequest (returnReservation s)
    modBurst (fun b => { b with ending := some .ownerEnd }) { s1 with rtu := { s1.rtu with phase := .stopping } }
  | _ => s

/-- Whether a burst of this owner runs. -/
def State.ownedBy (s : State) (o : Owner) : Bool := s.rtu.phase != .idle && (s.rtu.burst.map (·.owner)) == some o

/-- A frame closes, landed or voided (R64). -/
def closeFrame (landed : Bool) (s : State) : State :=
  let s1 := modBurst (fun b => if landed then { b with landed := b.landed + 1 } else { b with voided := b.voided + 1 }) s
  match s.rtu.phase with
  | .exposing | .reading => enterWaiting s1
  | .stopping => finishBurst ((s1.rtu.burst.bind (·.ending)).getD .count) s1
  | _ => s1

/-! ## Firing -/

/-- Whether any entry in use holds the number (R3). -/
def State.numberUsed (s : State) (n : Nat) : Bool := s.ss.table.any (fun t => t.state != .free && t.number == n)

/-- The first number from `n` on that no entry in use holds. -/
def passUsed (s : State) : Nat → Nat → Nat
  | 0, n => n
  | k + 1, n => if s.numberUsed n then passUsed s k (nextNumber n) else n

/-- The frame due may fire: WAITING, conditions 1 to 4, and the scheduled time reached (R59). -/
def State.mayFire (s : State) : Bool :=
  match s.rtu.burst with
  | some b => s.rtu.phase == .waiting && s.conditions && decide (b.scheduled b.triggered ≤ s.time)
  | none => false

/-- The focus snapshot at firing (R93). -/
def State.snapshot (s : State) : Snapshot where
  mode := s.fe.servoMode
  state := s.fe.servo
  area := s.fe.last.area
  defocus := s.fe.last.defocus
  counter := s.lp.counter
  moving := (s.lp.latest.map (·.moving)).getD false
  confirmed :=
    s.fe.servo == .locked
      || (s.fe.servo == .following && s.fe.last.outcome == .target && decide (s.fe.last.defocus.natAbs ≤ s.cfg.focus.window))

/-- A ready-delay set after one sample (R71). -/
def DelaySet.sample (d : DelaySet) (delay : Nat) (l : Limit) : DelaySet :=
  let l := if delay = 0 then Limit.none else l
  { count := sat32 d.count
    min := if d.count = 0 then delay else Nat.min d.min delay
    max := if d.count = 0 then delay else Nat.max d.max delay
    none := if l = .none then sat32 d.none else d.none
    reservation := if l = .reservation then sat32 d.reservation else d.reservation
    link := if l = .link then sat32 d.link else d.link
    focus := if l = .focus then sat32 d.focus else d.focus }

/-- One ready-delay sample recorded in its set: FIRST for frame 0, NEXT for the others (R71). -/
def sampleDelay (k : Nat) (s : State) : State :=
  let r := s.rtu.ready.getD (s.rtu.readyFrom, .none)
  let delay := r.1 - s.rtu.readyFrom
  if k = 0 then { s with rtu := { s.rtu with first := s.rtu.first.sample delay r.2 } }
  else { s with rtu := { s.rtu with nexts := s.rtu.nexts.sample delay r.2 } }

/-- The number is assigned and the shot stamped (R3, R61). -/
def stampShot (b : BurstRec) (s : State) : State :=
  let n := passUsed s (Config.entries + 1) s.ss.next
  let late : Int := s.time - b.scheduled b.triggered
  let s1 := modEntry isClaimed (fun t => { t with
    number := n, serial := s.ss.serial, exposed := s.time, lateness := late
    phase := (s.rtu.lastError.map (·.1)).getD 0, snapshot := s.snapshot }) s
  { s1 with ss := { s1.ss with next := nextNumber n, serial := s1.ss.serial + 1 } }

/-- A late frame counted, with LATE_FRAMES raised at the first of a burst or while it is queued (R62). -/
def noteLate (b : BurstRec) (late : Int) (s : State) : State :=
  if late ≤ s.cfg.burst.latenessLimit then s
  else
    let s1 := modBurst (fun b => { b with late := b.late + 1 }) s
    if b.late = 0 ∨ s.cp.notices.any (sameNotice .lateFrames (.num b.number)) then
      raise .lateFrames (.num b.number) [.u16 b.triggered, .i64 late] s1
    else s1

/-- The frame due fires (R61). -/
def fireFrame (b : BurstRec) (s : State) : State :=
  let byWait := !s.focusReady
  let late : Int := s.time - b.scheduled b.triggered
  let s1 := noteLate b late (stampShot b (sampleDelay b.triggered s))
  let last := decide (b.triggered + 1 ≥ b.limit)
  let s2 := modBurst (fun x => { x with
    triggered := x.triggered + 1, byWait := if byWait then x.byWait + 1 else x.byWait
    ending := if last then some .count else x.ending }) s1
  let s3 := { s2 with rtu := { s2.rtu with
    phase := if last then .stopping else .exposing
    readoutAt := some (s.time + s.cfg.burst.readoutMs * 1000)
    triggerAt := some s.time
    syncOutAt := if s.cfg.burst.syncOut then some s.time else s2.rtu.syncOutAt
    waitAt := none, waitExpired := false, ready := none } }
  if last then s3 else requestFrame b (b.triggered + 1) s3

/-- TRIGGER is high for 10 µs from the exposure start (R61). -/
def State.triggerHigh (s : State) : Bool := s.rtu.triggerAt.any (fun t => decide (s.time < t + 10))

/-- Sync out is high for 20 µs from the exposure start (R61). -/
def State.syncOutHigh (s : State) : Bool := s.rtu.syncOutAt.any (fun t => decide (s.time < t + 20))

/-! ## Sync -/

/-- The reference grid of a sync edge: the running burst's, else the standing grid (R68). -/
def State.referenceGrid (s : State) : Option (Int × Nat) :=
  if s.rtu.phase ≠ .idle then s.rtu.burst.map (fun b => (b.tg, b.period))
  else s.rtu.standing.map (fun g => (g.anchor, g.period))

/-- The earliest moment at which the frame due could fire (R69). -/
def earliestFire (b : BurstRec) (s : State) : Int :=
  let base : Int := max (s.time : Int) (b.t0 + b.latency)
  if b.triggered = 0 then base else max base ((s.rtu.triggerAt.getD 0 : Nat) + Config.minSpacing : Int)

/-- The burst's grid moved onto an edge placing, the frame due taking the first instant it can reach (R69). -/
def moveGrid (place : Int) (s : State) : State :=
  match s.rtu.burst with
  | some b =>
    let e := max place (earliestFire b s)
    let b1 := { b with tg := firstInstant place b.period e, kg := b.triggered }
    let at_ := (b1.scheduled b.triggered).toNat
    let s1 := { s with rtu := { s.rtu with burst := some b1 } }
    let s2 := modEntry isClaimed (fun t => { t with scheduled := at_ }) s1
    { s2 with ss := { s2.ss with request := s2.ss.request.map (fun r => { r with scheduled := at_ }) } }
  | none => s

/-- A realignment on an edge taken now (R69). -/
def realign (s : State) : State :=
  let place : Int := s.time + s.cfg.burst.latency
  let s1 := { s with rtu := { s.rtu with
    standing := some ⟨place, place, s.cfg.burst.period⟩, realigns := sat32 s.rtu.realigns } }
  if s.rtu.phase = .idle then s1 else moveGrid place s1

/-- An error beyond W counted and reported (R70). The error is carried in 4 bytes, signed, as the card file's header carries
it (R144; Formats); R70 gives no width (DESIGN CHOICE, log entry 10). -/
def noteWindow (e : Int) (s : State) : State :=
  if e.natAbs ≤ s.cfg.burst.window then s
  else
    let s1 := { s with rtu := { s.rtu with windows := sat32 s.rtu.windows } }
    let subject := if s.rtu.phase = .idle then 0 else (s.rtu.burst.map (·.number)).getD 0
    raise .syncWindow (.num subject) [.i32 e, .u64 s.time] s1

/-- What an edge does by the applied sync mode (R68). `err` is the error just measured. `live` tells that the unit
takes releases (R207). -/
def syncAct (err : Option Int) (live : Bool) (s : State) : State :=
  match s.cfg.burst.syncMode with
  | .off => s
  | .watch => match err with | some e => noteWindow e s | none => s
  | .once =>
    if s.rtu.armed then
      let s1 := realign s
      { s1 with rtu := { s1.rtu with armed := false, aligned := true } }
    else if s.rtu.aligned then (match err with | some e => noteWindow e s | none => s)
    else s
  | .every =>
    match err with
    | some e => if e.natAbs ≤ s.cfg.burst.window then s else realign s
    | none => realign s
  | .follow => if live then takeRelease .sync (some 1) s else s

/-- A rising edge on sync in (R68). -/
def syncEdgeAt (live : Bool) (s : State) : State :=
  let err := s.referenceGrid.map (fun g => phaseError g.1 g.2 (s.time + s.cfg.burst.latency))
  let s1 := { s with rtu := { s.rtu with
    edges := sat32 s.rtu.edges
    lastError := match err with | some e => some (e, s.time) | none => s.rtu.lastError } }
  syncAct err live s1

/-! ## The release line -/

/-- The filtered level takes the raw level; a LINE release or end follows, unless this is the first setting (R53). -/
def filterTake (live : Bool) (s : State) : State :=
  let raw := s.lines.releasePressed
  let s1 := { s with rtu := { s.rtu with level := some raw, filterAt := none } }
  match s.rtu.level with
  | none => s1
  | some was =>
    if was = raw then s1
    else if raw then (if live then takeRelease .line none s1 else s1)
    else if s1.ownedBy .line then takeOwnerEnd s1 else s1

/-- The stability timer started at the applied filter time, or the level taken at once at a filter time of 0 (R53). -/
def filterStart (live : Bool) (s : State) : State :=
  if s.cfg.burst.filterMs = 0 then filterTake live s
  else { s with rtu := { s.rtu with filterAt := some (s.time + s.cfg.burst.filterMs * 1000) } }

end Sys2Proof.Machine
end

