-- ==== Sys2Proof/Machine/StoreOps.lean ====
section
/-! DEFINITION. The shot store's operations over whole shots (01_shot_store.md): the grant of a reservation, landing,
marks, delete, the peer's PULL, the read wheel, and the store at wake. -/

namespace Sys2Proof.Machine

open Sys2Proof

/-! ## Reservation -/

/-- The waiting reservation request granted (R6): the lowest FREE entry and R blocks from the head of the free list. -/
def grantReservation (r : ResReq) (s : State) : State :=
  let b := takeBlocks (blocksFor (rawBytes r.geom)) { s with ss := { s.ss with request := none } }
  let fresh : Shot :=
    { state := .reserved, burst := r.burst, frame := r.frame, released := r.released, scheduled := r.scheduled
      geom := r.geom, raw := b.1 }
  retest .reservation (modEntry (fun t => t.state == .free) (fun _ => fresh) b.2)

/-! ## Landing -/

/-- Whether a pending value of the card plan waits (R153). -/
def State.cardPlanWaits (s : State) : Bool := s.waiting.any (fun w => w.1 == .cardPlan)

/-- What a landing makes applied: the plans group's pending values and the recipe selection (R10, R119, R153, R205). -/
def applyAtLanding (s : State) : State :=
  let s1 := applyWaiting (fun f => f.group == .plans) s
  { s1 with
    cw := { s1.cw with overflow := if s.cardPlanWaits then false else s1.cw.overflow }
    de := { s1.de with recipe := s.de.selected.getD s.de.recipe, selected := none } }

/-- The record of the shot as it lands (R10). -/
def landedRecord (black : Planes) (s : State) (t : Shot) : Shot :=
  { t with
    state := .held, black := black, caption := s.cfg.plans.standing, recipe := s.de.recipe
    urgent := t.markPending, markPending := false
    duties := (s.cfg.plans.duties s.cw.overflow t.markPending).map (fun k => { key := k, urgent := t.markPending }) }

/-- The LANDING shot lands (R10): its record, its duties handed out in order, the memo input told, the freeing test. -/
def landShot (black : Planes) (s : State) : State :=
  match s.ss.table.find? isLanding with
  | none => s
  | some t =>
    let s1 := applyAtLanding s
    let done := landedRecord black s1 t
    let s2 := modEntry isLanding (fun _ => done) s1
    let s3 := { s2 with
      ss := { s2.ss with lastLanded := some t.number }
      mi := { s2.mi with latest := some t.number } }
    shotTests t.number ((done.duties.map (·.key)).foldl (fun u k => handDuty t.number k u) s3)

/-! ## Marks and delete -/

/-- SHOT_MARK of a numbered shot (R14). -/
def markNumber (n : Nat) (s : State) : Option State := if (s.usable n).isSome then some (markShot n s) else none

/-- The shot that CURRENT chooses, with the mark made, or none for NOT_HELD (R15). -/
def markCurrent (s : State) : Option (Nat × State) :=
  match s.ss.table.find? isTriggered with
  | some t => some (t.number, modEntry isTriggered (fun t => { t with markPending := true }) s)
  | none =>
    match s.ss.table.find? isLanding with
    | some t => some (t.number, modEntry isLanding (fun t => { t with markPending := true }) s)
    | none => s.ss.lastLanded.bind (fun n => (markNumber n s).map (fun s1 => (n, s1)))

/-- A slot abandons a deleted shot's active file (R19). -/
def deleteFile (n : Nat) (sl : Slot) (s : State) : State :=
  if (s.slot sl).file.any (fun f => f.shot == n) then slotSettle sl (abandon sl .deleted s) else s

/-- A deleting shot's record (R19): KEEP and URGENT clear, its PENDING duties CANCELLED, none deferred. -/
def Shot.forDelete (t : Shot) : Shot :=
  { t with
    deleting := true, keep := false, urgent := false
    duties := t.duties.map (fun d => { (if d.state == .pending then d.into .cancelled else d) with deferred := false }) }

/-- A shot's entries taken out of the card queues, the transfer queue and the develop queue (R19, R121, R143, R166). -/
def dropEntries (n : Nat) (s : State) : State :=
  let deferred := (((s.held n).map (·.duties)).getD []).countP (·.deferred)
  { s with
    cw := { s.cw with a := s.cw.a.without n, b := s.cw.b.without n }
    tp := s.tp.without n deferred
    de := { s.de with queue := s.de.queue.filter (fun e => e.shot != n) } }

/-- A usable shot deleted (R19): its entries leave the queues, it is marked with its PENDING duties cancelled, its files are
abandoned, the slots and the transfer queue go on without it, its development, its transfer and a memo of it are aborted,
and the tests are applied. The proof release test follows the cancelled duties and the transfer's pin at once (R17). -/
def deleteShot (n : Nat) (s : State) : State :=
  let s1 := proofTest n (modHeld n Shot.forDelete (dropEntries n s))
  let s2 := deleteFile n .b (deleteFile n .a s1)
  let s3 := refill (slotSettle .b (slotSettle .a s2))
  shotTests n (abortMemo n (proofTest n (deleteTransfer n (abortJob n s3))))

/-! ## The peer's PULL -/

/-- Whether a shot has data of a kind to send, present or still to be made (R181). -/
def State.pullData (s : State) (n : Nat) (t : Shot) : FileKind → Bool
  | .memo => t.memo.isSome || s.recordsInto n
  | .caption => t.caption.isSome
  | _ => true

/-- PULL's steps on a shot whose send duty of the kind is not DONE (R181). -/
def pullShot (n : Nat) (k : FileKind) (s : State) : State :=
  let s1 :=
    match s.dutyOf n (.send k) with
    | none => putDuty DutyState.isFailed n (.send k) true s
    | some .failed => putDuty DutyState.isFailed n (.send k) true s
    | some _ => hastenSends (fun x => x == k) n s
  if k = .proof then needProof n s1 else s1

/-! ## The read wheel -/

/-- Whether a reader has a read request waiting (R23). -/
def State.readerWaits (s : State) : Reader → Bool
  | .a => s.cw.a.wantsRead
  | .b => s.cw.b.wantsRead
  | .d => s.developWants
  | .t => s.tetherWants

/-- The next reader in the fixed order A, B, D, T, A (R23). -/
def nextReader : Reader → Reader
  | .a => .b
  | .b => .d
  | .d => .t
  | .t => .a

/-- The reader that a slot naming `r` grants, if any waits (R23). -/
def State.granted (s : State) (r : Reader) : Option Reader :=
  [r, nextReader r, nextReader (nextReader r), nextReader (nextReader (nextReader r))].find? s.readerWaits

/-- One read granted to a reader. -/
def grantRead (r : Reader) (s : State) : State :=
  match r with
  | .a => cardRead .a s
  | .b => cardRead .b s
  | .d => developRead s
  | .t => tetherRead s

/-- The wheel visits its next slot (R23). A new wheel becomes applied as slot 0 is visited. -/
def visitSlot (s : State) : State :=
  let s1 := if s.ss.wheelPos = 0 then applyWaiting (fun f => f == .wheel) s else s
  let named := s1.cfg.store.wheel.getD s.ss.wheelPos .a
  let s2 := match s1.granted named with | some r => grantRead r s1 | none => s1
  { s2 with ss := { s2.ss with wheelPos := (s.ss.wheelPos + 1) % 16 } }

/-! ## Wake -/

/-- A shot's PENDING card duties of one slot handed back, in the order of the kinds (R161). -/
def handCardDuties (sl : Slot) (t : Shot) (s : State) : State :=
  sendKinds.foldl (fun u k => if t.dutyState (.card k sl) = some .pending then handDuty t.number (.card k sl) u else u) s

/-- Every PENDING duty of the HELD shots handed back to its consumer (R26, R137, R161, R185). -/
def handBack (s : State) : State :=
  let shots := bySerial s.heldShots
  let s1 := shots.foldl (fun u t => handCardDuties .b t (handCardDuties .a t u)) s
  let s2 := shots.foldl (fun u t =>
    match t.duty .develop with
    | some d => if d.state = .pending then joinDevelop t.number t.serial (d.urgent || t.urgent) u else u
    | none => u) s1
  (s2.sendsInOrder (fun _ => true)).foldl (fun u p => joinTether false p.1 p.2 u) s2

/-- The store emptied by a plain wake (R25). -/
def storePlain (s : State) : State := { s with ss := { Store.reset with next := s.cfg.firstShot } }

/-- The store at a held wake, its duties not yet handed back (R26). -/
def storeHeld (s : State) : State :=
  { s with ss := { s.ss with request := none, wheelPos := 0, lastLanded := none } }

end Sys2Proof.Machine
end

