-- ==== Sys2Proof/Machine/SensorOps.lean ====
section
/-! DEFINITION. The sensor port's operations (02_sensor_port_and_readout.md): the skew FIFOs and reassembly, the error
counters and the retrain request, training, readout headers, lines, the close of a readout, and the pattern check. -/

namespace Sys2Proof.Machine

open Sys2Proof

/-! ## Small accessors -/

/-- The sensor port's state changed. -/
def modSensor (f : SensorPort → SensorPort) (s : State) : State := { s with sp := f s.sp }

/-- The applied lane count L. -/
def State.lanes (s : State) : Nat := s.cfg.capture.lanes

/-- The logical lanes. -/
def State.laneList (s : State) : List Nat := List.range s.lanes

/-- A list with its entry `i` changed. -/
def modAt {α : Type} (i : Nat) (f : α → α) : List α → List α
  | [] => []
  | a :: l =>
    match i with
    | 0 => f a :: l
    | j + 1 => a :: modAt j f l

/-- Eight empty FIFOs. -/
def noWords : List (List LaneWord) := List.replicate 8 []

/-- A lane's FIFO. -/
def State.fifo (s : State) (i : Nat) : List LaneWord := s.sp.fifos.getD i []

/-- A lane's FIFO head. -/
def State.headOf (s : State) (i : Nat) : Option LaneWord := (s.fifo i).head?

/-! ## Error counters and the retrain request -/

/-- A counter of 0 to 255, saturating (R40). -/
def bump8 (n : Nat) : Nat := min (n + 1) 255

/-- RETRAIN raised (R40): the lane at the threshold, the counters, the reason. -/
def raiseRetrain (lane : Option Nat) (r : RetrainReason) (s : State) : State :=
  raise .retrain (.num 0)
    (opt lane (fun i => [.u8 i]) ++ listOf (s.sp.errs.take s.lanes) (fun n => [.u8 n]) ++ [.word r.name]) s

/-- The retrain request raised, and the release and timing unit told (R40, R29). -/
def requestRetrain (lane : Option Nat) (r : RetrainReason) (s : State) : State :=
  retest .link (raiseRetrain lane r (modSensor (fun p => { p with retrain := some r }) s))

/-- Every counter compared with the threshold after an increase (R40). -/
def errorTest (s : State) : State :=
  if s.sp.retrain.isSome then s
  else
    match s.laneList.find? (fun i => decide (s.cfg.capture.errThreshold ≤ s.sp.errs.getD i 0)) with
    | some i => requestRetrain (some i) .errors s
    | none => s

/-- Whether the error counters count (R40). -/
def State.counting (s : State) : Bool := s.sp.link == .aligned && !s.sp.checkOn

/-- One lane's counter increased (R40). -/
def laneError (i : Nat) (s : State) : State :=
  if s.counting then errorTest (modSensor (fun p => { p with errs := modAt i bump8 p.errs }) s) else s

/-- Every enabled lane's counter increased (R40). -/
def allError (s : State) : State :=
  if s.counting then
    let n := s.lanes
    errorTest (modSensor (fun p => { p with errs := (p.errs.take n).map bump8 ++ p.errs.drop n }) s)
  else s

/-- The line-order error count increased (R39, R42). -/
def orderError (s : State) : State := modSensor (fun p => { p with lineOrder := sat32 p.lineOrder }) s

/-! ## Link states -/

/-- LINK_STATE raised (R29). -/
def raiseLink (reason : String) (s : State) : State :=
  raise .linkState (.num 0) [.word s.sp.link.name, .word reason, .u8 s.sp.skew] s

/-- FIFOs, reassembly and readout cleared: what was in progress is abandoned (R29, R37). -/
def abandonReadout (s : State) : State :=
  modSensor (fun p => { p with
    fifos := noWords, resync := false, turn := 0, unitOpen := false, assembly := [], items := [], reading := .between }) s

/-- The training-request line asserted: an attempt begins (R30). -/
def assertTraining (s : State) : State :=
  modSensor (fun p => { p with
    trainReq := true, markBy := some (s.time + Config.noMarkTime), reassertAt := none, windowFrom := none
    marked := List.replicate 8 false, fifos := noWords }) s

/-- The training-request line released and the attempt's watch ended. -/
def releaseTraining (s : State) : State :=
  modSensor (fun p => { p with
    trainReq := false, markBy := none, reassertAt := none, windowFrom := none, marked := List.replicate 8 false }) s

/-- A training attempt fails (R32). -/
def failAttempt (r : FailReason) (s : State) : State :=
  let n := s.sp.attempts + 1
  let s1 := modSensor (fun p => { p with attempts := n, lastFail := some r, fifos := noWords }) (releaseTraining s)
  if n < Config.maxAttempts then modSensor (fun p => { p with reassertAt := some (s.time + Config.reassertTime) }) s1
  else linkLost false (raiseLink r.name (modSensor (fun p => { p with link := .failed }) s1))

/-- The link enters TRAINING (R29, R41). -/
def enterTraining (reason : String) (s : State) : State :=
  let s1 := modSensor (fun p => { p with attempts := 0, link := .training, checkOn := false }) (abandonReadout s)
  retest .link (raiseLink reason (assertTraining s1))

/-- LINK_START in DOWN or FAILED (R29, R28, R49). -/
def startLink (s : State) : State :=
  let s1 := applyWaiting (fun f => f.group == .capture) s
  enterTraining "START"
    (modSensor (fun p => { p with retrains := 0, unexpected := 0, badHeaders := 0, lineOrder := 0 }) s1)

/-- The link enters DOWN (R29, R50). -/
def linkDown (s : State) : State :=
  let s1 := modSensor (fun p => { p with link := .down, checkOn := false, retrain := none })
    (releaseTraining (abandonReadout s))
  retest .link (raiseLink "STOP" s1)

/-- LINK_STOP outside DOWN (R29, R66). -/
def stopLink (s : State) : State := linkLost true (linkDown s)

/-- The sensor port at SLEEP (R50). -/
def sensorSleep (s : State) : State := if s.sp.link = .down then s else linkDown s

/-- A MARK in training (R30). -/
def takeMark (i wt : Nat) (s : State) : State :=
  if s.sp.link ≠ .training ∨ !s.sp.trainReq ∨ s.lanes ≤ i then s
  else if s.sp.marked.getD i false then failAttempt .skew s
  else
    let from_ := s.sp.windowFrom.getD wt
    if from_ + Config.windowWords < wt then failAttempt .skew s
    else
      let s1 := modSensor (fun p => { p with
        marked := modAt i (fun _ => true) p.marked, windowFrom := some from_, markBy := none }) s
      if s1.laneList.all (fun j => s1.sp.marked.getD j false) then modSensor (fun p => { p with skew := wt - from_ }) s1
      else s1

/-- Whether every enabled lane has delivered its MARK. -/
def State.allMarked (s : State) : Bool := s.laneList.all (fun i => s.sp.marked.getD i false)

/-- How many of words 0 to 4 travel on lane `i` of `n` (R27). -/
def headerShare (n i : Nat) : Nat := ((List.range 5).filter (fun k => k % n == i)).length

/-- Whether the five words of the link parameters header have arrived (R31). -/
def State.paramsReady (s : State) : Bool :=
  s.sp.link == .training && s.sp.trainReq && s.allMarked
    && s.laneList.all (fun i => decide (headerShare s.lanes i ≤ (s.fifo i).length))

/-- Words 0 to 4 of the header, a control word giving none (R31). -/
def State.paramWords (s : State) : Option (List Word16) :=
  (List.range 5).mapM (fun k =>
    match (s.fifo (k % s.lanes))[k / s.lanes]? with
    | some (.data w) => some w
    | _ => none)

/-- Whether the link parameters header matches the applied capture group (R31). -/
def paramsMatch (c : CaptureCfg) (ws : List Word16) : Bool :=
  let w := fun i => (ws.getD i 0).toNat
  w 4 == crcWords (ws.take 4) && w 1 == c.lanes && w 2 == c.depth && w 3 == c.width
    && (c.sensorId == 0 || c.sensorId == w 0)

/-- Training succeeds (R31). The words that arrived in TRAINING were training's alone: the FIFOs are empty (R34). -/
def trainingDone (s : State) : State :=
  let s1 := modSensor (fun p => { p with
    fifos := noWords, errs := List.replicate 8 0, attempts := 0, retrain := none, link := .aligned
    resync := false, turn := 0, unitOpen := false, assembly := [], items := [] }) (releaseTraining s)
  retest .link (raiseLink "TRAINED" s1)

/-- The link parameters header judged (R31, R32). -/
def judgeParams (s : State) : State :=
  match s.paramWords with
  | some ws => if paramsMatch s.cfg.capture ws then trainingDone s else failAttempt .headerMismatch s
  | none => failAttempt .headerMismatch s

/-! ## The pattern checkers -/

/-- A checker after one word (R48, R215). -/
def Checker.judge (c : Checker) (w : Word16) : Checker :=
  if c.locked then
    let n := patternNext (c.state.getD 0)
    { c with
      state := some n.1, compared := sat32 c.compared
      mismatch := if n.2 = w then c.mismatch else min (c.mismatch + 1) 16777215 }
  else
    let follows := match c.state with | some st => decide ((patternNext st).2 = w) | none => false
    let low : BitVec 15 := w.setWidth 15
    if low = 0 then { c with state := none, run := 0 }
    else
      let run := if follows then c.run + 1 else 0
      { c with state := some low, run := run, locked := decide (16 ≤ run) }

/-- A checker at a TEST readout header: unlocked, its counts kept (R48), with no sequence state loaded (DESIGN CHOICE, log
entry 8). -/
def Checker.unlock (c : Checker) : Checker := { c with state := none, run := 0, locked := false }

/-- The value a word of a TEST readout is judged as (R48). -/
def LaneWord.value : LaneWord → Word16
  | .data w => w
  | _ => 0

/-! ## Reassembly -/

/-- Whether a TEST readout is in progress. -/
def State.inTest (s : State) : Bool :=
  match s.sp.reading with
  | .active r => r.kind == .test
  | _ => false

/-- Whether the words that arrive are those of a TEST readout in progress. -/
def State.testing (s : State) : Bool := s.inTest && !s.sp.items.contains .stop

/-- Whether the next complete unit will be a header: between readouts with nothing waiting, or after a set of END words
that waits (R34). -/
def State.headerDue (s : State) : Bool :=
  match s.sp.items.getLast? with
  | none => s.sp.reading == .between
  | some .stop => true
  | some _ => false

/-- Whether the words that arrive belong to a readout in progress: its END words have not come (R34). -/
def State.inReadout (s : State) : Bool :=
  match s.sp.reading with
  | .active _ => !s.sp.items.contains .stop
  | _ => false

/-- Whether eight words are a readout header with a right checksum (R34). -/
def isHeader (ws : List Word16) : Bool := ws.length == 8 && (ws.getD 7 0).toNat == crcWords (ws.take 7)

/-- Whether a line's header check passes and names a kind (R38). -/
def lineIdentified (ws : List Word16) : Bool :=
  let k := (ws.getD 0 0).toNat % 256
  decide (2 ≤ ws.length) && (ws.getD 0 0).toNat / 256 == lineCheck k (ws.getD 1 0) && decide (1 ≤ k ∧ k ≤ 3)

/-- Whether the unit in hand, its words being `ws`, is a complete header: its eighth word has come, and either a header is
due, or a readout is in progress and the eight words are a header with a right checksum and no line's beginning (R34;
DEDUCED, log entry 8). -/
def State.headerEnds (s : State) (ws : List Word16) : Bool :=
  ws.length == 8 && (s.headerDue || (s.inReadout && isHeader ws && !lineIdentified ws))

/-- Whether reassembly waits for a header to be judged: what follows it depends on it. -/
def State.held_ (s : State) : Bool :=
  match s.sp.items.getLast? with
  | some (.unit ws) => s.sp.reading == .between || s.sp.items.contains .stop || (s.inReadout && isHeader ws)
  | _ => false

/-- A lane's head removed. -/
def popLane (i : Nat) (p : SensorPort) : SensorPort := { p with fifos := modAt i (List.drop 1) p.fifos }

/-- The heads of the lanes that meet `f` removed. -/
def popWhere (l : List Nat) (f : Nat → Bool) (p : SensorPort) : SensorPort :=
  (l.filter f).foldl (fun q i => popLane i q) p

/-- The unit in hand, if any, put among what is ready. -/
def emitUnit (p : SensorPort) : SensorPort :=
  if p.unitOpen then { p with items := p.items ++ [.unit p.assembly], unitOpen := false, assembly := [] } else p

/-- A set of LINE words: it ends the unit in hand and opens the next (R34, R38). -/
def lineSet (l : List Nat) (p : SensorPort) : SensorPort :=
  let q := emitUnit (popWhere l (fun _ => true) p)
  { q with unitOpen := true, assembly := [], turn := 0 }

/-- A set of END words: it ends the unit in hand and the readout (R34). -/
def stopSet (l : List Nat) (p : SensorPort) : SensorPort :=
  let q := emitUnit (popWhere l (fun _ => true) p)
  { q with turn := 0, items := q.items ++ [.stop] }

/-- A data word taken from the lane whose turn it is (R27). `ends` tells whether the unit in hand is then a complete
header. -/
def takeWord (w : Word16) (ends : List Word16 → Bool) (n : Nat) (p : SensorPort) : SensorPort :=
  let q := popLane p.turn p
  let q1 := { q with turn := (p.turn + 1) % n, assembly := if p.unitOpen then p.assembly ++ [w] else p.assembly }
  if q1.unitOpen && ends q1.assembly then emitUnit q1 else q1

/-- The lanes at whose head stands this word. -/
def State.headIs (s : State) (w : LaneWord) (i : Nat) : Bool := s.headOf i == some w

/-- Whether a data word stands at a lane's head. -/
def State.headData (s : State) (i : Nat) : Bool :=
  match s.headOf i with
  | some (.data _) => true
  | _ => false

/-- One word of a TEST readout judged by its lane's checker while the pattern check is on (R48). After STOP the counts
stand until the next START (R47). -/
def testWord (i : Nat) (w : LaneWord) (p : SensorPort) : SensorPort :=
  { popLane i p with checkers := if p.checkOn then modAt i (fun c => c.judge w.value) p.checkers else p.checkers }

/-- The words that came on lane `j` of those dealt to `n` lanes (R27). -/
def laneShare (n j : Nat) (ws : List Word16) : List Word16 := (ws.zipIdx.filter (fun p => p.2 % n == j)).map (·.1)

/-- The unit in hand of a TEST readout is no header: its LINE words and its words were words of the pattern, and each lane's
checker judges them in their order, a LINE word as 0 (R48). -/
def judgeUnit (n : Nat) (p : SensorPort) : SensorPort :=
  { p with
    unitOpen := false, assembly := []
    checkers :=
      if p.unitOpen && p.checkOn then
        p.checkers.mapIdx (fun j c => if j < n then (laneShare n j p.assembly).foldl Checker.judge (c.judge 0) else c)
      else p.checkers }

/-- A turn of data words taken into the unit in hand of a TEST readout: eight words with a right checksum are a header, and
eight others are words of the pattern (R34, R48). -/
def growTest (l : List Nat) (ws : List Word16) (p : SensorPort) : SensorPort :=
  let q := { popWhere l (fun _ => true) p with assembly := p.assembly ++ ws }
  if q.assembly.length < 8 then q else if isHeader q.assembly then emitUnit q else judgeUnit l.length q

/-- Whether every lane's FIFO holds a word: a turn of reassembly can be taken (R33). -/
def State.turnReady (s : State) : Bool := s.laneList.all (fun i => (s.headOf i).isSome)

/-- The value that a lane's head is judged as (R48). -/
def State.headValue (s : State) (i : Nat) : Word16 := ((s.headOf i).getD .line).value

/-- One turn of a TEST readout, one word from each lane's FIFO head (R33): the END words, one on every lane, end the
readout; LINE words, one on every lane, may open the next readout's header, and the eight words after them are that header
if their checksum is right (R34); any other turn's words are judged, control words among them as data words of 0 (R48), as
are a unit's words once it is seen to be no header (DEDUCED, log entry 8). None where a lane has no word. -/
def stepTest (s : State) : Option State :=
  let l := s.laneList
  if !s.turnReady then none
  else if l.all (s.headIs .stop) then some (modSensor (fun p => stopSet l (judgeUnit s.lanes p)) s)
  else if l.all (s.headIs .line) then some (modSensor (fun p => lineSet l (judgeUnit s.lanes p)) s)
  else if s.sp.unitOpen && l.all s.headData then some (modSensor (growTest l (l.map s.headValue)) s)
  else
    some (modSensor (fun p => l.foldl (fun q i => testWord i ((s.headOf i).getD .line) q) (judgeUnit s.lanes p)) s)

/-- Whether a data word or an END word stands at a lane's head. -/
def State.headStray (s : State) (i : Nat) : Bool := s.headData i || s.headIs .stop i

/-- One step between readouts with no header in hand (R34): a data word or an END word is dropped from its lane, and a set
of LINE words, one on every lane, opens the header. -/
def stepIdle (s : State) : Option State :=
  match s.laneList.find? s.headStray with
  | some i => some (modSensor (popLane i) s)
  | none => if s.turnReady then some (modSensor (lineSet s.laneList) s) else none

/-- One step while reassembly waits for a LINE or END word at every lane's head (R33). -/
def stepResync (s : State) : Option State :=
  match s.laneList.find? s.headData with
  | some i => some (modSensor (popLane i) s)
  | none =>
    if s.turnReady then some (modSensor (fun p => { p with resync := false }) s) else none

/-- One step of reassembly: a word, or a set of control words, taken from the FIFO heads; none where words are wanting
(R27, R34). A surplus word on a lane spoils the length of the unit in hand; where LINE and END stand together, the LINE
words are dropped (DESIGN CHOICE, log entry 8). -/
def stepNormal (s : State) : Option State :=
  match s.headOf s.sp.turn with
  | none => none
  | some (.data w) => some (modSensor (takeWord w s.headerEnds s.lanes) s)
  | some c =>
    match s.laneList.find? s.headData with
    | some i => some (modSensor (fun p => { popLane i p with assembly := if p.unitOpen then p.assembly ++ [0] else [] }) s)
    | none =>
      if !s.turnReady then none
      else if s.laneList.all (s.headIs .line) then some (modSensor (lineSet s.laneList) s)
      else if s.laneList.all (s.headIs .stop) then some (modSensor (stopSet s.laneList) s)
      else if c = .line ∨ c = .stop then some (modSensor (popWhere s.laneList (s.headIs .line)) s)
      else none

/-- One step of the ALIGNED port's reassembly. -/
def stepPump (s : State) : Option State :=
  if s.held_ then none
  else if s.sp.resync then stepResync s
  else if s.testing then stepTest s
  else if s.headerDue && !s.sp.unitOpen then stepIdle s
  else stepNormal s

/-- Reassembly run until words are wanting. -/
def pumpFor : Nat → State → State
  | 0, s => s
  | n + 1, s => match stepPump s with | some t => pumpFor n t | none => s

/-- Reassembly run over everything the FIFOs hold. -/
def pump (s : State) : State := if s.sp.link = .aligned then pumpFor 160 s else s

/-! ## Black measurement -/

/-- A normalized pixel added to its plane's accumulator (R45). -/
def Accums.add (p : Plane) (v : Nat) (a : Accums) : Accums :=
  let f := fun (x : Accum) => ({ sum := x.sum + v, count := x.count + 1 } : Accum)
  match p with
  | .r => { a with r := f a.r }
  | .gr => { a with gr := f a.gr }
  | .gb => { a with gb := f a.gb }
  | .b => { a with b := f a.b }

/-- A good BLACK line's pixels accumulated (R45). -/
def accumulate (c : CaptureCfg) (index stream : Nat) (a : Accums) : Accums :=
  (List.range c.width).foldl (fun acc x =>
    acc.add (planeAt c.cfa (x % 2) (index % 2)) (pixelOf stream c.depth x * 2 ^ (16 - c.depth))) a

/-- A plane's mean: rounded half up, or the fixed black at a count of 0 (R45). -/
def meanOf (fixed : Nat) (a : Accum) : Nat := if a.count = 0 then fixed else (2 * a.sum + a.count) / (2 * a.count)

/-- The four means (R45). -/
def meansOf (fixed : Nat) (a : Accums) : Planes :=
  { r := meanOf fixed a.r, gr := meanOf fixed a.gr, gb := meanOf fixed a.gb, b := meanOf fixed a.b }

/-- A plane's value. -/
def Planes.at (k : Planes) : Plane → Nat
  | .r => k.r
  | .gr => k.gr
  | .gb => k.gb
  | .b => k.b

/-! ## IMAGE lines -/

/-- The raw extent of the LANDING shot. -/
def State.landingRaw (s : State) : List Nat := ((s.ss.table.find? isLanding).map (·.raw)).getD []

/-- The bytes of a line filled with the black of each pixel's plane (R43). -/
def blackLine (c : CaptureCfg) (k : Planes) (y : Nat) : List Byte :=
  streamBytes (c.width * c.depth / 8)
    (packPixels c.depth ((List.range c.width).map (fun x => k.at (planeAt c.cfa (x % 2) (y % 2)) / 2 ^ (16 - c.depth))))

/-- Bytes of one line at the applied geometry. -/
def State.lineLen (s : State) : Nat := lineBytes s.cfg.geometry

/-- Line `y` substituted (R43). -/
def substitute (k : Planes) (y : Nat) (s : State) : State :=
  let raw := s.landingRaw
  let n := s.lineLen
  let data := if 2 ≤ y then readRange s.mem raw ((y - 2) * n) n else blackLine s.cfg.capture k y
  modEntry isLanding (fun t => { t with damaged := t.damaged + 1 }) { s with mem := writeExtent raw data (y * n) s.mem }

/-- Lines `a` up to but not including `b` substituted in increasing order (R42). -/
def substituteRange (k : Planes) (a b : Nat) (s : State) : State :=
  ((List.range b).drop a).foldl (fun u y => substitute k y u) s

/-- The readout in progress replaced. -/
def setReadout (r : Readout) (s : State) : State := modSensor (fun p => { p with reading := .active r }) s

/-- An IMAGE line of a SHOT readout placed (R42). -/
def placeImage (r : Readout) (i : Nat) (good : Option (List Byte)) (s : State) : State :=
  if i < r.nextImage ∨ s.cfg.capture.height ≤ i then orderError s
  else
    let s1 := substituteRange r.means r.nextImage i s
    let s2 :=
      match good with
      | some data => { s1 with mem := writeExtent s1.landingRaw data (i * s1.lineLen) s1.mem }
      | none => substitute r.means i s1
    setReadout { r with nextImage := i + 1 } s2

/-! ## Lines -/

/-- The BLACK section closed, the means formed (R39, R45). -/
def closeBlack (r : Readout) (s : State) : Readout :=
  if r.blackOpen then { r with blackOpen := false, means := meansOf s.cfg.capture.fixedBlack s.sp.accums } else r

/-- A BLACK line (R39, R45). -/
def takeBlack (r : Readout) (b : Nat) (good : Option Nat) (s : State) : State :=
  if !r.blackOpen ∨ r.nb ≤ b ∨ r.blackSeen.contains b then orderError s
  else
    let s1 := setReadout { r with blackSeen := r.blackSeen ++ [b] } s
    match good with
    | some stream =>
      if r.kind = .shot then modSensor (fun p => { p with accums := accumulate s.cfg.capture b stream p.accums }) s1 else s1
    | none => s1

/-- A PHASE line (R39, R46). -/
def takePhase (r : Readout) (row : Nat) (good : Option (List Word16)) (s : State) : State :=
  if 10 < row ∨ r.phaseSeen.contains row ∨ r.np ≤ r.phaseSeen.length then orderError (setReadout r s)
  else handRow row good (setReadout { r with phaseSeen := r.phaseSeen ++ [row] } s)

/-- The payload words that a line's kind calls for (R38). -/
def State.payloadWords (s : State) (kind : Nat) : Nat :=
  if kind = 2 then 1408 else s.cfg.capture.width * s.cfg.capture.depth / 16

/-- Whether an identified line passes the length check and the CRC (R38). -/
def State.lineGood (s : State) (ws : List Word16) : Bool :=
  let p := s.payloadWords ((ws.getD 0 0).toNat % 256)
  ws.length == p + 3 && (ws.getD (p + 2) 0).toNat == crcWords (ws.take (p + 2))

/-- A line judged and taken (R38, R39, R42, R46). `cut` tells that drift cut it off: it is damaged or unidentified, and the
drift has counted its error (R33). -/
def judgeLine (cut : Bool) (r : Readout) (ws : List Word16) (s : State) : State :=
  let counted := if cut then s else allError s
  if !lineIdentified ws then setReadout (closeBlack r s) counted
  else
    let kind := (ws.getD 0 0).toNat % 256
    let index := (ws.getD 1 0).toNat
    let good := s.lineGood ws && !cut
    let payload := (ws.drop 2).take (s.payloadWords kind)
    let s1 := if good then s else counted
    match kind with
    | 1 => takeBlack r index (if good then some (streamNat payload) else none) s1
    | 2 => takePhase (closeBlack r s) index (if good then some payload else none) s1
    | _ =>
      let r1 := closeBlack r s
      let s2 := setReadout r1 s1
      if r.kind = .shot then placeImage r1 index (if good then some (wordBytes payload) else none) s2 else s2

/-! ## The close of a readout -/

/-- The rows not handed in a readout with PHASE lines, handed as damaged (R46). -/
def handMissing (r : Readout) (s : State) : State :=
  if r.np = 0 then s
  else ((List.range 11).filter (fun k => !r.phaseSeen.contains k)).foldl (fun u k => handRow k none u) s

/-- A readout closed (R37). -/
def closeReadout (r : Readout) (s : State) : State :=
  let s0 := modSensor (fun p => { p with reading := .between }) s
  match r.kind with
  | .test => s0
  | .watch => handMissing r s0
  | .shot =>
    let r1 := closeBlack r s
    let s1 := substituteRange r1.means r1.nextImage s.cfg.capture.height s0
    closeFrame true (landShot r1.means (handMissing r1 s1))

/-! ## Readout headers -/

/-- A discarded readout opened (R34, R35). -/
def discardReadout (s : State) : State := modSensor (fun p => { p with reading := .discarded }) s

/-- A discarded readout of an unexpected kind (R35). -/
def unexpectedReadout (s : State) : State :=
  modSensor (fun p => { p with unexpected := sat32 p.unexpected }) (discardReadout s)

/-- A discarded readout of a bad header (R34, R35). -/
def badHeader (s : State) : State :=
  modSensor (fun p => { p with badHeaders := sat32 p.badHeaders }) (discardReadout s)

/-- A readout opened. -/
def openReading (k : ReadoutKind) (w : Nat → Nat) (s : State) : State :=
  setReadout
    { kind := k, sequence := w 1 % 256, nb := w 2, np := w 3, nh := w 4, start := s.time, blackOpen := w 2 != 0
      blackSeen := [], phaseSeen := [], nextImage := 0, means := meansOf s.cfg.capture.fixedBlack {} } s

/-- A SHOT header for the expected shot (R36). A sequence word above 255, the range of R34, is taken modulo 256 (DESIGN
CHOICE, log entry 8). -/
def shotHeader (w : Nat → Nat) (t : Shot) (s : State) : State :=
  let c := s.cfg.capture
  let right := w 5 == c.width && w 5 == t.geom.width && w 6 == c.depth && w 6 == t.geom.depth && w 4 == c.height
    && w 4 == t.geom.height && decide (w 2 ≤ 16) && decide (w 3 ≤ 11)
  if !right then closeFrame false (voidShot isTriggered .headerMismatch (discardReadout s))
  else
    let s1 := modEntry isTriggered (fun t => { t with state := .landing, sequence := w 1 % 256 }) s
    let s2 := { s1 with rtu := { s1.rtu with
      readoutAt := none, phase := if s1.rtu.phase = .exposing then .reading else s1.rtu.phase } }
    let s3 := modSensor (fun p => { p with accums := {} }) s2
    openReadout .shot s.time (openReading .shot w s3)

/-- A header judged and routed (R34, R35). A kind other than the three opens a discarded readout and counts as a bad
header (DESIGN CHOICE, log entry 8). -/
def judgeHeader (ws : List Word16) (s : State) : State :=
  let w := fun i => (ws.getD i 0).toNat
  let c := s.cfg.capture
  if !isHeader ws then badHeader (allError s)
  else if w 0 = 1 then
    match s.ss.table.find? isTriggered with
    | some t => if s.sp.checkOn then unexpectedReadout s else shotHeader w t s
    | none => unexpectedReadout s
  else if w 0 = 2 then
    if s.sp.checkOn then unexpectedReadout s
    else if w 2 ≤ 16 ∧ w 3 ≤ 11 ∧ w 4 ≤ c.height ∧ w 5 = c.width ∧ w 6 = c.depth then
      openReadout .watch s.time (openReading .watch w s)
    else badHeader s
  else if w 0 = 3 then
    if s.sp.checkOn then modSensor (fun p => { p with checkers := p.checkers.map Checker.unlock }) (openReading .test w s)
    else unexpectedReadout s
  else badHeader s

/-! ## What the assembled units do -/

/-- What is ready first, taken. -/
def dropItem (s : State) : State := modSensor (fun p => { p with items := p.items.drop 1 }) s

/-- The unit that is ready first, if it is a header: between readouts any unit is, and within one, a TEST readout among
them, a unit of eight words with a right checksum (R34; DEDUCED, log entry 8). -/
def State.headerReady (s : State) : Option (List Word16) :=
  match s.sp.items.head?, s.sp.reading with
  | some (.unit ws), .between => some ws
  | some (.unit ws), .active _ => if isHeader ws then some ws else none
  | _, _ => none

/-- The header that is ready taken: a readout in progress closes first (R34). -/
def takeHeader (ws : List Word16) (s : State) : State :=
  pump (dropItem (judgeHeader ws (match s.sp.reading with | .active r => closeReadout r s | _ => s)))

/-- The line that is ready first, of the readout or of a discarded readout: whether drift cut it off, and its words. -/
def State.lineReady (s : State) : Option (Bool × List Word16) :=
  match s.sp.items.head?, s.sp.reading with
  | some (.unit ws), .active _ => if isHeader ws then none else some (false, ws)
  | some (.unit ws), .discarded => some (false, ws)
  | some (.cut ws), _ => some (true, ws)
  | _, _ => none

/-- The line that is ready taken (R38); a discarded readout's is dropped (R34). -/
def takeLine (l : Bool × List Word16) (s : State) : State :=
  pump (dropItem (match s.sp.reading with
    | .active r => if r.kind = .test then s else judgeLine l.1 r l.2 s
    | _ => s))

/-- Whether a set of END words is ready first. -/
def State.stopReady (s : State) : Bool := s.sp.items.head? == some .stop

/-- The END words taken (R34, R37). -/
def takeStop (s : State) : State :=
  pump (dropItem (match s.sp.reading with
    | .active r => closeReadout r s
    | _ => modSensor (fun p => { p with reading := .between }) s))

/-- Whether the readout has been silent for the readout timeout (R34, R37). Between readouts there is none to end, so silence
never ends a header in hand whose eighth word does not come (DESIGN CHOICE, log entry 8). -/
def State.silent (s : State) : Bool :=
  s.sp.link == .aligned && s.sp.reading != .between && s.sp.items.isEmpty
    && decide (s.sp.lastWordAt + s.cfg.burst.readoutMs * 1000 ≤ s.time)

/-- A readout closed by silence, as though its END had arrived: the line in hand is judged first (R37), and in a TEST readout
the words of a unit that is no header (R48). Eight words in hand that are a header with a right checksum are the next
readout's header: it closes the readout and is judged (R34). -/
def closeSilent (s : State) : State :=
  let ws := s.sp.assembly
  let isOpen := s.sp.unitOpen
  let s1 := modSensor (fun p =>
    { (if s.inTest then judgeUnit s.lanes p else p) with unitOpen := false, assembly := [], turn := 0 }) s
  match s1.sp.reading with
  | .active r =>
    if isOpen && isHeader ws && r.kind != .test then judgeHeader ws (closeReadout r s1)
    else
      let s2 := if isOpen && r.kind != .test then judgeLine false r ws s1 else s1
      (match s2.sp.reading with | .active r2 => closeReadout r2 s2 | _ => s2)
  | _ => modSensor (fun p => { p with reading := .between }) s1

/-! ## Drift -/

/-- Whether the unit in hand is a line of a SHOT or WATCH readout in progress. -/
def State.lineInHand (s : State) : Bool := s.sp.unitOpen && s.inReadout && !s.inTest

/-- Every FIFO emptied, and the line in hand, if any, cut off: it stands as a line to be judged (R33). The words of a unit in
hand of a TEST readout, which drift keeps from being a header, are judged as words of the pattern (R48). -/
def emptyLanes (s : State) : State :=
  modSensor (fun p => { (if s.testing then judgeUnit s.lanes p else p) with
    fifos := noWords, unitOpen := false, assembly := [], turn := 0
    items := if s.lineInHand then p.items ++ [.cut p.assembly] else p.items }) s

/-- The lanes have drifted (R33). With the pattern check on, the FIFOs are emptied and nothing is counted or requested; a
TEST readout goes on lane by lane, and elsewhere reassembly waits for LINE or END words on every lane. Otherwise the line
cut off and the drift each add to every counter, a retrain is requested with reason DRIFT, and reassembly waits. -/
def driftLanes (s : State) : State :=
  let s1 := emptyLanes s
  if s.sp.checkOn then modSensor (fun p => { p with resync := !s.testing }) s1
  else
    let s2 := modSensor (fun p => { p with resync := true, retrain := some (p.retrain.getD .drift) }) s1
    let s3 := allError (if s.lineInHand then allError s2 else s2)
    if s.sp.retrain.isNone then retest .link (raiseRetrain none .drift s3) else s3

/-- Each lane's emptiness brought up to a word time: a lane that holds words, and every lane while all are empty, counts
from now (R33). -/
def noteEmpty (wt : Nat) (s : State) : State :=
  let allEmpty := s.laneList.all (fun i => (s.fifo i).isEmpty)
  modSensor (fun p => { p with
    emptyFrom := (List.range 8).map (fun i =>
      if allEmpty || !(p.fifos.getD i []).isEmpty then wt else p.emptyFrom.getD i 0) }) s

/-- Whether a lane has been empty for more than 12 word times while another is not (R33). -/
def State.starvedLane (s : State) (wt : Nat) : Bool :=
  s.laneList.any (fun i => !(s.fifo i).isEmpty)
    && s.laneList.any (fun i => (s.fifo i).isEmpty && decide (Config.windowWords < wt - s.sp.emptyFrom.getD i 0))

/-- Whether a lane's FIFO is full. -/
def State.fullLane (s : State) : Bool := s.laneList.any (fun i => decide (Config.fifoWords ≤ (s.fifo i).length))

/-! ## Symbols -/

/-- The logical lane that a physical lane feeds, if any (R27). -/
def State.logicalLane (s : State) (phys : Nat) : Option Nat :=
  s.laneList.find? (fun i => s.cfg.capture.laneMap.getD i 8 == phys)

/-- A symbol after its lane's polarity (R27). -/
def State.polarized (s : State) (phys : Nat) (sym : BitVec 18) : BitVec 18 :=
  if s.cfg.capture.inverted.getD phys false then ~~~sym else sym

/-- A word placed into a lane's FIFO while ALIGNED, with reassembly run; a seventeenth word, or a lane that has been empty
too long, is drift (R33). The word whose arrival shows the drift is dropped with the FIFOs (DESIGN CHOICE, log entry 8). A
word that reassembly takes at once has stood in its FIFO at this word time. -/
def pushWord (i wt : Nat) (w : LaneWord) (s : State) : State :=
  let s0 := modSensor (fun p => { p with lastWordAt := s.time }) (noteEmpty wt s)
  if s.starvedLane wt ∨ Config.fifoWords ≤ (s0.fifo i).length then driftLanes s0
  else noteEmpty wt (pump (noteEmpty wt (modSensor (fun p => { p with fifos := modAt i (· ++ [w]) p.fifos }) s0)))

/-- A word in training: held on a lane that has had its MARK (R30). -/
def trainWord (i : Nat) (w : LaneWord) (s : State) : State :=
  if s.sp.trainReq && s.sp.marked.getD i false && decide ((s.fifo i).length < Config.fifoWords) then
    modSensor (fun p => { p with fifos := modAt i (· ++ [w]) p.fifos }) s
  else s

/-- A symbol on logical lane `i` (R27, R30, R34, R38, R40). A symbol error and a stray MARK stand as data words of 0. An IDLE
word is dropped here, within a TEST readout too, and so is not judged as a word of 0 (R27 over R48; DEDUCED, log entry 8). -/
def takeSymbol (i wt : Nat) (y : Symbol) (s : State) : State :=
  match s.sp.link, y with
  | .aligned, .data w => pushWord i wt (.data w) s
  | .aligned, .line => pushWord i wt .line s
  | .aligned, .stop => pushWord i wt .stop s
  | .aligned, .mark => pushWord i wt (.data 0) (laneError i s)
  | .aligned, .error => pushWord i wt (.data 0) (laneError i s)
  | .training, .data w => trainWord i (.data w) s
  | .training, .line => trainWord i .line s
  | .training, .stop => trainWord i .stop s
  | .training, .error => trainWord i (.data 0) s
  | .training, .mark => takeMark i wt s
  | _, _ => s

end Sys2Proof.Machine
end

