-- ==== Sys2Proof/Machine/Reports.lean ====
section
/-! DEFINITION. The records that the reporting commands return: each is the list of fields in the order in which the
owning rule names them (R21, R49, R56, R70, R71, R97, R114, R119, R136, R155, R158, R182, R196, R203, R206). -/

namespace Sys2Proof.Machine

open Sys2Proof

/-! ## Shot store -/

/-- A pin (R24). -/
def Pin.wires (p : Pin) : List Wire := [.word p.reader.name, .word p.kind.name]

/-- A duty; a send duty carries its class and resume offset (R21, R164), in one optional part (DESIGN CHOICE, log entry
23). -/
def Duty.wires (d : Duty) : List Wire :=
  [.word d.key.kindName, .word d.key.targetName, .word d.state.name]
    ++ match d.key with
      | .send _ => [.present true, .word (className d.urgent), .u32 d.resume]
      | _ => [.present false]

/-- The focus snapshot (R93). R21 gives the last defocus no width; it is carried in 4 bytes (DESIGN CHOICE, log entry 23). -/
def Snapshot.wires (x : Snapshot) : List Wire :=
  record [
    opt x.mode (fun m => [.word m.name]),
    [.word x.state.name],
    opt x.area (fun a => [.u8 a]),
    [.i32 x.defocus, .i32 x.counter, flag x.moving, .word (if x.confirmed then "CONFIRMED" else "UNCONFIRMED")]]

/-- The develop status with its channels (R126): its name and a flag for each of R, G and B, also with OK (DESIGN CHOICE, log
entry 23). -/
def HighMask.wires (h : HighMask) : List Wire :=
  [.word (if h.any then "BLACK_HIGH" else "OK"), flag h.r, flag h.g, flag h.b]

/-- SHOT_INFO's record (R21, R4, R5). R21 names its content and not its grouping: each extent's block count stands with its
bytes in one optional part, and the develop status and the recording count stand among the extents (DESIGN CHOICE, log entry
23). The phase error is carried in 4 bytes, as in the card file's header, and not in the 8 of a difference of readings
(DESIGN CHOICE, log entry 10). -/
def Shot.wires (t : Shot) (recording : Option Nat) : List Wire :=
  record [
    [.u32 t.number, .u32 t.burst, .u16 t.frame, .word t.state.name, .u64 t.released, .u64 t.scheduled,
     .u64 t.exposed, .i64 t.lateness, .i32 t.phase],
    t.snapshot.wires,
    [.u8 t.geom.depth, .u16 t.geom.width, .u16 t.geom.height, .word t.geom.cfa.name, .u8 t.sequence, .u16 t.damaged,
     .u16 t.black.r, .u16 t.black.gr, .u16 t.black.gb, .u16 t.black.b, .u8 t.recipe, flag t.urgent, flag t.keep,
      flag t.deleting, .u16 t.raw.length],
    opt t.proof (fun p => [.u16 p.blocks.length, .u32 p.bytes]),
    opt t.develop HighMask.wires,
    opt t.memo (fun m => [.u8 m.blocks.length, .u32 m.length]),
    opt recording (fun n => [.u8 n]),
    opt t.caption (fun c => [.bytes c]),
    listOf t.duties Duty.wires,
    listOf t.pins Pin.wires]

/-- The blocks of the recording extent of a shot, if a memo is recording into it (R5). -/
def State.recordingBlocks (s : State) (n : Nat) : Option Nat :=
  if s.recordsInto n then s.mi.current.map (fun m => m.blocks.length) else none

/-- The HELD shots at or above a number, in increasing order of number, 64 at most (R21). -/
def State.listedShots (s : State) (n : Nat) : List Shot :=
  ((s.heldShots.filter (fun t => decide (n ≤ t.number))).insertionSort (fun x y => x.number ≤ y.number)).take 64

/-- One line of SHOT_LIST (R21). -/
def Shot.listWires (t : Shot) : List Wire :=
  [.u32 t.number, flag t.urgent, flag t.keep, flag t.deleting, .u8 (t.duties.countP Duty.owed)]

/-! ## Sensor port -/

/-- LINK_STATS's record (R49). The retrain request and its reason are one optional part, present while the request stands
(DESIGN CHOICE, log entry 23). -/
def State.linkStats (s : State) : List Wire :=
  record [
    [.word s.sp.link.name, .u8 s.sp.attempts],
    opt s.sp.lastFail (fun r => [.word r.name]),
    [.u8 s.sp.skew],
    listOf (s.sp.errs.take s.lanes) (fun n => [.u8 n]),
    opt s.sp.retrain (fun r => [.word r.name]),
    [.u32 s.sp.retrains, .u32 s.sp.unexpected, .u32 s.sp.badHeaders, .u32 s.sp.lineOrder]]

/-- LANE_TEST READ's record (R47). -/
def State.laneTest (s : State) : List Wire :=
  listOf (s.sp.checkers.take s.lanes) (fun c => [flag c.locked, .u32 c.mismatch, .u32 c.compared])

/-! ## Release and timing unit -/

/-- A requested count, or UNTIL_END. -/
def countWires : Option Nat → List Wire
  | none => [.named true]
  | some n => [.named false, .u16 n]

/-- Which readiness conditions hold for the frame due (R59). -/
def State.conditionWires (s : State) (b : BurstRec) : List Wire :=
  [flag (s.ss.table.any isClaimed), flag s.linkReady, flag (s.rtu.phase == .waiting)
   , flag (s.focusReady || s.rtu.waitExpired), flag (decide (b.scheduled b.triggered ≤ s.time))]

/-- BURST_STATE's record (R56). What follows the burst number stands in one optional part, absent when no burst has run; the
frame due's time and the conditions are those of now, in IDLE too (DESIGN CHOICE, log entry 23). -/
def State.burstState (s : State) : List Wire :=
  record [
    [.word s.rtu.phase.name, .u32 ((s.rtu.burst.map (·.number)).getD 0)],
    opt s.rtu.burst (fun b => record [
      [.word b.owner.name],
      countWires b.count,
      [.u16 b.triggered, .u16 b.landed, .u16 b.voided, .u16 b.late, .u32 b.ignored, .u16 b.byWait, .u64 b.t0,
        .u32 b.latency, .u32 b.period, .i64 b.tg, .u16 b.kg, .i64 (b.scheduled b.triggered)],
      s.conditionWires b])]

/-- SYNC_STATE's record (R70). -/
def State.syncState (s : State) : List Wire :=
  record [
    [.word s.cfg.burst.syncMode.name, .u16 s.cfg.burst.window, flag s.rtu.armed, flag s.rtu.aligned],
    opt s.rtu.standing (fun g => [.i64 g.origin, .u32 g.period]),
    opt s.rtu.lastError (fun e => [.i32 e.1, .u64 e.2]),
    [.u32 s.rtu.edges, .u32 s.rtu.realigns, .u32 s.rtu.windows]]

/-- One ready-delay set (R71). -/
def DelaySet.wires (d : DelaySet) : List Wire :=
  [.u32 d.count, .i64 d.min, .i64 d.max, .u32 d.none, .u32 d.reservation, .u32 d.link, .u32 d.focus]

/-- LATENCY_STATS's record (R71). -/
def State.latencyStats (s : State) : List Wire :=
  s.rtu.first.wires ++ s.rtu.nexts.wires ++ [.u32 s.cfg.burst.latency, .u32 s.cfg.burst.period]

/-! ## Focus engine -/

/-- A rectangle. -/
def rectWires (r : Rect) : List Wire := [.u8 r.row0, .u8 r.col0, .u8 r.row1, .u8 r.col1]

/-- The area mode with its area or rectangle (R80). -/
def State.areaWires (s : State) : List Wire :=
  match s.fe.mode with
  | .single a => [.word "SINGLE_AREA", .u8 a]
  | .zone r => .word "ZONE" :: rectWires r
  | .track => [.word "TRACK", .u8 s.fe.trackStart]

/-- The last result record (R85). -/
def LastResult.wires (r : LastResult) : List Wire :=
  record [
    [.word r.outcome.name],
    opt r.area (fun a => [.u8 a]),
    [.i32 r.defocus],
    opt (if r.outcome = .search then some r.near else none) (fun n => [.word (nearFar n)]),
    [.i32 r.counter, .word (refName r.referenced), flag r.moving, .word r.kind.name, .u64 r.start],
    opt r.target (fun t => [.i32 t]),
    [flag r.atLimit, flag r.discarded]]

/-- The activity watcher (R97). -/
def State.watcherWires (s : State) : List Wire :=
  let w := s.fe.watcher
  record [
    [flag w.enabled, flag s.watching, .word (if w.full then "FULL" else "LOW"), .u8 w.counter],
    opt w.reference (fun e => [.u32 e]),
    opt w.last (fun e => [.u32 e]),
    [.u32 w.wakes]]

/-- AF_STATE's record (R97). -/
def State.afState (s : State) : List Wire :=
  record [
    opt s.fe.servoMode (fun m => [.word m.name]),
    [.word s.fe.servo.name, .u8 s.fe.fails, flag s.fe.settle.isSome],
    s.areaWires,
    rectWires s.fe.watchZone,
    [.word (if s.fe.track.lost then "LOST" else "TRACKING"), .u8 s.fe.track.current],
    opt s.fe.track.target (fun t => [.i32 t]),
    [.u8 s.fe.track.misses],
    s.fe.last.wires,
    [.i16 s.fe.coef],
    s.watcherWires]

/-- An area record (R97). A defocus is carried in 4 bytes, here, in AF_STATE and in FOCUS_STATE (DESIGN CHOICE, log entry
23). -/
def AreaResult.wires (r : AreaResult) : List Wire :=
  [.word r.kind.name, .u32 r.contrast, .i8 r.shift]
    ++ opt (if r.kind = .edge then some r.near else none) (fun n => [.word (nearFar n)])
    ++ opt (if r.kind = .valid then some (r.d16, r.defocus) else none) (fun p => [.i16 p.1, .i32 p.2])

/-- AF_GRID's record (R97). The 11 records are sent without a count, since their number is fixed (DESIGN CHOICE, log entry
23). -/
def State.afGrid (s : State) (row : Nat) : List Wire := ((s.fe.areas.drop (11 * row)).take 11).flatMap AreaResult.wires

/-! ## Lens port -/

/-- A 32-bit lens word as a field. -/
def lensWire (w : Word32) : Wire := .u32 w.toNat

/-- The frame period in force (R100, R114): the period that the lens frame in progress began with, or, while no frames run,
the applied one, with which the next frame begins (DEDUCED, log entry 19). -/
def State.periodInForce (s : State) : Nat := if s.lp.phase = .stopped then s.cfg.lens.framePeriod else s.lp.framePeriod

/-- LENS_STATE's record (R114). The STATUS word, the stage and the last DRIVE word are sent as 32-bit slot words with their
parity bit, and the home timer's time left as an optional part (DESIGN CHOICE, log entry 23). -/
def State.lensState (s : State) : List Wire :=
  let l := s.lp
  record [
    [flag l.enable, .word l.phase.name, .u16 s.periodInForce, .u32 l.frames],
    opt l.latest (fun w => [lensWire w.bits]),
    opt l.lensType (fun t => [.u8 t]),
    [flag l.nearStop, flag l.farStop, flag l.irisMoving, flag l.fault, .u8 l.failRun, .u8 l.goodRun, .u32 l.missing,
     .u32 l.parity, .u32 l.absent, .u32 l.repeated],
    opt l.stage (fun w => [lensWire (driveBits (some w))]),
    opt l.lastDrive (fun w => [lensWire (driveBits (some w))]),
    [.u32 l.drives, .u32 l.homes, flag l.homing],
    opt l.homeAt (fun t => [.i64 ((t : Int) - s.time)]),
    opt l.irisStage (fun v => [.u8 v]),
    [.u8 l.irisSent, .i32 l.far, .i32 l.near, .u8 l.irisMin, .u8 l.irisMax, .u8 l.auxQueue.length],
    listOf l.auxHistory (fun w => [.u16 w.toNat]),
    [.u32 l.auxReceived, .u32 l.auxDiscards, .i32 l.counter, .word (refName l.referenced), flag l.overrun,
     .u32 l.encErrors]]

/-! ## Development engine -/

/-- A recipe's content (R117). -/
def recipeContent (r : Recipe) : List Wire :=
  [.u8 r.scale, .u16 r.white, .i16 r.trimR, .i16 r.trimGr, .i16 r.trimGb, .i16 r.trimB
   , .u16 r.gainR, .u16 r.gainG, .u16 r.gainB, .u16 r.gainE] ++ r.matrix.map Wire.i16 ++ r.tone.map Wire.u16

/-- RECIPE_GET's record (R119). -/
def State.recipeWires (s : State) (n : Nat) : List Wire :=
  recipeContent (s.de.recipes.getD n defaultRecipe) ++ [.u8 s.de.recipe] ++ opt s.de.selected (fun x => [.u8 x])

/-- The current job (R136). -/
def State.jobWires (s : State) (j : Job) : List Wire :=
  [.u32 j.shot, .u8 j.recipeNo, .u16 j.width, .u16 j.height, .u16 j.blocks, flag (s.de.phase == .developing)]
    ++ opt (if s.de.phase = .stalled then some j.stalledAt else none) (fun t => [.u64 t])
    ++ [.u32 j.bytesRead, .u32 j.toRead, .u16 j.rows, .u16 j.height]

/-- DEVELOP_STATE's record (R136). -/
def State.developState (s : State) : List Wire :=
  record [
    [.word s.de.phase.name],
    opt s.de.job s.jobWires,
    [.u8 s.de.recipe],
    opt s.de.selected (fun x => [.u8 x]),
    [.u16 s.de.queue.length],
    listOf (s.de.queue.take 16) (fun e => [.u32 e.shot, .word (className e.urgent)]),
    [.u32 s.de.completed, .u32 s.de.aborts, .u32 s.de.abandons, .u32 s.de.stalls, .u32 s.de.highs]]

/-! ## Card writer -/

/-- A run of sectors. -/
def runWires (r : Run) : List Wire := [.u32 r.start, .u32 r.count]

/-- The current file (R158). A write in flight and one being retried are two flags (DESIGN CHOICE, log entry 23). -/
def CardFile.wires (f : CardFile) : List Wire :=
  [.u32 f.shot, .word f.kind.name, .u32 (Config.sectorBytes + f.payload), .u32 f.written, .u32 f.sectors]
    ++ listOf f.fragments runWires ++ [flag f.flight.isSome, flag (f.again.isSome || f.flight.any (·.retry))]

/-- The CARD_STATE command's record (R158). -/
def State.cardState (s : State) (sl : Slot) : List Wire :=
  let c := s.slot sl
  record [
    [.word c.state.name, .word c.hold.name, flag c.final],
    listOf c.extents runWires,
    [.u64 (sectorsOf c.extents)],
    [.u16 c.queue.length],
    listOf (c.queue.take 16) (fun j => [.u32 j.shot, .word j.kind.name]),
    opt c.file CardFile.wires,
    [.u8 c.returns.length, flag s.cw.overflow, .u32 c.lowMark, .u16 c.writeMs, .u32 c.written, .u32 c.abandoned,
     .u32 c.failed, .u32 c.errors, .u32 c.recovered, .u64 c.sectors]]

/-- A file return record (R155). -/
def FileRecord.wires (r : FileRecord) : List Wire :=
  record [
    [.u32 r.shot, .word r.kind.name, .word (if r.cause.isSome then "ABANDONED" else "WRITTEN")],
    opt r.cause (fun c => [.word c.name]),
    [.u32 r.bytes, .u32 r.sectors],
    listOf r.fragments runWires]

/-! ## Tether port -/

/-- The current transfer (R182). -/
def State.transferWires (s : State) (t : Transfer) : List Wire :=
  [.u32 t.shot, .word t.kind.name, .word (className t.urgent), .u16 t.id, .u32 t.total, .u32 t.acked, .u32 t.sent
   , .u8 t.inFlight, .u8 t.timeouts, .i64 ((t.expires : Int) - s.time), flag t.captionDue]

/-- An entry of the transfer queue (R182). -/
def State.entryWires (s : State) (e : Entry) : List Wire :=
  [.u32 e.shot, .word e.kind.name, .word (className e.urgent),
   .u32 (((s.sendDuty e.shot e.kind).map (·.resume)).getD 0)
   , flag (s.eligible e)]

/-- TETHER_STATE's record (R182). -/
def State.tetherState (s : State) : List Wire :=
  let t := s.tp
  record [
    [.word t.phase.name, flag s.lines.linkUp, .u8 t.credits, .u16 t.ids],
    opt t.transfer s.transferWires,
    [.u16 t.queue.length, .u16 t.deferred],
    listOf (t.queue.take 16) s.entryWires,
    [.word (onOff s.cfg.tether.peerRelease), .word (onOff s.cfg.tether.peerMark),
     .word (onOff s.cfg.tether.peerPull), .u16 s.cfg.tether.ackMs, .u32 t.offers, .u32 t.delivered, .u32 t.declined,
      .u32 t.failed, .u32 t.aborted, .u32 t.goBacks, .u32 t.segments, .u64 t.bytesAcked, .u32 t.badFrames,
       .u32 t.staleFrames, .u32 t.refused]]

/-! ## Memo input -/

/-- MEMO_STATE's record (R196). The start mode is the current memo's, and the applied one in IDLE; the current memo's shot,
samples and blocks are one optional part and the last frame's values another; the trailing silence count is 0 in IDLE (DESIGN
CHOICE, log entry 23). -/
def State.memoState (s : State) : List Wire :=
  let m := s.mi
  let voice := (m.current.map (·.onVoice)).getD s.cfg.memo.onVoice
  record [
    [.word m.phase.name, .word (if voice then "ON_VOICE" else "MANUAL")],
    opt m.current (fun c => [.u32 c.shot, .u32 c.samples, .u8 c.blocks.length]),
    [.u8 ((m.current.map (·.silence)).getD 0)],
    opt m.lastFrame (fun f => [.u16 f.energy, .u16 f.crossings, flag f.voiced]),
    [.u8 m.gain, .i16 m.offset],
    opt m.latest (fun n => [.u32 n]),
    [.u32 m.attached, .u32 m.truncated, .u32 m.aborted, .u32 m.cancelled]]

/-! ## Command port -/

/-- The blocks of the reserved extent (R22). -/
def State.reservedBlocks (s : State) : Nat :=
  ((s.ss.table.filter (fun t => t.state == .reserved)).map (fun t => t.raw.length)).sum

/-- STATUS's summary record (R203). -/
def State.summary (s : State) : List Wire :=
  [.word s.cp.power.name, .word s.sp.link.name, .word s.rtu.phase.name, .word s.fe.servo.name, .word s.lp.phase.name
   , .word s.cw.a.state.name, .word s.cw.b.state.name, .word s.de.phase.name, .word s.tp.phase.name,
    .word s.mi.phase.name
   , .u32 s.freeCount, .u16 s.heldShots.length, .u16 s.reservedBlocks, .u32 s.shotsFit, .u8 s.cp.notices.length
   , flag s.cp.lost, .u64 s.time]

/-- The number of a field, in the size of its range. -/
def numWire (f : Field) (n : Int) : Wire :=
  match f with
  | .laneCount | .depth | .errorThreshold | .releaseFilter | .searchRange | .inFocusWindow | .driveSpeed | .searchSpeed
  | .watcherThreshold | .trailingSilence => .u8 n.toNat
  | .sensorId | .width | .height | .fixedBlack | .readoutTimeout | .focusWait | .syncWindow | .searchStep | .lensFramePeriod
  | .homeTimeout | .captureFloor | .ackTimeout | .energyThreshold | .crossingThreshold => .u16 n.toNat
  | .indexValue => .i32 n
  | _ => .u32 n.toNat

/-- A field's value as it is carried (Formats, "Payload fields on the command port"). -/
def valWires (f : Field) : CfgVal → List Wire
  | .num n => [numWire f n]
  | .word w => [.word w]
  | .nums l => listOf l (fun n => [.u8 n.toNat])
  | .words l => listOf l (fun w => [.word w])
  | .text t => opt t (fun b => [.bytes b])

/-- GET_CONFIG's record: every field with its applied value, and its pending value if it has one (R206). -/
def State.groupWires (s : State) (g : Group) : List Wire :=
  listOf (Group.fields g) (fun f =>
    .word f.name :: valWires f (s.cfg.get f)
      ++ opt ((s.waiting.find? (fun w => w.1 == f)).map (·.2)) (valWires f))

end Sys2Proof.Machine
end

