-- ==== Sys2Proof/Machine/PowerOps.lean ====
section
/-! DEFINITION. The power states (R207 to R212): closing, standby, wake, command reset and power-up reset. -/

namespace Sys2Proof.Machine

open Sys2Proof

/-- Whether the unit takes releases from the line, the peer and sync in (R207). -/
def State.live (s : State) : Bool := s.cp.power == .active

/-! ## Sleep -/

/-- The focus engine at SLEEP (R99). A staged DRIVE_TO stands, so that a DRIVE slot still to come sends it (R104, R106,
R116). -/
def focusSleep (s : State) : State := if s.fe.servo = .idle then s else quitServo s

/-- An accepted SLEEP (R207): the standby kind, CLOSING, and each block told to close. -/
def sleepPart (s : State) : State :=
  let s1 := { s with cp := { s.cp with power := .closing, heldKind := s.cfg.store.hold } }
  lensSleep (cardSleep (memoSleep (developSleep (focusSleep (tetherSleep (sensorSleep s1))))))

/-- Whether closing completes (R208). -/
def State.closingDone (s : State) : Bool := s.cp.power == .closing && s.cardClosed && s.lp.phase == .stopped

/-- A standby kind's name. -/
def kindName (held : Bool) : String := if held then "HELD" else "PLAIN"

/-- SLEPT raised and the part CLOSED (R208). -/
def closePart (s : State) : State :=
  let s1 := raise .slept (.num 0) [.word (kindName s.cp.heldKind), .u64 s.time] s
  { s1 with cp := { s1.cp with power := .closed } }

/-- Whether the part enters STANDBY (R208). -/
def State.mayStandby (s : State) : Bool := s.cp.power == .closed && !s.attn

/-! ## Bringing up -/

/-- The input lines sampled after a reset: cards, lens, link, and the release-line filter started (R53, R115, R160,
R184). -/
def sampleLines (s : State) : State :=
  filterStart true (linkUpStep (detectStep (presentStep .b (presentStep .a s))))

/-- The pending first shot number applied (R3, R205). -/
def applyNumbering (s : State) : State := applyWaiting (fun f => f.group == .numbering) s

/-- The focus engine after a wake (R99). The wake count, and a disabled watcher's other values, are kept (DESIGN CHOICE, log
entry 18). -/
def focusWake (s : State) : State :=
  let f := s.fe
  let w := if f.watcher.enabled then f.watcher.started else f.watcher
  { s with fe := { f with
    areas := List.replicate 121 {}, inHand := none, track := { current := f.trackStart }, last := {}, servoMode := none
    servo := .idle, fails := 0, settle := none, settledAt := none, settleTimedOut := false, watcher := w } }

/-- The part woken from CLOSED or STANDBY (R210). -/
def wakePart (s : State) : State :=
  let held := s.cp.heldKind
  let s1 := applyNumbering { s with cp := { s.cp with power := .active } }
  let s2 := { s1 with rtu := {}, sp := {} }
  let s3 := if held then storeHeld s2 else storePlain s2
  let s4 := cardWake held (focusWake (tetherWake (developWake (memoWake s3))))
  let s5 := if held then handBack s4 else s4
  filterStart true (linkUpStep (lensWake s5))

/-- The command reset (R211): every block reset, the configuration's applied values kept, the lines sampled. -/
def resetPart (s : State) : State :=
  let cfg := (applyNumbering s).cfg
  sampleLines { State.reset with
    pending := s.pending, lines := s.lines, cfg := cfg, mem := s.mem, ss := { Store.reset with next := cfg.firstShot }
    lp := { State.reset.lp with framePeriod := cfg.lens.framePeriod } }

/-- Power-up reset (R212). -/
def powerUpPart (s : State) : State := sampleLines { State.reset with pending := s.pending, lines := s.lines }

end Sys2Proof.Machine
end

