-- ==== Sys2Proof/Machine/HostPort.lean ====
section
/-! DEFINITION. The command port (10_command_port_notices_and_settings.md): how a host command is taken, refused or answered
(R198, R199, R209, R210), the reply slot, and SET_CONFIG (R204, R205). -/

namespace Sys2Proof.Machine

open Sys2Proof

/-- What a command's own checks and effect give: a status, the result fields, and the state. -/
structure Answer where
  status : Status
  result : List Wire
  state : State
  deriving DecidableEq, Repr

/-- A command refused with a status: nothing changes. -/
def deny (st : Status) (s : State) : Answer := ⟨st, [], s⟩

/-- A reply put into the slot (R199). -/
def placeReply (tag : Byte) (resets : Bool) (a : Answer) : State :=
  { a.state with cp := { a.state.cp with slot := some ⟨tag, a.status, a.result, resets⟩ } }

/-- The answer of a frame that is not executed, put into the marker (R199). -/
def setMarker (tag : Byte) (st : Status) (s : State) : State := { s with cp := { s.cp with marker := some (tag, st) } }

/-- Whether a frame wakes the part (R209, R210): any in STANDBY, and in CLOSED all but those that `quiet` marks. -/
def State.wakesOn (s : State) (quiet : Bool) : Bool := s.cp.power == .standby || (s.cp.power == .closed && !quiet)

/-- The part woken by a frame, if it wakes it. -/
def wakeFor (quiet : Bool) (s : State) : State := if s.wakesOn quiet then wakePart s else s

/-- The kinds of commands that the gate tells apart: STATUS and GET_NOTICE, which do not wake the part in CLOSED; those
that CLOSING answers BAD_STATE; RESET; and all others (R209, R211). -/
inductive Gate | quiet | active | resets | plain
  deriving DecidableEq, Repr

/-- A command's answer once the part is awake: BAD_VALUE for a payload without its fields, BAD_STATE where CLOSING
refuses it, otherwise what it does (R198, R209). -/
def judgeCommand {α : Type} (g : Gate) (fields : Option α) (act : α → State → Answer) (s : State) : Answer :=
  match fields with
  | none => deny .badValue s
  | some x => if g = .active ∧ s.cp.power = .closing then deny .badState s else act x s

/-- A host command's frame (R199, R209, R210): with the slot busy its answer goes to the marker, otherwise the part is
woken if need be, and the command is judged, executed and answered. -/
def hostCommand {α : Type} (g : Gate) (r : Req α) (act : α → State → Answer) (s : State) : State :=
  if s.cp.slot.isSome then setMarker r.tag .notReady s
  else placeReply r.tag (g == .resets && r.fields.isSome) (judgeCommand g r.fields act (wakeFor (g == .quiet) s))

/-- A reply OK. -/
def ok (result : List Wire) (s : State) : Answer := ⟨.ok, result, s⟩

/-- A reply ACCEPTED. -/
def accepted (result : List Wire) (s : State) : Answer := ⟨.accepted, result, s⟩

/-- A frame that is not executed and names no command of the part: BAD_FRAME or UNKNOWN (R198, R199). In CLOSED it does
not wake the part (DEDUCED, log entry 5). -/
def badHostFrame (tag : Byte) (st marked : Status) (s : State) : State :=
  if s.cp.slot.isSome then setMarker tag marked s
  else placeReply tag false (deny st (wakeFor true s))

/-- The reply in the slot has been collected (R199): an answer in the marker moves into the slot. The reply of RESET
makes the command reset take effect (R211). -/
def collectReply (s : State) : State :=
  match s.cp.slot with
  | none => s
  | some r =>
    if r.resets then resetPart s
    else
      { s with cp := { s.cp with
        slot := s.cp.marker.map (fun m => ⟨m.1, m.2, [], false⟩), marker := none } }

/-! ## SET_CONFIG -/

/-- The fields and values of a SET_CONFIG message, if it passes the check of the whole: every field known, of the group,
and named once (R204). -/
def ConfigArg.checked (g : Group) (l : List (Option Field × CfgVal)) : Option (List (Field × CfgVal)) :=
  match l.mapM (fun p => p.1.map (fun f => (f, p.2))) with
  | some ps => if ps.all (fun p => p.1.group == g) ∧ (ps.map (·.1)).Nodup then some ps else none
  | none => none

/-- Whether a field's taken value becomes applied at once (R205). -/
def State.immediate (s : State) (f : Field) : Bool :=
  match f.group with
  | .focus | .lens | .tether | .memo => true
  | .store => f != .wheel
  | .burst => s.rtu.phase == .idle
  | _ => false

/-- One taken value acts by its group's effect point (R205). -/
def takeValue (f : Field) (v : CfgVal) (s : State) : State :=
  if s.immediate f then { s with cfg := s.cfg.apply f v, waiting := s.waiting.filter (fun w => w.1 != f) }
  else setWaiting f v s

/-- The fields whose carried values are out of range (R204). -/
def State.defaulted (s : State) (l : List (Field × CfgVal)) : List Field :=
  (l.filter (fun p => (s.cfg.put p.1 p.2).isNone)).map (·.1)

/-- CONFIG_DEFAULTED raised for replaced fields (R204). -/
def raiseDefaulted (sub : Subject) (names : List String) (s : State) : State :=
  if names = [] then s else raise .configDefaulted sub (listOf names (fun n => [.word n])) s

/-- A checked message taken: each value, carried or default, acts; then the blocks act on what changed (R204, R70, R107,
R113). A stability timer of the release line that runs is left to run out at the filter time it was started with (R53;
DESIGN CHOICE, log entry 10). -/
def takeConfig (g : Group) (l : List (Field × CfgVal)) (s : State) : State :=
  let s1 := raiseDefaulted (.group g) ((s.defaulted l).map Field.name) s
  let s2 := l.foldl (fun t p => takeValue p.1 (takenVal s.cfg p.1 p.2) t) s1
  match g with
  | .lens => lensApplied s.cfg.lens s2
  | .burst => { s2 with rtu := syncApplied s.cfg.burst s2.cfg.burst s.time s2.rtu }
  | _ => s2

end Sys2Proof.Machine
end

