-- ==== Sys2Proof/Machine/SensorCommands.lean ====
section
/-! DEFINITION. The sensor port's commands and link events (02_sensor_port_and_readout.md): LINK_START, LINK_STOP,
LANE_TEST, LINK_STATS, the lane symbols, training, drift, the readout's parts and the retrain. -/

namespace Sys2Proof.Machine

open Sys2Proof

/-! ## Host commands -/

/-- LINK_START's own checks and effect (R29). -/
def actLinkStart (_ : Unit) (s : State) : Answer :=
  if s.sp.link = .training ∨ s.sp.link = .aligned then deny .badState s else accepted [] (startLink s)

/-- LINK_START (R29). -/
def execLinkStart (r : Req Unit) (s : State) : Host.Outcome State Fault Refusal :=
  .next (hostCommand .active r actLinkStart s)

/-- LINK_STOP's effect (R29, R66). -/
def actLinkStop (_ : Unit) (s : State) : Answer := if s.sp.link = .down then ok [] s else ok [] (stopLink s)

/-- LINK_STOP (R29). -/
def execLinkStop (r : Req Unit) (s : State) : Host.Outcome State Fault Refusal :=
  .next (hostCommand .plain r actLinkStop s)

/-- LANE_TEST START's own checks and effect (R47). -/
def actLaneTestStart (_ : Unit) (s : State) : Answer :=
  if s.rtu.phase ≠ .idle then deny .busy s
  else if s.sp.link ≠ .aligned ∨ s.sp.retrain.isSome ∨ s.sp.checkOn then deny .badState s
  else
    let t := modSensor (fun p => { p with checkOn := true, checkers := List.replicate 8 {} }) s
    ok [] (retest .link t)

/-- LANE_TEST START (R47). -/
def execLaneTestStart (r : Req Unit) (s : State) : Host.Outcome State Fault Refusal :=
  .next (hostCommand .active r actLaneTestStart s)

/-- LANE_TEST READ's answer (R47). -/
def actLaneTestRead (_ : Unit) (s : State) : Answer := ok s.laneTest s

/-- LANE_TEST READ (R47). -/
def execLaneTestRead (r : Req Unit) (s : State) : Host.Outcome State Fault Refusal :=
  .next (hostCommand .plain r actLaneTestRead s)

/-- LANE_TEST STOP's effect (R47). -/
def actLaneTestStop (_ : Unit) (s : State) : Answer :=
  if s.sp.checkOn then ok [] (retest .link (modSensor (fun p => { p with checkOn := false }) s)) else ok [] s

/-- LANE_TEST STOP (R47). -/
def execLaneTestStop (r : Req Unit) (s : State) : Host.Outcome State Fault Refusal :=
  .next (hostCommand .plain r actLaneTestStop s)

/-- LINK_STATS's answer (R49). -/
def actLinkStats (_ : Unit) (s : State) : Answer := ok s.linkStats s

/-- LINK_STATS (R49). -/
def execLinkStats (r : Req Unit) (s : State) : Host.Outcome State Fault Refusal :=
  .next (hostCommand .plain r actLinkStats s)

/-! ## Lanes and training -/

/-- LANE_SYMBOL (R27): a symbol on a physical lane. A lane that no logical lane names is not decoded. -/
def execLaneSymbol (lane : Nat) (sym : BitVec 18) (wt : Nat) (s : State) : Host.Outcome State Fault Refusal :=
  match s.logicalLane lane with
  | some i => .next (takeSymbol i wt (decodeSymbol (s.polarized lane sym)) s)
  | none => .next s

/-- LANE_MARK (R30): a MARK on a physical lane during training. -/
def execLaneMark (lane wt : Nat) (s : State) : Host.Outcome State Fault Refusal :=
  match s.logicalLane lane with
  | some i => .next (takeMark i wt s)
  | none => .next s

/-- Whether an alignment window is open: a first MARK has come and not every lane's (R30). -/
def State.windowOpen (s : State) : Bool :=
  s.sp.link == .training && s.sp.trainReq && s.sp.windowFrom.isSome && !s.allMarked

/-- ALIGNMENT_WINDOW_EXPIRY (R30). -/
def execAlignmentWindowExpiry (s : State) : Host.Outcome State Fault Refusal :=
  .next (if s.windowOpen then failAttempt .skew s else s)

/-- Whether a deadline is there and has come. -/
def State.due (s : State) (d : Option Nat) : Bool := d.any (fun t => decide (t ≤ s.time))

/-- NO_MARK_TIMEOUT (R30). -/
def execNoMarkTimeout (s : State) : Host.Outcome State Fault Refusal :=
  .next (if s.sp.link = .training ∧ s.due s.sp.markBy then failAttempt .noMark s else s)

/-- LINK_PARAMETERS_HEADER (R31). -/
def execLinkParametersHeader (s : State) : Host.Outcome State Fault Refusal :=
  .next (if s.paramsReady then judgeParams s else s)

/-- TRAINING_REASSERT (R32). -/
def execTrainingReassert (s : State) : Host.Outcome State Fault Refusal :=
  .next (if s.sp.link = .training ∧ s.due s.sp.reassertAt then assertTraining s else s)

/-- LANE_DRIFT (R33): at word time `wt`, if a lane's FIFO is full or has been empty too long. -/
def execLaneDrift (wt : Nat) (s : State) : Host.Outcome State Fault Refusal :=
  .next (if s.sp.link = .aligned ∧ (s.fullLane || s.starvedLane wt) then driftLanes s else s)

/-! ## Readouts -/

/-- READOUT_HEADER (R34 to R36). -/
def execReadoutHeader (s : State) : Host.Outcome State Fault Refusal :=
  match s.headerReady with
  | some ws => .next (takeHeader ws s)
  | none => .next s

/-- LINE (R38). -/
def execLine (s : State) : Host.Outcome State Fault Refusal :=
  match s.lineReady with
  | some ws => .next (takeLine ws s)
  | none => .next s

/-- READOUT_END (R37). -/
def execReadoutEnd (s : State) : Host.Outcome State Fault Refusal :=
  .next (if s.stopReady then takeStop s else s)

/-- READOUT_SILENCE (R37). -/
def execReadoutSilence (s : State) : Host.Outcome State Fault Refusal :=
  .next (if s.silent then closeSilent s else s)

/-- Whether a pending retrain is performed now (R41). -/
def State.mayRetrain (s : State) : Bool :=
  s.sp.link == .aligned && s.sp.retrain.isSome && s.sp.reading == .between && !s.expectsReadout && !s.sp.checkOn

/-- The retrain performed (R41, R49). The retrain count, whose width R49 does not give, is of 32 bits and saturating as the
counts beside it are (DESIGN CHOICE, log entry 23). -/
def performRetrain (s : State) : State :=
  enterTraining "RETRAIN" (modSensor (fun p => { p with retrain := none, retrains := sat32 p.retrains }) s)

/-- RETRAIN_PERFORMED (R41). -/
def execRetrainPerformed (s : State) : Host.Outcome State Fault Refusal :=
  .next (if s.mayRetrain then performRetrain s else s)

end Sys2Proof.Machine
end

