-- ==== Sys2Proof/Machine/CardCommands.lean ====
section
/-! DEFINITION. The card writer's commands and events (07_card_writer.md): CARD_EXTENTS, CARD_FINAL, CARD_CLEAR, FILE_TAKE,
CARD_EJECT, CARD_STATE, CARD_SET, the card-present lines, the start of a file and the card's writes. -/

namespace Sys2Proof.Machine

open Sys2Proof

/-! ## Host commands -/

/-- A command on a slot: a slot other than A or B is answered BAD_VALUE. -/
def onSlot (o : Option Slot) (act : Slot → State → Answer) (s : State) : Answer :=
  match o with
  | some sl => act sl s
  | none => deny .badValue s

/-- Whether a run names sectors that a card can have (R140). -/
def runRight (r : Run) : Bool := decide (1 ≤ r.count ∧ r.start + r.count ≤ 4294967296)

/-- Whether a carried run overlaps a listed run or a fragment of the current file (R140). -/
def CardSlot.clashes (c : CardSlot) (r : Run) : Bool :=
  (c.extents ++ ((c.file.map (·.fragments)).getD [])).any (runsOverlap r)

/-- Whether the slot takes no extents (R140). -/
def CardSlot.closedToExtents (c : CardSlot) : Bool :=
  c.state == .absent || (c.state == .ready && c.hold == .ejected) || c.final

/-- Extents taken by a slot: they join the list's tail and arm EXTENTS_LOW (R140). -/
def addExtents (l : List Run) (c : CardSlot) : CardSlot := { c with extents := c.extents ++ l, lowArmed := true }

/-- CARD_EXTENTS on a slot (R140). -/
def extentsOn (l : List Run) (sl : Slot) (s : State) : Answer :=
  let c := s.slot sl
  if l = [] ∨ Config.cardRoom < l.length then deny .badValue s
  else if c.closedToExtents then deny .badState s
  else if !l.all runRight then deny .badValue s
  else if selfOverlap l || l.any c.clashes then deny .badValue s
  else if Config.cardRoom < c.extents.length + l.length then deny .busy s
  else
    let new := c.extents ++ l
    ok [.u8 new.length, .u64 (sectorsOf new)] (resumeSlot sl (modSlot sl (addExtents l) s))

/-- CARD_EXTENTS's own checks and effect (R140). -/
def actCardExtents (x : Option Slot × List Run) (s : State) : Answer := onSlot x.1 (extentsOn x.2) s

/-- CARD_EXTENTS (R140). -/
def execCardExtents (r : Req (Option Slot × List Run)) (s : State) : Host.Outcome State Fault Refusal :=
  .next (hostCommand .plain r actCardExtents s)

/-- CARD_FINAL on a slot (R141). -/
def finalOn (sl : Slot) (s : State) : Answer :=
  if (s.slot sl).state = .absent then deny .badState s
  else
    let t := modSlot sl (fun c => { c with final := true }) s
    ok [] (if sl = .a then overflowTest t else t)

/-- CARD_FINAL's own checks and effect (R141). -/
def actCardFinal (x : Option Slot) (s : State) : Answer := onSlot x finalOn s

/-- CARD_FINAL (R141). -/
def execCardFinal (r : Req (Option Slot)) (s : State) : Host.Outcome State Fault Refusal :=
  .next (hostCommand .plain r actCardFinal s)

/-- CARD_CLEAR on a slot (R150). -/
def clearOn (sl : Slot) (s : State) : Answer :=
  if (s.slot sl).state = .faulted then
    ok [] (slotSettle sl (raiseCard sl "CLEARED" [] (modSlot sl (fun c => { c with state := .ready }) s)))
  else deny .badState s

/-- CARD_CLEAR's own checks and effect (R150). -/
def actCardClear (x : Option Slot) (s : State) : Answer := onSlot x clearOn s

/-- CARD_CLEAR (R150). -/
def execCardClear (r : Req (Option Slot)) (s : State) : Host.Outcome State Fault Refusal :=
  .next (hostCommand .plain r actCardClear s)

/-- A slot after its oldest record is taken: a hold RETURN_FULL is cleared (R155). -/
def CardSlot.taken (c : CardSlot) : CardSlot :=
  { c with returns := c.returns.drop 1, hold := if c.hold = .returnFull then .none else c.hold }

/-- FILE_TAKE on a slot (R155). -/
def takeOn (sl : Slot) (s : State) : Answer :=
  match (s.slot sl).returns with
  | [] => ok [.present false] s
  | r :: _ => ok (.present true :: r.wires) (slotSettle sl (modSlot sl CardSlot.taken s))

/-- FILE_TAKE's own check and effect (R155). -/
def actFileTake (x : Option Slot) (s : State) : Answer := onSlot x takeOn s

/-- FILE_TAKE (R155). -/
def execFileTake (r : Req (Option Slot)) (s : State) : Host.Outcome State Fault Refusal :=
  .next (hostCommand .plain r actFileTake s)

/-- CARD_EJECT on a slot (R156). -/
def ejectOn (sl : Slot) (s : State) : Answer :=
  let c := s.slot sl
  match c.state with
  | .absent | .faulted => deny .badState s
  | .ejecting => ok [] s
  | _ =>
    if c.file.isSome then ok [] (raiseCard sl "EJECTING" [] (modSlot sl (fun x => { x with state := .ejecting }) s))
    else ok [] (raiseCard sl "EJECTED" [] (modSlot sl (fun x => { x with state := .ready, hold := .ejected }) s))

/-- CARD_EJECT's own checks and effect (R156). -/
def actCardEject (x : Option Slot) (s : State) : Answer := onSlot x ejectOn s

/-- CARD_EJECT (R156). -/
def execCardEject (r : Req (Option Slot)) (s : State) : Host.Outcome State Fault Refusal :=
  .next (hostCommand .plain r actCardEject s)

/-- CARD_STATE's answer (R158). -/
def actCardState (x : Option Slot) (s : State) : Answer := onSlot x (fun sl t => ok (t.cardState sl) t) s

/-- CARD_STATE (R158). -/
def execCardState (r : Req (Option Slot)) (s : State) : Host.Outcome State Fault Refusal :=
  .next (hostCommand .plain r actCardState s)

/-- CARD_SET on a slot (R158, R142, R149). -/
def settingsOn (low ms : Nat) (sl : Slot) (s : State) : Answer :=
  if low ≤ 4294967295 ∧ 10 ≤ ms ∧ ms ≤ 10000 then
    ok [] (modSlot sl (fun c => { c with lowMark := low, writeMs := ms }) s)
  else deny .badValue s

/-- CARD_SET's own checks and effect (R158). -/
def actCardSet (x : Option Slot × Nat × Nat) (s : State) : Answer := onSlot x.1 (settingsOn x.2.1 x.2.2) s

/-- CARD_SET (R158). -/
def execCardSet (r : Req (Option Slot × Nat × Nat)) (s : State) : Host.Outcome State Fault Refusal :=
  .next (hostCommand .plain r actCardSet s)

/-! ## The card-present lines -/

/-- A card-present line at a level. -/
def Lines.withCard (l : Lines) (sl : Slot) (b : Bool) : Lines :=
  match sl with
  | .a => { l with cardA := b }
  | .b => { l with cardB := b }

/-- CARD_PRESENT_CHANGE (R139): the line takes a level; a change in standby is not taken (R159). -/
def execCardPresentChange (sl : Slot) (active : Bool) (s : State) : Host.Outcome State Fault Refusal :=
  let s1 := { s with lines := s.lines.withCard sl active }
  .next (if s.cardLine sl ≠ active ∧ s.cp.power ≠ .standby then presentStep sl s1 else s1)

/-! ## Files and writes -/

/-- FILE_START (R145). -/
def execFileStart (sl : Slot) (s : State) : Host.Outcome State Fault Refusal :=
  .next (if s.mayStartFile sl then startFile sl s else s)

/-- CARD_WRITE_ISSUE (R146, R147, R149). -/
def execCardWriteIssue (sl : Slot) (s : State) : Host.Outcome State Fault Refusal := .next (issueWrite sl s)

/-- The active file and its write in flight, if that write is the one answered (R149, R154). -/
def CardSlot.answered (c : CardSlot) (write : Nat) : Option (CardFile × CardWrite) :=
  c.file.bind (fun f => (f.flight.filter (fun w => w.serial == write)).map (fun w => (f, w)))

/-- CARD_WRITE_DONE (R146, R148): the answer to a write that is no longer in flight is ignored. -/
def execCardWriteDone (sl : Slot) (write : Nat) (s : State) : Host.Outcome State Fault Refusal :=
  match (s.slot sl).answered write with
  | some p => .next (writeDone sl p.1 p.2 s)
  | none => .next s

/-- CARD_WRITE_ERROR (R149). -/
def execCardWriteError (sl : Slot) (write : Nat) (s : State) : Host.Outcome State Fault Refusal :=
  match (s.slot sl).answered write with
  | some p => .next (writeFailed sl p.1 p.2 s)
  | none => .next s

/-- The active file and its write in flight, if its write timeout has expired (R149). -/
def State.expiredWrite (s : State) (sl : Slot) : Option (CardFile × CardWrite) :=
  (s.slot sl).file.bind (fun f => (f.flight.filter (fun w => decide (w.due ≤ s.time))).map (fun w => (f, w)))

/-- WRITE_TIMEOUT (R149). -/
def execWriteTimeout (sl : Slot) (s : State) : Host.Outcome State Fault Refusal :=
  match s.expiredWrite sl with
  | some p => .next (writeFailed sl p.1 p.2 s)
  | none => .next s

end Sys2Proof.Machine
end

