-- ==== Sys2Proof/Machine/DevelopCommands.lean ====
section
/-! DEFINITION. The development engine's commands and steps (06_development_engine.md): RECIPE_SET, RECIPE_GET, RECIPE_SELECT,
DEVELOP_STATE, the start of a job, the grant of its allocation and its completion. -/

namespace Sys2Proof.Machine

open Sys2Proof

/-! ## Recipes -/

/-- A field of a recipe that RECIPE_SET checks: its name, whether the carried value is in range, and the recipe with the
field at its default (R118). -/
structure RecipeCheck where
  name : String
  right : Recipe → Bool
  mend : Recipe → Recipe

/-- A trim in its range. -/
def trimRight (v : Int) : Bool := decide (-512 ≤ v ∧ v ≤ 511)

/-- The checks of R118, in the order of R117's table, each with the name of its field there. The table writes a row of
several values as one; the model names each value by the row's words and the value's plane or channel (DESIGN CHOICE, log
entry 5). -/
def recipeChecks : List RecipeCheck := [
  ⟨"scale", fun r => [1, 2, 4, 8].contains r.scale, fun r => { r with scale := 4 }⟩,
  ⟨"black trim r", fun r => trimRight r.trimR, fun r => { r with trimR := 0 }⟩,
  ⟨"black trim gr", fun r => trimRight r.trimGr, fun r => { r with trimGr := 0 }⟩,
  ⟨"black trim gb", fun r => trimRight r.trimGb, fun r => { r with trimGb := 0 }⟩,
  ⟨"black trim b", fun r => trimRight r.trimB, fun r => { r with trimB := 0 }⟩,
  ⟨"white-balance gain r", fun r => r.gainR != 0, fun r => { r with gainR := 4096 }⟩,
  ⟨"white-balance gain g", fun r => r.gainG != 0, fun r => { r with gainG := 4096 }⟩,
  ⟨"white-balance gain b", fun r => r.gainB != 0, fun r => { r with gainB := 4096 }⟩,
  ⟨"exposure gain", fun r => r.gainE != 0, fun r => { r with gainE := 4096 }⟩,
  ⟨"tone curve", fun r => r.tone.all (fun v => decide (v ≤ 255)), fun r => { r with tone := defaultRecipe.tone }⟩]

/-- The names of the fields of a carried recipe that are replaced (R118). -/
def recipeFaults (r : Recipe) : List String := (recipeChecks.filter (fun c => !c.right r)).map (·.name)

/-- A carried recipe with its fields out of range at their defaults (R118). -/
def mendRecipe (r : Recipe) : Recipe :=
  recipeChecks.foldl (fun t c => if c.right r then t else c.mend t) r

/-- Whether a HELD shot bound to the recipe has its DEVELOP duty PENDING or ACTIVE (R118). -/
def State.recipeOwed (s : State) (n : Nat) : Bool :=
  s.heldShots.any (fun t => t.recipe == n && (t.duty .develop).any Duty.owed)

/-- The recipes with number `n` replaced. -/
def putRecipe (n : Nat) (r : Recipe) (s : State) : State :=
  { s with de := { s.de with recipes := modAt n (fun _ => r) s.de.recipes } }

/-- RECIPE_SET's own checks and effect (R118). -/
def actRecipeSet (x : Nat × Recipe) (s : State) : Answer :=
  if 3 < x.1 then deny .badValue s
  else if s.recipeOwed x.1 then deny .inUse s
  else ok [] (raiseDefaulted (.num x.1) (recipeFaults x.2) (putRecipe x.1 (mendRecipe x.2) s))

/-- RECIPE_SET (R118). -/
def execRecipeSet (r : Req (Nat × Recipe)) (s : State) : Host.Outcome State Fault Refusal :=
  .next (hostCommand .plain r actRecipeSet s)

/-- RECIPE_GET's own check and answer (R119). -/
def actRecipeGet (n : Nat) (s : State) : Answer := if 3 < n then deny .badValue s else ok (s.recipeWires n) s

/-- RECIPE_GET (R119). -/
def execRecipeGet (r : Req Nat) (s : State) : Host.Outcome State Fault Refusal :=
  .next (hostCommand .plain r actRecipeGet s)

/-- RECIPE_SELECT's own check and effect (R119). -/
def actRecipeSelect (n : Nat) (s : State) : Answer :=
  if 3 < n then deny .badValue s else ok [] { s with de := { s.de with selected := some n } }

/-- RECIPE_SELECT (R119). -/
def execRecipeSelect (r : Req Nat) (s : State) : Host.Outcome State Fault Refusal :=
  .next (hostCommand .plain r actRecipeSelect s)

/-- DEVELOP_STATE's answer (R136). -/
def actDevelopState (_ : Unit) (s : State) : Answer := ok s.developState s

/-- DEVELOP_STATE (R136). -/
def execDevelopState (r : Req Unit) (s : State) : Host.Outcome State Fault Refusal :=
  .next (hostCommand .plain r actDevelopState s)

/-! ## Steps -/

/-- DEVELOP_JOB_START (R123). -/
def execDevelopJobStart (s : State) : Host.Outcome State Fault Refusal :=
  .next (if s.de.phase = .idle then startJob s else s)

/-- ALLOCATION_GRANT (R124, R8). -/
def execAllocationGrant (s : State) : Host.Outcome State Fault Refusal :=
  match s.de.job with
  | some j => .next (if s.de.phase = .stalled ∧ s.mayGrantJob j then grantJob j s else s)
  | none => .next s

/-- DEVELOP_COMPLETE (R126). -/
def execDevelopComplete (s : State) : Host.Outcome State Fault Refusal :=
  match s.de.job with
  | some j => .next (if s.jobDone then completeJob j s else s)
  | none => .next s

end Sys2Proof.Machine
end

