-- ==== Sys2Proof/Machine/FocusCommands.lean ====
section
/-! DEFINITION. The focus engine's commands and its settle timeout (04_focus_engine.md): AF_LENS_COEF, AF_AREA, AF_START,
AF_STOP, WATCH_SET, WATCH_RESET, AF_STATE, AF_GRID. -/

namespace Sys2Proof.Machine

open Sys2Proof

/-- AF_LENS_COEF's own checks and effect (R79). -/
def actAfLensCoef (k : Int) (s : State) : Answer :=
  if k = 0 ∨ k < -32768 ∨ 32767 < k then deny .badValue s else ok [] { s with fe := { s.fe with coef := k } }

/-- AF_LENS_COEF (R79). -/
def execAfLensCoef (r : Req Int) (s : State) : Host.Outcome State Fault Refusal :=
  .next (hostCommand .plain r actAfLensCoef s)

/-- Whether a rectangle lies in the grid and is not empty (R80). -/
def rectRight (r : Rect) : Bool :=
  decide (r.row0 ≤ r.row1 ∧ r.col0 ≤ r.col1 ∧ r.row1 ≤ 10 ∧ r.col1 ≤ 10)

/-- AF_AREA's own checks and effect (R80). -/
def actAfArea (x : AreaArg) (s : State) : Answer :=
  match x with
  | .singleArea a =>
    if 120 < a then deny .badValue s else ok [] { s with fe := { s.fe with mode := .single a } }
  | .zone r =>
    if rectRight r then ok [] { s with fe := { s.fe with mode := .zone r, watchZone := r } } else deny .badValue s
  | .track a =>
    if 120 < a then deny .badValue s
    else ok [] { s with fe := { s.fe with mode := .track, track := { current := a }, trackStart := a } }

/-- AF_AREA (R80). -/
def execAfArea (r : Req AreaArg) (s : State) : Host.Outcome State Fault Refusal :=
  .next (hostCommand .plain r actAfArea s)

/-- AF_START's own checks and effect (R87). `none` stands for a mode that is none of the three. -/
def actAfStart (x : Option ServoMode) (s : State) : Answer :=
  match x with
  | some m => ok [] (startServo m "START" s)
  | none => deny .badValue s

/-- AF_START (R87). -/
def execAfStart (r : Req (Option ServoMode)) (s : State) : Host.Outcome State Fault Refusal :=
  .next (hostCommand .active r actAfStart s)

/-- The watcher started (R94). -/
def startWatcher (s : State) : State := { s with fe := { s.fe with watcher := s.fe.watcher.started } }

/-- AF_STOP's effect (R87, R94). -/
def actAfStop (_ : Unit) (s : State) : Answer :=
  let t := stopServo s
  ok [] (if s.fe.watcher.enabled ∧ s.fe.servo ≠ .idle then startWatcher t else t)

/-- AF_STOP (R87). -/
def execAfStop (r : Req Unit) (s : State) : Host.Outcome State Fault Refusal :=
  .next (hostCommand .plain r actAfStop s)

/-- The watcher's enable set. -/
def enableWatcher (b : Bool) (s : State) : State := { s with fe := { s.fe with watcher := { s.fe.watcher with enabled := b } } }

/-- WATCH_SET's effect (R94). -/
def actWatchSet (b : Bool) (s : State) : Answer :=
  let t := enableWatcher b s
  ok [] (if b ∧ s.fe.servo = .idle then startWatcher t else t)

/-- WATCH_SET (R94). -/
def execWatchSet (r : Req Bool) (s : State) : Host.Outcome State Fault Refusal :=
  .next (hostCommand .plain r actWatchSet s)

/-- WATCH_RESET's effect (R96). -/
def actWatchReset (_ : Unit) (s : State) : Answer := ok [] (startWatcher s)

/-- WATCH_RESET (R96). -/
def execWatchReset (r : Req Unit) (s : State) : Host.Outcome State Fault Refusal :=
  .next (hostCommand .plain r actWatchReset s)

/-- AF_STATE's answer (R97). -/
def actAfState (_ : Unit) (s : State) : Answer := ok s.afState s

/-- AF_STATE (R97). -/
def execAfState (r : Req Unit) (s : State) : Host.Outcome State Fault Refusal :=
  .next (hostCommand .plain r actAfState s)

/-- AF_GRID's own check and answer (R97). -/
def actAfGrid (row : Nat) (s : State) : Answer := if 10 < row then deny .badValue s else ok (s.afGrid row) s

/-- AF_GRID (R97). -/
def execAfGrid (r : Req Nat) (s : State) : Host.Outcome State Fault Refusal :=
  .next (hostCommand .plain r actAfGrid s)

/-- SETTLE_TIMEOUT (R89). -/
def execSettleTimeout (s : State) : Host.Outcome State Fault Refusal :=
  .next (if s.due (s.fe.settle.map (·.due)) then
      { s with fe := { s.fe with settle := none, settledAt := some s.time, settleTimedOut := true } }
    else s)

end Sys2Proof.Machine
end

