-- ==== Sys2Proof/Machine/LensCommands.lean ====
section
/-! DEFINITION. The lens port's commands and events (05_lens_port.md): LENS_START, LENS_STOP, LENS_HOME, LENS_IRIS,
LENS_LIMITS, LENS_AUX, POSITION_SET, LENS_STATE, the lens-detect line, the four slots of a lens frame and its end, the home
timer, the encoder and the index. -/

namespace Sys2Proof.Machine

open Sys2Proof

/-! ## Host commands -/

/-- LENS_START's effect (R104). -/
def actLensStart (_ : Unit) (s : State) : Answer :=
  let t := { s with lp := { s.lp with enable := true, stopping := none } }
  ok [] (if s.lp.phase = .stopped ∧ s.lines.lensDetect then lensWaiting "START" t else t)

/-- LENS_START (R104). -/
def execLensStart (r : Req Unit) (s : State) : Host.Outcome State Fault Refusal :=
  .next (hostCommand .active r actLensStart s)

/-- LENS_STOP's effect (R104). -/
def actLensStop (_ : Unit) (s : State) : Answer :=
  let wait := if s.lp.phase = .stopped then none else some (s.lp.stopping.getD .command)
  ok [] { s with lp := { s.lp with enable := false, stopping := wait } }

/-- LENS_STOP (R104). -/
def execLensStop (r : Req Unit) (s : State) : Host.Outcome State Fault Refusal :=
  .next (hostCommand .plain r actLensStop s)

/-- LENS_HOME's own checks and effect (R107). -/
def actLensHome (_ : Unit) (s : State) : Answer :=
  if s.lp.phase ≠ .running ∨ !s.cfg.lens.indexMode then deny .badState s
  else if s.lp.referenced then ok [] s
  else ok [] (homingTest (clearHoming s))

/-- LENS_HOME (R107). -/
def execLensHome (r : Req Unit) (s : State) : Host.Outcome State Fault Refusal :=
  .next (hostCommand .plain r actLensHome s)

/-- An aperture clamped to the iris limits in force (R108). -/
def clampIris (l : Lens) (v : Nat) : Nat := min l.irisMax (max l.irisMin v)

/-- LENS_IRIS's own check and effect (R108). -/
def actLensIris (v : Nat) (s : State) : Answer :=
  if 255 < v then deny .badValue s
  else ok [.u8 (clampIris s.lp v)] { s with lp := { s.lp with irisStage := some (clampIris s.lp v) } }

/-- LENS_IRIS (R108). -/
def execLensIris (r : Req Nat) (s : State) : Host.Outcome State Fault Refusal :=
  .next (hostCommand .plain r actLensIris s)

/-- Whether LENS_LIMITS's values are in range and in order (R109). -/
def limitsRight (x : LimitsArg) : Bool :=
  decide (Config.counterMin ≤ x.far ∧ x.far ≤ x.near ∧ x.near ≤ Config.counterMax ∧ x.irisMin ≤ x.irisMax ∧ x.irisMax ≤ 255)

/-- The four limits in force. -/
def setLimits (x : LimitsArg) (l : Lens) : Lens :=
  { l with far := x.far, near := x.near, irisMin := x.irisMin, irisMax := x.irisMax }

/-- The iris word that the lens next receives brought within the limits: the clamped value is staged where it lies
outside them (R109). -/
def reclampIris (l : Lens) : Lens :=
  let v := l.irisStage.getD l.irisSent
  if clampIris l v = v then l else { l with irisStage := some (clampIris l v) }

/-- LENS_LIMITS's own checks and effect (R109). -/
def actLensLimits (x : LimitsArg) (s : State) : Answer :=
  if limitsRight x then ok [] { s with lp := reclampIris (setLimits x s.lp) } else deny .badValue s

/-- LENS_LIMITS (R109). -/
def execLensLimits (r : Req LimitsArg) (s : State) : Host.Outcome State Fault Refusal :=
  .next (hostCommand .plain r actLensLimits s)

/-- LENS_AUX's own checks and effect (R110). -/
def actLensAux (w : Word16) (s : State) : Answer :=
  if s.lp.phase = .stopped then deny .badState s
  else if Config.auxRoom ≤ s.lp.auxQueue.length then deny .busy s
  else ok [.u8 (s.lp.auxQueue.length + 1)] { s with lp := { s.lp with auxQueue := s.lp.auxQueue ++ [w] } }

/-- LENS_AUX (R110). -/
def execLensAux (r : Req Word16) (s : State) : Host.Outcome State Fault Refusal :=
  .next (hostCommand .plain r actLensAux s)

/-- POSITION_SET's own check and effect (R113). -/
def actPositionSet (v : Int) (s : State) : Answer :=
  if Config.counterMin ≤ v ∧ v ≤ Config.counterMax then
    ok [] (reference { s with lp := { s.lp with counter := v, overrun := false } })
  else deny .badValue s

/-- POSITION_SET (R113). -/
def execPositionSet (r : Req Int) (s : State) : Host.Outcome State Fault Refusal :=
  .next (hostCommand .plain r actPositionSet s)

/-- LENS_STATE's answer (R114). -/
def actLensState (_ : Unit) (s : State) : Answer := ok s.lensState s

/-- LENS_STATE (R114). -/
def execLensState (r : Req Unit) (s : State) : Host.Outcome State Fault Refusal :=
  .next (hostCommand .plain r actLensState s)

/-! ## The lens-detect line -/

/-- Whether the port takes changes of the lens-detect line: from its entry into STOPPED at SLEEP until wake it does not
(R116). -/
def State.takesDetect (s : State) : Bool :=
  s.cp.power == .active || (s.cp.power == .closing && s.lp.phase != .stopped)

/-- LENS_DETECT_CHANGE (R102): the lens-detect line takes a level. -/
def execLensDetectChange (active : Bool) (s : State) : Host.Outcome State Fault Refusal :=
  let s1 := { s with lines := { s.lines with lensDetect := active } }
  .next (if s.lines.lensDetect ≠ active ∧ s.takesDetect then detectStep s1 else s1)

/-! ## The lens frame -/

/-- Whether the frame stands at its slot `k`: 0 STATUS, 1 DRIVE, 2 IRIS, 3 AUX, 4 all slots done (R100). -/
def State.atSlot (s : State) (k : Nat) : Bool := s.lensFrames && s.lp.slot == k

/-- STATUS_SLOT (R101): the slot ends, with the word that arrived in it if one did. -/
def execStatusSlot (w : Option Word32) (s : State) : Host.Outcome State Fault Refusal :=
  .next (if s.atSlot 0 then takeStatus w s else s)

/-- DRIVE_SLOT (R106). -/
def execDriveSlot (s : State) : Host.Outcome State Fault Refusal :=
  .next (if s.atSlot 1 then sendDrive s else s)

/-- IRIS_SLOT (R108). -/
def execIrisSlot (s : State) : Host.Outcome State Fault Refusal :=
  .next (if s.atSlot 2 then sendIris s else s)

/-- AUX_SLOT (R110): the slot's word sent, and the lens's answer if one came. -/
def execAuxSlot (w : Option Word32) (s : State) : Host.Outcome State Fault Refusal :=
  .next (if s.atSlot 3 then sendAux w s else s)

/-- LENS_FRAME_END (R100): with the four slots done and the frame's period over. -/
def execLensFrameEnd (s : State) : Host.Outcome State Fault Refusal :=
  .next (if s.atSlot 4 ∧ s.lp.frameFrom + s.lp.framePeriod ≤ s.time then endFrame s else s)

/-- HOME_TIMEOUT (R107). -/
def execHomeTimeout (s : State) : Host.Outcome State Fault Refusal :=
  .next (if s.lp.homing ∧ s.due s.lp.homeAt then raiseLens "HOME_TIMEOUT" (clearHoming s) else s)

/-! ## Encoder and index -/

/-- ENCODER_EDGE (R111): the encoder lines take new levels. -/
def execEncoderEdge (a b : Bool) (s : State) : Host.Outcome State Fault Refusal := .next (encoderStep a b s)

/-- INDEX_EVENT (R113). -/
def execIndexEvent (s : State) : Host.Outcome State Fault Refusal := .next (indexStep s)

end Sys2Proof.Machine
end

