-- ==== Sys2Proof/Machine/MemoCommands.lean ====
section
/-! DEFINITION. The commands and events of captions and voice memos (09_captions_and_voice_memos.md): CAPTION_SET,
CAPTION_STANDING, MEMO_LEVEL, MEMO_START, MEMO_STOP, MEMO_STATE, the memo's samples and its activity frames. -/

namespace Sys2Proof.Machine

open Sys2Proof

/-! ## Captions -/

/-- Whether a caption has 1 to 192 bytes (R186). -/
def captionRight (c : List Byte) : Bool := decide (1 ≤ c.length ∧ c.length ≤ 192)

/-- CAPTION_SET's own checks and effect (R186). -/
def actCaptionSet (x : Nat × List Byte) (s : State) : Answer :=
  if !captionRight x.2 then deny .badValue s
  else
    match s.usable x.1 with
    | none => deny .notHeld s
    | some t => if t.caption = some x.2 then ok [] s else ok [] (setCaption x.1 x.2 s)

/-- CAPTION_SET (R186). -/
def execCaptionSet (r : Req (Nat × List Byte)) (s : State) : Host.Outcome State Fault Refusal :=
  .next (hostCommand .plain r actCaptionSet s)

/-- CAPTION_STANDING's own check and effect (R189). -/
def actCaptionStanding (x : OrNamed (List Byte)) (s : State) : Answer :=
  match x with
  | .named => ok [] (setWaiting .standingCaption (.text none) s)
  | .value c => if captionRight c then ok [] (setWaiting .standingCaption (.text (some c)) s) else deny .badValue s

/-- CAPTION_STANDING (R189). -/
def execCaptionStanding (r : Req (OrNamed (List Byte))) (s : State) : Host.Outcome State Fault Refusal :=
  .next (hostCommand .plain r actCaptionStanding s)

/-! ## Memos -/

/-- The gains that MEMO_LEVEL may carry, in dB (R190). -/
def memoGains : List Int := [0, 6, 12, 18, 24, 30, 36, 42]

/-- MEMO_LEVEL's own checks and effect (R190). -/
def actMemoLevel (x : Int × Int) (s : State) : Answer :=
  if memoGains.contains x.1 ∧ -32768 ≤ x.2 ∧ x.2 ≤ 32767 then
    ok [] { s with mi := { s.mi with gain := x.1.toNat, offset := x.2 } }
  else deny .badValue s

/-- MEMO_LEVEL (R190). -/
def execMemoLevel (r : Req (Int × Int)) (s : State) : Host.Outcome State Fault Refusal :=
  .next (hostCommand .plain r actMemoLevel s)

/-- The shot that MEMO_START names, if it is HELD and not deleting (R192). -/
def State.memoShot (s : State) (x : OrNamed Nat) : Option Nat :=
  (match x with | .value n => some n | .named => s.mi.latest).filter (fun n => (s.usable n).isSome)

/-- MEMO_START's own checks and effect (R192). -/
def actMemoStart (x : OrNamed Nat) (s : State) : Answer :=
  if s.mi.phase ≠ .idle then deny .busy s
  else
    match s.memoShot x with
    | some n => accepted [.u32 n] (startMemo n s)
    | none => deny .notHeld s

/-- MEMO_START (R192). -/
def execMemoStart (r : Req (OrNamed Nat)) (s : State) : Host.Outcome State Fault Refusal :=
  .next (hostCommand .active r actMemoStart s)

/-- MEMO_STOP's own checks and effect (R195, R193). -/
def actMemoStop (_ : Unit) (s : State) : Answer :=
  match s.mi.phase, s.mi.current with
  | .armed, some m => ok [] (cancelMemo m s)
  | .recording, some m => ok [] (endMemo .stop m s)
  | _, _ => deny .badState s

/-- MEMO_STOP (R195). -/
def execMemoStop (r : Req Unit) (s : State) : Host.Outcome State Fault Refusal :=
  .next (hostCommand .plain r actMemoStop s)

/-- MEMO_STATE's answer (R196). -/
def actMemoState (_ : Unit) (s : State) : Answer := ok s.memoState s

/-- MEMO_STATE (R196). -/
def execMemoState (r : Req Unit) (s : State) : Host.Outcome State Fault Refusal :=
  .next (hostCommand .plain r actMemoState s)

/-- Whether the activity frame in progress holds its 320 samples (R191). -/
def State.frameFull (s : State) : Bool := decide (Config.frameSamples ≤ s.mi.samples.length)

/-- An activity frame that is full ends (R191). -/
def closeActivity (s : State) : State := if s.frameFull then endActivity s else s

/-- MEMO_SAMPLE (R190): 192 PDM bits arrive. A frame that is full ends first. -/
def execMemoSample (bits : BitVec 192) (s : State) : Host.Outcome State Fault Refusal :=
  .next (pdmWord bits (closeActivity s))

/-- ACTIVITY_FRAME_END (R191). -/
def execActivityFrameEnd (s : State) : Host.Outcome State Fault Refusal := .next (closeActivity s)

end Sys2Proof.Machine
end

