-- ==== Sys2Proof/Machine/ReleaseCommands.lean ====
section
/-! DEFINITION. The release and timing unit's commands and events (03_release_burst_and_exposure_timing.md): RELEASE,
RELEASE_END, BURST_STATE, BURST_ABORT, SYNC_ARM, SYNC_STATE, LATENCY_STATS, LATENCY_CLEAR, the release line, the frame's
firing and its timeouts, and the sync edge. -/

namespace Sys2Proof.Machine

open Sys2Proof

/-! ## Host commands -/

/-- The requested count that RELEASE carries: 1 to 999, or UNTIL_END as `none` (R52). -/
def releaseCount : OrNamed Nat → Option (Option Nat)
  | .named => some none
  | .value n => if 1 ≤ n ∧ n ≤ Config.maxFrames then some (some n) else none

/-- RELEASE's own checks and effect (R52, R54). -/
def actRelease (x : OrNamed Nat) (s : State) : Answer :=
  match releaseCount x with
  | none => deny .badValue s
  | some c =>
    if s.rtu.phase = .idle then accepted [] (startBurst .host c s) else deny .busy (takeRelease .host c s)

/-- RELEASE (R52). -/
def execRelease (r : Req (OrNamed Nat)) (s : State) : Host.Outcome State Fault Refusal :=
  .next (hostCommand .active r actRelease s)

/-- RELEASE_END's own checks and effect (R55). -/
def actReleaseEnd (_ : Unit) (s : State) : Answer :=
  if s.ownedBy .host then ok [] (takeOwnerEnd s) else deny .badState s

/-- RELEASE_END (R55). -/
def execReleaseEnd (r : Req Unit) (s : State) : Host.Outcome State Fault Refusal :=
  .next (hostCommand .plain r actReleaseEnd s)

/-- BURST_STATE's answer (R56). -/
def actBurstState (_ : Unit) (s : State) : Answer := ok s.burstState s

/-- BURST_STATE (R56). -/
def execBurstState (r : Req Unit) (s : State) : Host.Outcome State Fault Refusal :=
  .next (hostCommand .plain r actBurstState s)

/-- A SHOT readout still arriving becomes a discarded, unexpected readout (R65). -/
def dropShotReadout (s : State) : State :=
  match s.sp.reading with
  | .active r => if r.kind = .shot then unexpectedReadout s else s
  | _ => s

/-- BURST_ABORT's own checks and effect (R65). -/
def actBurstAbort (_ : Unit) (s : State) : Answer :=
  if s.rtu.phase = .idle then deny .badState s else ok [] (cutBurst .command .abort (dropShotReadout s))

/-- BURST_ABORT (R65). -/
def execBurstAbort (r : Req Unit) (s : State) : Host.Outcome State Fault Refusal :=
  .next (hostCommand .plain r actBurstAbort s)

/-- SYNC_ARM's own checks and effect (R68). -/
def actSyncArm (_ : Unit) (s : State) : Answer :=
  if s.cfg.burst.syncMode = .once then ok [] { s with rtu := { s.rtu with armed := true } } else deny .badState s

/-- SYNC_ARM (R68). -/
def execSyncArm (r : Req Unit) (s : State) : Host.Outcome State Fault Refusal :=
  .next (hostCommand .plain r actSyncArm s)

/-- SYNC_STATE's answer (R70). -/
def actSyncState (_ : Unit) (s : State) : Answer := ok s.syncState s

/-- SYNC_STATE (R70). -/
def execSyncState (r : Req Unit) (s : State) : Host.Outcome State Fault Refusal :=
  .next (hostCommand .plain r actSyncState s)

/-- LATENCY_STATS's answer (R71). -/
def actLatencyStats (_ : Unit) (s : State) : Answer := ok s.latencyStats s

/-- LATENCY_STATS (R71). -/
def execLatencyStats (r : Req Unit) (s : State) : Host.Outcome State Fault Refusal :=
  .next (hostCommand .plain r actLatencyStats s)

/-- LATENCY_CLEAR's effect (R71). -/
def actLatencyClear (_ : Unit) (s : State) : Answer := ok [] { s with rtu := { s.rtu with first := {}, nexts := {} } }

/-- LATENCY_CLEAR (R71). -/
def execLatencyClear (r : Req Unit) (s : State) : Host.Outcome State Fault Refusal :=
  .next (hostCommand .plain r actLatencyClear s)

/-! ## The release line -/

/-- The raw line at a new level while the filter runs (R53). -/
def lineMoves (pressed : Bool) (s : State) : State :=
  if s.rtu.level = some pressed then { s with rtu := { s.rtu with filterAt := none } } else filterStart s.live s

/-- Whether the blocks have stopped (R207). -/
def State.stopped (s : State) : Bool := s.cp.power == .closed || s.cp.power == .standby

/-- RELEASE_LINE_CHANGE (R53): the raw line takes a level. The filter rests while the blocks are stopped, and starts
afresh at wake (R74). -/
def execReleaseLineChange (pressed : Bool) (s : State) : Host.Outcome State Fault Refusal :=
  let s1 := { s with lines := { s.lines with releasePressed := pressed } }
  .next (if s.lines.releasePressed = pressed ∨ s.stopped then s1 else lineMoves pressed s1)

/-- RELEASE_FILTER_EXPIRY (R53). -/
def execReleaseFilterExpiry (s : State) : Host.Outcome State Fault Refusal :=
  .next (if s.due s.rtu.filterAt then filterTake s.live s else s)

/-! ## Frames -/

/-- FRAME_FIRE (R61). -/
def execFrameFire (s : State) : Host.Outcome State Fault Refusal :=
  match s.rtu.burst with
  | some b => .next (if s.mayFire then fireFrame b s else s)
  | none => .next s

/-- FOCUS_WAIT_EXPIRY (R60). -/
def execFocusWaitExpiry (s : State) : Host.Outcome State Fault Refusal :=
  .next (if s.rtu.phase = .waiting ∧ s.due s.rtu.waitAt then
      retest .focus { s with rtu := { s.rtu with waitAt := none, waitExpired := true } }
    else s)

/-- READOUT_TIMEOUT (R63). -/
def execReadoutTimeout (s : State) : Host.Outcome State Fault Refusal :=
  .next (if s.expectsReadout ∧ s.due s.rtu.readoutAt then
      closeFrame false (voidShot isTriggered .timeout { s with rtu := { s.rtu with readoutAt := none } })
    else s)

/-- SYNC_EDGE (R68). Sync in is sampled in ACTIVE and CLOSING (R68, R207). -/
def execSyncEdge (s : State) : Host.Outcome State Fault Refusal :=
  .next (if s.stopped then s else syncEdgeAt s.live s)

end Sys2Proof.Machine
end

