-- ==== Sys2Proof/Machine/PortCommands.lean ====
section
/-! DEFINITION. The command port's own commands and events (10_command_port_notices_and_settings.md): GET_NOTICE, STATUS,
SET_CONFIG, GET_CONFIG, SLEEP, RESET, the frames that are not executed, the collecting of a reply, the resets, the closing,
standby and the WAKE line. -/

namespace Sys2Proof.Machine

open Sys2Proof

/-! ## Notices and STATUS -/

/-- GET_NOTICE's effect (R202). -/
def actGetNotice (_ : Unit) (s : State) : Answer :=
  match s.cp.notices with
  | [] => ok [.present false, .u8 0] s
  | n :: l => ok (.present true :: n.wires ++ [.u8 l.length]) { s with cp := { s.cp with notices := l } }

/-- GET_NOTICE (R202). -/
def execGetNotice (r : Req Unit) (s : State) : Host.Outcome State Fault Refusal :=
  .next (hostCommand .quiet r actGetNotice s)

/-- STATUS's answer and effect (R203). -/
def actStatus (_ : Unit) (s : State) : Answer := ok s.summary { s with cp := { s.cp with lost := false } }

/-- STATUS (R203). -/
def execStatus (r : Req Unit) (s : State) : Host.Outcome State Fault Refusal :=
  .next (hostCommand .quiet r actStatus s)

/-! ## Settings -/

/-- SET_CONFIG's own checks and effect (R204, R205). -/
def actSetConfig (x : ConfigArg) (s : State) : Answer :=
  match x.group with
  | none => deny .badValue s
  | some g =>
    match ConfigArg.checked g x.pairs with
    | some l => ok [] (takeConfig g l s)
    | none => deny .badValue s

/-- SET_CONFIG (R204). -/
def execSetConfig (r : Req ConfigArg) (s : State) : Host.Outcome State Fault Refusal :=
  .next (hostCommand .plain r actSetConfig s)

/-- GET_CONFIG's own check and answer (R206). -/
def actGetConfig (x : Option Group) (s : State) : Answer :=
  match x with
  | some g => ok (s.groupWires g) s
  | none => deny .badValue s

/-- GET_CONFIG (R206). -/
def execGetConfig (r : Req (Option Group)) (s : State) : Host.Outcome State Fault Refusal :=
  .next (hostCommand .plain r actGetConfig s)

/-! ## SLEEP and RESET -/

/-- SLEEP's own checks and effect (R207). -/
def actSleep (_ : Unit) (s : State) : Answer :=
  if s.rtu.phase ≠ .idle ∨ s.mi.phase = .recording then deny .busy s else accepted [] (sleepPart s)

/-- SLEEP (R207). -/
def execSleep (r : Req Unit) (s : State) : Host.Outcome State Fault Refusal :=
  .next (hostCommand .active r actSleep s)

/-- RESET's answer (R211). The command reset follows when the reply has been collected. -/
def actReset (_ : Unit) (s : State) : Answer := ok [] s

/-- RESET (R211). -/
def execReset (r : Req Unit) (s : State) : Host.Outcome State Fault Refusal :=
  .next (hostCommand .resets r actReset s)

/-! ## Frames that are not executed, and the reply -/

/-- BAD_FRAME (R198, R199). -/
def execBadFrame (s : State) : Host.Outcome State Fault Refusal := .next (badHostFrame 0 .badFrame .badFrame s)

/-- UNKNOWN (R198, R199). -/
def execUnknown (tag : Byte) (s : State) : Host.Outcome State Fault Refusal :=
  .next (badHostFrame tag .unknown .notReady s)

/-- NOT_READY (R199): a frame that arrives while the reply slot is busy. With the slot empty no such frame exists. -/
def execNotReady (tag : Byte) (s : State) : Host.Outcome State Fault Refusal :=
  .next (if s.cp.slot.isSome then setMarker tag .notReady s else s)

/-- REPLY_COLLECTED (R199, R211). -/
def execReplyCollected (s : State) : Host.Outcome State Fault Refusal := .next (collectReply s)

/-! ## Resets, closing and wake -/

/-- POWER_UP_RESET (R212). -/
def execPowerUpReset (s : State) : Host.Outcome State Fault Refusal := .next (powerUpPart s)

/-- Whether the reply slot holds the reply of RESET. -/
def State.resetReply (s : State) : Bool := s.cp.slot.any (·.resets)

/-- COMMAND_RESET (R211): the reply of RESET has been collected. -/
def execCommandReset (s : State) : Host.Outcome State Fault Refusal :=
  .next (if s.resetReply then resetPart s else s)

/-- CLOSING_COMPLETE (R208). -/
def execClosingComplete (s : State) : Host.Outcome State Fault Refusal :=
  .next (if s.closingDone then closePart s else s)

/-- ENTER_STANDBY (R208). -/
def execEnterStandby (s : State) : Host.Outcome State Fault Refusal :=
  .next (if s.mayStandby then { s with cp := { s.cp with power := .standby } } else s)

/-- WAKE_LINE (R210): in ACTIVE and CLOSING it has no effect. -/
def execWakeLine (s : State) : Host.Outcome State Fault Refusal :=
  .next (if s.stopped then wakePart s else s)

end Sys2Proof.Machine
end

