-- ==== Sys2Proof/Machine/ShotCommands.lean ====
section
/-! DEFINITION. The shot store's commands and steps (01_shot_store.md): SHOT_MARK, SHOT_KEEP, SHOT_RELEASE, SHOT_DELETE,
SHOT_INFO, SHOT_LIST, the grant of a reservation and the read wheel's slot. -/

namespace Sys2Proof.Machine

open Sys2Proof

/-- SHOT_MARK's own checks and effect (R14, R15). -/
def actShotMark (x : OrNamed Nat) (s : State) : Answer :=
  match x with
  | .value n => match markNumber n s with | some t => ok [.u32 n] t | none => deny .notHeld s
  | .named => match markCurrent s with | some r => ok [.u32 r.1] r.2 | none => deny .notHeld s

/-- SHOT_MARK (R14, R15). -/
def execShotMark (r : Req (OrNamed Nat)) (s : State) : Host.Outcome State Fault Refusal :=
  .next (hostCommand .plain r actShotMark s)

/-- SHOT_KEEP's own checks and effect (R16). -/
def actShotKeep (n : Nat) (s : State) : Answer :=
  if (s.usable n).isSome then ok [] (modHeld n (fun t => { t with keep := true }) s) else deny .notHeld s

/-- SHOT_KEEP (R16). -/
def execShotKeep (r : Req Nat) (s : State) : Host.Outcome State Fault Refusal :=
  .next (hostCommand .plain r actShotKeep s)

/-- SHOT_RELEASE's own checks and effect (R16, R18). On a shot that is not kept it changes nothing. -/
def actShotRelease (n : Nat) (s : State) : Answer :=
  match s.usable n with
  | some t => ok [] (if t.keep then freeTest n (modHeld n (fun t => { t with keep := false }) s) else s)
  | none => deny .notHeld s

/-- SHOT_RELEASE (R16). -/
def execShotRelease (r : Req Nat) (s : State) : Host.Outcome State Fault Refusal :=
  .next (hostCommand .plain r actShotRelease s)

/-- SHOT_DELETE's own checks and effect (R19). -/
def actShotDelete (n : Nat) (s : State) : Answer :=
  if (s.usable n).isSome then ok [] (deleteShot n s) else deny .notHeld s

/-- SHOT_DELETE (R19). -/
def execShotDelete (r : Req Nat) (s : State) : Host.Outcome State Fault Refusal :=
  .next (hostCommand .plain r actShotDelete s)

/-- SHOT_INFO's answer (R21). -/
def actShotInfo (n : Nat) (s : State) : Answer :=
  match s.held n with
  | some t => ok (t.wires (s.recordingBlocks n)) s
  | none => deny .notHeld s

/-- SHOT_INFO (R21). -/
def execShotInfo (r : Req Nat) (s : State) : Host.Outcome State Fault Refusal :=
  .next (hostCommand .plain r actShotInfo s)

/-- SHOT_LIST's answer (R21). -/
def actShotList (n : Nat) (s : State) : Answer := ok (listOf (s.listedShots n) Shot.listWires) s

/-- SHOT_LIST (R21). -/
def execShotList (r : Req Nat) (s : State) : Host.Outcome State Fault Refusal :=
  .next (hostCommand .plain r actShotList s)

/-- RESERVATION_GRANT (R6): the waiting request is granted if its conditions hold. -/
def execReservationGrant (s : State) : Host.Outcome State Fault Refusal :=
  match s.ss.request with
  | some r => .next (if s.mayReserve then grantReservation r s else s)
  | none => .next s

/-- WHEEL_SLOT (R23): one read time of the store's port. In standby the store is in self-refresh (R207). -/
def execWheelSlot (s : State) : Host.Outcome State Fault Refusal :=
  .next (if s.cp.power = .standby then s else visitSlot s)

end Sys2Proof.Machine
end

