-- ==== Sys2Proof/Machine/TetherCommands.lean ====
section
/-! DEFINITION. The tether port's command and events (08_tether_port.md): TETHER_STATE, the link-up line, the start of a
transfer, the frames of the peer, segments, the ack timer, caption updates and the peer's requests. -/

namespace Sys2Proof.Machine

open Sys2Proof

/-! ## Host command -/

/-- TETHER_STATE's answer (R182). -/
def actTetherState (_ : Unit) (s : State) : Answer := ok s.tetherState s

/-- TETHER_STATE (R182). -/
def execTetherState (r : Req Unit) (s : State) : Host.Outcome State Fault Refusal :=
  .next (hostCommand .plain r actTetherState s)

/-! ## The link-up line -/

/-- TETHER_LINK_CHANGE (R163): the line takes a level; from the acceptance of SLEEP to wake it is not taken (R183). -/
def execTetherLinkChange (up : Bool) (s : State) : Host.Outcome State Fault Refusal :=
  let s1 := { s with lines := { s.lines with linkUp := up } }
  .next (if s.lines.linkUp ≠ up ∧ s.live then linkUpStep s1 else s1)

/-! ## Transfers -/

/-- TRANSFER_START (R167). -/
def execTransferStart (s : State) : Host.Outcome State Fault Refusal :=
  .next (if s.mayOffer then startTransfer s else s)

/-- A frame of the peer: while the port is DOWN it is dropped without being judged (R162). -/
def peerFrame (act : State → State) (s : State) : State := if s.tp.phase = .down then s else act s

/-- PEER_BAD_FRAME (R162). -/
def execPeerBadFrame (s : State) : Host.Outcome State Fault Refusal := .next (peerFrame badPeerFrame s)

/-- ACCEPT judged (R168). -/
def judgeAccept (id start : Nat) (s : State) : State :=
  match s.transferOf id with
  | some t => if s.tp.phase = .offering ∧ start ≤ t.total ∧ t.lawful start then acceptTransfer t start s else staleFrame s
  | none => staleFrame s

/-- ACCEPT (R168). -/
def execAccept (id start : Nat) (s : State) : Host.Outcome State Fault Refusal := .next (peerFrame (judgeAccept id start) s)

/-- DECLINE judged (R168). -/
def judgeDecline (id : Nat) (s : State) : State :=
  match s.transferOf id with
  | some t => declineTransfer t s
  | none => staleFrame s

/-- DECLINE (R168). -/
def execDecline (id : Nat) (s : State) : Host.Outcome State Fault Refusal := .next (peerFrame (judgeDecline id) s)

/-- CREDIT judged (R170). -/
def judgeCredit (count : Nat) (s : State) : State :=
  if 1 ≤ count ∧ count ≤ Config.maxCredits then
    { s with tp := { s.tp with credits := min (s.tp.credits + count) Config.maxCredits } }
  else badPeerFrame s

/-- CREDIT (R170). -/
def execCredit (count : Nat) (s : State) : Host.Outcome State Fault Refusal := .next (peerFrame (judgeCredit count) s)

/-- ACK judged (R171). -/
def judgeAck (id offset : Nat) (s : State) : State :=
  match s.transferOf id with
  | some t =>
    if s.tp.phase ≠ .sending ∨ t.sent < offset ∨ !t.lawful offset then staleFrame s
    else if offset ≤ t.acked then s
    else ackTransfer t offset s
  | none => staleFrame s

/-- ACK (R171). -/
def execAck (id offset : Nat) (s : State) : Host.Outcome State Fault Refusal := .next (peerFrame (judgeAck id offset) s)

/-- SEG_SEND (R169). -/
def execSegSend (s : State) : Host.Outcome State Fault Refusal :=
  match s.tp.transfer with
  | some t => .next (if s.maySend then sendSegment t s else s)
  | none => .next s

/-- Whether a transfer is offered or being sent. -/
def PortState.working : PortState → Bool
  | .offering | .sending => true
  | _ => false

/-- ACK_TIMER_EXPIRY (R173). -/
def execAckTimerExpiry (s : State) : Host.Outcome State Fault Refusal :=
  match s.tp.transfer with
  | some t => .next (if s.tp.phase.working ∧ t.expires ≤ s.time then ackExpired t s else s)
  | none => .next s

/-- CAPTION_UPDATE (R177): the pending update sent. -/
def execCaptionUpdate (s : State) : Host.Outcome State Fault Refusal :=
  match s.tp.transfer with
  | some t => .next (if s.tp.phase = .sending ∧ t.captionDue then sendCaption t s else s)
  | none => .next s

/-! ## Peer requests -/

/-- REMOTE_RELEASE judged (R178, R179). The permission is tested before the count, so a bad count is DISABLED while peer
release is OFF (DESIGN CHOICE, log entry 15). -/
def judgeRelease (count : Nat) (s : State) : State :=
  if !s.cfg.tether.peerRelease then refusePeer .remoteRelease 0 .disabled s
  else if count = 0 ∨ 99 < count then refusePeer .remoteRelease 0 .badValue s
  else if s.rtu.phase = .idle then
    raisePeer .remoteRelease 0 none (some count) (some s.rtu.nextBurst) (startBurst .peer (some count) s)
  else refusePeer .remoteRelease 0 .busy (takeRelease .peer (some count) s)

/-- REMOTE_RELEASE (R179). -/
def execRemoteRelease (count : Nat) (s : State) : Host.Outcome State Fault Refusal :=
  .next (peerFrame (judgeRelease count) s)

/-- REMOTE_END judged (R179). -/
def judgeRemoteEnd (s : State) : State :=
  if !s.cfg.tether.peerRelease then refusePeer .remoteEnd 0 .disabled s
  else if s.ownedBy .peer then
    raisePeer .remoteEnd 0 none none (s.rtu.burst.map (·.number)) (takeOwnerEnd s)
  else refusePeer .remoteEnd 0 .notOwner s

/-- REMOTE_END (R179). -/
def execRemoteEnd (s : State) : Host.Outcome State Fault Refusal := .next (peerFrame judgeRemoteEnd s)

/-- MARK judged (R180). -/
def judgeMark (shot : Nat) (s : State) : State :=
  if !s.cfg.tether.peerMark then refusePeer .mark shot .disabled s
  else
    match markNumber shot s with
    | some t => raisePeer .mark shot none none none t
    | none => notAvailable .mark shot none .notHeld s

/-- MARK (R180). -/
def execMark (shot : Nat) (s : State) : Host.Outcome State Fault Refusal := .next (peerFrame (judgeMark shot) s)

/-- PULL of a kind judged (R181). -/
def judgePullOf (shot : Nat) (k : FileKind) (s : State) : State :=
  match s.usable shot with
  | none => notAvailable .pull shot (some k) .notHeld s
  | some t =>
    if !s.pullData shot t k then notAvailable .pull shot (some k) .noData s
    else if t.dutyState (.send k) = some .done then notAvailable .pull shot (some k) .delivered s
    else raisePeer .pull shot (some k) none none (pullShot shot k s)

/-- PULL judged (R178, R181). A kind that is none of the four is refused BAD_VALUE. -/
def judgePull (shot : Nat) (kind : Option FileKind) (s : State) : State :=
  if !s.cfg.tether.peerPull then refusePeer .pull shot .disabled s
  else
    match kind with
    | some k => judgePullOf shot k s
    | none => refusePeer .pull shot .badValue s

/-- PULL (R181). -/
def execPull (shot : Nat) (kind : Option FileKind) (s : State) : Host.Outcome State Fault Refusal :=
  .next (peerFrame (judgePull shot kind) s)

end Sys2Proof.Machine
end

