-- ==== Sys2Proof/Machine/Dispatch.lean ====
section
/-! DEFINITION. The dispatch: one arm per command, each one direct call of its meaning. -/

namespace Sys2Proof.Machine

open Sys2Proof

/-- A command's effect on everything but the queue of waiting commands. -/
def exec (i : Instr) (s : State) : Host.Outcome State Fault Refusal :=
  match i with
  | .shotMark r => Sys2Proof.Machine.execShotMark r s
  | .shotKeep r => Sys2Proof.Machine.execShotKeep r s
  | .shotRelease r => Sys2Proof.Machine.execShotRelease r s
  | .shotDelete r => Sys2Proof.Machine.execShotDelete r s
  | .shotInfo r => Sys2Proof.Machine.execShotInfo r s
  | .shotList r => Sys2Proof.Machine.execShotList r s
  | .linkStart r => Sys2Proof.Machine.execLinkStart r s
  | .linkStop r => Sys2Proof.Machine.execLinkStop r s
  | .laneTestStart r => Sys2Proof.Machine.execLaneTestStart r s
  | .laneTestRead r => Sys2Proof.Machine.execLaneTestRead r s
  | .laneTestStop r => Sys2Proof.Machine.execLaneTestStop r s
  | .linkStats r => Sys2Proof.Machine.execLinkStats r s
  | .release r => Sys2Proof.Machine.execRelease r s
  | .releaseEnd r => Sys2Proof.Machine.execReleaseEnd r s
  | .burstState r => Sys2Proof.Machine.execBurstState r s
  | .burstAbort r => Sys2Proof.Machine.execBurstAbort r s
  | .syncArm r => Sys2Proof.Machine.execSyncArm r s
  | .syncState r => Sys2Proof.Machine.execSyncState r s
  | .latencyStats r => Sys2Proof.Machine.execLatencyStats r s
  | .latencyClear r => Sys2Proof.Machine.execLatencyClear r s
  | .afLensCoef r => Sys2Proof.Machine.execAfLensCoef r s
  | .afArea r => Sys2Proof.Machine.execAfArea r s
  | .afStart r => Sys2Proof.Machine.execAfStart r s
  | .afStop r => Sys2Proof.Machine.execAfStop r s
  | .watchSet r => Sys2Proof.Machine.execWatchSet r s
  | .watchReset r => Sys2Proof.Machine.execWatchReset r s
  | .afState r => Sys2Proof.Machine.execAfState r s
  | .afGrid r => Sys2Proof.Machine.execAfGrid r s
  | .lensStart r => Sys2Proof.Machine.execLensStart r s
  | .lensStop r => Sys2Proof.Machine.execLensStop r s
  | .lensHome r => Sys2Proof.Machine.execLensHome r s
  | .lensIris r => Sys2Proof.Machine.execLensIris r s
  | .lensLimits r => Sys2Proof.Machine.execLensLimits r s
  | .lensAux r => Sys2Proof.Machine.execLensAux r s
  | .positionSet r => Sys2Proof.Machine.execPositionSet r s
  | .lensState r => Sys2Proof.Machine.execLensState r s
  | .recipeSet r => Sys2Proof.Machine.execRecipeSet r s
  | .recipeGet r => Sys2Proof.Machine.execRecipeGet r s
  | .recipeSelect r => Sys2Proof.Machine.execRecipeSelect r s
  | .developState r => Sys2Proof.Machine.execDevelopState r s
  | .cardExtents r => Sys2Proof.Machine.execCardExtents r s
  | .cardFinal r => Sys2Proof.Machine.execCardFinal r s
  | .cardClear r => Sys2Proof.Machine.execCardClear r s
  | .fileTake r => Sys2Proof.Machine.execFileTake r s
  | .cardEject r => Sys2Proof.Machine.execCardEject r s
  | .cardState r => Sys2Proof.Machine.execCardState r s
  | .cardSet r => Sys2Proof.Machine.execCardSet r s
  | .tetherState r => Sys2Proof.Machine.execTetherState r s
  | .captionSet r => Sys2Proof.Machine.execCaptionSet r s
  | .captionStanding r => Sys2Proof.Machine.execCaptionStanding r s
  | .memoLevel r => Sys2Proof.Machine.execMemoLevel r s
  | .memoStart r => Sys2Proof.Machine.execMemoStart r s
  | .memoStop r => Sys2Proof.Machine.execMemoStop r s
  | .memoState r => Sys2Proof.Machine.execMemoState r s
  | .getNotice r => Sys2Proof.Machine.execGetNotice r s
  | .status r => Sys2Proof.Machine.execStatus r s
  | .setConfig r => Sys2Proof.Machine.execSetConfig r s
  | .getConfig r => Sys2Proof.Machine.execGetConfig r s
  | .sleep r => Sys2Proof.Machine.execSleep r s
  | .reset r => Sys2Proof.Machine.execReset r s
  | .badFrame => Sys2Proof.Machine.execBadFrame s
  | .unknown tag => Sys2Proof.Machine.execUnknown tag s
  | .notReady tag => Sys2Proof.Machine.execNotReady tag s
  | .replyCollected => Sys2Proof.Machine.execReplyCollected s
  | .powerUpReset => Sys2Proof.Machine.execPowerUpReset s
  | .commandReset => Sys2Proof.Machine.execCommandReset s
  | .closingComplete => Sys2Proof.Machine.execClosingComplete s
  | .enterStandby => Sys2Proof.Machine.execEnterStandby s
  | .wakeLine => Sys2Proof.Machine.execWakeLine s
  | .laneSymbol lane sym wt => Sys2Proof.Machine.execLaneSymbol lane sym wt s
  | .laneMark lane wt => Sys2Proof.Machine.execLaneMark lane wt s
  | .alignmentWindowExpiry => Sys2Proof.Machine.execAlignmentWindowExpiry s
  | .noMarkTimeout => Sys2Proof.Machine.execNoMarkTimeout s
  | .linkParametersHeader => Sys2Proof.Machine.execLinkParametersHeader s
  | .trainingReassert => Sys2Proof.Machine.execTrainingReassert s
  | .laneDrift wt => Sys2Proof.Machine.execLaneDrift wt s
  | .readoutHeader => Sys2Proof.Machine.execReadoutHeader s
  | .line => Sys2Proof.Machine.execLine s
  | .readoutEnd => Sys2Proof.Machine.execReadoutEnd s
  | .readoutSilence => Sys2Proof.Machine.execReadoutSilence s
  | .retrainPerformed => Sys2Proof.Machine.execRetrainPerformed s
  | .reservationGrant => Sys2Proof.Machine.execReservationGrant s
  | .wheelSlot => Sys2Proof.Machine.execWheelSlot s
  | .releaseLineChange pressed => Sys2Proof.Machine.execReleaseLineChange pressed s
  | .releaseFilterExpiry => Sys2Proof.Machine.execReleaseFilterExpiry s
  | .frameFire => Sys2Proof.Machine.execFrameFire s
  | .focusWaitExpiry => Sys2Proof.Machine.execFocusWaitExpiry s
  | .readoutTimeout => Sys2Proof.Machine.execReadoutTimeout s
  | .syncEdge => Sys2Proof.Machine.execSyncEdge s
  | .settleTimeout => Sys2Proof.Machine.execSettleTimeout s
  | .lensDetectChange active => Sys2Proof.Machine.execLensDetectChange active s
  | .statusSlot w => Sys2Proof.Machine.execStatusSlot w s
  | .driveSlot => Sys2Proof.Machine.execDriveSlot s
  | .irisSlot => Sys2Proof.Machine.execIrisSlot s
  | .auxSlot w => Sys2Proof.Machine.execAuxSlot w s
  | .lensFrameEnd => Sys2Proof.Machine.execLensFrameEnd s
  | .homeTimeout => Sys2Proof.Machine.execHomeTimeout s
  | .encoderEdge a b => Sys2Proof.Machine.execEncoderEdge a b s
  | .indexEvent => Sys2Proof.Machine.execIndexEvent s
  | .developJobStart => Sys2Proof.Machine.execDevelopJobStart s
  | .allocationGrant => Sys2Proof.Machine.execAllocationGrant s
  | .developComplete => Sys2Proof.Machine.execDevelopComplete s
  | .cardPresentChange slot active => Sys2Proof.Machine.execCardPresentChange slot active s
  | .fileStart slot => Sys2Proof.Machine.execFileStart slot s
  | .cardWriteIssue slot => Sys2Proof.Machine.execCardWriteIssue slot s
  | .cardWriteDone slot write => Sys2Proof.Machine.execCardWriteDone slot write s
  | .cardWriteError slot write => Sys2Proof.Machine.execCardWriteError slot write s
  | .writeTimeout slot => Sys2Proof.Machine.execWriteTimeout slot s
  | .tetherLinkChange up => Sys2Proof.Machine.execTetherLinkChange up s
  | .peerBadFrame => Sys2Proof.Machine.execPeerBadFrame s
  | .transferStart => Sys2Proof.Machine.execTransferStart s
  | .accept id start => Sys2Proof.Machine.execAccept id start s
  | .decline id => Sys2Proof.Machine.execDecline id s
  | .credit count => Sys2Proof.Machine.execCredit count s
  | .ack id offset => Sys2Proof.Machine.execAck id offset s
  | .segSend => Sys2Proof.Machine.execSegSend s
  | .ackTimerExpiry => Sys2Proof.Machine.execAckTimerExpiry s
  | .captionUpdate => Sys2Proof.Machine.execCaptionUpdate s
  | .remoteRelease count => Sys2Proof.Machine.execRemoteRelease count s
  | .remoteEnd => Sys2Proof.Machine.execRemoteEnd s
  | .mark shot => Sys2Proof.Machine.execMark shot s
  | .pull shot kind => Sys2Proof.Machine.execPull shot kind s
  | .memoSample bits => Sys2Proof.Machine.execMemoSample bits s
  | .activityFrameEnd => Sys2Proof.Machine.execActivityFrameEnd s

end Sys2Proof.Machine
end

