-- ==== Sys2Proof/Machine/Operands.lean ====
section
/-! DEFINITION. The operand forms: how the bytes of a host transaction and of a peer frame spell a command (R162, R198; 11_formats.md,
"Payload fields on the command port", "Command and reply frames", "Tether frames"), what the port clocks out in return
(R198, R199), and the frames that the host and the peer send for a command. -/

namespace Sys2Proof.Machine

open Sys2Proof

/-! ## Fields of a payload

Each reader takes its field from the front of the bytes and leaves the rest, or fails. -/

/-- An unsigned quantity of `k` bytes. -/
def takeNum (k : Nat) (l : List Byte) : Option (Nat × List Byte) :=
  if k ≤ l.length then some (leNat (l.take k), l.drop k) else none

/-- The signed value of `k` bytes whose unsigned value is `n`. -/
def signedOf (k n : Nat) : Int := if 2 * n < 256 ^ k then n else (n : Int) - (256 ^ k : Nat)

/-- A signed quantity of `k` bytes, in two's complement. -/
def takeInt (k : Nat) (l : List Byte) : Option (Int × List Byte) := (takeNum k l).map (fun p => (signedOf k p.1, p.2))

/-- An enumerated value: a length of 1 to 32, then that many bytes. -/
def takeName : List Byte → Option (List Byte × List Byte)
  | [] => none
  | n :: r =>
    if 1 ≤ n.toNat ∧ n.toNat ≤ 32 ∧ n.toNat ≤ r.length then some (r.take n.toNat, r.drop n.toNat) else none

/-- A byte string: a length of 0 to 192, then that many bytes. -/
def takeBytes : List Byte → Option (List Byte × List Byte)
  | [] => none
  | n :: r => if n.toNat ≤ 192 ∧ n.toNat ≤ r.length then some (r.take n.toNat, r.drop n.toNat) else none

/-- `n` fields of one form, one after the other. -/
def takeMany {α : Type} (f : List Byte → Option (α × List Byte)) : Nat → List Byte → Option (List α × List Byte)
  | 0, l => some ([], l)
  | n + 1, l =>
    match f l with
    | some (a, r) => (takeMany f n r).map (fun p => (a :: p.1, p.2))
    | none => none

/-- A list: an item count of two bytes, then the items. -/
def takeItems {α : Type} (f : List Byte → Option (α × List Byte)) (l : List Byte) : Option (List α × List Byte) :=
  (takeNum 2 l).bind (fun p => takeMany f p.1 p.2)

/-- An optional part: a presence byte of 0 or 1, then the content if present. -/
def takeOpt {α : Type} (f : List Byte → Option (α × List Byte)) (l : List Byte) : Option (Option α × List Byte) :=
  match takeNum 1 l with
  | some (0, r) => some (none, r)
  | some (1, r) => (f r).map (fun p => (some p.1, p.2))
  | _ => none

/-- A value or a named alternative: a form byte of 0 or 1, then the value for 0. -/
def takeAlt {α : Type} (f : List Byte → Option (α × List Byte)) (l : List Byte) : Option (OrNamed α × List Byte) :=
  match takeNum 1 l with
  | some (0, r) => (f r).map (fun p => (.value p.1, p.2))
  | some (1, r) => some (.named, r)
  | _ => none

/-- Two fields, one after the other. -/
def takeBoth {α β : Type} (f : List Byte → Option (α × List Byte)) (g : List Byte → Option (β × List Byte))
    (l : List Byte) : Option ((α × β) × List Byte) :=
  (f l).bind (fun p => (g p.2).map (fun q => ((p.1, q.1), q.2)))

/-- No field. -/
def takeNothing (l : List Byte) : Option (Unit × List Byte) := some ((), l)

/-- A payload that holds the field and nothing more (R198, fourth check). -/
def whole {α : Type} (f : List Byte → Option (α × List Byte)) (l : List Byte) : Option α :=
  match f l with
  | some (a, []) => some a
  | _ => none

/-! ## Names -/

/-- Whether bytes spell a name. -/
def spells (w : String) (b : List Byte) : Bool := asciiBytes w == b

/-- What a name stands for in a table of names. -/
def named {α : Type} (t : List (String × α)) (b : List Byte) : Option α := (t.find? (fun p => spells p.1 b)).map (·.2)

/-- The text that bytes spell. -/
def textOf (b : List Byte) : String := String.ofList (b.map (fun x => Char.ofNat x.toNat))

/-- A slot, `none` for a name other than A or B. -/
def takeSlot (l : List Byte) : Option (Option Slot × List Byte) :=
  (takeName l).map (fun p => (named [("A", Slot.a), ("B", Slot.b)] p.1, p.2))

/-- A servo mode, `none` for a name that is none of the three. -/
def takeMode (l : List Byte) : Option (Option ServoMode × List Byte) :=
  (takeName l).map (fun p =>
    (named [("SINGLE", ServoMode.single), ("CONTINUOUS", .continuous), ("MONITOR", .monitor)] p.1, p.2))

/-- OFF or ON; another name is no field of this kind. -/
def takeOnOff (l : List Byte) : Option (Bool × List Byte) :=
  (takeName l).bind (fun p => (named [("OFF", false), ("ON", true)] p.1).map (fun b => (b, p.2)))

/-- The groups by name. -/
def groupNames : List (String × Group) :=
  [.capture, .burst, .focus, .lens, .plans, .store, .tether, .memo, .numbering].map (fun g => (g.name, g))

/-- A group, `none` for a name that is no group. -/
def takeGroup (l : List Byte) : Option (Option Group × List Byte) :=
  (takeName l).map (fun p => (named groupNames p.1, p.2))

/-! ## The forms that single commands carry -/

/-- A rectangle (R80). -/
def takeRect (l : List Byte) : Option (Rect × List Byte) :=
  (takeBoth (takeBoth (takeNum 1) (takeNum 1)) (takeBoth (takeNum 1) (takeNum 1)) l).map
    (fun p => (⟨p.1.1.1, p.1.1.2, p.1.2.1, p.1.2.2⟩, p.2))

/-- AF_AREA's form with its area or rectangle (R80). -/
def takeArea (l : List Byte) : Option (AreaArg × List Byte) :=
  (takeName l).bind (fun p =>
    if spells "SINGLE_AREA" p.1 then (takeNum 1 p.2).map (fun q => (.singleArea q.1, q.2))
    else if spells "ZONE" p.1 then (takeRect p.2).map (fun q => (.zone q.1, q.2))
    else if spells "TRACK" p.1 then (takeNum 1 p.2).map (fun q => (.track q.1, q.2))
    else none)

/-- LENS_LIMITS's four values (R109). -/
def takeLimits (l : List Byte) : Option (LimitsArg × List Byte) :=
  (takeBoth (takeBoth (takeInt 4) (takeInt 4)) (takeBoth (takeNum 1) (takeNum 1)) l).map
    (fun p => (⟨p.1.1.1, p.1.1.2, p.1.2.1, p.1.2.2⟩, p.2))

/-- A passthrough word of LENS_AUX (R110). -/
def takeWord16 (l : List Byte) : Option (Word16 × List Byte) := (takeNum 2 l).map (fun p => (BitVec.ofNat 16 p.1, p.2))

/-- A run of sectors: its start and its count in 4 bytes each. R140 gives the count no width, so a run of 4,294,967,296
sectors cannot be sent (DESIGN CHOICE, log entry 5). -/
def takeRun (l : List Byte) : Option (Run × List Byte) :=
  (takeBoth (takeNum 4) (takeNum 4) l).map (fun p => (⟨p.1.1, p.1.2⟩, p.2))

/-- A recipe (R117): the matrix and the curve have a fixed number of entries and carry no count (log entry 21). -/
def takeRecipe (l : List Byte) : Option (Recipe × List Byte) :=
  (takeBoth (takeBoth (takeNum 1) (takeNum 2))
    (takeBoth (takeMany (takeInt 2) 4) (takeBoth (takeMany (takeNum 2) 4) (takeBoth (takeMany (takeInt 2) 9) (takeMany (takeNum 2) 257)))) l).map
    (fun p =>
      let trim := fun i => p.1.2.1.getD i 0
      let gain := fun i => p.1.2.2.1.getD i 0
      ({ scale := p.1.1.1, white := p.1.1.2, trimR := trim 0, trimGr := trim 1, trimGb := trim 2, trimB := trim 3
         gainR := gain 0, gainG := gain 1, gainB := gain 2, gainE := gain 3
         matrix := p.1.2.2.2.1, tone := p.1.2.2.2.2 }, p.2))

/-! ## SET_CONFIG's values -/

/-- The forms of configuration values. -/
inductive ValueForm
  | unsigned (k : Nat)
  | signed (k : Nat)
  | name
  | numbers
  | names
  | caption
  deriving DecidableEq, Repr

/-- The form of a field's value, from its range (Formats, "Payload fields on the command port"). -/
def valueForm : Field → ValueForm
  | .laneCount | .depth | .errorThreshold | .releaseFilter | .searchRange | .inFocusWindow | .driveSpeed | .searchSpeed
  | .watcherThreshold | .trailingSilence => .unsigned 1
  | .sensorId | .width | .height | .fixedBlack | .readoutTimeout | .focusWait | .syncWindow | .searchStep | .lensFramePeriod
  | .homeTimeout | .captureFloor | .ackTimeout | .energyThreshold | .crossingThreshold => .unsigned 2
  | .releaseLatency | .framePeriod | .latenessLimit | .contrastThreshold | .lowThreshold | .firstShotNumber => .unsigned 4
  | .indexValue => .signed 4
  | .laneMap => .numbers
  | .polarity | .wheel => .names
  | .standingCaption => .caption
  | .cfaOrder | .focusPriority | .syncMode | .syncOut | .wakeStartsFocus | .counterMode | .countDirection | .referenceMode
  | .cardPlan | .proofFiles | .developPlan | .tetherPlan | .hold | .peerRelease | .peerMark | .peerPull | .startMode => .name

/-- A value of a form. -/
def takeValueOf (f : ValueForm) (l : List Byte) : Option (CfgVal × List Byte) :=
  match f with
  | .unsigned k => (takeNum k l).map (fun p => (.num p.1, p.2))
  | .signed k => (takeInt k l).map (fun p => (.num p.1, p.2))
  | .name => (takeName l).map (fun p => (.word (textOf p.1), p.2))
  | .numbers => (takeItems (takeNum 1) l).map (fun p => (.nums (p.1.map Int.ofNat), p.2))
  | .names => (takeItems takeName l).map (fun p => (.words (p.1.map textOf), p.2))
  | .caption => (takeOpt takeBytes l).map (fun p => (.text p.1, p.2))

/-- `n` field and value pairs of a group. From a name that is no field of the group nothing more can be read; the message
is refused for it (R204). -/
def takePairs (g : Group) : Nat → List Byte → Option (List (Option Field × CfgVal) × List Byte)
  | 0, l => some ([], l)
  | n + 1, l =>
    match takeName l with
    | none => none
    | some (b, r) =>
      match (Group.fields g).find? (fun f => spells f.name b) with
      | none => some ([(none, .num 0)], [])
      | some f =>
        match takeValueOf (valueForm f) r with
        | none => none
        | some (v, r2) => (takePairs g n r2).map (fun p => ((some f, v) :: p.1, p.2))

/-- SET_CONFIG's payload (R204). -/
def takeConfigArg (l : List Byte) : Option (ConfigArg × List Byte) :=
  (takeGroup l).bind (fun p =>
    match p.1 with
    | none => some (⟨none, []⟩, [])
    | some g => ((takeNum 2 p.2).bind (fun q => takePairs g q.1 q.2)).map (fun q => (⟨some g, q.1⟩, q.2)))

/-! ## Host frames -/

/-- LANE_TEST by its action (R47). -/
def laneTestOf (t : Byte) (l : List Byte) : Instr :=
  match (whole takeName l).bind (named [("START", 0), ("READ", 1), ("STOP", 2)]) with
  | some 0 => .laneTestStart ⟨t, some ()⟩
  | some 1 => .laneTestRead ⟨t, some ()⟩
  | some _ => .laneTestStop ⟨t, some ()⟩
  | none => .laneTestRead ⟨t, none⟩

/-- The commands that the part takes from the host, by name. -/
def hostTable : List (String × (Byte → List Byte → Instr)) := [
  ("SHOT_MARK", fun t l => .shotMark ⟨t, whole (takeAlt (takeNum 4)) l⟩),
  ("SHOT_KEEP", fun t l => .shotKeep ⟨t, whole (takeNum 4) l⟩),
  ("SHOT_RELEASE", fun t l => .shotRelease ⟨t, whole (takeNum 4) l⟩),
  ("SHOT_DELETE", fun t l => .shotDelete ⟨t, whole (takeNum 4) l⟩),
  ("SHOT_INFO", fun t l => .shotInfo ⟨t, whole (takeNum 4) l⟩),
  ("SHOT_LIST", fun t l => .shotList ⟨t, whole (takeNum 4) l⟩),
  ("LINK_START", fun t l => .linkStart ⟨t, whole takeNothing l⟩),
  ("LINK_STOP", fun t l => .linkStop ⟨t, whole takeNothing l⟩),
  ("LANE_TEST", laneTestOf),
  ("LINK_STATS", fun t l => .linkStats ⟨t, whole takeNothing l⟩),
  ("RELEASE", fun t l => .release ⟨t, whole (takeAlt (takeNum 2)) l⟩),
  ("RELEASE_END", fun t l => .releaseEnd ⟨t, whole takeNothing l⟩),
  ("BURST_STATE", fun t l => .burstState ⟨t, whole takeNothing l⟩),
  ("BURST_ABORT", fun t l => .burstAbort ⟨t, whole takeNothing l⟩),
  ("SYNC_ARM", fun t l => .syncArm ⟨t, whole takeNothing l⟩),
  ("SYNC_STATE", fun t l => .syncState ⟨t, whole takeNothing l⟩),
  ("LATENCY_STATS", fun t l => .latencyStats ⟨t, whole takeNothing l⟩),
  ("LATENCY_CLEAR", fun t l => .latencyClear ⟨t, whole takeNothing l⟩),
  ("AF_LENS_COEF", fun t l => .afLensCoef ⟨t, whole (takeInt 2) l⟩),
  ("AF_AREA", fun t l => .afArea ⟨t, whole takeArea l⟩),
  ("AF_START", fun t l => .afStart ⟨t, whole takeMode l⟩),
  ("AF_STOP", fun t l => .afStop ⟨t, whole takeNothing l⟩),
  ("WATCH_SET", fun t l => .watchSet ⟨t, whole takeOnOff l⟩),
  ("WATCH_RESET", fun t l => .watchReset ⟨t, whole takeNothing l⟩),
  ("AF_STATE", fun t l => .afState ⟨t, whole takeNothing l⟩),
  ("AF_GRID", fun t l => .afGrid ⟨t, whole (takeNum 1) l⟩),
  ("LENS_START", fun t l => .lensStart ⟨t, whole takeNothing l⟩),
  ("LENS_STOP", fun t l => .lensStop ⟨t, whole takeNothing l⟩),
  ("LENS_HOME", fun t l => .lensHome ⟨t, whole takeNothing l⟩),
  ("LENS_IRIS", fun t l => .lensIris ⟨t, whole (takeNum 1) l⟩),
  ("LENS_LIMITS", fun t l => .lensLimits ⟨t, whole takeLimits l⟩),
  ("LENS_AUX", fun t l => .lensAux ⟨t, whole takeWord16 l⟩),
  ("POSITION_SET", fun t l => .positionSet ⟨t, whole (takeInt 4) l⟩),
  ("LENS_STATE", fun t l => .lensState ⟨t, whole takeNothing l⟩),
  ("RECIPE_SET", fun t l => .recipeSet ⟨t, whole (takeBoth (takeNum 1) takeRecipe) l⟩),
  ("RECIPE_GET", fun t l => .recipeGet ⟨t, whole (takeNum 1) l⟩),
  ("RECIPE_SELECT", fun t l => .recipeSelect ⟨t, whole (takeNum 1) l⟩),
  ("DEVELOP_STATE", fun t l => .developState ⟨t, whole takeNothing l⟩),
  ("CARD_EXTENTS", fun t l => .cardExtents ⟨t, whole (takeBoth takeSlot (takeItems takeRun)) l⟩),
  ("CARD_FINAL", fun t l => .cardFinal ⟨t, whole takeSlot l⟩),
  ("CARD_CLEAR", fun t l => .cardClear ⟨t, whole takeSlot l⟩),
  ("FILE_TAKE", fun t l => .fileTake ⟨t, whole takeSlot l⟩),
  ("CARD_EJECT", fun t l => .cardEject ⟨t, whole takeSlot l⟩),
  ("CARD_STATE", fun t l => .cardState ⟨t, whole takeSlot l⟩),
  ("CARD_SET", fun t l => .cardSet ⟨t, whole (takeBoth takeSlot (takeBoth (takeNum 4) (takeNum 2))) l⟩),
  ("TETHER_STATE", fun t l => .tetherState ⟨t, whole takeNothing l⟩),
  ("CAPTION_SET", fun t l => .captionSet ⟨t, whole (takeBoth (takeNum 4) takeBytes) l⟩),
  ("CAPTION_STANDING", fun t l => .captionStanding ⟨t, whole (takeAlt takeBytes) l⟩),
  ("MEMO_LEVEL", fun t l => .memoLevel ⟨t, whole (takeBoth (fun x => (takeNum 1 x).map (fun p => ((p.1 : Int), p.2))) (takeInt 2)) l⟩),
  ("MEMO_START", fun t l => .memoStart ⟨t, whole (takeAlt (takeNum 4)) l⟩),
  ("MEMO_STOP", fun t l => .memoStop ⟨t, whole takeNothing l⟩),
  ("MEMO_STATE", fun t l => .memoState ⟨t, whole takeNothing l⟩),
  ("GET_NOTICE", fun t l => .getNotice ⟨t, whole takeNothing l⟩),
  ("STATUS", fun t l => .status ⟨t, whole takeNothing l⟩),
  ("SET_CONFIG", fun t l => .setConfig ⟨t, whole takeConfigArg l⟩),
  ("GET_CONFIG", fun t l => .getConfig ⟨t, whole takeGroup l⟩),
  ("SLEEP", fun t l => .sleep ⟨t, whole takeNothing l⟩),
  ("RESET", fun t l => .reset ⟨t, whole takeNothing l⟩)]

/-- The command that a frame's tag, name and payload spell: UNKNOWN for a name that is not in the table (R198, third
check). -/
def hostInstr (tag : Byte) (name payload : List Byte) : Instr :=
  match hostTable.find? (fun e => spells e.1 name) with
  | some e => e.2 tag payload
  | none => .unknown tag

/-- The bytes after the sync byte judged (R198): BAD_FRAME for too few bytes, a wrong CRC-16 or a payload above 1,024
bytes. Bytes after the CRC are ignored. -/
def judgeHostFrame : List Byte → Instr
  | tag :: n :: r =>
    let name := r.take n.toNat
    let size := (r.drop n.toNat).take 2
    let rest := r.drop (n.toNat + 2)
    let m := leNat size
    let body := tag :: n :: (name ++ size ++ rest.take m)
    if n.toNat + 2 ≤ r.length ∧ m + 2 ≤ rest.length ∧ leNat ((rest.drop m).take 2) = crc16 body ∧ m ≤ 1024 then
      hostInstr tag name (rest.take m)
    else .badFrame
  | _ => .badFrame

/-- The command that a transaction's bytes in carry, if its first byte is the sync byte (R198). -/
def commandOf : List Byte → Option Instr
  | b :: r => if b = 0xA5#8 then some (judgeHostFrame r) else none
  | [] => none

/-- What the port clocks out in a transaction of `n` bytes: the reply slot's content, then filler (R198). -/
def State.clockedOut (s : State) (n : Nat) : List Byte :=
  (((s.cp.slot.map Reply.encode).getD []) ++ List.replicate n 0#8).take n

/-- Whether a transaction of `n` bytes clocks out the last byte of the reply in the slot (R199). -/
def State.collects (s : State) (n : Nat) : Bool := s.cp.slot.any (fun r => decide (r.encode.length ≤ n))

/-- The commands that a transaction makes: the reply's collection, if its last byte leaves, before the frame that the
transaction carries (R199). -/
def State.transaction (s : State) (bytes : List Byte) : List Instr :=
  (if s.collects bytes.length then [.replyCollected] else []) ++ (commandOf bytes).toList

/-- A transaction's commands join the queue. -/
def State.receive (s : State) (bytes : List Byte) : State := { s with pending := s.pending ++ s.transaction bytes }

/-! ## Peer frames -/

/-- The file kind of a code, none for another code. -/
def kindOf : Nat → Option FileKind
  | 1 => some .raw
  | 2 => some .proof
  | 3 => some .memo
  | 4 => some .caption
  | _ => none

/-- The command that a peer frame's type and body spell, none for a type that the part does not receive or a length that
does not match it (R162; Formats, "Tether frames"). -/
def peerInstr (type : Nat) (body : List Byte) : Option Instr :=
  match type with
  | 0x11 => (whole (takeBoth (takeNum 2) (takeNum 4)) body).map (fun p => .accept p.1 p.2)
  | 0x12 => (whole (takeNum 2) body).map (fun n => .decline n)
  | 0x13 => (whole (takeNum 1) body).map (fun n => .credit n)
  | 0x14 => (whole (takeBoth (takeNum 2) (takeNum 4)) body).map (fun p => .ack p.1 p.2)
  | 0x15 => (whole (takeNum 1) body).map (fun n => .remoteRelease n)
  | 0x16 => (whole takeNothing body).map (fun _ => .remoteEnd)
  | 0x17 => (whole (takeNum 4) body).map (fun n => .mark n)
  | 0x18 => (whole (takeBoth (takeNum 4) (takeNum 1)) body).map (fun p => .pull p.1 (kindOf p.2))
  | _ => none

/-- A whole frame of the peer judged (R162): a wrong CRC-32, type or length makes it a bad frame. -/
def peerCommandOf (l : List Byte) : Instr :=
  match l with
  | t :: r =>
    let m := leNat (r.take 2)
    let head := t :: r.take (2 + m)
    if r.length = m + 6 ∧ leNat (r.drop (2 + m)) = crc32 head then
      (peerInstr t.toNat ((r.drop 2).take m)).getD .peerBadFrame
    else .peerBadFrame
  | [] => .peerBadFrame

/-! ## The frames that a sender makes -/

/-- A tether frame of a type and a body. -/
def tetherBytes (type : Nat) (body : List Byte) : List Byte :=
  let head := leBytes 1 type ++ leBytes 2 body.length ++ body
  head ++ leBytes 4 (crc32 head)

/-- The frame that the peer sends for one of its commands (Formats, "Tether frames"). -/
def peerBytes : Instr → Option (List Byte)
  | .accept id start => some (tetherBytes 0x11 (leBytes 2 id ++ leBytes 4 start))
  | .decline id => some (tetherBytes 0x12 (leBytes 2 id))
  | .credit n => some (tetherBytes 0x13 (leBytes 1 n))
  | .ack id offset => some (tetherBytes 0x14 (leBytes 2 id ++ leBytes 4 offset))
  | .remoteRelease n => some (tetherBytes 0x15 (leBytes 1 n))
  | .remoteEnd => some (tetherBytes 0x16 [])
  | .mark n => some (tetherBytes 0x17 (leBytes 4 n))
  | .pull n k => some (tetherBytes 0x18 (leBytes 4 n ++ leBytes 1 (kindCode k)))
  | _ => none

/-- A value or a named alternative as fields. -/
def altWires {α : Type} (x : OrNamed α) (f : α → List Wire) : List Wire :=
  match x with
  | .named => [.named true]
  | .value a => .named false :: f a

/-- A slot as a field. -/
def slotWires (sl : Slot) : List Wire := [.word sl.name]

/-- The name and the payload fields of a host command that carries numbers, a slot, a mode, a rectangle, runs or a caption,
with the tag of its frame. RECIPE_SET and SET_CONFIG, a slot or a mode or a group that is none of those named, and frames
without their fields have none here. -/
def hostRequest : Instr → Option (Byte × String × List Wire)
  | .shotMark ⟨t, some x⟩ => some (t, "SHOT_MARK", altWires x (fun n => [.u32 n]))
  | .shotKeep ⟨t, some n⟩ => some (t, "SHOT_KEEP", [.u32 n])
  | .shotRelease ⟨t, some n⟩ => some (t, "SHOT_RELEASE", [.u32 n])
  | .shotDelete ⟨t, some n⟩ => some (t, "SHOT_DELETE", [.u32 n])
  | .shotInfo ⟨t, some n⟩ => some (t, "SHOT_INFO", [.u32 n])
  | .shotList ⟨t, some n⟩ => some (t, "SHOT_LIST", [.u32 n])
  | .linkStart ⟨t, some _⟩ => some (t, "LINK_START", [])
  | .linkStop ⟨t, some _⟩ => some (t, "LINK_STOP", [])
  | .laneTestStart ⟨t, some _⟩ => some (t, "LANE_TEST", [.word "START"])
  | .laneTestRead ⟨t, some _⟩ => some (t, "LANE_TEST", [.word "READ"])
  | .laneTestStop ⟨t, some _⟩ => some (t, "LANE_TEST", [.word "STOP"])
  | .linkStats ⟨t, some _⟩ => some (t, "LINK_STATS", [])
  | .release ⟨t, some x⟩ => some (t, "RELEASE", altWires x (fun n => [.u16 n]))
  | .releaseEnd ⟨t, some _⟩ => some (t, "RELEASE_END", [])
  | .burstState ⟨t, some _⟩ => some (t, "BURST_STATE", [])
  | .burstAbort ⟨t, some _⟩ => some (t, "BURST_ABORT", [])
  | .syncArm ⟨t, some _⟩ => some (t, "SYNC_ARM", [])
  | .syncState ⟨t, some _⟩ => some (t, "SYNC_STATE", [])
  | .latencyStats ⟨t, some _⟩ => some (t, "LATENCY_STATS", [])
  | .latencyClear ⟨t, some _⟩ => some (t, "LATENCY_CLEAR", [])
  | .afLensCoef ⟨t, some k⟩ => some (t, "AF_LENS_COEF", [.i16 k])
  | .afArea ⟨t, some (.singleArea a)⟩ => some (t, "AF_AREA", [.word "SINGLE_AREA", .u8 a])
  | .afArea ⟨t, some (.zone r)⟩ => some (t, "AF_AREA", [.word "ZONE", .u8 r.row0, .u8 r.col0, .u8 r.row1, .u8 r.col1])
  | .afArea ⟨t, some (.track a)⟩ => some (t, "AF_AREA", [.word "TRACK", .u8 a])
  | .afStart ⟨t, some (some m)⟩ => some (t, "AF_START", [.word m.name])
  | .afStop ⟨t, some _⟩ => some (t, "AF_STOP", [])
  | .watchSet ⟨t, some b⟩ => some (t, "WATCH_SET", [.word (onOff b)])
  | .watchReset ⟨t, some _⟩ => some (t, "WATCH_RESET", [])
  | .afState ⟨t, some _⟩ => some (t, "AF_STATE", [])
  | .afGrid ⟨t, some n⟩ => some (t, "AF_GRID", [.u8 n])
  | .lensStart ⟨t, some _⟩ => some (t, "LENS_START", [])
  | .lensStop ⟨t, some _⟩ => some (t, "LENS_STOP", [])
  | .lensHome ⟨t, some _⟩ => some (t, "LENS_HOME", [])
  | .lensIris ⟨t, some n⟩ => some (t, "LENS_IRIS", [.u8 n])
  | .lensLimits ⟨t, some x⟩ => some (t, "LENS_LIMITS", [.i32 x.far, .i32 x.near, .u8 x.irisMin, .u8 x.irisMax])
  | .lensAux ⟨t, some w⟩ => some (t, "LENS_AUX", [.u16 w.toNat])
  | .positionSet ⟨t, some v⟩ => some (t, "POSITION_SET", [.i32 v])
  | .lensState ⟨t, some _⟩ => some (t, "LENS_STATE", [])
  | .recipeGet ⟨t, some n⟩ => some (t, "RECIPE_GET", [.u8 n])
  | .recipeSelect ⟨t, some n⟩ => some (t, "RECIPE_SELECT", [.u8 n])
  | .developState ⟨t, some _⟩ => some (t, "DEVELOP_STATE", [])
  | .cardExtents ⟨t, some (some sl, l)⟩ =>
    some (t, "CARD_EXTENTS", slotWires sl ++ listOf l (fun r => [.u32 r.start, .u32 r.count]))
  | .cardFinal ⟨t, some (some sl)⟩ => some (t, "CARD_FINAL", slotWires sl)
  | .cardClear ⟨t, some (some sl)⟩ => some (t, "CARD_CLEAR", slotWires sl)
  | .fileTake ⟨t, some (some sl)⟩ => some (t, "FILE_TAKE", slotWires sl)
  | .cardEject ⟨t, some (some sl)⟩ => some (t, "CARD_EJECT", slotWires sl)
  | .cardState ⟨t, some (some sl)⟩ => some (t, "CARD_STATE", slotWires sl)
  | .cardSet ⟨t, some (some sl, low, ms)⟩ => some (t, "CARD_SET", slotWires sl ++ [.u32 low, .u16 ms])
  | .tetherState ⟨t, some _⟩ => some (t, "TETHER_STATE", [])
  | .captionSet ⟨t, some (n, c)⟩ => some (t, "CAPTION_SET", [.u32 n, .bytes c])
  | .captionStanding ⟨t, some x⟩ => some (t, "CAPTION_STANDING", altWires x (fun c => [.bytes c]))
  | .memoLevel ⟨t, some (g, o)⟩ => some (t, "MEMO_LEVEL", [.u8 g.toNat, .i16 o])
  | .memoStart ⟨t, some x⟩ => some (t, "MEMO_START", altWires x (fun n => [.u32 n]))
  | .memoStop ⟨t, some _⟩ => some (t, "MEMO_STOP", [])
  | .memoState ⟨t, some _⟩ => some (t, "MEMO_STATE", [])
  | .getNotice ⟨t, some _⟩ => some (t, "GET_NOTICE", [])
  | .status ⟨t, some _⟩ => some (t, "STATUS", [])
  | .getConfig ⟨t, some (some g)⟩ => some (t, "GET_CONFIG", [.word g.name])
  | .sleep ⟨t, some _⟩ => some (t, "SLEEP", [])
  | .reset ⟨t, some _⟩ => some (t, "RESET", [])
  | _ => none

/-- The bytes of the frame that the host sends for a command (Formats, "Command and reply frames"). -/
def hostBytes (i : Instr) : Option (List Byte) := (hostRequest i).map (fun p => frameBytes p.1 p.2.1 (encodeAll p.2.2))

end Sys2Proof.Machine
end

