-- ==== Sys2Proof/Machine/Internal.lean ====
section
/-! DEFINITION. What the part does with no command waiting (DESIGN CHOICE, log entry 1): the first of its own steps that is
due or ready, in a fixed order, and otherwise one microsecond passes (R51). -/

namespace Sys2Proof.Machine

open Sys2Proof

/-- Whether the lens frame's period is over. -/
def State.lensFrameOver (s : State) : Bool := s.lensFrames && decide (s.lp.frameFrom + s.lp.framePeriod ≤ s.time)

/-- The lens slot that a frame whose period is over still owes, the lens having sent nothing; after the last, the frame's
end. -/
def lensSlotDue (slot : Nat) : Instr :=
  match slot with
  | 0 => .statusSlot none
  | 1 => .driveSlot
  | 2 => .irisSlot
  | 3 => .auxSlot none
  | _ => .lensFrameEnd

/-- Whether a transfer's ack timer has expired (R173). -/
def State.ackOverdue (s : State) : Bool :=
  match s.tp.transfer with
  | some t => s.tp.phase.working && decide (t.expires ≤ s.time)
  | none => false

/-- Whether a caption update is pending and may be sent (R177). -/
def State.captionReady (s : State) : Bool :=
  match s.tp.transfer with
  | some t => s.tp.phase == .sending && t.captionDue
  | none => false

/-- Whether a waiting allocation may be granted (R124). -/
def State.allocationReady (s : State) : Bool :=
  match s.de.job with
  | some j => s.de.phase == .stalled && s.mayGrantJob j
  | none => false

/-- Whether a slot issues its next write, or fails its file at the fragment limit (R146, R147). -/
def CardSlot.writeReady (c : CardSlot) : Bool := c.wouldFragment || c.mayWrite

/-- Whether any reader waits for a read (R23). R23 gives no length of a read time: on an empty queue the wheel turns only
while a reader waits, and idle slots pass only where WHEEL_SLOT is commanded (DESIGN CHOICE, log entry 1). -/
def State.anyReader (s : State) : Bool := s.cp.power != .standby && [Reader.a, .b, .d, .t].any s.readerWaits

/-- The timers, in order: each with whether it has run out. -/
def State.expiries (s : State) : List (Bool × Instr) := [
  (s.sp.link == .training && s.due s.sp.markBy, .noMarkTimeout),
  (s.sp.link == .training && s.due s.sp.reassertAt, .trainingReassert),
  (s.silent, .readoutSilence),
  (s.due s.rtu.filterAt, .releaseFilterExpiry),
  (s.rtu.phase == .waiting && s.due s.rtu.waitAt, .focusWaitExpiry),
  (s.expectsReadout && s.due s.rtu.readoutAt, .readoutTimeout),
  (s.due (s.fe.settle.map (·.due)), .settleTimeout),
  (s.lp.homing && s.due s.lp.homeAt, .homeTimeout),
  (s.lensFrameOver, lensSlotDue s.lp.slot),
  ((s.expiredWrite .a).isSome, .writeTimeout .a),
  ((s.expiredWrite .b).isSome, .writeTimeout .b),
  (s.ackOverdue, .ackTimerExpiry)]

/-- The steps that are taken as soon as their conditions hold, in order (DESIGN CHOICE, log entry 1). -/
def State.readySteps (s : State) : List (Bool × Instr) := [
  (s.mayReserve, .reservationGrant),
  (s.allocationReady, .allocationGrant),
  (s.headerReady.isSome, .readoutHeader),
  (s.lineReady.isSome, .line),
  (s.stopReady, .readoutEnd),
  (s.paramsReady, .linkParametersHeader),
  (s.mayRetrain, .retrainPerformed),
  (s.mayFire, .frameFire),
  (s.de.phase == .idle && !s.de.queue.isEmpty, .developJobStart),
  (s.mayStartFile .a, .fileStart .a),
  (s.mayStartFile .b, .fileStart .b),
  (s.cw.a.writeReady, .cardWriteIssue .a),
  (s.cw.b.writeReady, .cardWriteIssue .b),
  (s.mayOffer, .transferStart),
  (s.captionReady, .captionUpdate),
  (s.maySend, .segSend),
  (s.jobDone, .developComplete),
  (s.frameFull, .activityFrameEnd),
  (s.anyReader, .wheelSlot),
  (s.closingDone, .closingComplete),
  (s.mayStandby, .enterStandby)]

/-- The part's next own step, if one is due or ready. -/
def nextInternal (s : State) : Option Instr := ((s.expiries ++ s.readySteps).find? (fun p => p.1)).map (·.2)

/-- One microsecond passes (R51). -/
def tick (s : State) : State := { s with time := (s.time + 1) % 18446744073709551616 }

end Sys2Proof.Machine
end

