-- ==== Sys2Proof/Machine/Step.lean ====
section
/-! DEFINITION. One step of the part: the command at the front of the queue, or, with none waiting, the part's own next step
or one microsecond. -/

namespace Sys2Proof.Machine

open Sys2Proof

/-- One step (DESIGN CHOICE for an empty queue, log entry 1). -/
def step (s : State) : Host.Outcome State Fault Refusal :=
  match s.pending with
  | c :: rest => exec c { s with pending := rest }
  | [] =>
    match nextInternal s with
    | some c => exec c s
    | none => .next (tick s)

/-- The state with the command that a table word spells put at the front of its queue. The table gives no row any bits, so
no word spells a command and the state is unchanged. -/
def State.withFetchWord (s : State) (nbits w : Nat) : State :=
  match decodeTableWord nbits w with
  | some c => { s with pending := c :: s.pending }
  | none => s

end Sys2Proof.Machine
end

