-- ==== Sys2Proof/WellFormed.lean ====
section
/-! DEFINITION. Well-formed commands: the operands lie in the ranges that the encoding of their fields can carry
(11_formats.md, "Payload fields on the command port", "Tether frames"; 02_sensor_port_and_readout.md, R27). A value that
its encoding can carry but that the command refuses is well-formed: the command answers it. -/

namespace Sys2Proof

/-- An unsigned quantity of one byte. -/
def fitsU8 (n : Nat) : Bool := decide (n < 256)
/-- An unsigned quantity of two bytes. -/
def fitsU16 (n : Nat) : Bool := decide (n < 65536)
/-- An unsigned quantity of four bytes. -/
def fitsU32 (n : Nat) : Bool := decide (n < 4294967296)
/-- A signed quantity of two bytes. -/
def fitsI16 (v : Int) : Bool := decide (-32768 ≤ v ∧ v ≤ 32767)
/-- A signed quantity of four bytes. -/
def fitsI32 (v : Int) : Bool := decide (-2147483648 ≤ v ∧ v ≤ 2147483647)

/-- A value within a range, or a named alternative. -/
def OrNamed.wf {α : Type} (p : α → Bool) : OrNamed α → Bool
  | .value a => p a
  | .named => true

/-- A frame's fields within their ranges, if the payload holds them. -/
def Req.wf {α : Type} (p : α → Bool) (r : Req α) : Bool := r.fields.all p

/-- A caption or other byte string: a length byte of 0 to 192. -/
def captionFits (c : List Byte) : Bool := decide (c.length ≤ 192)

/-- AF_AREA's bytes. -/
def AreaArg.wf : AreaArg → Bool
  | .singleArea a => fitsU8 a
  | .zone r => fitsU8 r.row0 && fitsU8 r.col0 && fitsU8 r.row1 && fitsU8 r.col1
  | .track a => fitsU8 a

/-- LENS_LIMITS's four values. -/
def LimitsArg.wf (x : LimitsArg) : Bool := fitsI32 x.far && fitsI32 x.near && fitsU8 x.irisMin && fitsU8 x.irisMax

/-- A run's two numbers. -/
def Run.wf (r : Run) : Bool := fitsU32 r.start && fitsU32 r.count

/-- CARD_EXTENTS's runs: as many as a payload of 1,024 bytes holds after the slot's name and the count. -/
def runsFit (l : List Run) : Bool := decide (l.length ≤ 127) && l.all Run.wf

/-- A recipe's fields, with nine matrix entries and 257 curve entries (R117). -/
def Recipe.wf (r : Recipe) : Bool :=
  fitsU8 r.scale && fitsU16 r.white && [r.trimR, r.trimGr, r.trimGb, r.trimB].all fitsI16
    && [r.gainR, r.gainG, r.gainB, r.gainE].all fitsU16
    && decide (r.matrix.length = 9) && r.matrix.all fitsI16 && decide (r.tone.length = 257) && r.tone.all fitsU16

/-- A name of 1 to 32 characters. -/
def nameFits (w : String) : Bool := decide (1 ≤ w.length ∧ w.length ≤ 32)

/-- A configuration value that its field kind can carry. -/
def CfgVal.wf : CfgVal → Bool
  | .num n => decide (-2147483648 ≤ n ∧ n ≤ 4294967295)
  | .word w => nameFits w
  | .nums l => decide (l.length < 65536) && l.all (fun n => decide (0 ≤ n ∧ n < 256))
  | .words l => decide (l.length < 65536) && l.all nameFits
  | .text t => t.all captionFits

/-- SET_CONFIG's payload: an unknown group is carried without pairs. -/
def ConfigArg.wf (x : ConfigArg) : Bool :=
  decide (x.pairs.length < 65536) && (x.group.isSome || x.pairs.isEmpty) && x.pairs.all (fun p => p.2.wf)

/-- A lane number: the port has eight lanes (R27). -/
def laneFits (n : Nat) : Bool := decide (n < 8)

/-- Whether a command's operands lie in the ranges that their encoding can carry. -/
def Instr.wf : Instr → Bool
  | .shotMark r => r.wf (OrNamed.wf fitsU32)
  | .shotKeep r => r.wf fitsU32
  | .shotRelease r => r.wf fitsU32
  | .shotDelete r => r.wf fitsU32
  | .shotInfo r => r.wf fitsU32
  | .shotList r => r.wf fitsU32
  | .release r => r.wf (OrNamed.wf fitsU16)
  | .afLensCoef r => r.wf fitsI16
  | .afArea r => r.wf AreaArg.wf
  | .afGrid r => r.wf fitsU8
  | .lensIris r => r.wf fitsU8
  | .lensLimits r => r.wf LimitsArg.wf
  | .positionSet r => r.wf fitsI32
  | .recipeSet r => r.wf (fun x => fitsU8 x.1 && x.2.wf)
  | .recipeGet r => r.wf fitsU8
  | .recipeSelect r => r.wf fitsU8
  | .cardExtents r => r.wf (fun x => runsFit x.2)
  | .cardSet r => r.wf (fun x => fitsU32 x.2.1 && fitsU16 x.2.2)
  | .captionSet r => r.wf (fun x => fitsU32 x.1 && captionFits x.2)
  | .captionStanding r => r.wf (OrNamed.wf captionFits)
  | .memoLevel r => r.wf (fun x => decide (0 ≤ x.1 ∧ x.1 < 256) && fitsI16 x.2)
  | .memoStart r => r.wf (OrNamed.wf fitsU32)
  | .setConfig r => r.wf ConfigArg.wf
  | .laneSymbol lane _ _ => laneFits lane
  | .laneMark lane _ => laneFits lane
  | .accept id start => fitsU16 id && fitsU32 start
  | .decline id => fitsU16 id
  | .credit count => fitsU8 count
  | .ack id offset => fitsU16 id && fitsU32 offset
  | .remoteRelease count => fitsU8 count
  | .mark shot => fitsU32 shot
  | .pull shot _ => fitsU32 shot
  | .linkStart _ | .linkStop _ | .laneTestStart _ | .laneTestRead _ | .laneTestStop _ | .linkStats _ | .releaseEnd _
  | .burstState _ | .burstAbort _ | .syncArm _ | .syncState _ | .latencyStats _ | .latencyClear _ | .afStart _ | .afStop _
  | .watchSet _ | .watchReset _ | .afState _ | .lensStart _ | .lensStop _ | .lensHome _ | .lensAux _ | .lensState _
  | .developState _ | .cardFinal _ | .cardClear _ | .fileTake _ | .cardEject _ | .cardState _ | .tetherState _
  | .memoStop _ | .memoState _ | .getNotice _ | .status _ | .getConfig _ | .sleep _ | .reset _ | .badFrame | .unknown _
  | .notReady _ | .replyCollected | .powerUpReset | .commandReset | .closingComplete | .enterStandby | .wakeLine
  | .alignmentWindowExpiry | .noMarkTimeout | .linkParametersHeader | .trainingReassert | .laneDrift _ | .readoutHeader
  | .line | .readoutEnd | .readoutSilence | .retrainPerformed | .reservationGrant | .wheelSlot | .releaseLineChange _
  | .releaseFilterExpiry | .frameFire | .focusWaitExpiry | .readoutTimeout | .syncEdge | .settleTimeout
  | .lensDetectChange _ | .statusSlot _ | .driveSlot | .irisSlot | .auxSlot _ | .lensFrameEnd | .homeTimeout
  | .encoderEdge _ _ | .indexEvent | .developJobStart | .allocationGrant | .developComplete | .cardPresentChange _ _
  | .fileStart _ | .cardWriteIssue _ | .cardWriteDone _ _ | .cardWriteError _ _ | .writeTimeout _ | .tetherLinkChange _
  | .peerBadFrame | .transferStart | .segSend | .ackTimerExpiry | .captionUpdate | .remoteEnd | .memoSample _
  | .activityFrameEnd => true

end Sys2Proof
end

