-- ==== Sys2Proof/Safety.lean ====
section
/-! DEFINITION. What counts as a safe run: the bounds and the canonical forms that every step keeps, whatever command it
takes, and the words in which statements about the commands are made. -/

namespace Sys2Proof.Machine

open Sys2Proof

/-! ## Soundness -/

/-- What identifies a notice: its kind and its subject (R201). -/
def Notice.key (n : Notice) : NoticeKind × Subject := (n.kind, n.subject)

/-- A notice queue of at most 32 entries, no two of the same kind and subject, each raised 1 to 255 times (R201). -/
structure NoticesRight (l : List Notice) : Prop where
  room : l.length ≤ Config.noticeRoom
  distinct : (l.map Notice.key).Nodup
  counted : ∀ n ∈ l, 1 ≤ n.repeats ∧ n.repeats ≤ 255

/-- A value of the position counter's range (R111). -/
def InCounter (v : Int) : Prop := Config.counterMin ≤ v ∧ v ≤ Config.counterMax

/-- The transfer queue is in R165's order, URGENT ahead of NORMAL and each class by its entry order, and the next entry that
joins at a tail stands behind every entry of its class. -/
structure Tether.InOrder (p : Tether) : Prop where
  sorted : p.queue.Pairwise (fun x y => (x.urgent = true ∧ y.urgent = false) ∨ (x.urgent = y.urgent ∧ x.order ≤ y.order))
  next : ∀ e ∈ p.queue, e.order < p.nextOrder

/-- A sound state: the store's bytes stand in their canonical form, the notice queue keeps its bound and holds no kind and
subject twice (R201), the shot table has its 256 entries (R2), the credits and the AUX queue and history keep their bounds
(R170, R110), the transfer queue is in its order (R165), the position counter and the index value lie in the counter's range (R111), and there are 121 area records
(R78) and four recipes (R117). -/
structure State.Sound (s : State) : Prop where
  memory : Memory.wf s.mem = true
  notices : NoticesRight s.cp.notices
  table : s.ss.table.length = Config.entries
  credits : s.tp.credits ≤ Config.maxCredits
  auxQueue : s.lp.auxQueue.length ≤ Config.auxRoom
  auxHistory : s.lp.auxHistory.length ≤ Config.auxRoom
  counter : InCounter s.lp.counter
  index : InCounter s.cfg.lens.indexValue
  areas : s.fe.areas.length = 121
  recipes : s.de.recipes.length = 4
  sends : s.tp.InOrder

/-! ## Lawful states -/

/-- A lawful entry of the shot table. A FREE entry's record is cleared (R18, R25). An entry that is RESERVED or LANDING has
no proof and no memo yet, and one that is LANDING or HELD has its number (R3, R6, R9). No two duties have the same kind and
target (R11), and no reader holds two pins (R24). A proof extent is there only once DEVELOP is ACTIVE or DONE (R124). -/
structure Shot.Lawful (t : Shot) : Prop where
  free : t.state = .free → t = {}
  early : t.state = .reserved ∨ t.state = .landing → t.proof = none ∧ t.memo = none
  numbered : t.state = .landing ∨ t.state = .held → t.number ≠ 0
  duties : (t.duties.map (·.key)).Nodup
  pins : (t.pins.map (·.reader)).Nodup
  proof : t.proof.isSome = true → t.dutyState .develop = some .active ∨ t.dutyState .develop = some .done

/-- The blocks of the recording extent (R5, R193). -/
def State.recordingExtent (s : State) : List Nat := (s.mi.current.map (·.blocks)).getD []

/-- Every block list of the store: the free list, each entry's raw, proof and memo extents, the recording extent. -/
def State.allBlocks (s : State) : List Nat := s.ss.free ++ s.ss.table.flatMap Shot.blocks ++ s.recordingExtent

/-- The numbers of the shots in use, in table order. -/
def State.usedNumbers (s : State) : List Nat := (s.ss.table.filter (fun t => t.state != .free)).map (·.number)

/-- The numbers of the shots in use are distinct. An entry whose number is not assigned yet holds 0 (R3). -/
def State.NumbersDistinct (s : State) : Prop := (s.usedNumbers.filter (· != 0)).Nodup

/-- A notice of this kind and subject waits in the queue with these values (R201), or a notice was lost. -/
def State.Tells (t : State) (k : NoticeKind) (sub : Subject) (vals : List Wire) : Prop :=
  (∃ x ∈ t.cp.notices, x.key = (k, sub) ∧ x.values = vals) ∨ t.cp.lost = true

/-- CARD_STATE of a slot tells this reason with the slot's state, hold, listed sectors and final flag, and for some reasons
the file concerned (R157). -/
def State.TellsCard (t : State) (sl : Slot) (reason : String) (file : List Wire) : Prop :=
  let c := t.slot sl
  t.Tells .cardState (.slot sl)
    ([.word c.state.name, .word c.hold.name, .word reason, .u64 (c.extents.map (·.count)).sum, flag c.final] ++ file)

/-- The command port after `n` blocks leave the free list: STORE_LOW is raised just where the free count passes from at or
above the low threshold to below it, with the count and the shots that fit (R22). -/
def State.tellsLow (n : Nat) (s : State) : CommandPort :=
  let left := s.ss.free.length - n
  if s.cfg.store.low ≤ s.ss.free.length ∧ left < s.cfg.store.low then
    raiseIn .storeLow (.num 0) [.u32 left, .u32 (left / blocksFor (rawBytes s.cfg.geometry))] s.time s.cp
  else s.cp

/-- BURST_END of a burst waits in the notice queue with these counts and this reason (R67), or a notice was lost. -/
def State.TellsEnd (b : BurstRec) (reason : String) (t : State) : Prop :=
  t.Tells .burstEnd (.num b.number) [.u32 b.number, .word b.owner.name, .u16 b.triggered, .u16 b.landed, .u16 b.voided,
    .u16 b.late, .u32 b.ignored, .u16 b.byWait, .word reason]

/-- A burst cut short (R20, R65, R66): the shots in flight are voided with reason `void`, a reservation is returned and a
request withdrawn, their entries FREE and their blocks at the free list's tail in that order; the burst counts the voids,
and BURST_END tells `reason`. -/
def State.CutShort (void reason : String) (s t : State) : Prop :=
  let raw := fun (p : Shot → Bool) => ((s.ss.table.find? p).map (·.raw)).getD []
  let cleared := fun (p : Shot → Bool) => updateFirst p (fun _ => {})
  let voids := (s.ss.table.filter (fun x => isTriggered x || isLanding x)).length
  t.rtu.phase = .idle
  ∧ t.ss = { s.ss with
      request := none, free := s.ss.free ++ raw isTriggered ++ raw isLanding ++ raw isClaimed
      table := cleared isClaimed (cleared isLanding (cleared isTriggered s.ss.table)) }
  ∧ (∀ e, s.ss.table.find? isTriggered = some e ∨ s.ss.table.find? isLanding = some e →
      t.Tells .shotVoid (.num e.number) [.word void])
  ∧ t.rtu.burst = s.rtu.burst.map (fun b => { b with voided := b.voided + voids })
  ∧ ∀ b, t.rtu.burst = some b → t.TellsEnd b reason

/-- What new burst values that become applied at `time` leave of the sync state (R70): a change of mode clears the armed and
aligned flags and the standing grid; a change of P alone keeps the grid's origin and counts the new period from the next
instant of the old one, an instant at `time` included (DESIGN CHOICE, log entry 10). Nothing else changes. -/
def Rtu.TakesSync (old new : BurstCfg) (time : Nat) (r u : Rtu) : Prop :=
  u = { r with armed := u.armed, aligned := u.aligned, standing := u.standing }
  ∧ (old.syncMode ≠ new.syncMode → u.armed = false ∧ u.aligned = false ∧ u.standing = none)
  ∧ (old.syncMode = new.syncMode → u.armed = r.armed ∧ u.aligned = r.aligned
    ∧ (r.standing = none ∨ old.period = new.period → u.standing = r.standing)
    ∧ ∀ g, r.standing = some g → old.period ≠ new.period → 0 < g.period → ∃ j : Int,
      u.standing = some ⟨g.origin, g.anchor + j * g.period, new.period⟩
      ∧ time ≤ g.anchor + j * g.period ∧ g.anchor + j * g.period < time + g.period)

/-- A burst of this owner and count begins (R54, R57, R58, R60, R70): the burst group's pending values are applied and act on
the sync state, the burst takes the next number, and its record is clear but for the release time, L, P and the grid. Frame 0
is due at the release time plus L or, where a standing grid is held, at that grid's first instant from there on. With the link
DOWN or FAILED the burst ends at once with reason LINK (R66); otherwise the unit is WAITING with the focus wait begun and asks
the store for frame 0's reservation. -/
def State.BurstBegins (owner : Owner) (count : Option Nat) (s t : State) : Prop :=
  ∃ (b : BurstRec) (u : Rtu), s.rtu.TakesSync s.cfg.burst t.cfg.burst s.time u
    ∧ t.cfg = (s.waiting.filter (fun w => w.1.group == .burst)).foldl (fun c w => c.apply w.1 w.2) s.cfg
    ∧ t.waiting = s.waiting.filter (fun w => w.1.group != .burst)
    ∧ b.number = s.rtu.nextBurst ∧ b.owner = owner ∧ b.count = count ∧ b.triggered = 0 ∧ b.landed = 0 ∧ b.voided = 0
    ∧ b.late = 0 ∧ b.ignored = 0 ∧ b.byWait = 0 ∧ b.ending = none ∧ b.t0 = s.time ∧ b.latency = t.cfg.burst.latency
    ∧ b.period = t.cfg.burst.period ∧ b.kg = 0
    ∧ (u.standing = none → b.tg = s.time + t.cfg.burst.latency)
    ∧ (∀ g, u.standing = some g → 0 < g.period → s.time + t.cfg.burst.latency ≤ b.tg
      ∧ b.tg < s.time + t.cfg.burst.latency + g.period ∧ ∃ j : Int, b.tg = g.anchor + j * g.period)
    ∧ (s.sp.link = .down ∨ s.sp.link = .failed →
      t.rtu = { u with
        burst := some b, nextBurst := if s.rtu.nextBurst = 4294967295 then 1 else s.rtu.nextBurst + 1
        phase := .idle, readoutAt := none, waitAt := none, waitExpired := false, ready := none }
      ∧ t.ss = { s.ss with
          request := none, free := s.ss.free ++ ((s.ss.table.find? isClaimed).map (·.raw)).getD []
          table := updateFirst isClaimed (fun _ => {}) s.ss.table }
      ∧ t.TellsEnd b "LINK" ∧ t = { s with cfg := t.cfg, waiting := t.waiting, rtu := t.rtu, ss := t.ss, cp := t.cp })
    ∧ (s.sp.link = .training ∨ s.sp.link = .aligned →
      t.rtu = { u with
        burst := some b, nextBurst := if s.rtu.nextBurst = 4294967295 then 1 else s.rtu.nextBurst + 1
        phase := .waiting, readyFrom := s.time, readoutAt := none, waitExpired := false
        waitAt := if t.cfg.burst.focusWaitMs = 0 then none else some (s.time + t.cfg.burst.focusWaitMs * 1000)
        ready := if t.conditions then some (s.time, .none) else none }
      ∧ t.ss.request = some ⟨b.number, 0, s.time, b.tg.toNat, t.cfg.geometry⟩
      ∧ t = { s with cfg := t.cfg, waiting := t.waiting, rtu := t.rtu, ss := { s.ss with request := t.ss.request } })

/-- The running burst's owner ends it (R55, R64). In WAITING the burst is over, with BURST_END telling OWNER_END; in EXPOSING
and READING the unit is STOPPING; in these the frame due's request is withdrawn and its reservation returned, the blocks at
the free list's tail. In STOPPING nothing changes. -/
def State.EndsByOwner (s t : State) : Prop :=
  (s.rtu.phase ≠ .stopping → t = { s with rtu := t.rtu, ss := t.ss, cp := t.cp }
    ∧ t.ss = { s.ss with
        request := none, free := s.ss.free ++ ((s.ss.table.find? isClaimed).map (·.raw)).getD []
        table := updateFirst isClaimed (fun _ => {}) s.ss.table })
  ∧ (s.rtu.phase = .waiting → t.rtu.phase = .idle ∧ t.rtu.burst = s.rtu.burst
    ∧ ∀ b, s.rtu.burst = some b → t.TellsEnd b "OWNER_END")
  ∧ (s.rtu.phase = .exposing ∨ s.rtu.phase = .reading → t.rtu.phase = .stopping ∧ t.cp = s.cp
    ∧ t.rtu.burst = s.rtu.burst.map (fun b => { b with ending := some .ownerEnd }))
  ∧ (s.rtu.phase = .stopping → t = s)

/-- The laws of the shot store. Its 65,536 blocks are each in one list, once (R1); its entries are lawful; at most one entry
is RESERVED (R2, R6), and at most one is a shot in flight, RESERVED with TRIGGER sent or LANDING (R2, R64); the numbers in
use are distinct, and the next number is one of 1 to 4,294,967,295 (R3). -/
structure State.StoreLawful (s : State) : Prop where
  blocks : s.allBlocks.Perm (List.range Config.blocks)
  entries : ∀ t ∈ s.ss.table, t.Lawful
  oneReserved : s.ss.table.countP (fun t => t.state == .reserved) ≤ 1
  oneInFlight : s.inFlight ≤ 1
  numbers : s.NumbersDistinct
  next : 1 ≤ s.ss.next ∧ s.ss.next ≤ Config.maxNumber

/-- A card slot's queue holds no job twice and each job's duty is PENDING (R143); its active file's duty is ACTIVE (R145). -/
structure State.SlotLawful (s : State) (sl : Slot) : Prop where
  distinct : (s.slot sl).queue.Nodup
  queued : ∀ j ∈ (s.slot sl).queue, s.dutyOf j.shot (.card j.kind sl) = some .pending
  active : ∀ f, (s.slot sl).file = some f → s.dutyOf f.shot (.card f.kind sl) = some .active

/-- The consumers' queues and work. The develop queue holds no shot twice and each entry's DEVELOP is PENDING (R121); the
job's DEVELOP is ACTIVE, and before its allocation is granted the shot has no proof extent (R123, R124). The transfer queue
keeps its bound and holds no duty twice (R164), and a transfer has acked no more than it has sent, sent no more than there
is, and at most 8 segments in flight (R169, R171). The memo's shot is HELD; an ARMED memo has no blocks and just an IDLE input no
memo (R192). -/
structure State.WorkLawful (s : State) : Prop where
  slots : ∀ sl, s.SlotLawful sl
  developDistinct : (s.de.queue.map (·.shot)).Nodup
  developQueued : ∀ e ∈ s.de.queue, s.dutyOf e.shot .develop = some .pending
  job : ∀ j, s.de.job = some j → s.dutyOf j.shot .develop = some .active
    ∧ (s.de.phase ≠ .developing → (s.held j.shot).bind (·.proof) = none)
  sendRoom : s.tp.queue.length ≤ Config.transferRoom
  sendDistinct : (s.tp.queue.map (fun e => (e.shot, e.kind))).Nodup
  transfer : ∀ x, s.tp.transfer = some x → x.acked ≤ x.sent ∧ x.sent ≤ x.total ∧ x.inFlight ≤ Config.maxInFlight
  memo : ∀ m, s.mi.current = some m → (s.held m.shot).isSome = true ∧ (s.mi.phase = .armed → m.blocks = [])
  memoIdle : s.mi.phase = .idle ↔ s.mi.current = none

/-- The running burst, the readout and the settings. In IDLE and WAITING no shot is in flight (R56, R64); a SHOT readout has
its LANDING shot (R36); a link that is not ALIGNED has no readout (R37). From the acceptance of SLEEP to wake no burst, no
transfer and no memo runs (R207). A burst's grid has a period and gives no frame a time before the release time plus the
release latency (R57, R61, R69). The settings that the laws rest on lie in their ranges (R3, R72, R109). -/
structure State.RunLawful (s : State) : Prop where
  quiet : s.rtu.phase = .idle ∨ s.rtu.phase = .waiting → s.inFlight = 0
  landing : ∀ r, s.sp.reading = .active r → r.kind = .shot → s.ss.table.any isLanding = true
  link : s.sp.link ≠ .aligned → s.sp.reading = .between ∧ s.sp.items = []
  asleep : s.cp.power ≠ .active → s.rtu.phase = .idle ∧ s.tp.phase = .down ∧ s.mi.phase = .idle
  grid : ∀ b, s.rtu.burst = some b → 0 < b.period ∧ b.kg ≤ b.triggered ∧ ((b.t0 + b.latency : Nat) : Int) ≤ b.tg
  standing : ∀ g, s.rtu.standing = some g → 0 < g.period
  period : 0 < s.cfg.burst.period
  first : 1 ≤ s.cfg.firstShot ∧ s.cfg.firstShot ≤ Config.maxNumber
  limits : s.lp.far ≤ s.lp.near

/-- A lawful state: what holds of the part's tables, queues and machines beside the bounds of a sound state. -/
structure State.Lawful (s : State) : Prop where
  store : s.StoreLawful
  work : s.WorkLawful
  run : s.RunLawful

/-! ## Words for statements -/

/-- The reply slot is empty and the blocks run: a host command is executed at once (R199, R209). -/
def State.awake (s : State) : Bool := s.cp.slot.isNone && (s.cp.power == .active || s.cp.power == .closing)

/-- The reply slot is empty and the power state is ACTIVE: also the commands that start work are executed (R209). -/
def State.taking (s : State) : Bool := s.cp.slot.isNone && s.cp.power == .active

/-- The outcome of a host command that is answered: the state with the reply in the slot. -/
def answered (tag : Byte) (st : Status) (result : List Wire) (s : State) : Host.Outcome State Fault Refusal :=
  .next { s with cp := { s.cp with slot := some ⟨tag, st, result, false⟩ } }

/-- The tag of a host command's frame: that of the command's request, or of an unknown name's frame. -/
def hostTag : Instr → Option Byte
  | .shotMark r => some r.tag | .shotKeep r => some r.tag | .shotRelease r => some r.tag | .shotDelete r => some r.tag
  | .shotInfo r => some r.tag | .shotList r => some r.tag | .linkStart r => some r.tag | .linkStop r => some r.tag
  | .laneTestStart r => some r.tag | .laneTestRead r => some r.tag | .laneTestStop r => some r.tag
  | .linkStats r => some r.tag | .release r => some r.tag | .releaseEnd r => some r.tag | .burstState r => some r.tag
  | .burstAbort r => some r.tag | .syncArm r => some r.tag | .syncState r => some r.tag | .latencyStats r => some r.tag
  | .latencyClear r => some r.tag | .afLensCoef r => some r.tag | .afArea r => some r.tag | .afStart r => some r.tag
  | .afStop r => some r.tag | .watchSet r => some r.tag | .watchReset r => some r.tag | .afState r => some r.tag
  | .afGrid r => some r.tag | .lensStart r => some r.tag | .lensStop r => some r.tag | .lensHome r => some r.tag
  | .lensIris r => some r.tag | .lensLimits r => some r.tag | .lensAux r => some r.tag | .positionSet r => some r.tag
  | .lensState r => some r.tag | .recipeSet r => some r.tag | .recipeGet r => some r.tag | .recipeSelect r => some r.tag
  | .developState r => some r.tag | .cardExtents r => some r.tag | .cardFinal r => some r.tag | .cardClear r => some r.tag
  | .fileTake r => some r.tag | .cardEject r => some r.tag | .cardState r => some r.tag | .cardSet r => some r.tag
  | .tetherState r => some r.tag | .captionSet r => some r.tag | .captionStanding r => some r.tag
  | .memoLevel r => some r.tag | .memoStart r => some r.tag | .memoStop r => some r.tag | .memoState r => some r.tag
  | .getNotice r => some r.tag | .status r => some r.tag | .setConfig r => some r.tag | .getConfig r => some r.tag
  | .sleep r => some r.tag | .reset r => some r.tag | .unknown tag => some tag | .notReady tag => some tag
  | _ => none

/-- Whether a host command's frame came without the fields that the command calls for (R198, fourth check). -/
def fieldless : Instr → Bool
  | .shotMark r => r.fields.isNone | .shotKeep r => r.fields.isNone | .shotRelease r => r.fields.isNone
  | .shotDelete r => r.fields.isNone | .shotInfo r => r.fields.isNone | .shotList r => r.fields.isNone
  | .linkStart r => r.fields.isNone | .linkStop r => r.fields.isNone | .laneTestStart r => r.fields.isNone
  | .laneTestRead r => r.fields.isNone | .laneTestStop r => r.fields.isNone | .linkStats r => r.fields.isNone
  | .release r => r.fields.isNone | .releaseEnd r => r.fields.isNone | .burstState r => r.fields.isNone
  | .burstAbort r => r.fields.isNone | .syncArm r => r.fields.isNone | .syncState r => r.fields.isNone
  | .latencyStats r => r.fields.isNone | .latencyClear r => r.fields.isNone | .afLensCoef r => r.fields.isNone
  | .afArea r => r.fields.isNone | .afStart r => r.fields.isNone | .afStop r => r.fields.isNone
  | .watchSet r => r.fields.isNone | .watchReset r => r.fields.isNone | .afState r => r.fields.isNone
  | .afGrid r => r.fields.isNone | .lensStart r => r.fields.isNone | .lensStop r => r.fields.isNone
  | .lensHome r => r.fields.isNone | .lensIris r => r.fields.isNone | .lensLimits r => r.fields.isNone
  | .lensAux r => r.fields.isNone | .positionSet r => r.fields.isNone | .lensState r => r.fields.isNone
  | .recipeSet r => r.fields.isNone | .recipeGet r => r.fields.isNone | .recipeSelect r => r.fields.isNone
  | .developState r => r.fields.isNone | .cardExtents r => r.fields.isNone | .cardFinal r => r.fields.isNone
  | .cardClear r => r.fields.isNone | .fileTake r => r.fields.isNone | .cardEject r => r.fields.isNone
  | .cardState r => r.fields.isNone | .cardSet r => r.fields.isNone | .tetherState r => r.fields.isNone
  | .captionSet r => r.fields.isNone | .captionStanding r => r.fields.isNone | .memoLevel r => r.fields.isNone
  | .memoStart r => r.fields.isNone | .memoStop r => r.fields.isNone | .memoState r => r.fields.isNone
  | .getNotice r => r.fields.isNone | .status r => r.fields.isNone | .setConfig r => r.fields.isNone
  | .getConfig r => r.fields.isNone | .sleep r => r.fields.isNone | .reset r => r.fields.isNone
  | _ => false

/-- The commands that CLOSING answers BAD_STATE (R209). -/
def startsWork : Instr → Bool
  | .release _ | .linkStart _ | .laneTestStart _ | .lensStart _ | .afStart _ | .memoStart _ | .sleep _ => true
  | _ => false

/-- The commands that CLOSED executes without waking the part (R209). -/
def staysAsleep : Instr → Bool
  | .status _ | .getNotice _ => true
  | _ => false

/-- Whether a host command's frame is executed: its name is the part's and it did not arrive while the slot was busy. -/
def executed : Instr → Bool
  | .unknown _ | .notReady _ => false
  | _ => true

/-- The commands by which bytes of the store may change (R42, R43, R126, R193). -/
def storesBytes : Instr → Bool
  | .readoutHeader | .line | .readoutEnd | .readoutSilence | .wheelSlot | .developComplete | .memoSample _
  | .activityFrameEnd => true
  | _ => false

/-- The blocks whose bytes such a command may change: the LANDING shot's raw extent; the proof extent of the shot being
developed; the recording extent with the blocks at the free list's head that it may take (R5, R126, R193). -/
def State.storedBlocks (s : State) : Instr → List Nat
  | .wheelSlot | .developComplete => (((s.de.job.bind (fun j => s.held j.shot)).bind (·.proof)).map (·.blocks)).getD []
  | .memoSample _ | .activityFrameEnd => ((s.mi.current.map (·.blocks)).getD []) ++ s.ss.free.take 2
  | _ => s.landingRaw

/-- The commands by which a development job or a memo may take blocks (R8). -/
def allocates : Instr → Bool
  | .developJobStart | .allocationGrant | .memoStart _ | .memoSample _ | .activityFrameEnd => true
  | _ => false

end Sys2Proof.Machine
end

