-- ==== Sys2Proof/Certificates/Slice0/Obligations.lean ====
section
/-! DEFINITION. The statements about the V740 model that the provers prove. A statement's docstring names the rules it
formalises, and the log entry where it rests on a choice of the model. -/

open Sys2Proof Sys2Proof.Machine

/-! ## The queue and the step -/

/-- A step with a command waiting runs the command at the front of the queue on the state with the queue's rest. -/
def Obligations.StepRunsTheFront : Prop :=
  ∀ (c : Instr) (rest : List Instr) (s : State), step { s with pending := c :: rest } = exec c { s with pending := rest }

/-- With no command waiting, a step takes the first of the part's own steps that is due or ready, and otherwise one
microsecond passes on the 64-bit time base. The model's choice (log entry 1). -/
def Obligations.StepOnAnEmptyQueue : Prop :=
  ∀ s : State, s.pending = [] →
    (∀ c, nextInternal s = some c → step s = exec c s)
      ∧ (nextInternal s = none → step s = .next { s with time := (s.time + 1) % 2 ^ 64 })

/-- Every command ends in a next state, whatever the state, and leaves the queue of waiting commands as it was. That
none ends in a fault or a refusal is read from the spec as a whole (log entry 4). -/
def Obligations.EveryCommandCompletes : Prop :=
  ∀ (c : Instr) (s : State), ∃ t, exec c s = .next t ∧ t.pending = s.pending

/-- No command moves the time base (R51), but for a power-up reset and for the command reset that follows RESET's reply:
these set it to 0. NOTICES_LOST, once set, stays set through every command but a STATUS that is answered and a reset
(R201, R203). That the command reset comes with the collection of RESET's reply is the model's reading (log entry 6). -/
def Obligations.TimeAndLostStand : Prop :=
  (∀ (c : Instr) (s t : State), exec c s = .next t →
      t.time = s.time
        ∨ (t.time = 0 ∧ (c = .powerUpReset ∨ (s.resetReply = true ∧ (c = .replyCollected ∨ c = .commandReset)))))
  ∧ (∀ (c : Instr) (s t : State), exec c s = .next t → s.cp.lost = true →
      t.cp.lost = true ∨ (s.cp.slot = none ∧ ∃ tag, c = .status ⟨tag, some ()⟩)
        ∨ c = .powerUpReset ∨ (s.resetReply = true ∧ (c = .replyCollected ∨ c = .commandReset)))

/-- The state after reset is sound and lawful (R1, R2, R25, R78, R110, R111, R117, R165, R170, R201): see `State.Sound`
and `State.Lawful`. The ranges of the configuration are those of its defaults. -/
def Obligations.SoundAtReset : Prop :=
  State.reset.Sound ∧ State.reset.Lawful

/-- Every step, whether of a command or of the part itself, keeps a sound state sound: the store's bytes in their
canonical form, the notice queue's bound and its distinct kinds and subjects (R201), 256 shot table entries (R2), the
bound of the credits (R170), the order of the transfer queue (R165: URGENT ahead of NORMAL, each class by its entry
order, with the next order to be given behind them), the bounds of the AUX queue and history (R110), the position
counter in its range (R111), 121 area records (R78) and four recipes (R117). -/
def Obligations.StepKeepsSound : Prop :=
  ∀ s t : State, s.Sound → step s = .next t → t.Sound

/-- Every step, whether of a command or of the part itself, keeps a sound state that is lawful lawful: the laws of the
store (R1, that each of the 65,536 blocks is in one list, once; R2, that at most one entry is RESERVED and at most one
LANDING; R3, that the numbers in use are distinct; R11; R18, that a FREE entry holds nothing; R24), the queues of the
card slots (R143), of the development engine (R121) and of the tether port (R164), where a duty stands once and PENDING,
the active file's, the job's duty ACTIVE (R124, R145), the transfer's law (R171), and the memo input (R192). Of a sound
and lawful state: at most 65,536 blocks are free, a shot has at most 13 duties and 4 pins, a card slot's queue holds at
most 1,024 jobs and the develop queue at most 256, and at most one entry is LANDING. -/
def Obligations.StepKeepsLawful : Prop :=
  (∀ s t : State, s.Sound → s.Lawful → step s = .next t → t.Lawful)
  ∧ ∀ s : State, s.Sound → s.Lawful →
    s.ss.free.length ≤ 65536
    ∧ (∀ h ∈ s.ss.table, h.duties.length ≤ 13 ∧ h.pins.length ≤ 4)
    ∧ (∀ sl, (s.slot sl).queue.length ≤ 1024) ∧ s.de.queue.length ≤ 256
    ∧ (s.ss.table.filter (fun h => h.state == .landing)).length ≤ 1

/-! ## Frames of the host and of the peer -/

/-- A host frame's bytes, whatever follows its CRC in the transaction, spell the well-formed command they were made from
(R198 and the frame and field layouts of the Formats chapter), and with another last CRC byte they are a bad frame
(R198). A peer frame's bytes spell the well-formed command they were made from (R162 and the tether frame layouts of the
Formats chapter). The names of slots and configuration fields and the recipe's lists without counts are the model's
reading (log entries 5, 20, 21). -/
def Obligations.FramesRoundTrip : Prop :=
  (∀ (i : Instr) (l filler : List Byte), i.wf = true → hostBytes i = some l → commandOf (l ++ filler) = some i)
  ∧ (∀ (i : Instr) (l : List Byte) (x : Byte), i.wf = true → hostBytes i = some l → l.getLast? ≠ some x →
      commandOf (l.dropLast ++ [x]) = some .badFrame)
  ∧ (∀ (i : Instr) (l : List Byte), i.wf = true → peerBytes i = some l → peerCommandOf l = i)

/-- Frames written out byte by byte from the Formats chapter, and the check values of its two CRCs over the nine bytes
123456789 (R213, R214): STATUS with tag 7, and the same bytes behind another first byte; SHOT_KEEP of shot 57; RELEASE with
count 300; the peer's CREDIT of 8, ACK of transfer 3 at offset 16,384, and PULL of shot 44's PROOF. The colour planes of the
four CFA orders at the quad positions (0,0), (1,0), (0,1), (1,1) (R44), the lane symbols (Formats, "Lane symbols"), the
default read wheel (R23), and the counts of the encoder's steps (R111). -/
def Obligations.TablesAndFramesWrittenOut : Prop :=
  (crc16 [0x31, 0x32, 0x33, 0x34, 0x35, 0x36, 0x37, 0x38, 0x39] = 0x29B1
      ∧ crc32 [0x31, 0x32, 0x33, 0x34, 0x35, 0x36, 0x37, 0x38, 0x39] = 0xCBF43926
      ∧ commandOf [0xA5, 0x07, 0x06, 0x53, 0x54, 0x41, 0x54, 0x55, 0x53, 0x00, 0x00, 0x6F, 0xF2] = some (.status ⟨7, some ()⟩)
      ∧ commandOf [0x5A, 0x07, 0x06, 0x53, 0x54, 0x41, 0x54, 0x55, 0x53, 0x00, 0x00, 0x6F, 0xF2] = none
      ∧ commandOf [0xA5, 0x21, 0x09, 0x53, 0x48, 0x4F, 0x54, 0x5F, 0x4B, 0x45, 0x45, 0x50, 0x04, 0x00, 0x39, 0x00, 0x00, 0x00,
          0x0F, 0xDF] = some (.shotKeep ⟨0x21, some 57⟩)
      ∧ commandOf [0xA5, 0x09, 0x07, 0x52, 0x45, 0x4C, 0x45, 0x41, 0x53, 0x45, 0x03, 0x00, 0x00, 0x2C, 0x01, 0x47, 0x78]
          = some (.release ⟨9, some (.value 300)⟩)
      ∧ peerCommandOf [0x13, 0x01, 0x00, 0x08, 0x68, 0xC5, 0xF1, 0x6C] = .credit 8
      ∧ peerCommandOf [0x14, 0x06, 0x00, 0x03, 0x00, 0x00, 0x40, 0x00, 0x00, 0x3A, 0xF1, 0x44, 0x27] = .ack 3 16384
      ∧ peerCommandOf [0x18, 0x05, 0x00, 0x2C, 0x00, 0x00, 0x00, 0x02, 0x79, 0x79, 0x7B, 0x72] = .pull 44 (some .proof))
  ∧ ([(0, 0), (1, 0), (0, 1), (1, 1)].map (fun q => planeAt .rggb q.1 q.2) = [.r, .gr, .gb, .b]
      ∧ [(0, 0), (1, 0), (0, 1), (1, 1)].map (fun q => planeAt .grbg q.1 q.2) = [.gr, .r, .b, .gb]
      ∧ [(0, 0), (1, 0), (0, 1), (1, 1)].map (fun q => planeAt .gbrg q.1 q.2) = [.gb, .b, .r, .gr]
      ∧ [(0, 0), (1, 0), (0, 1), (1, 1)].map (fun q => planeAt .bggr q.1 q.2) = [.b, .gb, .gr, .r]
      ∧ [0x10001, 0x1FFFF, 0x20001, 0x20002, 0x20004, 0x20008, 0x20003, 0x00001, 0x30001].map decodeSymbol
          = [.data 1, .data 0xFFFF, .idle, .mark, .line, .stop, .error, .error, .error]
      ∧ State.reset.cfg.store.wheel.map Reader.name
          = ["A", "B", "D", "T", "A", "B", "D", "T", "A", "B", "D", "T", "A", "B", "A", "B"]
      ∧ [(false, false), (true, false), (true, true), (false, true)].map (fun p => quadStep false false p.1 p.2)
          = [some 0, some 1, none, some (-1)]
      ∧ [(false, false), (true, false), (true, true), (false, true)].map (fun p => quadStep true true p.1 p.2)
          = [none, some (-1), some 0, some 1])

/-! ## The command port -/

/-- A frame that arrives while the reply slot is busy is not executed: its answer, NOT_READY with its tag, or BAD_FRAME
with tag 0 for a bad frame, goes to the marker, replacing what the marker held, and nothing else changes (R199). With
the slot empty and the blocks running, a bad frame is answered BAD_FRAME with tag 0 and an unknown name UNKNOWN with its
tag, and nothing else changes (R198, R199). NOT_READY's row has no effect then: no frame meets a busy slot. A collected
reply leaves the slot to the marker's answer, if there is one, and the marker empties; with the slot empty there is
nothing to collect (R199). That the rows NOT_READY and REPLY_COLLECTED change nothing where they cannot occur, and that
the reset comes with the collection of RESET's reply, are the model's choices (log entries 3, 6). -/
def Obligations.FramesAndReplies : Prop :=
  (∀ (c : Instr) (tag : Byte) (s : State), s.cp.slot.isSome = true →
      (hostTag c = some tag → exec c s = .next { s with cp := { s.cp with marker := some (tag, .notReady) } })
        ∧ exec .badFrame s = .next { s with cp := { s.cp with marker := some (0, .badFrame) } })
  ∧ (∀ (tag : Byte) (s : State), s.awake = true →
      exec .badFrame s = answered 0 .badFrame [] s ∧ exec (.unknown tag) s = answered tag .unknown [] s
        ∧ exec (.notReady tag) s = .next s)
  ∧ (∀ s : State,
      (s.cp.slot = none → exec .replyCollected s = .next s)
        ∧ ∀ r, s.cp.slot = some r → r.resets = false →
          exec .replyCollected s
            = .next { s with cp := { s.cp with slot := s.cp.marker.map (fun m => ⟨m.1, m.2, [], false⟩), marker := none } })

/-- A host command whose payload does not hold its fields is answered BAD_VALUE with its tag, and nothing changes (R198,
fourth check). That this check comes before that of the power state is the model's reading (log entry 5). -/
def Obligations.BadPayloadIsBadValue : Prop :=
  ∀ (c : Instr) (tag : Byte) (s : State), hostTag c = some tag → fieldless c = true → s.awake = true →
    exec c s = answered tag .badValue [] s

/-- In CLOSING the commands that start work are answered BAD_STATE, and nothing changes (R209, R207). -/
def Obligations.ClosingRefusesWork : Prop :=
  ∀ (c : Instr) (tag : Byte) (s : State), startsWork c = true → fieldless c = false → hostTag c = some tag →
    s.cp.slot = none → s.cp.power = .closing → exec c s = answered tag .badState [] s

/-- A host command that arrives in STANDBY, or in CLOSED if it is neither STATUS nor GET_NOTICE, wakes the part first:
its outcome is its outcome on the woken part, which is ACTIVE with the slot empty (R209, R210). A bad frame or an
unknown name wakes the part in STANDBY too and is then answered BAD_FRAME or UNKNOWN. That in CLOSED it is answered and
does not wake the part is the model's reading (DEDUCED, log entry 5). -/
def Obligations.FrameWakesThePart : Prop :=
  (∀ (c : Instr) (s : State), (hostTag c).isSome = true → executed c = true → s.cp.slot = none →
    (s.cp.power = .standby ∨ (s.cp.power = .closed ∧ staysAsleep c = false)) →
    exec c s = exec c (wakePart s) ∧ (wakePart s).taking = true)
  ∧ ∀ (tag : Byte) (s : State), s.cp.slot = none →
    (s.cp.power = .standby → exec .badFrame s = answered 0 .badFrame [] (wakePart s)
      ∧ exec (.unknown tag) s = answered tag .unknown [] (wakePart s))
    ∧ (s.cp.power = .closed → exec .badFrame s = answered 0 .badFrame [] s
      ∧ exec (.unknown tag) s = answered tag .unknown [] s)

/-- ATTN is asserted just while the slot holds a reply or the queue a notice, in every power state, and the part enters
STANDBY from CLOSED only, with ATTN deasserted (R200, R208). That ENTER_STANDBY elsewhere changes nothing is the model's
choice (log entry 3). -/
def Obligations.AttnAndStandby : Prop :=
  ∀ s : State,
    (s.attn = true ↔ s.cp.slot ≠ none ∨ s.cp.notices ≠ [])
      ∧ (s.cp.power = .closed ∧ s.attn = false → exec .enterStandby s = .next { s with cp := { s.cp with power := .standby } })
      ∧ (s.cp.power ≠ .closed ∨ s.attn = true → exec .enterStandby s = .next s)

/-- Raising a notice (R201): an entry of the same kind and subject keeps its place, takes the new values and time, and
counts one more repeat up to 255; otherwise the notice joins the tail, if there is room; otherwise it is dropped and
NOTICES_LOST set. A queue of at most 32 entries with distinct kinds and subjects stays one. NOTICES_LOST stays set
through every command but a STATUS that reports it, and a reset. -/
def Obligations.NoticeRaising : Prop :=
  ∀ (k : NoticeKind) (sub : Subject) (v : List Wire) (s : State),
    ((∃ n ∈ s.cp.notices, n.key = (k, sub)) →
      raise k sub v s = { s with cp := { s.cp with notices := s.cp.notices.map (fun n =>
        if n.key = (k, sub) then { n with values := v, time := s.time, repeats := min (n.repeats + 1) 255 } else n) } })
    ∧ ((∀ n ∈ s.cp.notices, n.key ≠ (k, sub)) → s.cp.notices.length < 32 →
      raise k sub v s = { s with cp := { s.cp with notices := s.cp.notices ++ [⟨k, sub, v, 1, s.time⟩] } })
    ∧ ((∀ n ∈ s.cp.notices, n.key ≠ (k, sub)) → 32 ≤ s.cp.notices.length →
      raise k sub v s = { s with cp := { s.cp with lost := true } })
    ∧ (NoticesRight s.cp.notices → NoticesRight (raise k sub v s).cp.notices)
    ∧ ∀ (c : Instr) (t : State), exec c s = .next t → s.cp.lost = true →
      t.cp.lost = true ∨ (s.cp.slot = none ∧ ∃ tag, c = .status ⟨tag, some ()⟩)
        ∨ c = .powerUpReset ∨ (s.resetReply = true ∧ (c = .replyCollected ∨ c = .commandReset))

/-- GET_NOTICE returns and removes the head with the number of entries left, or returns no notice; STATUS returns the
summary record and clears NOTICES_LOST; both without waking a CLOSED part (R202, R203, R209). That the flag NOTICES_LOST
is carried as one byte, 0 or 1, is the model's choice (log entry 5). -/
def Obligations.NoticeAndStatusReplies : Prop :=
  ∀ (tag : Byte) (s : State), s.cp.slot = none → s.cp.power ≠ .standby →
    (s.cp.notices = [] → exec (.getNotice ⟨tag, some ()⟩) s = answered tag .ok [.present false, .u8 0] s)
    ∧ (∀ n l, s.cp.notices = n :: l →
      exec (.getNotice ⟨tag, some ()⟩) s
        = answered tag .ok (.present true :: n.wires ++ [.u8 l.length]) { s with cp := { s.cp with notices := l } })
    ∧ exec (.status ⟨tag, some ()⟩) s
        = answered tag .ok
          [.word s.cp.power.name, .word s.sp.link.name, .word s.rtu.phase.name, .word s.fe.servo.name, .word s.lp.phase.name,
            .word s.cw.a.state.name, .word s.cw.b.state.name, .word s.de.phase.name, .word s.tp.phase.name,
            .word s.mi.phase.name, .u32 s.ss.free.length, .u16 (s.ss.table.filter (fun t => t.state == .held)).length,
            .u16 ((s.ss.table.filter (fun t => t.state == .reserved)).map (fun t => t.raw.length)).sum,
            .u32 (s.ss.free.length / s.shotBlocks), .u8 s.cp.notices.length, .u8 s.cp.lost.toNat, .u64 s.time]
          { s with cp := { s.cp with lost := false } }

/-! ## Settings -/

/-- SET_CONFIG is answered BAD_VALUE, and nothing is taken, when it names no group, a field that is none of the group's,
or one field twice (R204). That a name which is no field of the part is refused like a field of another group is the
model's reading (log entry 20). -/
def Obligations.SetConfigRefused : Prop :=
  ∀ (tag : Byte) (g : Group) (ps qs : List (Option Field × CfgVal)) (f : Option Field) (v : CfgVal) (s : State), s.awake = true →
    exec (.setConfig ⟨tag, some ⟨none, ps⟩⟩) s = answered tag .badValue [] s
    ∧ (f.map Field.group ≠ some g → exec (.setConfig ⟨tag, some ⟨some g, ps ++ (f, v) :: qs⟩⟩) s = answered tag .badValue [] s)
    ∧ (f ∈ ps.map Prod.fst ++ qs.map Prod.fst →
        exec (.setConfig ⟨tag, some ⟨some g, ps ++ (f, v) :: qs⟩⟩) s = answered tag .badValue [] s)

/-- The empty list changes nothing; one value of the focus, tether or memo group, or of the store group but for the
wheel, becomes the applied value at once and leaves none pending; one of the capture, plans or numbering group, or a
wheel, becomes the field's pending value, unless it equals the applied value (R204, R205). A value in range is taken as
carried, and the notice queue stands; one out of range is replaced by the field's default and CONFIG_DEFAULTED lists the
field. The nine groups' tables are written out: each field's group, its range and its default (R23, R28, R72, R189,
R204, and the field tables of the chapters), and the record right after power-up holds the defaults (R212); a value
applied to a field is read back as carried, and no other field's value changes. A burst group value is applied at once
while the unit is IDLE, where a new sync mode clears the armed and aligned flags and the standing grid, a new P keeps
the grid's origin and counts from the next instant (one at the very moment included: DESIGN CHOICE, log entry 10), and
no other field touches the sync state (R70); otherwise it is pending, and the sync state stands. A lens group value is applied at once, and a new counter mode, count
direction or reference mode leaves the counter UNREFERENCED (R205, R113). That a burst value taken in IDLE leaves none
pending is the model's reading (log entry 11). -/
def Obligations.SetConfigTakesValues : Prop :=
  (∀ (tag : Byte) (f : Field) (v : CfgVal) (s : State), s.awake = true →
      let t := if (s.cfg.put f v).isSome then s else raise .configDefaulted (.group f.group) [.items 1, .word f.name] s
      let w := if (s.cfg.put f v).isSome then v else Field.dflt f
      let others := s.waiting.filter (fun p => p.1 != f)
      (∀ g, exec (.setConfig ⟨tag, some ⟨some g, []⟩⟩) s = answered tag .ok [] s)
      ∧ ((f.group = .focus ∨ f.group = .tether ∨ f.group = .memo ∨ (f.group = .store ∧ f ≠ .wheel)) →
        exec (.setConfig ⟨tag, some ⟨some f.group, [(some f, v)]⟩⟩) s
          = answered tag .ok [] { t with cfg := s.cfg.apply f w, waiting := others })
      ∧ ((f.group = .capture ∨ f.group = .plans ∨ f.group = .numbering ∨ f = .wheel) →
        exec (.setConfig ⟨tag, some ⟨some f.group, [(some f, v)]⟩⟩) s
          = answered tag .ok [] { t with waiting := if s.cfg.put f w = some s.cfg then others else others ++ [(f, w)] }))
  ∧ (∀ (tag : Byte) (f : Field) (v : CfgVal) (s : State), s.awake = true →
      let w := takenVal s.cfg f v
      let others := s.waiting.filter (fun p => p.1 != f)
      (f.group = .burst → ∃ t, exec (.setConfig ⟨tag, some ⟨some .burst, [(some f, v)]⟩⟩) s = answered tag .ok [] t
        ∧ (s.rtu.phase = .idle → t.cfg = s.cfg.apply f w ∧ t.waiting = others
          ∧ s.rtu.TakesSync s.cfg.burst t.cfg.burst s.time t.rtu)
        ∧ (s.rtu.phase ≠ .idle → t.cfg = s.cfg ∧ t.rtu = s.rtu
          ∧ t.waiting = if s.cfg.put f w = some s.cfg then others else others ++ [(f, w)]))
      ∧ (f.group = .lens → ∃ t, exec (.setConfig ⟨tag, some ⟨some .lens, [(some f, v)]⟩⟩) s = answered tag .ok [] t
        ∧ t.cfg = s.cfg.apply f w ∧ t.waiting = others
        ∧ ((f = .counterMode ∨ f = .countDirection ∨ f = .referenceMode) → t.cfg ≠ s.cfg → t.lp.referenced = false)))
  ∧ (let num := fun (lo hi : Int) (v : CfgVal) => ∃ n, v = .num n ∧ lo ≤ n ∧ n ≤ hi
    let oneOf := fun (l : List Int) (v : CfgVal) => ∃ n ∈ l, v = .num n
    let name := fun (l : List String) (v : CfgVal) => ∃ w ∈ l, v = .word w
    let table : Field → Group × (CfgVal → Prop) × CfgVal := fun f => match f with
      | .sensorId => (.capture, num 0 65535, .num 0)
      | .laneCount => (.capture, oneOf [1, 2, 4, 8], .num 4)
      | .laneMap => (.capture, fun v => ∃ l, v = .nums l ∧ l.length = 8 ∧ (∀ n ∈ l, 0 ≤ n ∧ n ≤ 7) ∧ l.Nodup,
          .nums [0, 1, 2, 3, 4, 5, 6, 7])
      | .polarity => (.capture, fun v => ∃ l, v = .words l ∧ l.length = 8 ∧ ∀ w ∈ l, w = "NORMAL" ∨ w = "INVERTED",
          .words (List.replicate 8 "NORMAL"))
      | .depth => (.capture, oneOf [10, 12, 14, 16], .num 14)
      | .width => (.capture, fun v => num 64 8192 v ∧ ∃ k, v = .num (16 * k), .num 5120)
      | .height => (.capture, fun v => num 16 6144 v ∧ ∃ k, v = .num (2 * k), .num 3456)
      | .cfaOrder => (.capture, name ["RGGB", "GRBG", "GBRG", "BGGR"], .word "RGGB")
      | .errorThreshold => (.capture, num 1 255, .num 16)
      | .fixedBlack => (.capture, num 0 65535, .num 4096)
      | .releaseLatency => (.burst, num 0 100000, .num 0)
      | .framePeriod => (.burst, num 20000 10000000, .num 33333)
      | .latenessLimit => (.burst, num 0 1000000, .num 2000)
      | .readoutTimeout => (.burst, num 1 2000, .num 200)
      | .releaseFilter => (.burst, oneOf [0, 1, 2, 4, 8, 16], .num 4)
      | .focusPriority => (.burst, name ["OFF", "ON"], .word "OFF")
      | .focusWait => (.burst, num 0 2000, .num 500)
      | .syncMode => (.burst, name ["OFF", "ONCE", "EVERY", "WATCH", "FOLLOW"], .word "OFF")
      | .syncWindow => (.burst, num 0 5000, .num 500)
      | .syncOut => (.burst, name ["OFF", "ON"], .word "OFF")
      | .searchRange => (.focus, num 1 24, .num 12)
      | .contrastThreshold => (.focus, num 0 16777215, .num 2048)
      | .inFocusWindow => (.focus, num 0 255, .num 10)
      | .searchStep => (.focus, num 1 65535, .num 400)
      | .driveSpeed => (.focus, num 0 7, .num 5)
      | .searchSpeed => (.focus, num 0 7, .num 7)
      | .watcherThreshold => (.focus, num 1 64, .num 8)
      | .wakeStartsFocus => (.focus, name ["OFF", "ON"], .word "OFF")
      | .lensFramePeriod => (.lens, oneOf [500, 1000, 2000], .num 1000)
      | .counterMode => (.lens, name ["QUADRATURE", "UP_ONLY"], .word "QUADRATURE")
      | .countDirection => (.lens, name ["NORMAL", "REVERSED"], .word "NORMAL")
      | .referenceMode => (.lens, name ["INDEX", "COMMAND"], .word "INDEX")
      | .indexValue => (.lens, num (-8388608) 8388607, .num 0)
      | .homeTimeout => (.lens, num 0 10000, .num 3000)
      | .cardPlan => (.plans, name ["OFF", "SINGLE_A", "MIRROR", "OVERFLOW", "SPLIT"], .word "SINGLE_A")
      | .proofFiles => (.plans, name ["OFF", "ON"], .word "OFF")
      | .developPlan => (.plans, name ["NEVER", "URGENT_ONLY", "ALL"], .word "URGENT_ONLY")
      | .tetherPlan => (.plans, name ["NONE", "URGENT_PROOF", "ALL_PROOF", "URGENT_RAW", "URGENT_BOTH"], .word "URGENT_PROOF")
      | .standingCaption => (.plans, fun v => v = .text none ∨ ∃ c, v = .text (some c) ∧ 1 ≤ c.length ∧ c.length ≤ 192,
          .text none)
      | .captureFloor => (.store, num 0 8192, .num 1024)
      | .lowThreshold => (.store, num 0 65536, .num 4096)
      | .hold => (.store, name ["OFF", "ON"], .word "OFF")
      | .wheel => (.store, fun v => ∃ l, v = .words l ∧ l.length = 16 ∧ ∀ w ∈ l, w = "A" ∨ w = "B" ∨ w = "D" ∨ w = "T",
          .words ["A", "B", "D", "T", "A", "B", "D", "T", "A", "B", "D", "T", "A", "B", "A", "B"])
      | .ackTimeout => (.tether, num 50 5000, .num 400)
      | .peerRelease => (.tether, name ["OFF", "ON"], .word "OFF")
      | .peerMark => (.tether, name ["OFF", "ON"], .word "ON")
      | .peerPull => (.tether, name ["OFF", "ON"], .word "ON")
      | .startMode => (.memo, name ["MANUAL", "ON_VOICE"], .word "MANUAL")
      | .energyThreshold => (.memo, num 0 32767, .num 400)
      | .crossingThreshold => (.memo, num 0 319, .num 40)
      | .trailingSilence => (.memo, num 10 250, .num 75)
      | .firstShotNumber => (.numbering, num 1 4294967295, .num 1);
    ∀ (c : Cfg) (f : Field) (v : CfgVal),
      f.group = (table f).1 ∧ ((c.put f v).isSome = true ↔ (table f).2.1 v) ∧ Field.dflt f = (table f).2.2
      ∧ Cfg.get {} f = (table f).2.2
      ∧ ∀ d, c.put f v = some d → c.apply f v = d ∧ d.get f = v ∧ ∀ g, g ≠ f → d.get g = c.get g)

/-- GET_CONFIG returns every field of the group, in the order of its table, with its applied value and its pending value
if it has one, and changes nothing; a name that is no group is answered BAD_VALUE (R206). That the reply names each
field before its value, in the table's order, is the model's choice (log entry 5). -/
def Obligations.GetConfigReply : Prop :=
  (∀ (f : Field) (g : Group), f ∈ Group.fields g ↔ f.group = g)
    ∧ ∀ (tag : Byte) (s : State), s.awake = true →
      exec (.getConfig ⟨tag, some none⟩) s = answered tag .badValue [] s
      ∧ ∀ g, exec (.getConfig ⟨tag, some (some g)⟩) s
        = answered tag .ok
          (.items (Group.fields g).length :: (Group.fields g).flatMap (fun f =>
            .word f.name :: valWires f (s.cfg.get f)
              ++ opt ((s.waiting.find? (fun w => w.1 == f)).map Prod.snd) (valWires f))) s

/-! ## The shot store -/

/-- SHOT_MARK of a number (R14, R121, R164, R166, R180): NOT_HELD, with no change, unless a HELD shot that is not
deleting has the number. Otherwise the shot is URGENT; each send duty that the applied tether plan gives an URGENT shot
is there, set to PENDING if it was absent or FAILED and left as it is otherwise; and DEVELOP likewise, if the plans give
it. Where a proof duty is then PENDING with the proof extent absent, a DONE DEVELOP is PENDING again and an absent one
is there. Of the shot's other duties none changes its state, and neither does a DEVELOP that is PENDING or ACTIVE; every
send duty of the shot and its transfer are URGENT. The transfer queue holds its entries, the shot's now URGENT in their
old entry order, and the duties added or set back in the next entry orders, or deferred behind 256 entries; it stands
URGENT before NORMAL, each class by its entry order. The develop queue holds its entries, the shot's now URGENT, and an
entry for a DEVELOP added or set back, unless the engine is HALTED; it stands URGENT before NORMAL, each class by the
assignment of the numbers. The rest of the shot's record, the other shots and every other block stand. SHOT_MARK CURRENT
(R15): the RESERVED shot whose TRIGGER was sent, otherwise the LANDING shot, takes the mark as pending and is named in
the reply; otherwise the shot that landed last is marked as by its number, and with none the reply is NOT_HELD. Nothing
else changes. -/
def Obligations.ShotMark : Prop :=
  (∀ (tag : Byte) (n : Nat) (s : State), s.awake = true →
      let kinds : List FileKind := match s.cfg.plans.tether with
        | .none => []
        | .urgentProof => [.proof]
        | .allProof => [.proof]
        | .urgentRaw => [.raw]
        | .urgentBoth => [.raw, .proof]
      let sends := kinds.map DutyKey.send
      let gives := .proof ∈ kinds ∨ s.cfg.plans.develop ≠ .never
      (s.usable n = none → exec (.shotMark ⟨tag, some (.value n)⟩) s = answered tag .notHeld [] s)
      ∧ ∀ h, s.usable n = some h → ∃ t u,
        exec (.shotMark ⟨tag, some (.value n)⟩) s = answered tag .ok [.u32 n] t
        ∧ t = { s with
            ss := { s.ss with table := updateFirst (isHeld n) (fun _ => u) s.ss.table }
            tp := { s.tp with queue := t.tp.queue, nextOrder := t.tp.nextOrder, deferred := t.tp.deferred, transfer := t.tp.transfer }
            de := { s.de with queue := t.de.queue } }
        ∧ u = { h with urgent := true, duties := u.duties }
        ∧ (∀ k ∈ sends, u.dutyState k = some (match h.dutyState k with | none => .pending | some .failed => .pending | some d => d))
        ∧ (∀ k, k ≠ .develop → k ∉ sends → u.dutyState k = h.dutyState k)
        ∧ (∀ d ∈ u.duties, (∃ k, d.key = .send k) → d.urgent = true)
        ∧ (let waits := u.duties.any (fun d => d.key.needsProof && d.state == .pending) && u.proof.isNone
          u.dutyState .develop = match h.dutyState .develop with
            | none => if gives ∨ waits = true then some .pending else none
            | some .failed => if gives then some .pending else some .failed
            | some .done => if waits then some .pending else some .done
            | some d => some d)
        ∧ t.tp.transfer = s.tp.transfer.map (fun x => if x.shot = n then { x with urgent := true } else x)
        ∧ (let joins := kinds.filter (fun k => h.dutyState (.send k) = none ∨ h.dutyState (.send k) = some .failed)
          let moved := s.tp.queue.map (fun e => if e.shot = n then { e with urgent := true } else e)
          t.tp.queue.Pairwise (fun x y =>
              (x.urgent = true ∧ y.urgent = false) ∨ (x.urgent = y.urgent ∧ x.order ≤ y.order))
          ∧ (joins = [] ∨ s.cp.power ≠ .active → t.tp.queue.Perm moved ∧ t.tp.deferred = s.tp.deferred)
          ∧ (s.cp.power = .active → (∀ k ∈ joins, ∀ e ∈ s.tp.queue, e.shot = n → e.kind ≠ k) →
            (s.tp.queue.length + joins.length ≤ 256 → t.tp.deferred = s.tp.deferred
              ∧ t.tp.queue.Perm (moved ++ joins.zipIdx.map (fun p => ⟨n, p.1, true, s.tp.nextOrder + p.2⟩)))
            ∧ (256 ≤ s.tp.queue.length →
              t.tp.queue.Perm moved ∧ t.tp.deferred = s.tp.deferred + joins.length)))
        ∧ t.de.queue.Pairwise (fun x y =>
            (x.urgent = true ∧ y.urgent = false) ∨ (x.urgent = y.urgent ∧ x.serial ≤ y.serial))
        ∧ t.de.queue.Perm (if u.dutyState .develop = h.dutyState .develop ∨ s.de.phase = .halted
            then s.de.queue.map (fun e => if e.shot = n then { e with urgent := true } else e)
            else s.de.queue.filter (fun e => e.shot != n) ++ [⟨n, h.serial, true⟩]))
  ∧ (∀ (tag : Byte) (s : State), s.awake = true →
      let current := exec (.shotMark ⟨tag, some .named⟩) s
      let pend := fun (p : Shot → Bool) =>
        { s with ss := { s.ss with table := updateFirst p (fun x => { x with markPending := true }) s.ss.table } }
      (∀ e, s.ss.table.find? isTriggered = some e → current = answered tag .ok [.u32 e.number] (pend isTriggered))
      ∧ (s.ss.table.find? isTriggered = none →
        (∀ e, s.ss.table.find? isLanding = some e → current = answered tag .ok [.u32 e.number] (pend isLanding))
        ∧ (s.ss.table.find? isLanding = none →
          (s.ss.lastLanded = none → current = answered tag .notHeld [] s)
          ∧ ∀ n, s.ss.lastLanded = some n → current = exec (.shotMark ⟨tag, some (.value n)⟩) s)))

/-- SHOT_KEEP and SHOT_RELEASE (R16, R18): SHOT_KEEP sets KEEP and SHOT_RELEASE clears it on a HELD shot that is not
deleting; on any other shot number both are answered NOT_HELD; on a shot already kept, or not kept, they are answered OK and
change nothing. SHOT_KEEP raises no notice. After SHOT_RELEASE the freeing test follows at once: a shot whose duties are all
settled, which holds no pins and into which no memo records, is freed, its raw, proof and memo blocks joining the free
list's tail; otherwise only KEEP changes. -/
def Obligations.ShotKeepAndRelease : Prop :=
  ∀ (tag : Byte) (n : Nat) (s : State), s.awake = true →
    (s.usable n = none →
      exec (.shotKeep ⟨tag, some n⟩) s = answered tag .notHeld [] s
      ∧ exec (.shotRelease ⟨tag, some n⟩) s = answered tag .notHeld [] s)
    ∧ ∀ h, s.usable n = some h →
      let put := fun (x : Shot) => { s with ss := { s.ss with table := updateFirst (isHeld n) (fun _ => x) s.ss.table } }
      exec (.shotKeep ⟨tag, some n⟩) s = answered tag .ok [] (put { h with keep := true })
      ∧ (h.keep = true → exec (.shotKeep ⟨tag, some n⟩) s = answered tag .ok [] s)
      ∧ (h.keep = false → exec (.shotRelease ⟨tag, some n⟩) s = answered tag .ok [] s)
      ∧ (h.keep = true → (h.duties.any Duty.owed = true ∨ h.pins ≠ [] ∨ s.recordsInto n = true) →
          exec (.shotRelease ⟨tag, some n⟩) s = answered tag .ok [] (put { h with keep := false }))
      ∧ (h.keep = true → h.duties.any Duty.owed = false → h.pins = [] → s.recordsInto n = false →
          ∃ t, exec (.shotRelease ⟨tag, some n⟩) s = answered tag .ok [] t
            ∧ t = { s with ss := t.ss, mi := t.mi, cp := t.cp }
            ∧ t.ss = { s.ss with
                table := updateFirst (isHeld n) (fun _ => {}) s.ss.table
                free := s.ss.free ++ h.raw ++ ((h.proof.map (·.blocks)).getD []) ++ ((h.memo.map (·.blocks)).getD []) }
            ∧ (s.mi.phase ≠ .armed → t.mi = s.mi ∧ t.cp = s.cp))

/-- SHOT_DELETE (R18, R19): NOT_HELD, with no change, unless a HELD shot that is not deleting has the number. Otherwise,
where no two HELD shots share a number, the reply is OK, and nothing outside the store and its consumers changes. The
shot has no job, file, development job or transfer left, no entry in any queue, and no memo in hand. It is freed, its
raw, proof and memo blocks joining the free list's tail, unless a duty is still ACTIVE or a pin held, so that one
without either is freed. While it is there it is deleting with KEEP and URGENT clear, its PENDING duties and those of
the work aborted are CANCELLED, and no duty is PENDING. The proof blocks of a development job and the blocks of a
recording go back too. The other shots stand but for the mark of a deferred duty, unless the delete lets the overflow
move happen. -/
def Obligations.ShotDelete : Prop :=
  ∀ (tag : Byte) (n : Nat) (s : State), s.awake = true →
    (s.usable n = none → exec (.shotDelete ⟨tag, some n⟩) s = answered tag .notHeld [] s)
    ∧ ∀ h, s.usable n = some h → (s.heldShots.map (·.number)).Nodup → ∃ t,
      exec (.shotDelete ⟨tag, some n⟩) s = answered tag .ok [] t
      ∧ t = { s with ss := t.ss, cw := t.cw, tp := t.tp, de := t.de, mi := t.mi, cp := t.cp }
      ∧ (∀ e ∈ t.de.queue, e.shot ≠ n) ∧ (∀ e ∈ t.tp.queue, e.shot ≠ n)
      ∧ (∀ j, t.de.job = some j → j.shot ≠ n) ∧ (∀ x, t.tp.transfer = some x → x.shot ≠ n)
      ∧ (∀ m, t.mi.current = some m → m.shot ≠ n)
      ∧ (∀ j ∈ t.cw.a.queue ++ t.cw.b.queue, j.shot ≠ n) ∧ (∀ f ∈ t.cw.a.file.toList ++ t.cw.b.file.toList, f.shot ≠ n)
      ∧ (∀ u, t.held n = some u → u.deleting = true ∧ u.keep = false ∧ u.urgent = false
        ∧ ((∃ d ∈ u.duties, d.state = .active) ∨ u.pins ≠ []) ∧ (∀ d ∈ u.duties, d.state ≠ .pending)
        ∧ u.duties.map (·.key) = h.duties.map (·.key) ∧ u.raw = h.raw
        ∧ ∀ k d, h.dutyState k = some d →
          (u.dutyState k = some d ∨ u.dutyState k = some .cancelled)
          ∧ (d = .pending ∨ (∃ f ∈ s.cw.a.file, f.shot = n ∧ k = .card f.kind .a)
              ∨ (∃ f ∈ s.cw.b.file, f.shot = n ∧ k = .card f.kind .b) ∨ (∃ j ∈ s.de.job, j.shot = n ∧ k = .develop)
              ∨ (∃ x ∈ s.tp.transfer, x.shot = n ∧ k = .send x.kind) →
            u.dutyState k = some .cancelled))
      ∧ ((∀ d ∈ h.duties, d.state ≠ .active) → h.pins = [] → t.held n = none)
      ∧ (∃ l, t.ss.free = s.ss.free ++ l)
      ∧ (t.held n = none → ∀ b ∈ h.raw ++ (h.proof.map (·.blocks)).getD [] ++ (h.memo.map (·.blocks)).getD [], b ∈ t.ss.free)
      ∧ (s.de.phase = .developing → (∃ j ∈ s.de.job, j.shot = n) →
          ∀ b ∈ (h.proof.map (·.blocks)).getD [], b ∈ t.ss.free)
      ∧ (∀ m, s.mi.current = some m → m.shot = n → s.mi.phase = .recording → ∀ b ∈ m.blocks, b ∈ t.ss.free)
      ∧ ((s.cw.overflow = true ∨ s.cfg.plans.card ≠ .overflow ∨ s.cw.a.final = false) →
        ∀ m x, m ≠ n → s.held m = some x → ∃ y, t.held m = some y ∧ y = { x with duties := y.duties }
          ∧ y.duties.map (fun d => { d with deferred := false }) = x.duties.map (fun d => { d with deferred := false }))

/-- RESERVATION_GRANT (R6, R22): the waiting request is granted just when an entry is FREE, none is RESERVED and the
free list holds the blocks it asks for; the lowest FREE entry becomes RESERVED with the request's burst, frame, release
time, scheduled time and geometry and the blocks at the list's head, and no request waits any more; STORE_LOW is raised
just where the free count so passes from at or above the low threshold to below it, with the count and the shots that
still fit. Otherwise nothing changes. That an event whose conditions do not hold changes nothing is the model's choice
(log entry 3). -/
def Obligations.ReservationGrant : Prop :=
  ∀ s : State,
    (s.ss.request = none → exec .reservationGrant s = .next s)
    ∧ ∀ r, s.ss.request = some r →
      let n := blocksFor (rawBytes r.geom)
      ((∀ e ∈ s.ss.table, e.state ≠ .free) ∨ (∃ e ∈ s.ss.table, e.state = .reserved) ∨ s.ss.free.length < n →
        exec .reservationGrant s = .next s)
      ∧ ((∃ e ∈ s.ss.table, e.state = .free) → (∀ e ∈ s.ss.table, e.state ≠ .reserved) → n ≤ s.ss.free.length →
        ∃ t, exec .reservationGrant s = .next t
          ∧ t = { s with
              ss := { s.ss with
                request := none, free := s.ss.free.drop n
                table := updateFirst (fun e => e.state == .free) (fun _ =>
                  { state := .reserved, burst := r.burst, frame := r.frame, released := r.released
                    scheduled := r.scheduled, geom := r.geom, raw := s.ss.free.take n }) s.ss.table }
              rtu := { s.rtu with ready := t.rtu.ready }, cp := s.tellsLow n })

/-- WHEEL_SLOT (R23, R24, R205): in standby nothing happens. Otherwise the wheel moves on by one of its 16 slots. At
slot 0 a waiting new wheel is applied first. The named reader is granted if it has a read waiting, else the next after
it in the order A, B, D, T, A that has one, and with none waiting the slot is idle: nothing else changes. A read granted
to a card slot, for its active file, takes up to 4,096 further payload bytes in hand; one granted to the development
engine takes up to 4,096 further raw bytes of its job, and the rows whose raw lines are then all read are written, but
for the last; one granted to the tether port takes it up to 4,096 bytes ahead. The reader's pin is on the shot then, on
the kind of extent that it reads, added if it was not there and kept if it was; the engine's drops after the job's last
read. That the wheel rests in standby is the model's choice (log entry 3), that a read time's length is not modelled
(log entry 1), that the last row is written by DEVELOP_COMPLETE (log entry 17), and how far the tether port reads ahead
(log entry 15). -/
def Obligations.WheelSlot : Prop :=
  ∀ s : State,
    (s.cp.power = .standby → exec .wheelSlot s = .next s)
    ∧ (s.cp.power ≠ .standby →
      let s1 := if s.ss.wheelPos = 0 then
          { s with
            cfg := (s.waiting.filter (fun w => w.1 == .wheel)).foldl (fun c w => c.apply w.1 w.2) s.cfg
            waiting := s.waiting.filter (fun w => w.1 != .wheel) }
        else s
      let on := fun (u : State) => { u with ss := { u.ss with wheelPos := (s.ss.wheelPos + 1) % 16 } }
      let order : List Reader := match s1.cfg.store.wheel.getD s.ss.wheelPos .a with
        | .a => [.a, .b, .d, .t] | .b => [.b, .d, .t, .a] | .d => [.d, .t, .a, .b] | .t => [.t, .a, .b, .d]
      ((∀ r, s1.readerWaits r = false) → exec .wheelSlot s = .next (on s1))
      ∧ ∀ before r after, order = before ++ r :: after → (∀ x ∈ before, s1.readerWaits x = false) → s1.readerWaits r = true →
        exec .wheelSlot s = .next (on (grantRead r s1)))
    ∧ (let pinned := fun (r : Reader) (k : FileKind) (x : Shot) =>
          if x.pins.any (fun p => p.reader == r) = true then x else { x with pins := x.pins ++ [⟨r, k⟩] };
      (∀ f, s.cw.a.file = some f →
        let t := grantRead .a s
        t = { s with
            ss := { s.ss with table := updateFirst (isHeld f.shot) (pinned .a f.kind) s.ss.table }
            cw := { s.cw with a := { s.cw.a with
              file := some { f with inHand := f.inHand + min 4096 (f.payload - f.inHand) } } } }
        ∧ t.held f.shot = (s.held f.shot).map (pinned .a f.kind))
      ∧ (∀ f, s.cw.b.file = some f →
        let t := grantRead .b s
        t = { s with
            ss := { s.ss with table := updateFirst (isHeld f.shot) (pinned .b f.kind) s.ss.table }
            cw := { s.cw with b := { s.cw.b with
              file := some { f with inHand := f.inHand + min 4096 (f.payload - f.inHand) } } } }
        ∧ t.held f.shot = (s.held f.shot).map (pinned .b f.kind))
      ∧ (∀ j, s.de.job = some j →
        let lines := 2 * j.recipe.scale * lineBytes j.geom
        let all := 2 * j.recipe.scale * j.height * lineBytes j.geom
        let read := j.bytesRead + min 4096 (all - j.bytesRead)
        let rows := min (j.height - 1) (min j.height (read / lines))
        let t := grantRead .d s
        t.de = { s.de with job := some { j with bytesRead := read, rows := rows } }
        ∧ t.mem = ((List.range rows).drop j.rows).foldl (fun m py =>
            writeRow (((s.held j.shot).map (·.raw)).getD []) ((((s.held j.shot).bind (·.proof)).map (·.blocks)).getD [])
              { j with bytesRead := read } py m) s.mem
        ∧ (read < all → t.held j.shot = (s.held j.shot).map (pinned .d .raw))
        ∧ (all ≤ read → ∀ u, t.held j.shot = some u → (s.heldShots.map (·.number)).Nodup →
            ∀ p ∈ u.pins, p.reader ≠ .d))
      ∧ (∀ x, s.tp.transfer = some x →
        let t := grantRead .t s
        t = { s with
            ss := { s.ss with table := updateFirst (isHeld x.shot) (pinned .t x.kind) s.ss.table }
            tp := { s.tp with
              transfer := some { x with readTo := x.readTo + min 4096 (min x.total (x.sent + 16384) - x.readTo) } } }
        ∧ t.held x.shot = (s.held x.shot).map (pinned .t x.kind)))

/-- Where the store's bytes may change (R5, R42, R43, R126, R193, R211): a header, a line or the close of a readout
changes only bytes of the LANDING shot's raw blocks, a read of the wheel and the completion of a development job only
bytes of the proof blocks of the shot being developed, and a memo sample or the end of an activity frame only bytes of
the recording's blocks and of the blocks that it takes from the free list's head. Every other byte reads as before.
Every other command, but for the power-up reset, leaves all the bytes as they were. That they stand through a plain wake
and a command reset is the model's choice (log entry 2). -/
def Obligations.StoredBytes : Prop :=
  (∀ (c : Instr) (s t : State), Memory.wf s.mem = true → exec c s = .next t → storesBytes c = true →
      ∀ a, a / 65536 ∉ s.storedBlocks c → memRead t.mem a = memRead s.mem a)
  ∧ (∀ (c : Instr) (s t : State), exec c s = .next t → storesBytes c = false → c ≠ .powerUpReset → t.mem = s.mem)

/-- The fifth law of the store (R8): a development or memo allocation never leaves the free count below the capture floor. A
command by which a development job or a memo may take blocks, in ACTIVE or CLOSING, leaves at least the free count there
was, or a free count of at least the floor. -/
def Obligations.FloorKept : Prop :=
  ∀ (c : Instr) (s t : State), allocates c = true → s.cp.power = .active ∨ s.cp.power = .closing → exec c s = .next t →
    s.freeCount ≤ t.freeCount ∨ s.cfg.store.floor ≤ t.freeCount

/-! ## Reports -/

/-- The reporting commands answer OK with the record of their rule, written out here field by field, and change nothing;
a slot other than A or B, a grid row above 10 and a recipe number above 3 are answered BAD_VALUE, a shot that is not
HELD by SHOT_INFO with NOT_HELD (R5, R21, R47, R49, R56, R59, R70, R71, R78, R85, R97, R100, R114, R117, R119, R136,
R158, R182, R196). SHOT_LIST's choice (R21): of the HELD shots numbered at or above the carried number, at most 64, in
increasing order; where fewer than 64 are returned, none is left out, and none left out is below one returned. That a
flag is one byte and the order of a record's fields are the model's choice (log entry 5), as are the grouping of the
optional parts of SHOT_INFO, LINK_STATS and BURST_STATE, the frame due's time and the conditions that BURST_STATE
computes in IDLE too, LENS_STATE's words as 32-bit slot words and the home timer's optional part (log entry 23), the
size of the phase errors (log entry 10) and the frame period that a stopped lens port reports (log entry 19). -/
def Obligations.ReportsAndTheShotList : Prop :=
  (∀ (tag : Byte) (n : Nat) (s : State), s.awake = true →
      (s.held n = none → exec (.shotInfo ⟨tag, some n⟩) s = answered tag .notHeld [] s)
      ∧ (∀ h, s.held n = some h → exec (.shotInfo ⟨tag, some n⟩) s = answered tag .ok
          (record [
            [.u32 h.number, .u32 h.burst, .u16 h.frame, .word h.state.name, .u64 h.released, .u64 h.scheduled, .u64 h.exposed,
              .i64 h.lateness, .i32 h.phase],
            opt h.snapshot.mode (fun m => [.word m.name]), [.word h.snapshot.state.name],
            opt h.snapshot.area (fun a => [.u8 a]),
            [.i32 h.snapshot.defocus, .i32 h.snapshot.counter, flag h.snapshot.moving,
              .word (if h.snapshot.confirmed then "CONFIRMED" else "UNCONFIRMED")],
            [.u8 h.geom.depth, .u16 h.geom.width, .u16 h.geom.height, .word h.geom.cfa.name, .u8 h.sequence, .u16 h.damaged,
              .u16 h.black.r, .u16 h.black.gr, .u16 h.black.gb, .u16 h.black.b, .u8 h.recipe, flag h.urgent, flag h.keep,
              flag h.deleting, .u16 h.raw.length],
            opt h.proof (fun p => [.u16 p.blocks.length, .u32 p.bytes]),
            opt h.develop (fun d => [.word (if d.r || d.g || d.b then "BLACK_HIGH" else "OK"), flag d.r, flag d.g, flag d.b]),
            opt h.memo (fun m => [.u8 m.blocks.length, .u32 m.length]),
            opt (if s.mi.phase == .recording && (s.mi.current.map (·.shot)) == some n then
              s.mi.current.map (fun m => m.blocks.length) else none) (fun k => [.u8 k]),
            opt h.caption (fun c => [.bytes c]),
            listOf h.duties (fun d => [.word d.key.kindName, .word d.key.targetName, .word d.state.name]
              ++ match d.key with
                | .send _ => [.present true, .word (className d.urgent), .u32 d.resume]
                | _ => [.present false]),
            listOf h.pins (fun p => [.word p.reader.name, .word p.kind.name])]) s)
      ∧ exec (.shotList ⟨tag, some n⟩) s = answered tag .ok (listOf (s.listedShots n) (fun x =>
          [.u32 x.number, flag x.urgent, flag x.keep, flag x.deleting, .u8 (x.duties.countP Duty.owed)])) s
      ∧ exec (.laneTestRead ⟨tag, some ()⟩) s
          = answered tag .ok (listOf (s.sp.checkers.take s.cfg.capture.lanes)
              (fun c => [.u8 c.locked.toNat, .u32 c.mismatch, .u32 c.compared])) s
      ∧ exec (.linkStats ⟨tag, some ()⟩) s = answered tag .ok
          (record [
            [.word s.sp.link.name, .u8 s.sp.attempts], opt s.sp.lastFail (fun r => [.word r.name]), [.u8 s.sp.skew],
            listOf (s.sp.errs.take s.cfg.capture.lanes) (fun k => [.u8 k]), opt s.sp.retrain (fun r => [.word r.name]),
            [.u32 s.sp.retrains, .u32 s.sp.unexpected, .u32 s.sp.badHeaders, .u32 s.sp.lineOrder]]) s
      ∧ exec (.burstState ⟨tag, some ()⟩) s = answered tag .ok
          (record [
            [.word s.rtu.phase.name, .u32 ((s.rtu.burst.map (·.number)).getD 0)],
            opt s.rtu.burst (fun b => record [
              [.word b.owner.name],
              (match b.count with | none => [.named true] | some k => [.named false, .u16 k]),
              [.u16 b.triggered, .u16 b.landed, .u16 b.voided, .u16 b.late, .u32 b.ignored, .u16 b.byWait, .u64 b.t0,
                .u32 b.latency, .u32 b.period, .i64 b.tg, .u16 b.kg, .i64 (b.tg + ((b.triggered : Int) - b.kg) * b.period)],
              [flag (s.ss.table.any isClaimed), flag (s.sp.link == .aligned && s.sp.retrain.isNone && !s.sp.checkOn),
                flag (s.rtu.phase == .waiting), flag (s.focusReady || s.rtu.waitExpired),
                flag (decide (b.tg + ((b.triggered : Int) - b.kg) * b.period ≤ s.time))]])]) s
      ∧ exec (.syncState ⟨tag, some ()⟩) s = answered tag .ok
          (record [
            [.word s.cfg.burst.syncMode.name, .u16 s.cfg.burst.window, flag s.rtu.armed, flag s.rtu.aligned],
            opt s.rtu.standing (fun g => [.i64 g.origin, .u32 g.period]),
            opt s.rtu.lastError (fun e => [.i32 e.1, .u64 e.2]),
            [.u32 s.rtu.edges, .u32 s.rtu.realigns, .u32 s.rtu.windows]]) s
      ∧ exec (.latencyStats ⟨tag, some ()⟩) s = answered tag .ok
          ([s.rtu.first, s.rtu.nexts].flatMap (fun d =>
              [.u32 d.count, .i64 d.min, .i64 d.max, .u32 d.none, .u32 d.reservation, .u32 d.link, .u32 d.focus])
            ++ [.u32 s.cfg.burst.latency, .u32 s.cfg.burst.period]) s)
  ∧ (∀ (tag : Byte) (n : Nat) (s : State), s.awake = true →
      let f := s.fe
      let r := s.fe.last
      let w := s.fe.watcher
      let rect := fun (x : Rect) => [Wire.u8 x.row0, .u8 x.col0, .u8 x.row1, .u8 x.col1]
      exec (.afState ⟨tag, some ()⟩) s = answered tag .ok
          (record [
            opt f.servoMode (fun m => [.word m.name]),
            [.word f.servo.name, .u8 f.fails, flag f.settle.isSome],
            (match f.mode with
              | .single a => [.word "SINGLE_AREA", .u8 a]
              | .zone x => .word "ZONE" :: rect x
              | .track => [.word "TRACK", .u8 f.trackStart]),
            rect f.watchZone,
            [.word (if f.track.lost then "LOST" else "TRACKING"), .u8 f.track.current],
            opt f.track.target (fun t => [.i32 t]), [.u8 f.track.misses],
            record [
              [.word r.outcome.name], opt r.area (fun a => [.u8 a]), [.i32 r.defocus],
              opt (if r.outcome = .search then some r.near else none) (fun x => [.word (if x then "NEAR" else "FAR")]),
              [.i32 r.counter, .word (if r.referenced then "REFERENCED" else "UNREFERENCED"), flag r.moving,
                .word r.kind.name, .u64 r.start],
              opt r.target (fun t => [.i32 t]), [flag r.atLimit, flag r.discarded]],
            [.i16 f.coef],
            record [
              [flag w.enabled, flag s.watching, .word (if w.full then "FULL" else "LOW"), .u8 w.counter],
              opt w.reference (fun e => [.u32 e]), opt w.last (fun e => [.u32 e]), [.u32 w.wakes]]]) s
      ∧ exec (.afGrid ⟨tag, some n⟩) s = (if 10 < n then answered tag .badValue [] s else answered tag .ok
          (((s.fe.areas.drop (11 * n)).take 11).flatMap (fun a => [.word a.kind.name, .u32 a.contrast, .i8 a.shift]
            ++ opt (if a.kind = .edge then some a.near else none) (fun x => [.word (if x then "NEAR" else "FAR")])
            ++ opt (if a.kind = .valid then some (a.d16, a.defocus) else none) (fun p => [.i16 p.1, .i32 p.2]))) s)
      ∧ (let l := s.lp
        exec (.lensState ⟨tag, some ()⟩) s = answered tag .ok
          (record [
            [flag l.enable, .word l.phase.name,
              .u16 (if l.phase = .stopped then s.cfg.lens.framePeriod else l.framePeriod), .u32 l.frames],
            opt l.latest (fun x => [.u32 x.bits.toNat]), opt l.lensType (fun t => [.u8 t]),
            [flag l.nearStop, flag l.farStop, flag l.irisMoving, flag l.fault, .u8 l.failRun, .u8 l.goodRun, .u32 l.missing,
              .u32 l.parity, .u32 l.absent, .u32 l.repeated],
            opt l.stage (fun x => [.u32 (driveBits (some x)).toNat]), opt l.lastDrive (fun x => [.u32 (driveBits (some x)).toNat]),
            [.u32 l.drives, .u32 l.homes, flag l.homing], opt l.homeAt (fun t => [.i64 ((t : Int) - s.time)]),
            opt l.irisStage (fun v => [.u8 v]),
            [.u8 l.irisSent, .i32 l.far, .i32 l.near, .u8 l.irisMin, .u8 l.irisMax, .u8 l.auxQueue.length],
            listOf l.auxHistory (fun x => [.u16 x.toNat]),
            [.u32 l.auxReceived, .u32 l.auxDiscards, .i32 l.counter,
              .word (if l.referenced then "REFERENCED" else "UNREFERENCED"), flag l.overrun, .u32 l.encErrors]]) s)
      ∧ (let x := s.de.recipes.getD n defaultRecipe
        exec (.recipeGet ⟨tag, some n⟩) s = (if 3 < n then answered tag .badValue [] s else answered tag .ok
          ([.u8 x.scale, .u16 x.white, .i16 x.trimR, .i16 x.trimGr, .i16 x.trimGb, .i16 x.trimB, .u16 x.gainR, .u16 x.gainG,
              .u16 x.gainB, .u16 x.gainE] ++ x.matrix.map Wire.i16 ++ x.tone.map Wire.u16
            ++ [.u8 s.de.recipe] ++ opt s.de.selected (fun k => [.u8 k])) s))
      ∧ exec (.developState ⟨tag, some ()⟩) s = answered tag .ok
          (record [
            [.word s.de.phase.name],
            opt s.de.job (fun j => [.u32 j.shot, .u8 j.recipeNo, .u16 j.width, .u16 j.height, .u16 j.blocks,
                flag (s.de.phase == .developing)]
              ++ opt (if s.de.phase = .stalled then some j.stalledAt else none) (fun t => [.u64 t])
              ++ [.u32 j.bytesRead, .u32 (2 * j.recipe.scale * j.height * lineBytes j.geom), .u16 j.rows, .u16 j.height]),
            [.u8 s.de.recipe], opt s.de.selected (fun x => [.u8 x]), [.u16 s.de.queue.length],
            listOf (s.de.queue.take 16) (fun e => [.u32 e.shot, .word (className e.urgent)]),
            [.u32 s.de.completed, .u32 s.de.aborts, .u32 s.de.abandons, .u32 s.de.stalls, .u32 s.de.highs]]) s)
  ∧ (∀ (tag : Byte) (sl : Slot) (s : State), s.awake = true →
      let c := s.slot sl
      let t := s.tp
      let m := s.mi
      let runs := fun (l : List Run) => listOf l (fun r => [.u32 r.start, .u32 r.count])
      exec (.cardState ⟨tag, some none⟩) s = answered tag .badValue [] s
      ∧ exec (.cardState ⟨tag, some (some sl)⟩) s = answered tag .ok
          (record [
            [.word c.state.name, .word c.hold.name, flag c.final], runs c.extents, [.u64 (c.extents.map (·.count)).sum],
            [.u16 c.queue.length], listOf (c.queue.take 16) (fun j => [.u32 j.shot, .word j.kind.name]),
            opt c.file (fun f =>
              [.u32 f.shot, .word f.kind.name, .u32 (512 + f.payload), .u32 f.written, .u32 f.sectors] ++ runs f.fragments
                ++ [flag f.flight.isSome, flag (f.again.isSome || f.flight.any (·.retry))]),
            [.u8 c.returns.length, flag s.cw.overflow, .u32 c.lowMark, .u16 c.writeMs, .u32 c.written, .u32 c.abandoned,
              .u32 c.failed, .u32 c.errors, .u32 c.recovered, .u64 c.sectors]]) s
      ∧ exec (.tetherState ⟨tag, some ()⟩) s = answered tag .ok
          (record [
            [.word t.phase.name, flag s.lines.linkUp, .u8 t.credits, .u16 t.ids],
            opt t.transfer (fun x => [.u32 x.shot, .word x.kind.name, .word (className x.urgent), .u16 x.id, .u32 x.total,
              .u32 x.acked, .u32 x.sent, .u8 ((x.sent - x.acked + 16383) / 16384), .u8 x.timeouts,
              .i64 ((x.expires : Int) - s.time), flag x.captionDue]),
            [.u16 t.queue.length, .u16 t.deferred],
            listOf (t.queue.take 16) (fun e => [.u32 e.shot, .word e.kind.name, .word (className e.urgent),
              .u32 (((s.sendDuty e.shot e.kind).map (·.resume)).getD 0), flag (s.eligible e)]),
            [.word (onOff s.cfg.tether.peerRelease), .word (onOff s.cfg.tether.peerMark), .word (onOff s.cfg.tether.peerPull),
              .u16 s.cfg.tether.ackMs, .u32 t.offers, .u32 t.delivered, .u32 t.declined, .u32 t.failed, .u32 t.aborted,
              .u32 t.goBacks, .u32 t.segments, .u64 t.bytesAcked, .u32 t.badFrames, .u32 t.staleFrames, .u32 t.refused]]) s
      ∧ exec (.memoState ⟨tag, some ()⟩) s = answered tag .ok
          (record [
            [.word m.phase.name,
              .word (if (m.current.map (·.onVoice)).getD s.cfg.memo.onVoice then "ON_VOICE" else "MANUAL")],
            opt m.current (fun c => [.u32 c.shot, .u32 c.samples, .u8 c.blocks.length]),
            [.u8 ((m.current.map (·.silence)).getD 0)],
            opt m.lastFrame (fun f => [.u16 f.energy, .u16 f.crossings, flag f.voiced]), [.u8 m.gain, .i16 m.offset],
            opt m.latest (fun n => [.u32 n]), [.u32 m.attached, .u32 m.truncated, .u32 m.aborted, .u32 m.cancelled]]) s)
  ∧ (∀ (n : Nat) (s : State),
      ((s.listedShots n).map (·.number)).Pairwise (· ≤ ·) ∧ (s.listedShots n).length ≤ 64
      ∧ (∀ x ∈ s.listedShots n, x ∈ s.heldShots ∧ n ≤ x.number)
      ∧ ∀ x ∈ s.heldShots, n ≤ x.number → x ∉ s.listedShots n →
        (s.listedShots n).length = 64 ∧ ∀ y ∈ s.listedShots n, y.number ≤ x.number)

/-! ## The sensor port -/

/-- LINK_START, LINK_STOP and LANE_TEST (R20, R29, R47, R49, R66, R67, R205): LINK_START is BAD_STATE in TRAINING and
ALIGNED, and in DOWN and FAILED applies the capture group's pending values, clears the four counts and starts the first
training attempt, with 5 ms for the first MARK and LINK_STATE telling TRAINING, START and the skew. LINK_STOP changes
nothing in DOWN, and otherwise leaves the link DOWN with the training request released, no readout, no retrain request
and no pattern check, with LINK_STATE telling DOWN, STOP and the skew; a running burst is cut short, its shots in flight
voided with reason ABORT and its BURST_END telling COMMAND. LANE_TEST START is BUSY while a burst runs, BAD_STATE unless
the link is ALIGNED with no retrain requested and no check running, and otherwise starts the check with cleared counts;
STOP ends it and keeps the counts. That a discarded readout too ends at LINK_STOP, so that the port is between readouts,
is the model's reading (DEDUCED, log entry 9). -/
def Obligations.LinkCommands : Prop :=
  ∀ (tag : Byte) (s : State),
    (s.taking = true → s.sp.link = .training ∨ s.sp.link = .aligned →
      exec (.linkStart ⟨tag, some ()⟩) s = answered tag .badState [] s)
    ∧ (s.taking = true → s.sp.link = .down ∨ s.sp.link = .failed → ∃ t,
      exec (.linkStart ⟨tag, some ()⟩) s = answered tag .accepted [] t
      ∧ t = { s with cfg := t.cfg, waiting := t.waiting, sp := t.sp, rtu := { s.rtu with ready := t.rtu.ready }, cp := t.cp }
      ∧ t.cfg = (s.waiting.filter (fun w => w.1.group == .capture)).foldl (fun c w => c.apply w.1 w.2) s.cfg
      ∧ t.waiting = s.waiting.filter (fun w => w.1.group != .capture)
      ∧ t.sp.link = .training ∧ t.sp.attempts = 0 ∧ t.sp.trainReq = true ∧ t.sp.markBy = some (s.time + 5000)
      ∧ t.sp.retrains = 0 ∧ t.sp.unexpected = 0 ∧ t.sp.badHeaders = 0 ∧ t.sp.lineOrder = 0
      ∧ t.cp = raiseIn .linkState (.num 0) [.word "TRAINING", .word "START", .u8 s.sp.skew] s.time s.cp)
    ∧ (s.awake = true → s.sp.link = .down → exec (.linkStop ⟨tag, some ()⟩) s = answered tag .ok [] s)
    ∧ (s.awake = true → s.sp.link ≠ .down → ∃ t, exec (.linkStop ⟨tag, some ()⟩) s = answered tag .ok [] t
      ∧ t.sp.link = .down ∧ t.sp.trainReq = false ∧ t.sp.reading = .between ∧ t.sp.retrain = none ∧ t.sp.checkOn = false
      ∧ t = { s with sp := t.sp, rtu := t.rtu, ss := t.ss, cp := t.cp }
      ∧ t.Tells .linkState (.num 0) [.word "DOWN", .word "STOP", .u8 s.sp.skew]
      ∧ (s.rtu.phase = .idle → t.ss = s.ss ∧ t.rtu = s.rtu
        ∧ t.cp = raiseIn .linkState (.num 0) [.word "DOWN", .word "STOP", .u8 s.sp.skew] s.time s.cp)
      ∧ (s.rtu.phase ≠ .idle → s.CutShort "ABORT" "COMMAND" t))
    ∧ (s.taking = true → s.rtu.phase ≠ .idle → exec (.laneTestStart ⟨tag, some ()⟩) s = answered tag .busy [] s)
    ∧ (s.taking = true → s.rtu.phase = .idle → s.sp.link ≠ .aligned ∨ s.sp.retrain ≠ none ∨ s.sp.checkOn = true →
      exec (.laneTestStart ⟨tag, some ()⟩) s = answered tag .badState [] s)
    ∧ (s.taking = true → s.rtu.phase = .idle → s.sp.link = .aligned → s.sp.retrain = none → s.sp.checkOn = false →
      exec (.laneTestStart ⟨tag, some ()⟩) s
        = answered tag .ok [] { s with sp := { s.sp with checkOn := true, checkers := List.replicate 8 {} } })
    ∧ (s.awake = true → s.sp.checkOn = false → exec (.laneTestStop ⟨tag, some ()⟩) s = answered tag .ok [] s)
    ∧ (s.awake = true → s.sp.checkOn = true → ∃ t, exec (.laneTestStop ⟨tag, some ()⟩) s = answered tag .ok [] t
      ∧ t = { s with sp := { s.sp with checkOn := false }, rtu := { s.rtu with ready := t.rtu.ready } })

/-- A training attempt fails (R30 to R32) when the alignment window closes with a lane's MARK wanting, when no MARK has
come by the attempt's limit, or when the link parameters header's checksum or content does not fit the applied capture
group. The failure is kept as the last, the attempts count one more, and the training request is released; below four it
is asserted again 100 µs later and nothing else changes, and the fourth makes the link FAILED and cuts a running burst
short, with reason LINK (R66); LINK_STATE tells FAILED, that reason and the skew (R29). In any other case the three
events change nothing. Training (R30, R31, R32): a MARK on an enabled lane that has had none opens the 12-word window if
it is the first, and is taken within the window; a second MARK on a lane, or one beyond the window, fails the attempt
likewise; outside training a MARK changes nothing. A header whose words fit the applied capture group makes the link
ALIGNED with the error counters 0, and the words that training held are dropped (R34); LINK_STATE tells ALIGNED, TRAINED
and the skew. The training request is asserted again when its moment comes. That an event whose conditions do not hold
changes nothing is the model's choice (log entry 3). -/
def Obligations.Training : Prop :=
  let fails := fun (r : FailReason) (s t : State) =>
    t.sp.lastFail = some r ∧ t.sp.attempts = s.sp.attempts + 1 ∧ t.sp.trainReq = false
    ∧ (s.sp.attempts + 1 < 4 → t = { s with sp := t.sp } ∧ t.sp.link = s.sp.link ∧ t.sp.reassertAt = some (s.time + 100))
    ∧ (4 ≤ s.sp.attempts + 1 → t = { s with sp := t.sp, rtu := t.rtu, ss := t.ss, cp := t.cp } ∧ t.sp.link = .failed
      ∧ t.Tells .linkState (.num 0) [.word "FAILED", .word r.name, .u8 s.sp.skew]
      ∧ (s.rtu.phase = .idle → t.ss = s.ss ∧ t.rtu = s.rtu
        ∧ t.cp = raiseIn .linkState (.num 0) [.word "FAILED", .word r.name, .u8 s.sp.skew] s.time s.cp)
      ∧ (s.rtu.phase ≠ .idle → s.CutShort "LINK" "LINK" t))
  (∀ (c : Instr) (r : FailReason) (s : State),
      (c = .alignmentWindowExpiry ∧ r = .skew ∧ s.sp.link = .training ∧ s.sp.trainReq = true ∧ s.sp.windowFrom ≠ none
          ∧ s.allMarked = false)
        ∨ (c = .noMarkTimeout ∧ r = .noMark ∧ s.sp.link = .training ∧ ∃ m, s.sp.markBy = some m ∧ m ≤ s.time)
        ∨ (c = .linkParametersHeader ∧ r = .headerMismatch ∧ s.paramsReady = true
          ∧ ∀ ws, s.paramWords = some ws → paramsMatch s.cfg.capture ws = false) →
      ∃ t, exec c s = .next t ∧ fails r s t)
  ∧ (∀ (lane wt : Nat) (s : State),
      (s.sp.link ≠ .training ∨ s.sp.trainReq = false ∨ s.logicalLane lane = none → exec (.laneMark lane wt) s = .next s)
      ∧ (∀ i, s.logicalLane lane = some i → s.sp.link = .training → s.sp.trainReq = true →
        let first := s.sp.windowFrom.getD wt
        (s.sp.marked.getD i false = true ∨ first + 12 < wt → ∃ t, exec (.laneMark lane wt) s = .next t
          ∧ fails .skew s t)
        ∧ (s.sp.marked.getD i false = false → wt ≤ first + 12 → ∃ t, exec (.laneMark lane wt) s = .next t
          ∧ t = { s with sp := { s.sp with
              marked := modAt i (fun _ => true) s.sp.marked, windowFrom := some first, markBy := none, skew := t.sp.skew } }
          ∧ (t.allMarked = true → t.sp.skew = wt - first) ∧ (t.allMarked = false → t.sp.skew = s.sp.skew)))
      ∧ (s.sp.link ≠ .training ∨ s.sp.trainReq = false ∨ s.sp.windowFrom = none ∨ s.allMarked = true →
          exec .alignmentWindowExpiry s = .next s)
      ∧ (s.sp.link ≠ .training ∨ (∀ m, s.sp.markBy = some m → s.time < m) → exec .noMarkTimeout s = .next s)
      ∧ (s.paramsReady = false → exec .linkParametersHeader s = .next s)
      ∧ (∀ ws, s.paramsReady = true → s.paramWords = some ws → paramsMatch s.cfg.capture ws = true → ∃ t,
          exec .linkParametersHeader s = .next t
          ∧ t = { s with sp := t.sp, rtu := { s.rtu with ready := t.rtu.ready }, cp := t.cp }
          ∧ t.sp.link = .aligned ∧ t.sp.errs = List.replicate 8 0 ∧ t.sp.attempts = 0 ∧ t.sp.retrain = none
          ∧ t.sp.trainReq = false ∧ t.sp.fifos = List.replicate 8 [] ∧ t.sp.reading = s.sp.reading
          ∧ t.cp = raiseIn .linkState (.num 0) [.word "ALIGNED", .word "TRAINED", .u8 s.sp.skew] s.time s.cp)
      ∧ (s.sp.link ≠ .training ∨ (∀ m, s.sp.reassertAt = some m → s.time < m) → exec .trainingReassert s = .next s)
      ∧ (s.sp.link = .training → (∃ m, s.sp.reassertAt = some m ∧ m ≤ s.time) →
          exec .trainingReassert s = .next { s with sp := { s.sp with
            trainReq := true, markBy := some (s.time + 5000), reassertAt := none, windowFrom := none
            marked := List.replicate 8 false, fifos := List.replicate 8 [] } }))

/-- Symbols, drift and retrain (R27, R29, R33, R40, R41, R48, R215): a symbol on a lane that no enabled lane names, or
with the link DOWN or FAILED, changes nothing; in training a data word is held on a marked lane. On an ALIGNED link,
IDLE apart, the word joins its lane's FIFO, a symbol error and a MARK as 0. With a unit in hand it waits while another
lane's turn is empty; on its turn it and the words that wait on the next lanes are taken round-robin; the eighth word
between readouts, or of a header within one, completes a header; a LINE or END word on every lane ends the unit; between
readouts other words are dropped. A symbol error or MARK adds 1 to its lane's counter, none during a check, and at the
threshold, with no request pending, asks for a retrain, also where it shows drift. In a TEST readout a word on every
lane is judged, the next words of the lane pattern being those of its recurrence; after a LINE word on every lane eight
words with a right checksum are a header, and others are judged, the LINE words as 0. A full or long empty lane is
drift: the FIFOs are emptied and the line in hand is cut off, to be taken as damaged; during a check a TEST readout goes
on, the words of a unit in hand judged; otherwise the drift and the line each count an error on every lane, a retrain is
asked for, unless one is, and reassembly waits for a LINE or END word on every lane; a word that shows the drift is
dropped. A retrain is performed between readouts when none is expected and no check runs; the link is then in TRAINING
and LINK_STATE tells RETRAIN and the skew (R29). Drift's wait, the line cut off, the word dropped, a header within a
readout, the 0 of a symbol error outside TEST, when a unit in hand is judged, the row LANE_DRIFT without drift and the
held words are the model's reading (log entries 3, 8), as is the lane that RETRAIN names: the lowest at the threshold,
and none for DRIFT (DEDUCED, log entry 22); the retrain count's 32 bits its choice (log entry 23). -/
def Obligations.SymbolsDriftAndRetrain : Prop :=
  (∀ x : BitVec 15, ∃ b : Nat → Bool,
      (∀ k < 15, b k = x.getLsbD (14 - k)) ∧ (∀ n, 15 ≤ n → b n = (b (n - 14) ^^ b (n - 15)))
      ∧ (∀ k < 16, (patternNext x).2.getLsbD (15 - k) = b (15 + k))
      ∧ (∀ k < 15, (patternNext x).1.getLsbD (14 - k) = b (16 + k)))
  ∧ ∀ (lane wt : Nat) (sym : BitVec 18) (s : State),
    let lanes := s.cfg.capture.lanes
    let fifo := fun (j : Nat) => s.sp.fifos.getD j []
    let feeds := fun (j : Nat) => s.cfg.capture.laneMap.getD j 8 = lane
    let full := ∃ j < lanes, 16 ≤ (fifo j).length
    let starved := (∃ j < lanes, fifo j ≠ []) ∧ ∃ j < lanes, fifo j = [] ∧ 12 < wt - s.sp.emptyFrom.getD j 0
    let judge := fun (c : Checker) (w : Word16) =>
      let run := if c.state.any (fun x => (patternNext x).2 == w) then c.run + 1 else 0
      if c.locked then ({ c with
        state := some (patternNext (c.state.getD 0)).1, compared := min (c.compared + 1) 4294967295
        mismatch :=
          if (patternNext (c.state.getD 0)).2 = w then c.mismatch else min (c.mismatch + 1) 16777215 } : Checker)
      else if w.setWidth 15 = 0 then { c with state := none, run := 0 }
      else { c with state := some (w.setWidth 15), run := run, locked := decide (16 ≤ run) }
    let unitJudged := fun (j : Nat) (ws : List Word16) =>
      let c := s.sp.checkers.getD j {}
      if s.sp.checkOn = true ∧ s.sp.unitOpen = true ∧ j < lanes then
        (((List.range ws.length).filter (fun k => k % lanes == j)).map (fun k => ws.getD k 0)).foldl judge (judge c 0)
      else c
    (s.lineInHand = true ↔ s.sp.unitOpen = true ∧ .stop ∉ s.sp.items ∧ ∃ r, s.sp.reading = .active r ∧ r.kind ≠ .test)
    ∧ ((∀ j < lanes, ¬ feeds j) ∨ s.sp.link = .down ∨ s.sp.link = .failed → exec (.laneSymbol lane sym wt) s = .next s)
    ∧ (∀ i < lanes, feeds i → (∀ j < i, ¬ feeds j) →
      let y := decodeSymbol (if s.cfg.capture.inverted.getD lane false then ~~~sym else sym)
      let word : LaneWord := match y with | .data w => .data w | .line => .line | .stop => .stop | _ => .data 0
      let errs := s.sp.errs.set i (min (s.sp.errs.getD i 0 + 1) 255)
      let limit := s.cfg.capture.errThreshold
      let first := fun (k : Nat) => k < lanes ∧ limit ≤ errs.getD k 0 ∧ ∀ j < k, errs.getD j 0 < limit
      let counted := fun (w : State) =>
        w = { s with sp := w.sp, rtu := { s.rtu with ready := w.rtu.ready }, cp := w.cp } ∧ w.sp.errs = errs
        ∧ (s.sp.retrain ≠ none ∨ (∀ k, ¬ first k) → w = { s with sp := w.sp } ∧ w.sp.retrain = s.sp.retrain)
        ∧ ∀ k, first k → s.sp.retrain = none → w.sp.retrain = some .errors ∧ w.Tells .retrain (.num 0)
          ([.present true, .u8 k] ++ listOf (errs.take lanes) (fun n => [.u8 n]) ++ [.word "ERRORS"])
      (y = .idle → exec (.laneSymbol lane sym wt) s = .next s)
      ∧ (∀ w, y = .data w → s.sp.link = .training → s.sp.trainReq = true → s.sp.marked.getD i false = true →
          (fifo i).length < 16 →
          exec (.laneSymbol lane sym wt) s
            = .next { s with sp := { s.sp with fifos := modAt i (· ++ [.data w]) s.sp.fifos } })
      ∧ (y ≠ .idle → s.sp.link = .aligned → ∃ t, exec (.laneSymbol lane sym wt) s = .next t
        ∧ t.sp.lastWordAt = s.time ∧ t.sp.link = .aligned
        ∧ (16 ≤ (fifo i).length ∨ starved → ∃ w u, exec (.laneDrift wt) w = .next u
          ∧ t = { u with sp := { u.sp with lastWordAt := s.time, emptyFrom := t.sp.emptyFrom } }
          ∧ ((y ≠ .mark ∧ y ≠ .error) ∨ s.sp.checkOn = true → w = s)
          ∧ (y = .mark ∨ y = .error → s.sp.checkOn = false → counted w
            ∧ w.sp = { s.sp with errs := errs, retrain := w.sp.retrain }))
        ∧ ((fifo i).length < 16 → ¬ starved →
          let fits := { s.sp with
            fifos := t.sp.fifos, turn := t.sp.turn, unitOpen := t.sp.unitOpen, assembly := t.sp.assembly
            items := t.sp.items, errs := t.sp.errs, retrain := t.sp.retrain, lastWordAt := s.time
            emptyFrom := t.sp.emptyFrom }
          let joins := s.sp.resync = false ∧ s.sp.items = [] ∧ s.sp.fifos.length = 8
            ∧ ∀ r, s.sp.reading = .active r → r.kind ≠ .test
          ((y ≠ .mark ∧ y ≠ .error) ∨ s.sp.checkOn = true →
            t = { s with sp := t.sp } ∧ t.sp.errs = s.sp.errs ∧ t.sp.retrain = s.sp.retrain)
          ∧ (y = .mark ∨ y = .error → s.sp.checkOn = false → counted t)
          ∧ (joins → s.sp.unitOpen = true → i ≠ s.sp.turn → fifo s.sp.turn = [] →
            t.sp = { fits with
              fifos := modAt i (· ++ [word]) s.sp.fifos, turn := s.sp.turn, unitOpen := true, assembly := s.sp.assembly
              items := [] })
          ∧ (joins → s.sp.unitOpen = true → i = s.sp.turn → fifo i = [] →
            (∀ (m : Nat) (v : Nat → Word16), word = .data (v 0) → m < lanes →
              (∀ k, 1 ≤ k → k ≤ m → (fifo ((i + k) % lanes)).head? = some (.data (v k))) →
              fifo ((i + m + 1) % lanes) = [] →
              let ws := s.sp.assembly ++ (List.range (m + 1)).map v
              8 ≤ s.sp.assembly.length ∨ ws.length < 8 ∨ (s.sp.reading ≠ .between ∧ isHeader (ws.take 8) = false) →
              t.sp = { fits with turn := (i + m + 1) % lanes, unitOpen := true, assembly := ws, items := [] }
              ∧ ∀ j, t.sp.fifos.getD j []
                = if ∃ k < m, j = (i + k + 1) % lanes then (fifo j).drop 1 else fifo j)
            ∧ (∀ w, word = .data w → s.sp.assembly.length = 7 →
              let ws := s.sp.assembly ++ [w]
              s.sp.reading = .between
                ∨ (∃ r, s.sp.reading = .active r) ∧ isHeader ws = true ∧ lineIdentified ws = false →
              t.sp = { fits with
                fifos := s.sp.fifos, turn := (i + 1) % lanes, unitOpen := false, assembly := [], items := [.unit ws] }))
          ∧ (joins → s.sp.turn < lanes → fifo i = [] → (∀ j < lanes, j ≠ i → fifo j = [word]) →
            let done := if s.sp.unitOpen then [.unit s.sp.assembly] else []
            (word = .line → t.sp = { fits with turn := 0, unitOpen := true, assembly := [], items := done }
              ∧ ∀ j, t.sp.fifos.getD j [] = if j < lanes then [] else fifo j)
            ∧ (word = .stop → s.sp.unitOpen = true ∨ s.sp.reading ≠ .between →
              t.sp = { fits with turn := 0, unitOpen := false, items := done ++ [.stop] }
              ∧ ∀ j, t.sp.fifos.getD j [] = if j < lanes then [] else fifo j))
          ∧ (joins → s.sp.unitOpen = false → s.sp.reading = .between → word ≠ .line → fifo i = [] →
            (∀ j < lanes, (fifo j).head? = none ∨ (fifo j).head? = some .line) →
            t.sp = { fits with
              fifos := s.sp.fifos, turn := s.sp.turn, unitOpen := false, assembly := s.sp.assembly, items := [] })
          ∧ (∀ (r : Readout) (v : Nat → LaneWord), s.sp.reading = .active r → r.kind = .test → s.sp.resync = false →
            s.sp.items = [] → s.sp.fifos.length = 8 → s.sp.checkers.length = 8 → lanes ≤ 8 →
            fifo i = [] → v i = word → (∀ j < lanes, j ≠ i → fifo j = [v j]) →
            let value : Nat → Word16 := fun j => match v j with | .data w => w | _ => 0
            let isData := fun (j : Nat) => v j ≠ .stop ∧ v j ≠ .line
            let grown := s.sp.assembly ++ (List.range lanes).map value
            let checked := fun (f : Nat → Checker) => ∀ j, t.sp.checkers.getD j {} = f j
            t.sp = { fits with checkers := t.sp.checkers }
            ∧ (∀ j, t.sp.fifos.getD j [] = if j < lanes then [] else fifo j)
            ∧ ((∀ j < lanes, v j = .stop) → t.sp.items = [.stop] ∧ t.sp.unitOpen = false ∧ t.sp.assembly = []
              ∧ checked (unitJudged · s.sp.assembly))
            ∧ ((∀ j < lanes, v j = .line) → t.sp.items = [] ∧ t.sp.unitOpen = true ∧ t.sp.assembly = []
              ∧ checked (unitJudged · s.sp.assembly))
            ∧ (s.sp.unitOpen = true → (∀ j < lanes, isData j) →
              (grown.length < 8 → t.sp.items = [] ∧ t.sp.unitOpen = true ∧ t.sp.assembly = grown
                ∧ checked (s.sp.checkers.getD · {}))
              ∧ (8 ≤ grown.length → isHeader grown = true → t.sp.items = [.unit grown] ∧ t.sp.unitOpen = false
                ∧ t.sp.assembly = [] ∧ checked (s.sp.checkers.getD · {}))
              ∧ (8 ≤ grown.length → isHeader grown = false → t.sp.items = [] ∧ t.sp.unitOpen = false
                ∧ t.sp.assembly = [] ∧ checked (unitJudged · grown)))
            ∧ ((∃ j < lanes, v j ≠ .stop) → (∃ j < lanes, v j ≠ .line) →
              (s.sp.unitOpen = false ∨ ∃ j < lanes, ¬ isData j) → t.sp.items = [] ∧ t.sp.unitOpen = false
              ∧ t.sp.assembly = [] ∧ checked (fun j =>
                if s.sp.checkOn = true ∧ j < lanes then judge (unitJudged j s.sp.assembly) (value j)
                else s.sp.checkers.getD j {}))))))
    ∧ (s.sp.link ≠ .aligned ∨ (¬ full ∧ ¬ starved) → exec (.laneDrift wt) s = .next s)
    ∧ (s.sp.link = .aligned → full ∨ starved →
      let items := if s.lineInHand then s.sp.items ++ [.cut s.sp.assembly] else s.sp.items
      let bump := fun (l : List Nat) => (l.take lanes).map (fun n => min (n + 1) 255) ++ l.drop lanes
      (s.sp.checkOn = true → ∃ t, exec (.laneDrift wt) s = .next t
        ∧ t = { s with sp := { s.sp with
            fifos := List.replicate 8 [], unitOpen := false, assembly := [], turn := 0, items := items
            checkers := t.sp.checkers, resync := !s.testing } }
        ∧ (s.testing = false → t.sp.checkers = s.sp.checkers)
        ∧ (s.testing = true → t.sp.checkers.length = s.sp.checkers.length
          ∧ ∀ j < s.sp.checkers.length, t.sp.checkers.getD j {} = unitJudged j s.sp.assembly))
      ∧ (s.sp.checkOn = false → ∃ t, exec (.laneDrift wt) s = .next t
        ∧ t = { s with sp := t.sp, rtu := { s.rtu with ready := t.rtu.ready }, cp := t.cp }
        ∧ t.sp = { s.sp with
            fifos := List.replicate 8 [], unitOpen := false, assembly := [], turn := 0, items := items, resync := true
            retrain := some (s.sp.retrain.getD .drift)
            errs := if s.lineInHand then bump (bump s.sp.errs) else bump s.sp.errs }
        ∧ (s.sp.retrain.isSome = true → t = { s with sp := t.sp })
        ∧ (s.sp.retrain = none → t.Tells .retrain (.num 0)
          ([.present false] ++ listOf (t.sp.errs.take lanes) (fun n => [.u8 n]) ++ [.word "DRIFT"]))))
    ∧ (s.sp.link ≠ .aligned ∨ s.sp.retrain = none ∨ s.sp.reading ≠ .between ∨ s.expectsReadout = true ∨ s.sp.checkOn = true →
      exec .retrainPerformed s = .next s)
    ∧ (s.sp.link = .aligned → s.sp.retrain ≠ none → s.sp.reading = .between → s.expectsReadout = false → s.sp.checkOn = false →
      ∃ t, exec .retrainPerformed s = .next t
        ∧ t = { s with sp := t.sp, rtu := { s.rtu with ready := t.rtu.ready }, cp := t.cp }
        ∧ t.sp.link = .training ∧ t.sp.retrain = none ∧ t.sp.retrains = min (s.sp.retrains + 1) 4294967295
        ∧ t.sp.trainReq = true ∧ t.sp.attempts = 0
        ∧ t.cp = raiseIn .linkState (.num 0) [.word "TRAINING", .word "RETRAIN", .u8 s.sp.skew] s.time s.cp)

/-- Readout headers (R34, R35, R36, R37, R20, R64, R75, R94): with no header ready the event changes nothing. A header
that arrives within a readout first closes it as READOUT_END does, and is then judged as one between readouts; the close
of a TEST readout, or of a WATCH readout without PHASE lines, changes nothing but that. Between readouts, eight words
with a wrong checksum count one bad header and one error on every lane, and open a discarded readout; so do words of a
kind that is none of the three, without the errors. A SHOT header that is not expected, or any SHOT or WATCH header
during a pattern check, or a TEST header outside one, counts as unexpected and opens a discarded readout. A SHOT header
for the expected shot that fits the applied capture group and the shot's record opens its readout: the shot is LANDING
with the sequence, an EXPOSING burst is READING, the readout timeout stops and the accumulators are clear. One that does
not fit opens a discarded readout and the shot is voided with HEADER_MISMATCH: its blocks join the free list's tail, its
entry is FREE, and the burst, which counts it voided, waits for the next frame, or in STOPPING ends and returns the
reservation. A WATCH header that fits opens a WATCH readout, and one that does not counts as a bad header and opens a
discarded one. A TEST header during a pattern check opens a TEST readout with every checker unlocked and its counts
kept. A SHOT or WATCH readout is in the focus engine's hand with the counter, the lens state and the settings of that
moment, and the watcher at LOW rate samples one WATCH readout in eight. That the event changes nothing with no header
ready is the model's choice (log entry 3); what counts as a ready header, a sequence word above 255 taken modulo 256,
and a kind that is none of the three as a bad header are its reading (log entry 8). -/
def Obligations.ReadoutHeaders : Prop :=
  ∀ s : State,
    (s.headerReady = none → exec .readoutHeader s = .next s)
    ∧ (∀ ws r, s.headerReady = some ws → s.sp.reading = .active r →
      exec .readoutHeader s = exec .readoutHeader (closeReadout r s)
      ∧ (closeReadout r s).sp.reading = .between ∧ (closeReadout r s).headerReady = some ws
      ∧ (r.kind = .test ∨ (r.kind = .watch ∧ r.np = 0) →
          closeReadout r s = { s with sp := { s.sp with reading := .between } }))
    ∧ ∀ ws, s.headerReady = some ws → s.sp.reading = .between → ∃ t, exec .readoutHeader s = .next t ∧
      let w := fun i => (ws.getD i 0).toNat
      let c := s.cfg.capture
      let bumped := (s.sp.errs.take c.lanes).map (fun n => min (n + 1) 255) ++ s.sp.errs.drop c.lanes
      let unexpected := t = { s with sp := t.sp } ∧ t.sp.reading = .discarded
        ∧ t.sp.unexpected = min (s.sp.unexpected + 1) 4294967295 ∧ t.sp.badHeaders = s.sp.badHeaders
      let bad := t.sp.reading = .discarded ∧ t.sp.badHeaders = min (s.sp.badHeaders + 1) 4294967295
        ∧ t.sp.unexpected = s.sp.unexpected
      let opens := fun (k : ReadoutKind) => t.sp.reading = .active
        { kind := k, sequence := w 1 % 256, nb := w 2, np := w 3, nh := w 4, start := s.time, blackOpen := w 2 != 0
          blackSeen := [], phaseSeen := [], nextImage := 0
          means := ⟨c.fixedBlack, c.fixedBlack, c.fixedBlack, c.fixedBlack⟩ }
      let inHand := fun (k : ReadoutKind) (skipped sampled : Bool) => t.fe.inHand = some
        { kind := k, start := s.time, counter := s.lp.counter, referenced := s.lp.referenced, lens := s.lp.phase
          moving := (s.lp.latest.map (·.moving)).getD false, cfg := s.cfg.focus, coef := s.fe.coef, rows := []
          skipped := skipped, sampled := sampled, complete := false }
      (isHeader ws = false → bad
        ∧ t = { s with sp := t.sp, rtu := { s.rtu with ready := t.rtu.ready }, cp := t.cp }
        ∧ (s.sp.link = .aligned → s.sp.checkOn = false → t.sp.errs = bumped
          ∧ ((s.sp.retrain.isSome = true ∨ ∀ i < c.lanes, bumped.getD i 0 < c.errThreshold) →
              t.sp.retrain = s.sp.retrain ∧ t = { s with sp := t.sp })
          ∧ (s.sp.retrain = none → (∃ i < c.lanes, c.errThreshold ≤ bumped.getD i 0) → t.sp.retrain = some .errors))
        ∧ (s.sp.checkOn = true → t.sp.errs = s.sp.errs ∧ t = { s with sp := t.sp }))
      ∧ (isHeader ws = true →
        (w 0 ≠ 1 → w 0 ≠ 2 → w 0 ≠ 3 → bad ∧ t = { s with sp := t.sp } ∧ t.sp.errs = s.sp.errs)
        ∧ (w 0 = 1 → s.expectsReadout = false ∨ s.sp.checkOn = true → unexpected)
        ∧ (w 0 = 2 → s.sp.checkOn = true → unexpected)
        ∧ (w 0 = 3 → s.sp.checkOn = false → unexpected)
        ∧ (w 0 = 3 → s.sp.checkOn = true → t = { s with sp := t.sp } ∧ opens .test
          ∧ (s.sp.items = [.unit ws] → 1 ≤ c.lanes → (∀ i < c.lanes, s.sp.fifos.getD i [] = []) →
              t.sp.checkers = s.sp.checkers.map (fun x => { x with state := none, run := 0, locked := false })))
        ∧ (w 0 = 2 → s.sp.checkOn = false →
          let fits := w 2 ≤ 16 ∧ w 3 ≤ 11 ∧ w 4 ≤ c.height ∧ w 5 = c.width ∧ w 6 = c.depth
          (¬ fits → bad ∧ t = { s with sp := t.sp } ∧ t.sp.errs = s.sp.errs)
          ∧ (fits → opens .watch ∧ t = { s with sp := t.sp, fe := t.fe }
            ∧ (s.watching = false → inHand .watch false false ∧ t.fe.watcher = s.fe.watcher)
            ∧ (s.watching = true → s.fe.watcher.full = true → inHand .watch false true ∧ t.fe.watcher = s.fe.watcher)
            ∧ (s.watching = true → s.fe.watcher.full = false →
                t.fe.watcher = { s.fe.watcher with counter := (s.fe.watcher.counter + 1) % 8 }
                ∧ (s.fe.watcher.counter = 0 → inHand .watch false true)
                ∧ (s.fe.watcher.counter ≠ 0 → inHand .watch true false))))
        ∧ ∀ e, w 0 = 1 → s.ss.table.find? isTriggered = some e → s.sp.checkOn = false →
          let fits := w 5 = c.width ∧ w 5 = e.geom.width ∧ w 6 = c.depth ∧ w 6 = e.geom.depth ∧ w 4 = c.height
            ∧ w 4 = e.geom.height ∧ w 2 ≤ 16 ∧ w 3 ≤ 11
          let freed := updateFirst isTriggered (fun _ => ({} : Shot)) s.ss.table
          (fits → opens .shot ∧ t.sp.accums = {} ∧ inHand .shot false false ∧ t.fe.watcher = s.fe.watcher
            ∧ t = { s with
                ss := { s.ss with
                  table := updateFirst isTriggered (fun x => { x with state := .landing, sequence := w 1 % 256 }) s.ss.table }
                sp := t.sp, fe := t.fe
                rtu := { s.rtu with
                  readoutAt := none, phase := if s.rtu.phase = .exposing then .reading else s.rtu.phase } })
          ∧ (¬ fits → t.sp.reading = .discarded
            ∧ ((∃ x ∈ t.cp.notices, x.key = (.shotVoid, .num e.number) ∧ x.values = [.word "HEADER_MISMATCH"])
              ∨ t.cp.lost = true)
            ∧ (s.rtu.phase = .exposing ∨ s.rtu.phase = .reading →
                t.ss.free = s.ss.free ++ e.raw ∧ t.ss.table = freed ∧ t.rtu.phase = .waiting
                ∧ t.rtu.burst = s.rtu.burst.map (fun b => { b with voided := b.voided + 1 }))
            ∧ (s.rtu.phase = .stopping →
                t.ss.free = s.ss.free ++ e.raw ++ ((s.ss.table.find? isClaimed).map (·.raw)).getD []
                ∧ t.ss.table = updateFirst isClaimed (fun _ => {}) freed ∧ t.ss.request = none ∧ t.rtu.phase = .idle
                ∧ t.rtu.burst = s.rtu.burst.map (fun b => { b with voided := b.voided + 1 }))))

/-- Lines and the close of a readout (R33, R34, R37 to R46): with no line, no END words or no silence the events change
nothing. A line of a discarded or a TEST readout is dropped. An unidentified line of a SHOT or WATCH readout closes the
BLACK section; it or a damaged one adds an error on every lane, but for a line that drift cut off. A BLACK line with the
section closed, an index of nb or more or one already seen, a PHASE line with a row above 10, already received or beyond
np, and an IMAGE line of a SHOT readout below the next index or not below H add a line-order error and are dropped. A
BLACK line in its order is noted, and a good one of a SHOT readout is accumulated. A PHASE line in its order closes the
BLACK section, is noted, and is handed to the focus engine, a damaged one without a payload. An IMAGE line of a SHOT
readout in its order closes the BLACK section; the lines missing before it are substituted in order, then it is written
at its place if good and substituted if damaged, and each line substituted adds one to the shot's damaged count. A line
is substituted by the bytes of the line two above it, and the first two pixel by pixel by the black of each pixel's
plane, reduced to the depth. Accumulating adds each pixel, normalized to 16 bits, to its plane's sum and count; a mean
is rounded half up, or the fixed black at a count of 0. An IMAGE line of a WATCH readout is dropped. END words and
silence close a readout, and a discarded readout becomes none; a WATCH readout's close hands the rows of its PHASE lines
that never came, in order and as damaged (R46). A silence first takes the line in hand as a line, eight words in hand
that are a header as a header, and words in hand of a TEST readout as words of its pattern. That the events change
nothing with nothing ready is the model's choice (log entry 3); what counts as ready, as a header in hand and as a
pattern's words, and that silence ends nothing between readouts, its reading and choice (log entry 8). -/
def Obligations.ReadoutLines : Prop :=
  (∀ (c : CaptureCfg) (index stream fixed y : Nat) (a : Accums) (k : Planes),
    let quad : List Plane := match c.cfa with
      | .rggb => [.r, .gr, .gb, .b] | .grbg => [.gr, .r, .b, .gb] | .gbrg => [.gb, .b, .r, .gr] | .bggr => [.b, .gb, .gr, .r]
    let plane := fun (column row : Nat) => quad.getD (column % 2 + 2 * (row % 2)) .r
    let added := fun (p : Plane) (u : Accum) => ({
      sum := u.sum + ((List.range c.width).map (fun x =>
        if plane x index = p then stream / 2 ^ (x * c.depth) % 2 ^ c.depth * 2 ^ (16 - c.depth) else 0)).sum
      count := u.count + (List.range c.width).countP (fun x => plane x index = p) } : Accum)
    let mean := fun (u : Accum) => if u.count = 0 then fixed else (2 * u.sum + u.count) / (2 * u.count)
    let black := fun (p : Plane) => match p with | .r => k.r | .gr => k.gr | .gb => k.gb | .b => k.b
    let number := (blackLine c k y).foldr (fun b n => b.toNat + 256 * n) 0
    accumulate c index stream a = ⟨added .r a.r, added .gr a.gr, added .gb a.gb, added .b a.b⟩
    ∧ meansOf fixed a = ⟨mean a.r, mean a.gr, mean a.gb, mean a.b⟩
    ∧ (blackLine c k y).length = c.width * c.depth / 8
    ∧ (c.depth ≤ 16 → c.width * c.depth % 8 = 0 → (∀ p, black p ≤ 65535) → ∀ x < c.width,
      number / 2 ^ (x * c.depth) % 2 ^ c.depth = black (plane x y) / 2 ^ (16 - c.depth)))
  ∧ ∀ s : State,
    (s.lineReady = none → exec .line s = .next s)
    ∧ (∀ l, s.lineReady = some l → (∀ r, s.sp.reading ≠ .active r) → ∃ t, exec .line s = .next t
      ∧ t = { s with sp := t.sp } ∧ t.sp.reading = s.sp.reading)
    ∧ (∀ l r, s.lineReady = some l → s.sp.reading = .active r → r.kind = .test → ∃ t, exec .line s = .next t
      ∧ t = { s with sp := t.sp } ∧ t.sp.reading = .active r)
    ∧ (∀ cut ws r, s.lineReady = some (cut, ws) → s.sp.reading = .active r → r.kind ≠ .test → ∃ t, exec .line s = .next t ∧
      let c := s.cfg.capture
      let kind := (ws.getD 0 0).toNat % 256
      let i := (ws.getD 1 0).toNat
      let payload := (ws.drop 2).take (s.payloadWords kind)
      let good := s.lineGood ws = true ∧ cut = false
      let closed := if r.blackOpen then { r with blackOpen := false, means := meansOf c.fixedBlack s.sp.accums } else r
      let apart := t = { s with sp := t.sp, rtu := { s.rtu with ready := t.rtu.ready }, cp := t.cp }
      let outOfOrder := t.sp.lineOrder = min (s.sp.lineOrder + 1) 4294967295
      (if (lineIdentified ws = false ∨ ¬ good) ∧ cut = false ∧ s.sp.link = .aligned ∧ s.sp.checkOn = false then
          t.sp.errs = (s.sp.errs.take c.lanes).map (fun n => min (n + 1) 255) ++ s.sp.errs.drop c.lanes
        else t.sp.errs = s.sp.errs)
      ∧ (lineIdentified ws = false → apart ∧ t.sp.reading = .active closed ∧ t.sp.lineOrder = s.sp.lineOrder)
      ∧ (lineIdentified ws = true → kind = 1 → apart
        ∧ (r.blackOpen = false ∨ r.nb ≤ i ∨ i ∈ r.blackSeen →
            outOfOrder ∧ t.sp.reading = .active r ∧ t.sp.accums = s.sp.accums)
        ∧ (r.blackOpen = true → i < r.nb → i ∉ r.blackSeen →
            t.sp.reading = .active { r with blackSeen := r.blackSeen ++ [i] } ∧ t.sp.lineOrder = s.sp.lineOrder
            ∧ (good → r.kind = .shot → t.sp.accums = accumulate c i (streamNat payload) s.sp.accums)
            ∧ (¬ good ∨ r.kind = .watch → t.sp.accums = s.sp.accums)))
      ∧ (lineIdentified ws = true → kind = 2 →
        (10 < i ∨ i ∈ r.phaseSeen ∨ r.np ≤ r.phaseSeen.length → apart ∧ outOfOrder ∧ t.sp.reading = .active closed)
        ∧ (i ≤ 10 → i ∉ r.phaseSeen → r.phaseSeen.length < r.np →
            let noted := Reading.active { closed with phaseSeen := r.phaseSeen ++ [i] }
            t.sp.reading = noted ∧ t.sp.lineOrder = s.sp.lineOrder
            ∧ (good → t = { handRow i (some payload) { s with sp := { s.sp with reading := noted } } with sp := t.sp })
            ∧ (¬ good →
              let u := if cut then s else allError s
              t = { handRow i none { u with sp := { u.sp with reading := noted } } with sp := t.sp })))
      ∧ (lineIdentified ws = true → kind = 3 → r.kind = .watch → apart ∧ t.sp.reading = .active closed)
      ∧ (lineIdentified ws = true → kind = 3 → r.kind = .shot →
        (i < r.nextImage ∨ c.height ≤ i → apart ∧ outOfOrder ∧ t.sp.reading = .active closed)
        ∧ (r.nextImage ≤ i → i < c.height →
          let n := c.width * c.depth / 8
          let fill := fun (m : List Host.Cell) (y : Nat) => writeExtent s.landingRaw
            (if 2 ≤ y then readRange m s.landingRaw ((y - 2) * n) n else blackLine c closed.means y) (y * n) m
          let upTo := ((List.range i).drop r.nextImage).foldl fill s.mem
          t.sp.reading = .active { closed with nextImage := i + 1 } ∧ t.sp.lineOrder = s.sp.lineOrder
          ∧ t = { s with
              sp := t.sp, mem := t.mem, ss := { s.ss with table := t.ss.table }, cp := t.cp
              rtu := { s.rtu with ready := t.rtu.ready } }
          ∧ (good → t.mem = writeExtent s.landingRaw (wordBytes payload) (i * n) upTo ∧ t.cp = s.cp
            ∧ t.ss.table = updateFirst isLanding (fun x => { x with damaged := x.damaged + (i - r.nextImage) }) s.ss.table)
          ∧ (¬ good → t.mem = fill upTo i
            ∧ t.ss.table = updateFirst isLanding (fun x => { x with damaged := x.damaged + (i - r.nextImage + 1) })
                s.ss.table))))
    ∧ (s.stopReady = false → exec .readoutEnd s = .next s)
    ∧ (s.stopReady = true → ∃ t, exec .readoutEnd s = .next t ∧ t.sp.reading = .between
      ∧ (s.sp.reading = .discarded → t = { s with sp := t.sp })
      ∧ ∀ r, s.sp.reading = .active r → t = { closeReadout r s with sp := t.sp })
    ∧ (∀ r : Readout, r.kind = .watch →
      let owed := (List.range 11).filter (fun k => !r.phaseSeen.contains k)
      let s0 := { s with sp := { s.sp with reading := .between } }
      closeReadout r s = if r.np = 0 then s0 else owed.foldl (fun u k => handRow k none u) s0)
    ∧ (s.silent = false → exec .readoutSilence s = .next s)
    ∧ (s.silent = true →
      let s0 := { s with sp := { s.sp with unitOpen := false, assembly := [], turn := 0 } }
      let inHand := s.sp.assembly
      (s.sp.reading = .discarded → exec .readoutSilence s = .next { s0 with sp := { s0.sp with reading := .between } })
      ∧ ∀ r, s.sp.reading = .active r →
        (s.sp.unitOpen = false → exec .readoutSilence s = .next (closeReadout r s0))
        ∧ (s.sp.unitOpen = true → r.kind = .test → ∃ t, exec .readoutSilence s = .next t
          ∧ t = { s0 with sp := { s0.sp with reading := .between, checkers := t.sp.checkers } }
          ∧ t.sp.checkers.length = s.sp.checkers.length
          ∧ ∀ j < s.sp.checkers.length, t.sp.checkers.getD j {} =
            let c := s.sp.checkers.getD j {}
            let own := (List.range inHand.length).filter (fun k => k % s.cfg.capture.lanes == j)
            if s.sp.checkOn = true ∧ j < s.cfg.capture.lanes then
              (own.map (fun k => inHand.getD k 0)).foldl Checker.judge (c.judge 0)
            else c)
        ∧ (s.sp.unitOpen = true → r.kind ≠ .test →
          (isHeader inHand = true → exec .readoutSilence s = .next (judgeHeader inHand (closeReadout r s0)))
          ∧ (isHeader inHand = false → ∃ r2, (judgeLine false r inHand s0).sp.reading = .active r2
            ∧ exec .readoutSilence s = .next (closeReadout r2 (judgeLine false r inHand s0)))))

/-- A shot lands (R10, R37, R121, R143, R164, R43, R45, R46, R64, R205): when END words, or a silence with no line in
hand, close the readout of a LANDING shot, the IMAGE lines still owed are substituted, the rows not handed are handed as
damaged where the header gave PHASE lines, and the shot is the one that landed last. It is HELD with the measured black
levels, the standing caption, the default recipe number, URGENT just if a mark was pending, and the duties of R10's
table under the plans in force, in its order, all PENDING and of the shot's class; a duty for card A may be one for card
B where the overflow move has happened. A RAW duty's job joins its slot's queue, and no PROOF job before the proof is
done; the sends join the transfer queue in its order, or are deferred behind 256 entries; the DEVELOP duty joins the
develop queue, unless the engine is HALTED. With no duty, KEEP, pin or recording memo it is freed at once instead: its
entry is FREE and its blocks join the free list's tail. The plans group's pending values and the recipe selection are
applied by this landing. The burst counts the frame landed and waits for the next one, or in STOPPING ends, with a
reservation returned behind the shot's blocks. What stands where a silence closes a readout with a line in hand is
READOUT_SILENCE's statement. -/
def Obligations.ShotLands : Prop :=
  ∀ (c : Instr) (r : Readout) (e : Shot) (s : State),
    (c = .readoutEnd ∧ s.stopReady = true) ∨ (c = .readoutSilence ∧ s.silent = true ∧ s.sp.unitOpen = false) →
    s.sp.reading = .active r → r.kind = .shot → s.ss.table.find? isLanding = some e →
    (∀ x ∈ s.ss.table, x.state = .held → x.number ≠ e.number) → ∃ t, exec c s = .next t ∧
      let cap := s.cfg.capture
      let black := if r.blackOpen then meansOf cap.fixedBlack s.sp.accums else r.means
      let n := cap.width * cap.depth / 8
      let owed := (List.range cap.height).drop r.nextImage
      let s0 := if c = .readoutEnd then s else { s with sp := { s.sp with unitOpen := false, assembly := [], turn := 0 } }
      let filled := substituteRange black r.nextImage cap.height { s0 with sp := { s0.sp with reading := .between } }
      let missing := (List.range 11).filter (fun k => !r.phaseSeen.contains k)
      let urgent := e.markPending
      let moved := s.cw.overflow && !s.waiting.any (fun w => w.1 == .cardPlan)
      let proofs := fun (l : List DutyKey) => if t.cfg.plans.proofFiles then l else []
      let cards : List DutyKey := match t.cfg.plans.card with
        | .off => []
        | .singleA => .card .raw .a :: proofs [.card .proof .a]
        | .mirror => .card .raw .a :: .card .raw .b :: proofs [.card .proof .a, .card .proof .b]
        | .overflow =>
          if moved then .card .raw .b :: proofs [.card .proof .b] else .card .raw .a :: proofs [.card .proof .a]
        | .split => [.card .raw .a, .card .proof .b]
      let sends : List FileKind := match t.cfg.plans.tether with
        | .none => []
        | .urgentProof => if urgent then [.proof] else []
        | .allProof => [.proof]
        | .urgentRaw => if urgent then [.raw] else []
        | .urgentBoth => if urgent then [.raw, .proof] else []
      let built := cards ++ sends.map DutyKey.send
      let develops := .card .proof .a ∈ built ∨ .card .proof .b ∈ built ∨ .send .proof ∈ built
        ∨ t.cfg.plans.develop = .all ∨ (t.cfg.plans.develop = .urgentOnly ∧ urgent = true)
      let plan := built ++ if develops then [.develop] else []
      let records := s.mi.phase = .recording ∧ ∃ m, s.mi.current = some m ∧ m.shot = e.number
      let returned := if s.rtu.phase = .stopping then s.ss.table.find? isClaimed else none
      t.mem = owed.foldl (fun m y => writeExtent e.raw
          (if 2 ≤ y then readRange m e.raw ((y - 2) * n) n else blackLine cap black y) (y * n) m) s.mem
      ∧ t.fe = (if r.np = 0 then s.fe else (missing.foldl (fun u k => handRow k none u) filled).fe)
      ∧ t.sp.reading = .between ∧ t.ss.lastLanded = some e.number ∧ t.mi.latest = some e.number
      ∧ t.cfg = (s.waiting.filter (fun w => w.1.group == .plans)).foldl (fun c w => c.apply w.1 w.2) s.cfg
      ∧ t.waiting = s.waiting.filter (fun w => w.1.group != .plans)
      ∧ t.de.recipe = s.de.selected.getD s.de.recipe ∧ t.de.selected = none
      ∧ t.rtu.burst = s.rtu.burst.map (fun b => { b with landed := b.landed + 1 })
      ∧ (s.rtu.phase = .exposing ∨ s.rtu.phase = .reading → t.rtu.phase = .waiting ∧ t.rtu.readyFrom = s.time)
      ∧ (s.rtu.phase = .stopping → t.rtu.phase = .idle ∧ t.ss.request = none
        ∧ ∀ b, t.rtu.burst = some b → t.TellsEnd b (match b.ending with | some r => r.name | none => "COUNT"))
      ∧ (plan = [] → e.keep = false → e.pins = [] → ¬ records → e.proof = none → e.memo = none →
        t.held e.number = none ∧ t.ss.free = s.ss.free ++ e.raw ++ ((returned.map (·.raw)).getD [])
        ∧ t.ss.table = updateFirst isLanding (fun _ => {})
            (if returned.isSome then updateFirst isClaimed (fun _ => {}) s.ss.table else s.ss.table))
      ∧ (plan ≠ [] ∨ e.keep = true ∨ e.pins ≠ [] ∨ records → (t.held e.number).isSome = true)
      ∧ (t.cw.overflow = moved → moved = false ∨ t.cfg.plans.card = .overflow →
        (∀ sl, ∀ j ∈ (s.slot sl).queue, j.shot ≠ e.number) → ∀ sl, (t.slot sl).queue
          = (s.slot sl).queue ++ if .card .raw sl ∈ cards then [⟨e.number, .raw⟩] else [])
      ∧ ((∀ y ∈ s.tp.queue, y.shot ≠ e.number) → s.cp.power = .active →
        (s.tp.queue.length + sends.length ≤ 256 → t.tp.deferred = s.tp.deferred
          ∧ t.tp.queue.Perm (s.tp.queue ++ sends.zipIdx.map (fun p => ⟨e.number, p.1, urgent, s.tp.nextOrder + p.2⟩)))
        ∧ (256 ≤ s.tp.queue.length → t.tp.queue = s.tp.queue ∧ t.tp.deferred = s.tp.deferred + sends.length)
        ∧ (sends ≠ [] → s.tp.queue.length < 256 → t.tp.queue.Pairwise (fun x y =>
            (x.urgent = true ∧ y.urgent = false) ∨ (x.urgent = y.urgent ∧ x.order ≤ y.order))))
      ∧ ((∀ y ∈ s.de.queue, y.shot ≠ e.number) → s.de.phase ≠ .halted →
        if develops then t.de.queue.Perm (s.de.queue ++ [⟨e.number, e.serial, urgent⟩])
          ∧ t.de.queue.Pairwise (fun x y =>
            (x.urgent = true ∧ y.urgent = false) ∨ (x.urgent = y.urgent ∧ x.serial ≤ y.serial))
        else t.de.queue = s.de.queue)
      ∧ ∀ u, t.held e.number = some u →
          u.black = black ∧ u.caption = t.cfg.plans.standing ∧ u.recipe = t.de.recipe
          ∧ u.urgent = urgent ∧ u.markPending = false ∧ u.raw = e.raw ∧ u.damaged = e.damaged + owed.length
          ∧ u.duties.length = plan.length
          ∧ ∀ (i : Nat) (d : Duty), u.duties[i]? = some d → d.state = .pending ∧ d.urgent = urgent
            ∧ ∃ k : DutyKey, plan[i]? = some k
              ∧ (d.key = k ∨ (t.cw.overflow = true ∧ ∃ f, k = .card f .a ∧ d.key = .card f .b))

/-! ## The release and timing unit -/

/-- RELEASE, RELEASE_END and BURST_ABORT (R7, R20, R52, R54, R55, R57, R58, R64 to R67): a count other than 1 to 999 or
UNTIL_END is BAD_VALUE; while a burst runs the release is BUSY and counted as ignored; with the link DOWN or FAILED the
burst ends at once with no frame and reason LINK; otherwise the unit is WAITING for frame 0 of a burst of the host's
with the next burst number, its focus wait begun, its start at the time base and its grid laid: frame 0 at that time
plus L or, where a standing grid is held, at the grid's first instant from there on, instants before its anchor included
(DESIGN CHOICE, log entry 10); and asks the store for the reservation. A pending sync mode or P that the start applies
acts on the sync state first (R70). RELEASE_END is BAD_STATE unless a burst of the host's runs; in WAITING it ends the
burst with BURST_END's counts and reason OWNER_END, in EXPOSING and READING it leaves the burst STOPPING; in these the
frame due's request is withdrawn and its reservation returned, the blocks at the free list's tail; in STOPPING it
changes nothing. BURST_ABORT is BAD_STATE in IDLE and otherwise cuts the burst short: its shots in flight are voided
with reason ABORT, BURST_END tells COMMAND, and a SHOT readout still arriving becomes an unexpected, discarded one; that
is the model's reading (DEDUCED, log entry 9). -/
def Obligations.ReleaseCommands : Prop :=
  ∀ (tag : Byte) (x : OrNamed Nat) (s : State),
    (s.taking = true →
      (∀ n, n = 0 ∨ 999 < n → exec (.release ⟨tag, some (.value n)⟩) s = answered tag .badValue [] s)
      ∧ ∀ count, (x = .named ∧ count = none) ∨ (∃ n, x = .value n ∧ 1 ≤ n ∧ n ≤ 999 ∧ count = some n) →
        (s.rtu.phase ≠ .idle → exec (.release ⟨tag, some x⟩) s = answered tag .busy []
          { s with rtu := { s.rtu with burst := s.rtu.burst.map (fun b => { b with ignored := min (b.ignored + 1) 4294967295 }) } })
        ∧ (s.rtu.phase = .idle → ∃ t, exec (.release ⟨tag, some x⟩) s = answered tag .accepted [] t
          ∧ s.BurstBegins .host count t))
    ∧ (s.awake = true →
      (s.ownedBy .host = false → exec (.releaseEnd ⟨tag, some ()⟩) s = answered tag .badState [] s)
      ∧ (s.ownedBy .host = true → ∃ t, exec (.releaseEnd ⟨tag, some ()⟩) s = answered tag .ok [] t ∧ s.EndsByOwner t)
      ∧ (s.rtu.phase = .idle → exec (.burstAbort ⟨tag, some ()⟩) s = answered tag .badState [] s)
      ∧ (s.rtu.phase ≠ .idle → ∃ t, exec (.burstAbort ⟨tag, some ()⟩) s = answered tag .ok [] t
        ∧ t = { s with sp := t.sp, rtu := t.rtu, ss := t.ss, cp := t.cp } ∧ s.CutShort "ABORT" "COMMAND" t
        ∧ ((∃ r, s.sp.reading = .active r ∧ r.kind = .shot) → t.sp = { s.sp with
            reading := .discarded, unexpected := min (s.sp.unexpected + 1) 4294967295 })
        ∧ ((∀ r, s.sp.reading = .active r → r.kind ≠ .shot) → t.sp = s.sp)))

/-- SYNC_ARM, LATENCY_CLEAR and the release line (R53 to R55, R64, R68, R71, R74): SYNC_ARM is BAD_STATE in any sync
mode but ONCE. LATENCY_CLEAR clears both sets of statistics. A change of the raw line back to the filtered level stops
the filter, one away from it starts the filter anew or, at a filter time of 0, is taken at once; with the blocks
stopped, or no change, only the raw level is taken. When the filter's time is over the filtered level becomes the raw
one; a change from released to pressed in ACTIVE is a LINE release UNTIL_END, which starts a burst or, while one runs,
is ignored and counted; a change from pressed to released ends a burst of the line's by its owner, and for another burst
is nothing. That the filter rests while the blocks are stopped is the model's reading (log entry 10). That
RELEASE_FILTER_EXPIRY before its time changes nothing is its choice (log entry 3). -/
def Obligations.SyncArmLatencyAndLine : Prop :=
  ∀ (tag : Byte) (p : Bool) (s : State),
    (s.awake = true →
      (s.cfg.burst.syncMode ≠ .once → exec (.syncArm ⟨tag, some ()⟩) s = answered tag .badState [] s)
      ∧ (s.cfg.burst.syncMode = .once →
        exec (.syncArm ⟨tag, some ()⟩) s = answered tag .ok [] { s with rtu := { s.rtu with armed := true } })
      ∧ exec (.latencyClear ⟨tag, some ()⟩) s = answered tag .ok [] { s with rtu := { s.rtu with first := {}, nexts := {} } })
    ∧ (let s1 := { s with lines := { s.lines with releasePressed := p } }
      (s.lines.releasePressed = p ∨ s.cp.power = .closed ∨ s.cp.power = .standby → exec (.releaseLineChange p) s = .next s1)
      ∧ (s.lines.releasePressed ≠ p → s.cp.power = .active ∨ s.cp.power = .closing →
        (s.rtu.level = some p → exec (.releaseLineChange p) s = .next { s1 with rtu := { s.rtu with filterAt := none } })
        ∧ (s.rtu.level ≠ some p → s.cfg.burst.filterMs ≠ 0 → exec (.releaseLineChange p) s
            = .next { s1 with rtu := { s.rtu with filterAt := some (s.time + s.cfg.burst.filterMs * 1000) } })
        ∧ (s.rtu.level ≠ some p → s.cfg.burst.filterMs = 0 →
            exec (.releaseLineChange p) s = exec .releaseFilterExpiry { s1 with rtu := { s.rtu with filterAt := some s.time } })))
    ∧ ((∀ m, s.rtu.filterAt = some m → s.time < m) → exec .releaseFilterExpiry s = .next s)
    ∧ ((∃ m, s.rtu.filterAt = some m ∧ m ≤ s.time) →
      let s1 := { s with rtu := { s.rtu with level := some s.lines.releasePressed, filterAt := none } }
      (s.rtu.level = none ∨ s.rtu.level = some s.lines.releasePressed → exec .releaseFilterExpiry s = .next s1)
      ∧ (s.rtu.level = some false → s.lines.releasePressed = true →
        (s.cp.power = .active → s.rtu.phase = .idle → ∃ t, exec .releaseFilterExpiry s = .next t
          ∧ t.rtu.level = some true ∧ s1.BurstBegins .line none t)
        ∧ (s.cp.power = .active → s.rtu.phase ≠ .idle → exec .releaseFilterExpiry s = .next { s1 with rtu := { s1.rtu with
            burst := s.rtu.burst.map (fun b => { b with ignored := min (b.ignored + 1) 4294967295 }) } })
        ∧ (s.cp.power ≠ .active → exec .releaseFilterExpiry s = .next s1))
      ∧ (s.rtu.level = some true → s.lines.releasePressed = false → s.ownedBy .line = true →
          ∃ t, exec .releaseFilterExpiry s = .next t ∧ t.rtu.level = some false ∧ s1.EndsByOwner t)
      ∧ (s.rtu.level = some true → s.lines.releasePressed = false → s.ownedBy .line = false →
          exec .releaseFilterExpiry s = .next s1))

/-- FRAME_FIRE (R3, R57, R59, R60, R61, R62, R71, R93): the frame due fires just when the unit is WAITING, a reservation
is granted, the link is ALIGNED with no retrain and no check, the focus condition holds (focus priority OFF, a servo
mode other than SINGLE, IDLE or LOCKED) or its wait has expired, and its scheduled time has come. The reserved shot
takes the next shot number that no shot in use has, is stamped with the time base as its exposure, its lateness and the
focus snapshot: the servo's mode and state, the last result's area and defocus, the counter, the latest STATUS word's
moving flag, and CONFIRMED just in LOCKED or in FOLLOWING with a TARGET within the window in force. TRIGGER is sent, and
sync out if it is on; the readout timeout runs, the focus wait is over, and the burst is EXPOSING, or STOPPING with its
last frame; the next frame's reservation is asked for unless it was the last. A frame that fires by expiry alone is
counted; a lateness beyond the limit is counted, and LATE_FRAMES is raised for the burst's first and updated while it is
queued. The ready delay and its limiting condition go to the set FIRST for frame 0 and NEXT for others. The unit's law
(R61): on a grid that gives no frame a time before the release time plus the release latency, the exposure start is at
or after that. The fourth law of the store (R3): firing a frame keeps the numbers of the shots in use distinct. That an
event whose conditions do not hold changes nothing is the model's choice (log entry 3). -/
def Obligations.FrameFiresAndNumbers : Prop :=
  (∀ s : State,
      let focus := s.cfg.burst.focusPriority = false ∨ s.fe.servoMode ≠ some .single ∨ s.fe.servo = .idle ∨ s.fe.servo = .locked
      let granted := ∃ e ∈ s.ss.table, e.state = .reserved ∧ e.number = 0
      let linked := s.sp.link = .aligned ∧ s.sp.retrain = none ∧ s.sp.checkOn = false
      let scheduled := fun (b : BurstRec) (k : Nat) => b.tg + ((k : Int) - b.kg) * b.period
      ((∀ b, s.rtu.burst = some b → s.rtu.phase ≠ .waiting ∨ ¬ granted ∨ ¬ linked ∨ (¬ focus ∧ s.rtu.waitExpired = false)
          ∨ (s.time : Int) < scheduled b b.triggered) →
        exec .frameFire s = .next s)
      ∧ ∀ b, s.rtu.burst = some b → s.rtu.phase = .waiting → granted → linked → focus ∨ s.rtu.waitExpired = true →
        scheduled b b.triggered ≤ (s.time : Int) → s.ss.table.length ≤ 256 →
        let late : Int := s.time - scheduled b b.triggered
        let last : Bool := decide (b.count.getD 999 ≤ b.triggered + 1)
        let isLate := (s.cfg.burst.latenessLimit : Int) < late
        let queued := ∃ x ∈ s.cp.notices, x.key = (.lateFrames, .num b.number)
        let sat := fun (n : Nat) => min (n + 1) 4294967295
        let sampled := fun (d : DelaySet) (delay : Nat) (l : Limit) => ({
          count := sat d.count
          min := if d.count = 0 then delay else min d.min delay
          max := if d.count = 0 then delay else max d.max delay
          none := if l = .none then sat d.none else d.none
          reservation := if l = .reservation then sat d.reservation else d.reservation
          link := if l = .link then sat d.link else d.link
          focus := if l = .focus then sat d.focus else d.focus } : DelaySet)
        let snapshot : Snapshot :=
          { mode := s.fe.servoMode, state := s.fe.servo, area := s.fe.last.area, defocus := s.fe.last.defocus
            counter := s.lp.counter, moving := (s.lp.latest.map (·.moving)).getD false
            confirmed := decide (s.fe.servo = .locked ∨ (s.fe.servo = .following ∧ s.fe.last.outcome = .target
              ∧ s.fe.last.defocus.natAbs ≤ s.cfg.focus.window)) }
        ∃ t n, exec .frameFire s = .next t
          ∧ t = { s with ss := t.ss, rtu := t.rtu, cp := t.cp }
          ∧ (∀ e ∈ s.ss.table, e.state ≠ .free → e.number ≠ n)
          ∧ ((∀ e ∈ s.ss.table, e.state ≠ .free → e.number ≠ s.ss.next) → n = s.ss.next)
          ∧ t.ss = { s.ss with
              next := if n = 4294967295 then 1 else n + 1, serial := s.ss.serial + 1, request := t.ss.request
              table := updateFirst isClaimed (fun x => { x with
                number := n, serial := s.ss.serial, exposed := s.time, lateness := late
                phase := (s.rtu.lastError.map (·.1)).getD 0, snapshot := snapshot }) s.ss.table }
          ∧ t.rtu = { s.rtu with
              phase := if last then .stopping else .exposing
              waitExpired := false, waitAt := none, ready := none
              triggerAt := some s.time, readoutAt := some (s.time + s.cfg.burst.readoutMs * 1000)
              syncOutAt := if s.cfg.burst.syncOut then some s.time else s.rtu.syncOutAt
              first := t.rtu.first, nexts := t.rtu.nexts
              burst := some { b with
                triggered := b.triggered + 1, byWait := if focus then b.byWait else b.byWait + 1
                late := if isLate then b.late + 1 else b.late, ending := if last then some .count else b.ending } }
          ∧ (∀ m l, s.rtu.ready = some (m, l) →
            let delay := m - s.rtu.readyFrom
            let limit := if delay = 0 then Limit.none else l
            t.rtu.first = (if b.triggered = 0 then sampled s.rtu.first delay limit else s.rtu.first)
            ∧ t.rtu.nexts = if b.triggered = 0 then s.rtu.nexts else sampled s.rtu.nexts delay limit)
          ∧ (¬ isLate ∨ (b.late ≠ 0 ∧ ¬ queued) → t.cp = s.cp)
          ∧ (isLate → b.late = 0 ∨ queued → (∃ x ∈ t.cp.notices,
            x.key = (.lateFrames, .num b.number) ∧ x.values = [.u16 b.triggered, .i64 late]) ∨ t.cp.lost = true)
          ∧ (b.kg ≤ b.triggered → ((b.t0 + b.latency : Nat) : Int) ≤ b.tg → b.t0 + b.latency ≤ s.time)
          ∧ t.ss.request = (if last then s.ss.request
              else some ⟨b.number, b.triggered + 1, b.t0, (scheduled b (b.triggered + 1)).toNat, s.cfg.geometry⟩))
  ∧ (∀ s t : State, s.ss.table.length ≤ 256 → s.NumbersDistinct → exec .frameFire s = .next t → t.NumbersDistinct)

/-- FOCUS_WAIT_EXPIRY and READOUT_TIMEOUT (R7, R20, R59, R60, R63, R64, R67, R71): when the focus wait runs out in
WAITING, the focus condition holds from then on, and where the other conditions hold too the frame is ready from now,
its limit FOCUS, unless it was ready before. When a triggered shot's readout has not come by the readout timeout, the
shot is voided with reason TIMEOUT: its blocks join the free list's tail, its entry is FREE, and the burst counts it
voided. The unit, if it was EXPOSING or READING, waits for the frame due; if it was STOPPING, the burst ends with
BURST_END and a reservation still held is returned. In any other case the two change nothing. That an event whose
conditions do not hold changes nothing is the model's choice (log entry 3). -/
def Obligations.WaitAndReadoutTimeouts : Prop :=
  ∀ s : State,
    (s.rtu.phase ≠ .waiting ∨ (∀ m, s.rtu.waitAt = some m → s.time < m) → exec .focusWaitExpiry s = .next s)
    ∧ (s.rtu.phase = .waiting → (∃ m, s.rtu.waitAt = some m ∧ m ≤ s.time) → ∃ t, exec .focusWaitExpiry s = .next t
      ∧ t = { s with rtu := { s.rtu with waitAt := none, waitExpired := true, ready := t.rtu.ready } }
      ∧ (let others := (∃ e ∈ s.ss.table, e.state = .reserved ∧ e.number = 0)
          ∧ s.sp.link = .aligned ∧ s.sp.retrain = none ∧ s.sp.checkOn = false
        (others → t.rtu.ready = some (s.rtu.ready.getD (s.time, .focus))) ∧ (¬ others → t.rtu.ready = none)))
    ∧ (s.ss.table.find? isTriggered = none ∨ (∀ m, s.rtu.readoutAt = some m → s.time < m) →
      exec .readoutTimeout s = .next s)
    ∧ ∀ e m, s.ss.table.find? isTriggered = some e → s.rtu.readoutAt = some m → m ≤ s.time → ∃ t,
      exec .readoutTimeout s = .next t
      ∧ ((∃ x ∈ t.cp.notices, x.key = (.shotVoid, .num e.number) ∧ x.values = [.word "TIMEOUT"]) ∨ t.cp.lost = true)
      ∧ t.rtu.burst = s.rtu.burst.map (fun b => { b with voided := b.voided + 1 })
      ∧ (s.rtu.phase = .exposing ∨ s.rtu.phase = .reading → t.rtu.phase = .waiting ∧ t.ss.free = s.ss.free ++ e.raw
        ∧ t.ss.table = updateFirst isTriggered (fun _ => {}) s.ss.table)
      ∧ (s.rtu.phase = .stopping → t.rtu.phase = .idle ∧ t.ss.request = none
        ∧ (∀ b, t.rtu.burst = some b → t.TellsEnd b (match b.ending with | some r => r.name | none => "COUNT"))
        ∧ t.ss.free = s.ss.free ++ e.raw ++ ((s.ss.table.find? isClaimed).map (·.raw)).getD []
        ∧ t.ss.table = updateFirst isClaimed (fun _ => {}) (updateFirst isTriggered (fun _ => {}) s.ss.table))

/-- SYNC_EDGE (R52, R54, R58, R68, R69, R70): with the blocks stopped it is not taken. Otherwise the edge is counted and
its error measured against the running burst's grid or, with none running, the standing grid; in mode OFF nothing else
happens. In WATCH, and in ONCE aligned and not armed, an error beyond the window counts one and raises SYNC_WINDOW, and
otherwise nothing else happens. An armed edge in ONCE realigns, whatever its error, and the unit is aligned and no
longer armed; before any alignment nothing else happens. In EVERY an edge with no grid, or with an error beyond the
window, realigns, and one within it changes nothing. A realignment lays the standing grid on the edge and counts one; a
running burst's grid then starts with its frame due at the first new instant at or after the edge, the release time plus
L and, after a frame, that frame's exposure plus 20,000 µs, and the scheduled time of its reservation or, by the model's
reading (DEDUCED, log entry 10), of its request that still waits is rewritten. In FOLLOW, in ACTIVE, an edge starts a
burst of one frame as RELEASE does, WAITING with the link TRAINING or ALIGNED and over at once with reason LINK with it
DOWN or FAILED, or is an ignored release while a burst runs. Grids (R57, R68, R69): for a period above 0, the first
instant at or after a moment lies on the grid, not before it and less than a period after it; the phase error is the
moment less a grid instant, more than half a period before it never and at most half a period after it, so that on a tie
the earlier instant is the nearest. That an edge is not taken in CLOSED, and is measured in CLOSING, is the model's
reading, and the notice's 4-byte error its choice (log entry 10). -/
def Obligations.SyncEdgesAndGrids : Prop :=
  (∀ s : State,
      (s.cp.power = .closed ∨ s.cp.power = .standby → exec .syncEdge s = .next s)
      ∧ (s.cp.power = .active ∨ s.cp.power = .closing →
        let grid := if s.rtu.phase = .idle then s.rtu.standing.map (fun g => (g.anchor, g.period))
          else s.rtu.burst.map (fun b => (b.tg, b.period))
        let err := grid.map (fun g => phaseError g.1 g.2 (s.time + s.cfg.burst.latency))
        let s1 := { s with rtu := { s.rtu with
          edges := min (s.rtu.edges + 1) 4294967295
          lastError := match err with | some e => some (e, s.time) | none => s.rtu.lastError } }
        let place : Int := s.time + s.cfg.burst.latency
        let number := if s.rtu.phase = .idle then 0 else (s.rtu.burst.map (·.number)).getD 0
        let within := ∀ e, err = some e → e.natAbs ≤ s.cfg.burst.window
        let watched := (within → exec .syncEdge s = .next s1)
          ∧ ∀ e, err = some e → s.cfg.burst.window < e.natAbs → ∃ t, exec .syncEdge s = .next t
            ∧ t = { s1 with rtu := { s1.rtu with windows := min (s.rtu.windows + 1) 4294967295 }, cp := t.cp }
            ∧ ((∃ x ∈ t.cp.notices, x.key = (.syncWindow, .num number) ∧ x.values = [.i32 e, .u64 s.time])
              ∨ t.cp.lost = true)
        let realigned := fun (armed aligned : Bool) (t : State) =>
          t = { s1 with rtu := t.rtu, ss := t.ss }
          ∧ t.rtu = { s1.rtu with
              standing := some ⟨place, place, s.cfg.burst.period⟩, realigns := min (s.rtu.realigns + 1) 4294967295
              burst := t.rtu.burst, armed := armed, aligned := aligned }
          ∧ (s.rtu.phase = .idle → t.ss = s.ss ∧ t.rtu.burst = s.rtu.burst)
          ∧ ∀ b, s.rtu.phase ≠ .idle → s.rtu.burst = some b → 0 < b.period → ∃ g : Int,
            let start : Int := max s.time (b.t0 + b.latency)
            let earliest : Int := if b.triggered = 0 then start else max start (s.rtu.triggerAt.getD 0 + 20000 : Nat)
            (∃ j : Nat, g = place + j * b.period) ∧ earliest ≤ g
            ∧ (∀ j : Nat, earliest ≤ place + j * b.period → g ≤ place + j * b.period)
            ∧ t.rtu.burst = some { b with tg := g, kg := b.triggered }
            ∧ t.ss = { s.ss with
                table := updateFirst isClaimed (fun x => { x with scheduled := g.toNat }) s.ss.table
                request := s.ss.request.map (fun r => { r with scheduled := g.toNat }) }
        (s.cfg.burst.syncMode = .off → exec .syncEdge s = .next s1)
        ∧ (s.cfg.burst.syncMode = .watch → watched)
        ∧ (s.cfg.burst.syncMode = .once →
          (s.rtu.armed = true → ∃ t, exec .syncEdge s = .next t ∧ realigned false true t)
          ∧ (s.rtu.armed = false → s.rtu.aligned = true → watched)
          ∧ (s.rtu.armed = false → s.rtu.aligned = false → exec .syncEdge s = .next s1))
        ∧ (s.cfg.burst.syncMode = .every →
          (err ≠ none → within → exec .syncEdge s = .next s1)
          ∧ (err = none ∨ ¬ within → ∃ t, exec .syncEdge s = .next t ∧ realigned s.rtu.armed s.rtu.aligned t))
        ∧ (s.cfg.burst.syncMode = .follow →
          (s.cp.power = .closing → exec .syncEdge s = .next s1)
          ∧ (s.cp.power = .active → s.rtu.phase ≠ .idle → exec .syncEdge s = .next { s1 with rtu := { s1.rtu with
            burst := s.rtu.burst.map (fun b => { b with ignored := min (b.ignored + 1) 4294967295 }) } })
          ∧ (s.cp.power = .active → s.rtu.phase = .idle → ∃ t, exec .syncEdge s = .next t
            ∧ s1.BurstBegins .sync (some 1) t))))
  ∧ (∀ (anchor x : Int) (period : Nat), 0 < period →
      (∃ j : Int, firstInstant anchor period x = anchor + j * period)
      ∧ x ≤ firstInstant anchor period x ∧ firstInstant anchor period x < x + period
      ∧ (∃ j : Int, x = anchor + j * period + phaseError anchor period x)
      ∧ -(period : Int) < 2 * phaseError anchor period x ∧ 2 * phaseError anchor period x ≤ period)

/-! ## The focus engine -/

/-- The focus commands and the settle timeout (R79, R80, R87, R89, R92, R94, R96): AF_LENS_COEF takes any signed number
of two bytes but 0. AF_AREA takes an area 0 to 120, or a rectangle, not empty and in the grid, which becomes the watch
zone too; a track starts afresh. AF_START puts the servo in the mode's running state, or SUSPENDED unless the lens is
RUNNING with its counter REFERENCED; AF_STOP puts it in IDLE, where an enabled watcher starts afresh; both clear the
fail count, the settle wait and an unsent DRIVE_TO, and a new servo state is told by FOCUS_STATE with reason START or
STOP. WATCH_SET sets the enable and, with ON in IDLE, starts the watcher, as WATCH_RESET always does. At the settle
timeout the wait is over. A result (R88, R89, R90): a SINGLE servo discards one whose moving sample stands with no
timeout since the last drive, one during a settle wait, and one whose readout began before the last wait's end; in
SEEKING a TARGET within the window locks it, NONE and an at-limit result count toward the 16 that fail it; any other
stages a drive to its target and begins a 500 ms settle wait. A CONTINUOUS servo in FOLLOWING stages every target
neither in the window nor at limit; no other servo stages. The law of staging (R86): a command that leaves a new
DRIVE_TO staged leaves a SINGLE servo in SEEKING or a CONTINUOUS one in FOLLOWING, the lens RUNNING and the counter
REFERENCED, its target within the limits. Suspension and return (R91). The watcher's sample (R95): NO_DATA voids it;
with no reference it sets it; an energy whose departure times 64 is beyond the reference times the threshold wakes the
watcher, else the reference follows. A wake (R96) sets FULL, counts, raises ACTIVITY and, with wake starts focus ON,
starts a CONTINUOUS servo. WATCH_SET ON's start of an enabled watcher and what is kept of a settle wait are the model's
reading (log entry 18); the wake count's 32 bits (log entry 23) and SETTLE_TIMEOUT before it is due (log entry 3) are
its choice. -/
def Obligations.FocusCommands : Prop :=
  (∀ (tag : Byte) (s : State),
    let put := fun (f : Focus) => { s with fe := f }
    let shown := [.word s.fe.last.outcome.name] ++ opt s.fe.last.area (fun a => [.u8 a]) ++ [.i32 s.fe.last.defocus]
    (s.awake = true →
      (∀ k, k = 0 ∨ k < -32768 ∨ 32767 < k → exec (.afLensCoef ⟨tag, some k⟩) s = answered tag .badValue [] s)
      ∧ (∀ k, k ≠ 0 → -32768 ≤ k → k ≤ 32767 →
        exec (.afLensCoef ⟨tag, some k⟩) s = answered tag .ok [] (put { s.fe with coef := k }))
      ∧ (∀ a, exec (.afArea ⟨tag, some (.singleArea a)⟩) s
        = if 120 < a then answered tag .badValue [] s else answered tag .ok [] (put { s.fe with mode := .single a }))
      ∧ (∀ r : Rect, exec (.afArea ⟨tag, some (.zone r)⟩) s
        = if r.row0 ≤ r.row1 ∧ r.col0 ≤ r.col1 ∧ r.row1 ≤ 10 ∧ r.col1 ≤ 10
          then answered tag .ok [] (put { s.fe with mode := .zone r, watchZone := r }) else answered tag .badValue [] s)
      ∧ (∀ a, exec (.afArea ⟨tag, some (.track a)⟩) s
        = if 120 < a then answered tag .badValue [] s
          else answered tag .ok []
            (put { s.fe with mode := .track, track := ⟨false, a, none, 0⟩, trackStart := a }))
      ∧ (∀ b, exec (.watchSet ⟨tag, some b⟩) s
        = answered tag .ok [] (put { s.fe with watcher :=
            if b = true ∧ s.fe.servo = .idle then ⟨b, false, 0, none, none, s.fe.watcher.wakes⟩
            else { s.fe.watcher with enabled := b } }))
      ∧ exec (.watchReset ⟨tag, some ()⟩) s
        = answered tag .ok [] (put { s.fe with
            watcher := ⟨s.fe.watcher.enabled, false, 0, none, none, s.fe.watcher.wakes⟩ })
      ∧ ∃ t, exec (.afStop ⟨tag, some ()⟩) s = answered tag .ok [] t
        ∧ t = { s with fe := t.fe, lp := { s.lp with stage := t.lp.stage }, rtu := { s.rtu with ready := t.rtu.ready }, cp := t.cp }
        ∧ t.fe = { s.fe with
            servo := .idle, servoMode := none, fails := 0, settle := none
            watcher := if s.fe.watcher.enabled = true ∧ s.fe.servo ≠ .idle then ⟨true, false, 0, none, none, s.fe.watcher.wakes⟩
              else s.fe.watcher }
        ∧ (∀ v k, t.lp.stage ≠ some (.driveTo v k)) ∧ (s.lp.stage = some .home → t.lp.stage = some .home)
        ∧ (s.fe.servo = .idle → t.cp = s.cp)
        ∧ (s.fe.servo ≠ .idle → t.Tells .focusState (.num 0) ([.word "IDLE", .present false, .word "STOP"] ++ shown)))
    ∧ (s.taking = true →
      exec (.afStart ⟨tag, some none⟩) s = answered tag .badValue [] s
      ∧ ∀ m, ∃ t, exec (.afStart ⟨tag, some (some m)⟩) s = answered tag .ok [] t
        ∧ t = { s with fe := t.fe, lp := { s.lp with stage := t.lp.stage }, rtu := { s.rtu with ready := t.rtu.ready }, cp := t.cp }
        ∧ t.fe = { s.fe with
            servoMode := some m, fails := 0, settle := none
            servo := if s.lp.phase = .running ∧ s.lp.referenced = true then (if m = .single then .seeking else .following)
              else .suspended }
        ∧ (∀ v k, t.lp.stage ≠ some (.driveTo v k)) ∧ (s.lp.stage = some .home → t.lp.stage = some .home)
        ∧ (s.fe.servo = t.fe.servo → t.cp = s.cp)
        ∧ (s.fe.servo ≠ t.fe.servo → t.Tells .focusState (.num 0)
            ([.word t.fe.servo.name, .present true, .word m.name, .word "START"] ++ shown)))
    ∧ ((∀ w, s.fe.settle = some w → s.time < w.due) → exec .settleTimeout s = .next s)
    ∧ ((∃ w, s.fe.settle = some w ∧ w.due ≤ s.time) → exec .settleTimeout s
        = .next (put { s.fe with settle := none, settledAt := some s.time, settleTimedOut := true })))
  ∧ (∀ (ih : InHand) (s : State),
    let r := s.fe.last
    let t := servoAct ih s
    let discarded := (r.moving = true ∧ s.fe.settleTimedOut = false) ∨ s.fe.settle ≠ none
      ∨ ∃ e, s.fe.settledAt = some e ∧ r.start < e
    let inWindow := r.outcome = .target ∧ r.defocus.natAbs ≤ ih.cfg.window
    let idle := r.outcome = .none ∨ r.atLimit = true
    let speed := if r.outcome = .target then ih.cfg.driveSpeed else ih.cfg.searchSpeed
    let staged := fun (v : Int) => some (DriveWord.driveTo v speed)
    let noticed := fun (reason : String) => (∃ x ∈ t.cp.notices, x.key = (.focusState, .num 0)
      ∧ x.values = [.word t.fe.servo.name] ++ opt t.fe.servoMode (fun m => [.word m.name])
        ++ [.word reason, .word r.outcome.name] ++ opt r.area (fun a => [.u8 a]) ++ [.i32 r.defocus]) ∨ t.cp.lost = true
    (s.fe.servoMode = none ∨ s.fe.servoMode = some .monitor → t = s)
    ∧ (s.fe.servoMode = some .single → discarded → t = { s with fe := { s.fe with last := { r with discarded := true } } })
    ∧ (s.fe.servoMode = some .single → ¬ discarded →
      (s.fe.servo ≠ .seeking → t = s)
      ∧ (s.fe.servo = .seeking → inWindow →
        t = { s with
          fe := { s.fe with servo := .locked, fails := 0 }, lp := { s.lp with stage := t.lp.stage }, cp := t.cp
          rtu := { s.rtu with ready := t.rtu.ready } }
        ∧ (∀ v k, t.lp.stage ≠ some (.driveTo v k)) ∧ (s.lp.stage = some .home → t.lp.stage = some .home)
        ∧ noticed "LOCKED")
      ∧ (s.fe.servo = .seeking → ¬ inWindow → idle →
        (s.fe.fails + 1 < 16 → t = { s with fe := { s.fe with fails := s.fe.fails + 1 } })
        ∧ (16 ≤ s.fe.fails + 1 → t = { s with
            fe := { s.fe with servo := .failed, fails := s.fe.fails + 1 }, cp := t.cp, rtu := { s.rtu with ready := t.rtu.ready } }
          ∧ noticed "FAILED"))
      ∧ (∀ v, s.fe.servo = .seeking → ¬ inWindow → ¬ idle → r.target = some v → s.lp.phase = .running →
        s.lp.referenced = true → t = { s with
          lp := { s.lp with stage := staged v }
          fe := { s.fe with
            fails := 0, settleTimedOut := false, settledAt := none, settle := some ⟨s.time + 500000, false, false⟩ } }))
    ∧ (s.fe.servoMode = some .continuous →
      (s.fe.servo ≠ .following ∨ inWindow ∨ idle → t = s)
      ∧ (∀ v, s.fe.servo = .following → ¬ inWindow → ¬ idle → r.target = some v → s.lp.phase = .running →
        s.lp.referenced = true → t = { s with
          lp := { s.lp with stage := staged v }, fe := { s.fe with settleTimedOut := false } })))
  ∧ (∀ (c : Instr) (s t : State) (v : Int) (k : Nat), s.lp.far ≤ s.lp.near → exec c s = .next t →
      t.lp.stage = some (.driveTo v k) → s.lp.stage ≠ some (.driveTo v k) →
      ((t.fe.servoMode = some .single ∧ t.fe.servo = .seeking)
        ∨ (t.fe.servoMode = some .continuous ∧ t.fe.servo = .following))
      ∧ t.lp.phase = .running ∧ t.lp.referenced = true ∧ s.lp.far ≤ v ∧ v ≤ s.lp.near)
  ∧ (∀ s : State,
      let t := lensCheck s
      let there := s.lp.phase = .running ∧ s.lp.referenced = true
      let running := s.fe.servo = .seeking ∨ s.fe.servo = .locked ∨ s.fe.servo = .following ∨ s.fe.servo = .failed
      (running → ¬ there → t = { s with
          fe := { s.fe with servo := .suspended, settle := none }, lp := { s.lp with stage := t.lp.stage }, cp := t.cp
          rtu := { s.rtu with ready := t.rtu.ready } }
        ∧ (∀ v k, t.lp.stage ≠ some (.driveTo v k)) ∧ (s.lp.stage = some .home → t.lp.stage = some .home))
      ∧ (∀ m, s.fe.servo = .suspended → there → s.fe.servoMode = some m → t = { s with
          fe := { s.fe with servo := if m = .single then .seeking else .following, fails := 0 }, cp := t.cp
          rtu := { s.rtu with ready := t.rtu.ready } })
      ∧ ((running ∧ there) ∨ (s.fe.servo = .suspended ∧ ¬ there) ∨ s.fe.servo = .idle → t = s))
  ∧ ∀ (ih : InHand) (s : State),
    let w := s.fe.watcher
    let zone := rectAreas s.fe.watchZone
    let energy := (zone.map (fun a => (areaOf s.fe.areas a).contrast)).sum
    let void := ∃ a ∈ zone, (areaOf s.fe.areas a).kind = .noData
    let put := fun (x : Watcher) => { s with fe := { s.fe with watcher := x } }
    let t := watchSample ih s
    (ih.sampled = false ∨ w.enabled = false ∨ s.fe.servo ≠ .idle ∨ void → t = s)
    ∧ (ih.sampled = true → w.enabled = true → s.fe.servo = .idle → ¬ void →
      (w.reference = none → t = put { w with reference := some energy, last := some energy })
      ∧ ∀ ref, w.reference = some ref →
        let woken := put { w with full := true, last := some energy, wakes := min (w.wakes + 1) 4294967295 }
        let told := (∃ x ∈ t.cp.notices, x.key = (.activity, .num 0) ∧ x.values = [.u32 energy, .u32 ref, .u64 ih.start])
          ∨ t.cp.lost = true
        (((energy : Int) - ref).natAbs * 64 ≤ ref * ih.cfg.watchT →
          t = put { w with reference := some ((3 * ref + energy + 2) / 4), last := some energy })
        ∧ (ref * ih.cfg.watchT < ((energy : Int) - ref).natAbs * 64 → told
          ∧ (ih.cfg.wakeStarts = false → t = { woken with cp := t.cp })
          ∧ (ih.cfg.wakeStarts = true →
            t.fe = { woken.fe with
              servoMode := some .continuous, fails := 0, settle := none
              servo := if s.lp.phase = .running ∧ s.lp.referenced = true then .following else .suspended }
            ∧ t = { woken with fe := t.fe, lp := { s.lp with stage := t.lp.stage }, cp := t.cp
                               rtu := { s.rtu with ready := t.rtu.ready } })))

/-- The correlation of one AF area (R77), for 64 samples a side and a range S of 1 to 24. SAD(s) is the sum over the window
`k = S … 63 − S` of the differences of the left sample `k` and the right sample `k + s`, an index in 0 … 63. The best shift
has the lowest SAD; among equals the one of the smaller size is taken, and of two of a size the negative one. The contrast
is the sum over `k = S … 62 − S` of the differences of neighbours on the left. For 16-bit samples SAD is at most 62 × 65,535
and the contrast at most 61 × 65,535. -/
def Obligations.AreaCorrelation : Prop :=
  ∀ (L R : List Nat) (S : Nat), L.length = 64 → R.length = 64 → 1 ≤ S → S ≤ 24 →
    (∀ s : Int, -(S : Int) ≤ s → s ≤ S →
      sad L R S s = ((List.range (64 - 2 * S)).map (fun i =>
        ((L.getD (S + i) 0 : Int) - (R.getD ((S + i : Int) + s).toNat 0 : Nat)).natAbs)).sum
      ∧ (∀ k : Nat, S ≤ k → k ≤ 63 - S → 0 ≤ (k : Int) + s ∧ (k : Int) + s ≤ 63)
      ∧ sad L R S (bestShift L R S) ≤ sad L R S s
      ∧ (sad L R S s = sad L R S (bestShift L R S) →
          (bestShift L R S).natAbs < s.natAbs ∨ ((bestShift L R S).natAbs = s.natAbs ∧ bestShift L R S ≤ s))
      ∧ ((∀ x ∈ L ++ R, x ≤ 65535) → sad L R S s ≤ 62 * 65535))
    ∧ -(S : Int) ≤ bestShift L R S ∧ bestShift L R S ≤ S
    ∧ contrast L S = ((List.range (63 - 2 * S)).map (fun i =>
        ((L.getD (S + i + 1) 0 : Int) - (L.getD (S + i) 0 : Nat)).natAbs)).sum
    ∧ ((∀ x ∈ L, x ≤ 65535) → contrast L S ≤ 61 * 65535)

/-- An area's result (R77, R78, R79), in the order of R78's table: LOW_CONTRAST just below the threshold; EDGE at the
best shift's end of the range, with the direction of the shift times the lens coefficient; FLAT without a curvature
above 0; otherwise VALID, its disparity 16 times the shift plus the refinement truncated toward zero, and its defocus
disparity times coefficient over 4,096, rounded half away from zero. The best shift has the least sum of differences,
the smaller shift among equals, and the negative one of two of a size. The disparity lies within half a sample of the
shift, and the defocus within half a count of its quotient. A PHASE row handed for the readout in hand (R46, R76)
replaces the records of its 11 areas, from the left and the right sequence of each column with the settings latched, or
with NO_DATA if it was damaged; the rows of a WATCH readout that the watcher skips are dropped. When rows 0 to 10 have
all been handed the computation completes, once for a readout: the area choice of the applied mode gives the track
record and the last result, FOCUS_STATE is raised with TRACK_LOST if the track became LOST (R84, R92), the servo acts on
the result, and the watcher takes its sample. That TRACK_LOST is raised after the last result is formed and before the
servo acts is the model's reading (DEDUCED, log entry 18). -/
def Obligations.AreaResultsRight : Prop :=
  (∀ (cfg : FocusCfg) (coef : Int) (L R : List Nat), 1 ≤ cfg.range →
    let S := cfg.range
    let r := areaResult cfg coef L R
    let best := bestShift L R S
    (∀ s : Int, -(S : Int) ≤ s → s ≤ S →
      sad L R S best ≤ sad L R S s
      ∧ (sad L R S s = sad L R S best → best.natAbs < s.natAbs ∨ (best.natAbs = s.natAbs ∧ best ≤ s)))
    ∧ -(S : Int) ≤ best ∧ best ≤ S
    ∧ (let C := contrast L S
      let D : Int := sad L R S (best - 1) - 2 * sad L R S best + sad L R S (best + 1)
      let d16 := 16 * best + Int.tdiv (16 * ((sad L R S (best - 1) : Int) - sad L R S (best + 1))) (2 * D)
      let n := d16 * coef
      let defocus := if 0 ≤ n then (n + 2048) / 4096 else -((-n + 2048) / 4096)
      r = if C < cfg.threshold then ⟨.lowContrast, C, 0, false, 0, 0⟩
        else if best = -(S : Int) ∨ best = S then ⟨.edge, C, best, decide (0 < best * coef), 0, 0⟩
        else if D ≤ 0 then ⟨.flat, C, 0, false, 0, 0⟩
        else ⟨.valid, C, best, false, d16, defocus⟩)
    ∧ (r.kind = .valid → (r.d16 - 16 * best).natAbs ≤ 8 ∧ 2 * (4096 * r.defocus - r.d16 * coef).natAbs ≤ 4096))
  ∧ ∀ (row : Nat) (payload : Option (List Word16)) (s : State) (ih : InHand),
    row ≤ 10 → s.fe.areas.length = 121 → s.fe.inHand = some ih →
    let t := handRow row payload s
    let handed := { ih with rows := ih.rows ++ [row] }
    let samples := fun (p : List Word16) (side col : Nat) => ((p.drop (128 * col + 64 * side)).take 64).map (·.toNat)
    let all := ih.complete = false ∧ ∀ k, k ≤ 10 → k = row ∨ k ∈ ih.rows
    (ih.skipped = true → t = { s with fe := { s.fe with inHand := some handed } })
    ∧ (ih.skipped = false →
      t.fe.areas.length = 121
      ∧ (∀ a, a ≤ 120 → t.fe.areas.getD a {} = if a / 11 = row
          then (match payload with
            | some p => areaResult ih.cfg ih.coef (samples p 0 (a % 11)) (samples p 1 (a % 11))
            | none => ⟨.noData, 0, 0, false, 0, 0⟩)
          else s.fe.areas.getD a {})
      ∧ (¬ all → t = { s with fe := { s.fe with areas := t.fe.areas, inHand := some handed } })
      ∧ (all →
        let c := chooseArea s.fe.mode t.fe.areas s.fe.track ih.counter
        let s1 := { s with fe := { s.fe with
          areas := t.fe.areas, track := c.track, last := formResult ih c s.lp.far s.lp.near
          inHand := some { handed with complete := true } } }
        let s2 := if s.fe.track.lost = false ∧ c.track.lost = true then raise .focusState (.num 0)
            (.word s.fe.servo.name :: opt s.fe.servoMode (fun m => [.word m.name]) ++ [.word "TRACK_LOST", .word c.outcome.name]
              ++ opt c.area (fun a => [.u8 a]) ++ [.i32 c.defocus]) s1
          else s1
        t = watchSample handed (servoAct handed s2) ∧ t.fe.track = c.track
        ∧ t.fe.last = { formResult ih c s.lp.far s.lp.near with discarded := t.fe.last.discarded }))

/-- The area choice and the target (R81 to R85). ZONE: with a VALID area in the rectangle the outcome is TARGET on the
one with the largest defocus, the lowest index among equals; with none, SEARCH if an EDGE lies in it, toward NEAR just
if at least as many of them point there, with the lowest-indexed of that direction; and otherwise NONE with no area.
SINGLE_AREA: the named area gives TARGET if VALID, SEARCH in its direction if EDGE, and otherwise NONE, and is named.
TRACK: a LOST track gives NONE with the current area. With no VALID candidate among the current area and its neighbours
the outcome is NONE, the miss count gains 1, and at 8 the track is LOST. Otherwise the outcome is TARGET on a VALID
candidate, which becomes the current area with its candidate target and miss count 0: the one closest to the last
target, on a tie the current area and otherwise the lowest index; or with no last target the current area if it is
VALID, and otherwise the one of largest defocus, the lowest index among equals. The last result's target is the counter
at the readout plus the defocus, or plus or minus the search step for a SEARCH, clamped to the focus limits in force;
there is one just for TARGET and SEARCH. The at-limit flag is set just when the target is the counter and a move is
asked for. The result keeps the readout's samples, kind and start. -/
def Obligations.ZoneAndTarget : Prop :=
  (∀ (areas : List AreaResult) (tr : Track) (rect : Rect),
    let c := chooseZone areas tr rect
    let valid := (rectAreas rect).filter (fun a => (areaOf areas a).kind == .valid)
    let edges := (rectAreas rect).filter (fun a => (areaOf areas a).kind == .edge)
    let nears := edges.filter (fun a => (areaOf areas a).near)
    let fars := edges.filter (fun a => !(areaOf areas a).near)
    (c.outcome = .target ↔ valid ≠ [])
    ∧ (c.outcome = .target → ∃ a ∈ valid, c.area = some a ∧ c.defocus = (areaOf areas a).defocus
        ∧ ∀ b ∈ valid, (areaOf areas b).defocus < c.defocus ∨ ((areaOf areas b).defocus = c.defocus ∧ a ≤ b))
    ∧ (c.outcome = .search ↔ valid = [] ∧ ∃ a ∈ rectAreas rect, (areaOf areas a).kind = .edge)
    ∧ (c.outcome = .search → (c.near = true ↔ fars.length ≤ nears.length)
        ∧ ∃ a ∈ if c.near then nears else fars, c.area = some a ∧ c.defocus = 0
          ∧ ∀ b ∈ if c.near then nears else fars, a ≤ b)
    ∧ (c.outcome = .none → c.area = none ∧ c.defocus = 0)
    ∧ c.track = tr)
  ∧ (∀ (areas : List AreaResult) (tr : Track) (counter : Int) (a : Nat),
    let c := chooseArea (.single a) areas tr counter
    let x := areas.getD a {}
    c.area = some a ∧ c.track = tr
    ∧ (c.outcome = .target ↔ x.kind = .valid) ∧ (c.outcome = .search ↔ x.kind = .edge)
    ∧ c.defocus = (if x.kind = .valid then x.defocus else 0) ∧ (c.outcome = .search → c.near = x.near))
  ∧ (∀ (areas : List AreaResult) (tr : Track) (counter : Int),
    let c := chooseArea .track areas tr counter
    let near := fun (m n : Nat) => m ≤ n + 1 ∧ n ≤ m + 1
    let candidate := fun (a : Nat) => a ≤ 120 ∧ near (a / 11) (tr.current / 11) ∧ near (a % 11) (tr.current % 11)
    let valid := fun (a : Nat) => candidate a ∧ (areas.getD a {}).kind = .valid
    let defocus := fun (a : Nat) => (areas.getD a {}).defocus
    (tr.lost = true → c = ⟨.none, some tr.current, 0, false, tr⟩)
    ∧ (tr.lost = false → (∀ a, ¬ valid a) → c.outcome = .none ∧ c.defocus = 0
        ∧ c.track = { tr with misses := tr.misses + 1, lost := decide (8 ≤ tr.misses + 1) })
    ∧ (tr.lost = false → (∃ a, valid a) → ∃ a, valid a ∧ c.outcome = .target ∧ c.area = some a ∧ c.defocus = defocus a
        ∧ c.track = ⟨false, a, some (counter + defocus a), 0⟩
        ∧ (∀ v, tr.target = some v → ∀ b, valid b →
            let away := fun (x : Nat) => (counter + defocus x - v).natAbs
            away a < away b ∨ (away a = away b ∧ (a = tr.current ∨ (b ≠ tr.current ∧ a ≤ b))))
        ∧ (tr.target = none → (valid tr.current → a = tr.current)
          ∧ (¬ valid tr.current → ∀ b, valid b → defocus b < defocus a ∨ (defocus b = defocus a ∧ a ≤ b)))))
  ∧ ∀ (ih : InHand) (c : Chosen) (far near : Int), far ≤ near →
    let r := formResult ih c far near
    let aim := if c.outcome = .target then ih.counter + c.defocus
      else if c.near = true then ih.counter + ih.cfg.step else ih.counter - ih.cfg.step
    (∀ v, r.target = some v → far ≤ v ∧ v ≤ near)
    ∧ (r.target = none ↔ c.outcome = .none)
    ∧ (c.outcome = .target → far ≤ ih.counter + c.defocus → ih.counter + c.defocus ≤ near →
        r.target = some (ih.counter + c.defocus))
    ∧ (c.outcome ≠ .none → r.target = some (if aim < far then far else if near < aim then near else aim))
    ∧ (r.atLimit = true ↔ r.target = some ih.counter
        ∧ (c.outcome = .search ∨ (c.outcome = .target ∧ ih.cfg.window < c.defocus.natAbs)))
    ∧ r.counter = ih.counter ∧ r.outcome = c.outcome ∧ r.area = c.area ∧ r.defocus = c.defocus ∧ r.near = c.near
    ∧ r.referenced = ih.referenced ∧ r.moving = ih.moving ∧ r.kind = ih.kind ∧ r.start = ih.start
    ∧ r.discarded = false

/-! ## The lens port -/

/-- The lens commands (R103, R104, R107 to R110, R113): LENS_START enables the port, which enters WAITING, and tells LENS_STATE with
reason START (R103), if it was STOPPED with a lens detected; LENS_STOP disables it, to stop at its frame's end. LENS_HOME is BAD_STATE unless the lens is RUNNING in
reference mode INDEX, changes nothing while the counter is REFERENCED, and otherwise stages HOME with its timer. LENS_IRIS
stages the aperture clamped to the iris limits and returns it. LENS_LIMITS takes four values in range and in order. LENS_AUX
is BAD_STATE in STOPPED, BUSY with four words waiting, and otherwise adds the word. POSITION_SET takes a value of the
counter's range: the counter holds it, is REFERENCED, and no overrun stands. -/
def Obligations.LensCommands : Prop :=
  ∀ (tag : Byte) (s : State),
    let put := fun (l : Lens) => { s with lp := l }
    (s.taking = true →
      (s.lp.phase ≠ .stopped ∨ s.lines.lensDetect = false →
        exec (.lensStart ⟨tag, some ()⟩) s = answered tag .ok [] (put { s.lp with enable := true, stopping := none }))
      ∧ (s.lp.phase = .stopped → s.lines.lensDetect = true → ∃ t, exec (.lensStart ⟨tag, some ()⟩) s = answered tag .ok [] t
        ∧ t.lp = { s.lp with
            enable := true, stopping := none, phase := .waiting, failRun := 0, goodRun := 0, slot := 0, lastSeq := none
            frameFrom := s.time, framePeriod := s.cfg.lens.framePeriod, stage := t.lp.stage }
        ∧ t.Tells .lensState (.num 0) [.word "WAITING", .word "START", .i32 s.lp.counter,
            .word (if s.lp.referenced then "REFERENCED" else "UNREFERENCED"), flag s.lp.overrun]
        ∧ (s.fe.servo = .idle ∨ s.fe.servo = .suspended → t = { s with lp := { t.lp with stage := s.lp.stage }, cp := t.cp })))
    ∧ (s.awake = true →
      exec (.lensStop ⟨tag, some ()⟩) s = answered tag .ok [] (put { s.lp with
        enable := false, stopping := if s.lp.phase = .stopped then none else some (s.lp.stopping.getD .command) })
      ∧ (s.lp.phase ≠ .running ∨ s.cfg.lens.indexMode = false →
        exec (.lensHome ⟨tag, some ()⟩) s = answered tag .badState [] s)
      ∧ (s.lp.phase = .running → s.cfg.lens.indexMode = true → s.lp.referenced = true →
        exec (.lensHome ⟨tag, some ()⟩) s = answered tag .ok [] s)
      ∧ (s.lp.phase = .running → s.cfg.lens.indexMode = true → s.lp.referenced = false → ∃ t,
        exec (.lensHome ⟨tag, some ()⟩) s = answered tag .ok [] t
        ∧ t = { s with cp := t.cp, lp := { s.lp with
            stage := some .home, homing := true
            homeAt := if s.cfg.lens.homeMs = 0 then none else some (s.time + s.cfg.lens.homeMs * 1000) } })
      ∧ (∀ v, v ≤ 255 → exec (.lensIris ⟨tag, some v⟩) s
        = answered tag .ok [.u8 (min s.lp.irisMax (max s.lp.irisMin v))]
            (put { s.lp with irisStage := some (min s.lp.irisMax (max s.lp.irisMin v)) }))
      ∧ (∀ v, 255 < v → exec (.lensIris ⟨tag, some v⟩) s = answered tag .badValue [] s)
      ∧ (∀ x : LimitsArg,
        ¬ (-8388608 ≤ x.far ∧ x.far ≤ x.near ∧ x.near ≤ 8388607 ∧ x.irisMin ≤ x.irisMax ∧ x.irisMax ≤ 255) →
        exec (.lensLimits ⟨tag, some x⟩) s = answered tag .badValue [] s)
      ∧ (∀ x : LimitsArg, -8388608 ≤ x.far → x.far ≤ x.near → x.near ≤ 8388607 → x.irisMin ≤ x.irisMax → x.irisMax ≤ 255 →
        let v := s.lp.irisStage.getD s.lp.irisSent
        exec (.lensLimits ⟨tag, some x⟩) s = answered tag .ok [] (put { s.lp with
          far := x.far, near := x.near, irisMin := x.irisMin, irisMax := x.irisMax
          irisStage := if x.irisMin ≤ v ∧ v ≤ x.irisMax then s.lp.irisStage else some (min x.irisMax (max x.irisMin v)) }))
      ∧ (∀ w, exec (.lensAux ⟨tag, some w⟩) s
        = if s.lp.phase = .stopped then answered tag .badState [] s
          else if 4 ≤ s.lp.auxQueue.length then answered tag .busy [] s
          else answered tag .ok [.u8 (s.lp.auxQueue.length + 1)] (put { s.lp with auxQueue := s.lp.auxQueue ++ [w] }))
      ∧ (∀ v, v < -8388608 ∨ 8388607 < v → exec (.positionSet ⟨tag, some v⟩) s = answered tag .badValue [] s)
      ∧ (∀ v, -8388608 ≤ v → v ≤ 8388607 →
        (s.lp.referenced = true → exec (.positionSet ⟨tag, some v⟩) s
          = answered tag .ok [] (put { s.lp with counter := v, overrun := false }))
        ∧ (s.lp.referenced = false → ∃ t, exec (.positionSet ⟨tag, some v⟩) s = answered tag .ok [] t
          ∧ t.lp.counter = v ∧ t.lp.overrun = false ∧ t.lp.referenced = true ∧ t.lp.homing = false
          ∧ t.lp.phase = s.lp.phase)))

/-- The STATUS slot (R89, R91, R101, R102, R103, R105, R107, R113): away from the slot nothing changes. A word that is
missing, of wrong parity, without the present bit or of a repeated sequence, tried in that order, counts under its
reason; in RUNNING it lengthens the run of failures, the third making the lens LOST with the counter UNREFERENCED and
the drive stage empty, told by LENS_STATE with that last failure's reason, and in LOST it ends the run of good words. A good word becomes the latest. In WAITING the lens
enters RUNNING and its bits and type are recorded. In RUNNING the run of failures ends and they are recorded anew: the
fault bit set or cleared raises LENS_STATE with FAULT or FAULT_CLEAR; another type makes the counter UNREFERENCED,
raises TYPE_CHANGE, is followed by the homing test, and suspends a running servo; with neither no notice is raised, and
a settle wait whose word has been sent ends at a word not moving after one moving. In LOST the third in a row makes it
RUNNING, with the same comparisons. LENS_STATE, one queued entry, keeps the event's last reason. That the slot out of
its turn changes nothing is the model's reading (log entry 19). -/
def Obligations.StatusSlot : Prop :=
  ∀ (w : Option Word32) (s : State),
    (s.lp.phase = .stopped ∨ s.lp.slot ≠ 0 → exec (.statusSlot w) s = .next s)
    ∧ (s.lp.phase ≠ .stopped → s.lp.slot = 0 → ∃ t, exec (.statusSlot w) s = .next t
      ∧ t.lp.slot = 1
      ∧ (∀ why, (w = none ∧ why = SlotFailure.missing)
          ∨ (∃ x, w = some x ∧ parityRight x = false ∧ why = .parity)
          ∨ (∃ x, w = some x ∧ parityRight x = true ∧ x.getLsbD 0 = false ∧ why = .absent)
          ∨ (∃ x, w = some x ∧ parityRight x = true ∧ x.getLsbD 0 = true ∧ s.lp.lastSeq = some (statusWord x).sequence
            ∧ why = .repeated) →
          let name := match why with
            | .missing => "MISSING" | .parity => "PARITY" | .absent => "ABSENT" | .repeated => "REPEAT"
          t.lp.latest = s.lp.latest
          ∧ t.lp.missing = (if why = .missing then min (s.lp.missing + 1) 4294967295 else s.lp.missing)
          ∧ t.lp.parity = (if why = .parity then min (s.lp.parity + 1) 4294967295 else s.lp.parity)
          ∧ t.lp.absent = (if why = .absent then min (s.lp.absent + 1) 4294967295 else s.lp.absent)
          ∧ t.lp.repeated = (if why = .repeated then min (s.lp.repeated + 1) 4294967295 else s.lp.repeated)
          ∧ (s.lp.phase = .waiting → t.lp.phase = .waiting)
          ∧ (s.lp.phase = .running → s.lp.failRun + 1 < 3 → t.lp.phase = .running ∧ t.lp.failRun = s.lp.failRun + 1)
          ∧ (s.lp.phase = .running → 3 ≤ s.lp.failRun + 1 →
              t.lp.phase = .lost ∧ t.lp.referenced = false ∧ t.lp.stage = none ∧ t.lp.homing = false
              ∧ t.Tells .lensState (.num 0) [.word "LOST", .word name, .i32 s.lp.counter, .word "UNREFERENCED",
                  flag s.lp.overrun])
          ∧ (s.lp.phase = .lost → t.lp.phase = .lost ∧ t.lp.goodRun = 0))
      ∧ ∀ x, w = some x → parityRight x = true → x.getLsbD 0 = true → s.lp.lastSeq ≠ some (statusWord x).sequence →
          let st := statusWord x
          let told := fun (reason : String) => (∃ n ∈ t.cp.notices, n.key = (.lensState, .num 0)
              ∧ n.values.take 4 = [.word "RUNNING", .word reason, .i32 s.lp.counter,
                .word (if t.lp.referenced then "REFERENCED" else "UNREFERENCED")]) ∨ t.cp.lost = true
          let recorded := t.lp.lensType = some st.lensType ∧ t.lp.nearStop = st.nearStop ∧ t.lp.farStop = st.farStop
            ∧ t.lp.irisMoving = st.irisMoving ∧ t.lp.fault = st.fault
          let faultTold := if st.fault then "FAULT" else "FAULT_CLEAR"
          let mayHome := s.cfg.lens.indexMode = true ∧ s.lp.homing = false
          let homed := t.lp.stage = some .home ∧ t.lp.homing = true
          let runs := s.fe.servo = .seeking ∨ s.fe.servo = .locked ∨ s.fe.servo = .following ∨ s.fe.servo = .failed
          t.lp.latest = some st ∧ t.lp.lastSeq = some st.sequence
          ∧ (s.lp.phase = .waiting → t.lp.phase = .running ∧ recorded ∧ t.lp.referenced = s.lp.referenced
            ∧ (mayHome → s.lp.referenced = false → homed ∧ told "HOMING")
            ∧ (¬ mayHome ∨ s.lp.referenced = true → told "ANSWERED"))
          ∧ (s.lp.phase = .running → t.lp.phase = .running ∧ t.lp.failRun = 0 ∧ recorded
            ∧ (s.lp.lensType = some st.lensType → t = { s with lp := t.lp, fe := t.fe, cp := t.cp }
              ∧ t.lp.referenced = s.lp.referenced
              ∧ (st.fault = s.lp.fault → t.cp = s.cp) ∧ (st.fault ≠ s.lp.fault → told faultTold)
              ∧ (s.fe.settle = none → t.fe = s.fe)
              ∧ ∀ v, s.fe.settle = some v →
                (v.sent = false ∨ (st.moving = false ∧ v.moved = false) → t.fe = s.fe)
                ∧ (v.sent = true → st.moving = true → t.fe = { s.fe with settle := some { v with moved := true } })
                ∧ (v.sent = true → st.moving = false → v.moved = true →
                  t.fe = { s.fe with settle := none, settledAt := some s.time }))
            ∧ (s.lp.lensType ≠ some st.lensType → t.lp.referenced = false
              ∧ (mayHome → homed ∧ told "HOMING") ∧ (¬ mayHome → told "TYPE_CHANGE")
              ∧ (runs → t.fe.servo = .suspended ∧ t.fe.settle = none)))
          ∧ (s.lp.phase = .lost → s.lp.goodRun + 1 < 3 → t.lp.phase = .lost ∧ t.lp.goodRun = s.lp.goodRun + 1)
          ∧ (s.lp.phase = .lost → 3 ≤ s.lp.goodRun + 1 → t.lp.phase = .running ∧ recorded
            ∧ (s.lp.lensType ≠ some st.lensType → t.lp.referenced = false)
            ∧ (s.lp.lensType = some st.lensType → t.lp.referenced = s.lp.referenced)
            ∧ (mayHome → t.lp.referenced = false → homed ∧ told "HOMING")
            ∧ (¬ mayHome ∨ t.lp.referenced = true → told (if s.lp.lensType ≠ some st.lensType then "TYPE_CHANGE"
              else if st.fault ≠ s.lp.fault then faultTold else "RECOVERED"))))

/-- The other slots and the frame's end (R100, R104, R106, R108, R110, R116): away from its slot each changes nothing.
The DRIVE slot sends the staged word, counts it and empties the stage, or sends the idle word. The IRIS slot sends the
staged aperture, or the last sent again. The AUX slot sends the oldest waiting word while the lens is RUNNING, and takes
an answer that is not idle. The frame's end, once its period is over, begins the next frame, unless a stop awaited it:
then the lens is STOPPED with its stage and AUX queue empty and its counter UNREFERENCED. That a slot out of its turn
changes nothing, and the answer's parity is not checked, is the model's reading (log entry 19). -/
def Obligations.LensFrame : Prop :=
  ∀ (w : Option Word32) (s : State),
    (s.lp.phase = .stopped ∨ s.lp.slot ≠ 1 → exec .driveSlot s = .next s)
    ∧ (s.lp.phase ≠ .stopped → s.lp.slot = 1 →
      (s.lp.stage = none → exec .driveSlot s = .next { s with lp := { s.lp with slot := 2, driveOut := some (driveBits none) } })
      ∧ (s.lp.stage = some .home → exec .driveSlot s = .next { s with lp := { s.lp with
          slot := 2, driveOut := some (driveBits (some .home)), stage := none, lastDrive := some .home
          homes := min (s.lp.homes + 1) 4294967295 } })
      ∧ ∀ v k, s.lp.stage = some (.driveTo v k) → exec .driveSlot s = .next { s with
          fe := { s.fe with settle := s.fe.settle.map (fun x => { x with sent := true }) }
          lp := { s.lp with
            slot := 2, driveOut := some (driveBits (some (.driveTo v k))), stage := none
            lastDrive := some (.driveTo v k), drives := min (s.lp.drives + 1) 4294967295 } })
    ∧ (s.lp.phase = .stopped ∨ s.lp.slot ≠ 2 → exec .irisSlot s = .next s)
    ∧ (s.lp.phase ≠ .stopped → s.lp.slot = 2 → exec .irisSlot s = .next { s with lp := { s.lp with
        slot := 3, irisOut := some (irisBits (s.lp.irisStage.getD s.lp.irisSent))
        irisSent := s.lp.irisStage.getD s.lp.irisSent, irisStage := none } })
    ∧ (s.lp.phase = .stopped ∨ s.lp.slot ≠ 3 → exec (.auxSlot w) s = .next s)
    ∧ (s.lp.phase ≠ .stopped → s.lp.slot = 3 → ∃ t, exec (.auxSlot w) s = .next t
      ∧ t = { s with lp := { s.lp with
          slot := 4, auxQueue := if s.lp.phase = .running then s.lp.auxQueue.drop 1 else s.lp.auxQueue
          auxOut := some (auxBits (if s.lp.phase = .running then s.lp.auxQueue.head? else none))
          auxHistory := t.lp.auxHistory, auxReceived := t.lp.auxReceived } }
      ∧ ((∀ x, w = some x → x.getLsbD 16 = false) →
          t.lp.auxHistory = s.lp.auxHistory ∧ t.lp.auxReceived = s.lp.auxReceived)
      ∧ ∀ x, w = some x → x.getLsbD 16 = true → t.lp.auxReceived = min (s.lp.auxReceived + 1) 4294967295
          ∧ t.lp.auxHistory.getLast? = some (x.setWidth 16) ∧ t.lp.auxHistory.length ≤ 4)
    ∧ (s.lp.phase = .stopped ∨ s.lp.slot ≠ 4 ∨ s.time < s.lp.frameFrom + s.lp.framePeriod → exec .lensFrameEnd s = .next s)
    ∧ (s.lp.phase ≠ .stopped → s.lp.slot = 4 → s.lp.frameFrom + s.lp.framePeriod ≤ s.time →
      (s.lp.stopping = none → exec .lensFrameEnd s = .next { s with lp := { s.lp with
        frames := min (s.lp.frames + 1) 4294967295, frameFrom := s.lp.frameFrom + s.lp.framePeriod
        framePeriod := s.cfg.lens.framePeriod, slot := 0 } })
      ∧ (s.lp.stopping ≠ none → ∃ t, exec .lensFrameEnd s = .next t
        ∧ t.lp.phase = .stopped ∧ t.lp.stopping = none ∧ t.lp.stage = none ∧ t.lp.auxQueue = [] ∧ t.lp.referenced = false
        ∧ t.lp.homing = false ∧ t.lp.frames = min (s.lp.frames + 1) 4294967295))

/-- The lens-detect line, the encoder, the index and the home timer (R102, R107, R111, R112, R113, R116): the detect
line's change puts an enabled port from STOPPED into WAITING, or any port into STOPPED with its counter UNREFERENCED,
unless the port takes no change. In QUADRATURE a single step of the pair moves the counter by one, reversed if the count
direction is, and a step of both lines counts an encoder error and leaves the counter UNREFERENCED; in UP_ONLY a rising
edge of A counts up; beyond its range the counter stands and the overrun flag is set; in STOPPED nothing counts. The
index event in reference mode INDEX gives the counter the index value and makes it REFERENCED. The home timer's end
clears the homing flag. That HOME_TIMEOUT with no timer due, and a detect line commanded to the level it has, change
nothing is the model's choice (log entry 3). -/
def Obligations.LensEvents : Prop :=
  ∀ (a b v : Bool) (s : State),
    (let s1 := { s with lines := { s.lines with lensDetect := v } };
      (s.lines.lensDetect = v ∨ s.takesDetect = false → exec (.lensDetectChange v) s = .next s1)
      ∧ (s.lines.lensDetect = false → v = true → s.takesDetect = true →
        (s.lp.phase = .stopped → s.lp.enable = true → ∃ t, exec (.lensDetectChange v) s = .next t ∧ t.lp.phase = .waiting
          ∧ t.lp.frameFrom = s.time)
        ∧ (s.lp.phase ≠ .stopped ∨ s.lp.enable = false → exec (.lensDetectChange v) s = .next s1))
      ∧ (s.lines.lensDetect = true → v = false → s.takesDetect = true → ∃ t, exec (.lensDetectChange v) s = .next t
          ∧ t.lp.phase = .stopped ∧ (s.lp.phase ≠ .stopped → t.lp.referenced = false ∧ t.lp.auxQueue = [])))
    ∧ (let s1 := { s with lines := { s.lines with encA := a, encB := b } };
      let by_ : Int → Int := (fun d => if s.cfg.lens.upOnly = false ∧ s.cfg.lens.reversed = true then -d else d);
      (s.lp.phase = .stopped → exec (.encoderEdge a b) s = .next s1)
      ∧ (s.lp.phase ≠ .stopped → ∀ d, d ≠ 0 →
        (s.cfg.lens.upOnly = false ∧ quadStep s.lines.encA s.lines.encB a b = some d)
          ∨ (s.cfg.lens.upOnly = true ∧ a = true ∧ s.lines.encA = false ∧ d = 1) →
        (-8388608 ≤ s.lp.counter + by_ d → s.lp.counter + by_ d ≤ 8388607 →
          exec (.encoderEdge a b) s = .next { s1 with lp := { s.lp with counter := s.lp.counter + by_ d } })
        ∧ (s.lp.counter + by_ d < -8388608 ∨ 8388607 < s.lp.counter + by_ d → ∃ t, exec (.encoderEdge a b) s = .next t
          ∧ t = { s1 with lp := { s.lp with overrun := true }, cp := t.cp } ∧ (s.lp.overrun = true → t.cp = s.cp)))
      ∧ (s.lp.phase ≠ .stopped → s.cfg.lens.upOnly = false → quadStep s.lines.encA s.lines.encB a b = some 0 →
          exec (.encoderEdge a b) s = .next s1)
      ∧ (s.lp.phase ≠ .stopped → s.cfg.lens.upOnly = false → quadStep s.lines.encA s.lines.encB a b = none → ∃ t,
          exec (.encoderEdge a b) s = .next t ∧ t.lp.encErrors = min (s.lp.encErrors + 1) 4294967295
          ∧ t.lp.referenced = false ∧ t.lp.counter = s.lp.counter))
    ∧ (s.lp.phase = .stopped ∨ s.cfg.lens.indexMode = false → exec .indexEvent s = .next s)
    ∧ (s.lp.phase ≠ .stopped → s.cfg.lens.indexMode = true →
      (s.lp.referenced = true →
        exec .indexEvent s = .next { s with lp := { s.lp with counter := s.cfg.lens.indexValue } })
      ∧ (s.lp.referenced = false → ∃ t, exec .indexEvent s = .next t
        ∧ t.lp.counter = s.cfg.lens.indexValue ∧ t.lp.referenced = true ∧ t.lp.homing = false))
    ∧ (s.lp.homing = false ∨ (∀ m, s.lp.homeAt = some m → s.time < m) → exec .homeTimeout s = .next s)
    ∧ (s.lp.homing = true → (∃ m, s.lp.homeAt = some m ∧ m ≤ s.time) → ∃ t, exec .homeTimeout s = .next t
      ∧ t = { s with lp := { s.lp with homing := false, homeAt := none }, cp := t.cp })

/-! ## The development engine -/

/-- RECIPE_SET and RECIPE_SELECT (R117, R118, R119): a recipe number above 3 is BAD_VALUE; RECIPE_SET is IN_USE while a
HELD shot bound to the recipe has its DEVELOP duty PENDING or ACTIVE; otherwise the recipe is replaced, each field out
of range by its default, so that all fields are in range, and CONFIG_DEFAULTED is raised with the recipe number and the
replaced fields in the order of R117, just where there are any. The words that name a single trim or gain are the
model's choice (log entry 5). RECIPE_SELECT keeps the number until the next landing. -/
def Obligations.RecipeCommands : Prop :=
  ∀ (tag : Byte) (n : Nat) (rc : Recipe) (s : State), s.awake = true →
    (3 < n → exec (.recipeSet ⟨tag, some (n, rc)⟩) s = answered tag .badValue [] s
      ∧ exec (.recipeSelect ⟨tag, some n⟩) s = answered tag .badValue [] s)
    ∧ (n ≤ 3 → exec (.recipeSelect ⟨tag, some n⟩) s = answered tag .ok [] { s with de := { s.de with selected := some n } })
    ∧ (n ≤ 3 → (∃ t ∈ s.ss.table, t.state = .held ∧ t.recipe = n
        ∧ ∃ d, t.duty .develop = some d ∧ (d.state = .pending ∨ d.state = .active)) →
        exec (.recipeSet ⟨tag, some (n, rc)⟩) s = answered tag .inUse [] s)
    ∧ (n ≤ 3 → s.recipeOwed n = false → ∃ t m, exec (.recipeSet ⟨tag, some (n, rc)⟩) s = answered tag .ok [] t
      ∧ t = { s with cp := t.cp, de := { s.de with recipes := modAt n (fun _ => m) s.de.recipes } }
      ∧ (m.scale = 1 ∨ m.scale = 2 ∨ m.scale = 4 ∨ m.scale = 8)
      ∧ m.scale = (if rc.scale = 1 ∨ rc.scale = 2 ∨ rc.scale = 4 ∨ rc.scale = 8 then rc.scale else 4)
      ∧ m.trimR = (if -512 ≤ rc.trimR ∧ rc.trimR ≤ 511 then rc.trimR else 0)
      ∧ m.trimGr = (if -512 ≤ rc.trimGr ∧ rc.trimGr ≤ 511 then rc.trimGr else 0)
      ∧ m.trimGb = (if -512 ≤ rc.trimGb ∧ rc.trimGb ≤ 511 then rc.trimGb else 0)
      ∧ m.trimB = (if -512 ≤ rc.trimB ∧ rc.trimB ≤ 511 then rc.trimB else 0)
      ∧ m.gainR = (if rc.gainR = 0 then 4096 else rc.gainR) ∧ m.gainG = (if rc.gainG = 0 then 4096 else rc.gainG)
      ∧ m.gainB = (if rc.gainB = 0 then 4096 else rc.gainB) ∧ m.gainE = (if rc.gainE = 0 then 4096 else rc.gainE)
      ∧ m.white = rc.white ∧ m.matrix = rc.matrix
      ∧ m.tone = (if ∀ v ∈ rc.tone, v ≤ 255 then rc.tone else (List.range 257).map (fun i => min i 255))
      ∧ (let replaced := (if m.scale = rc.scale then [] else ["scale"])
          ++ (if m.trimR = rc.trimR then [] else ["black trim r"]) ++ (if m.trimGr = rc.trimGr then [] else ["black trim gr"])
          ++ (if m.trimGb = rc.trimGb then [] else ["black trim gb"]) ++ (if m.trimB = rc.trimB then [] else ["black trim b"])
          ++ (if rc.gainR = 0 then ["white-balance gain r"] else []) ++ (if rc.gainG = 0 then ["white-balance gain g"] else [])
          ++ (if rc.gainB = 0 then ["white-balance gain b"] else []) ++ (if rc.gainE = 0 then ["exposure gain"] else [])
          ++ (if ∀ v ∈ rc.tone, v ≤ 255 then [] else ["tone curve"])
        t.cp = if replaced = [] then s.cp else
          raiseIn .configDefaulted (.num n) (Wire.items replaced.length :: replaced.map Wire.word) s.time s.cp))

/-- The development job (R6, R8, R12, R17, R18, R22, R120, R123, R124, R126, R134, R136): in IDLE a job starts on the
develop queue's head entry; its DEVELOP duty is ACTIVE, its proof is floor(W / 2s) by floor(H / 2s) pixels of three
bytes, and if the capture floor allows and no reservation is about to be granted, the shot takes the proof's blocks from
the free list's head, with STORE_LOW raised just where the free count so passes to below the low threshold, and the
engine is DEVELOPING, otherwise it is STALLED. A STALLED job is granted on the same condition. A job whose raw bytes are
all read completes: the rows still to be written are written, the shot has its develop status, its DEVELOP is DONE and
the engine IDLE, at one moment; the completed count gains 1, and the BLACK_HIGH count where a channel is raised. Each
PENDING PROOF duty of the shot then joins its slot's queue (no overflow move being due). With no duty that needs the
proof still owed and no pin on it, its blocks join the free list's tail; with no duty owed at all, no KEEP, pin or
recording memo the shot's entry is FREE, and its raw and memo blocks follow. With no job to start, to grant or to
complete the three steps change nothing. That a step whose conditions do not hold changes nothing, the grant behind a
waiting reservation, and that the last row is written with the completion are the model's reading (log entries 3, 12,
17). -/
def Obligations.DevelopmentSteps : Prop :=
  ∀ s : State,
    (s.de.phase ≠ .idle ∨ s.de.queue = [] → exec .developJobStart s = .next s)
    ∧ (∀ e rest h, s.de.phase = .idle → s.de.queue = e :: rest → s.held e.shot = some h →
      let rc := s.de.recipes.getD h.recipe defaultRecipe
      let wide := h.geom.width / (2 * rc.scale)
      let high := h.geom.height / (2 * rc.scale)
      let blocks := (wide * high * 3 + 65535) / 65536
      ∃ t j, exec .developJobStart s = .next t
        ∧ t = { s with ss := t.ss, de := t.de, cp := t.cp }
        ∧ t.de.queue = rest ∧ t.de.job = some j ∧ j.shot = h.number ∧ j.recipe = rc ∧ j.geom = h.geom ∧ j.black = h.black
        ∧ j.width = wide ∧ j.height = high ∧ j.bytes = wide * high * 3 ∧ j.blocks = blocks ∧ j.bytesRead = 0 ∧ j.rows = 0
        ∧ (blocks + s.cfg.store.floor ≤ s.ss.free.length → s.mayReserve = false →
            t.de.phase = .developing ∧ t.ss.free = s.ss.free.drop blocks ∧ t.cp = s.tellsLow blocks
            ∧ (t.held e.shot).bind (·.proof) = some ⟨s.ss.free.take blocks, wide * high * 3, wide, high⟩)
        ∧ (s.ss.free.length < blocks + s.cfg.store.floor ∨ s.mayReserve = true →
            t.de.phase = .stalled ∧ t.ss.free = s.ss.free ∧ t.cp = s.cp ∧ t.de.stalls = min (s.de.stalls + 1) 4294967295)
        ∧ (h.duty .develop ≠ none → (t.held e.shot).bind (·.dutyState .develop) = some .active))
    ∧ (s.de.phase ≠ .stalled ∨ s.de.job = none → exec .allocationGrant s = .next s)
    ∧ (∀ j, s.de.phase = .stalled → s.de.job = some j →
      (s.ss.free.length < j.blocks + s.cfg.store.floor ∨ s.mayReserve = true → exec .allocationGrant s = .next s)
      ∧ (j.blocks + s.cfg.store.floor ≤ s.ss.free.length → s.mayReserve = false → ∃ t, exec .allocationGrant s = .next t
        ∧ t = { s with ss := t.ss, de := { s.de with phase := .developing }, cp := s.tellsLow j.blocks }
        ∧ t.ss.free = s.ss.free.drop j.blocks
        ∧ ∀ h, s.held j.shot = some h →
            t.held j.shot = some { h with proof := some ⟨s.ss.free.take j.blocks, j.bytes, j.width, j.height⟩ }))
    ∧ ((∀ j, s.de.job = some j → s.de.phase ≠ .developing ∨ j.bytesRead < 2 * j.recipe.scale * j.height * lineBytes j.geom) →
        exec .developComplete s = .next s)
    ∧ ∀ j, s.de.job = some j → s.de.phase = .developing → 2 * j.recipe.scale * j.height * lineBytes j.geom ≤ j.bytesRead → ∃ t,
      let high := highMask j.recipe j.black
      exec .developComplete s = .next t
      ∧ t.de = { s.de with
          phase := .idle, job := none, completed := min (s.de.completed + 1) 4294967295
          highs := if high.r ∨ high.g ∨ high.b then min (s.de.highs + 1) 4294967295 else s.de.highs }
      ∧ t.mem = ((List.range j.height).drop j.rows).foldl (fun m py =>
          writeRow (((s.held j.shot).map (·.raw)).getD []) ((((s.held j.shot).bind (·.proof)).map (·.blocks)).getD []) j py m)
          s.mem
      ∧ (∀ u, t.held j.shot = some u → (s.heldShots.map (·.number)).Nodup → u.develop = some high
          ∧ (∀ st, u.dutyState .develop = some st → st = .done))
      ∧ ∀ h, s.held j.shot = some h → (s.heldShots.map (·.number)).Nodup → h.duty .develop ≠ none →
        let owed := fun (d : Duty) => d.state == .pending || d.state == .active
        let kept := h.duties.any (fun d => d.key.needsProof && owed d) || h.pins.any (·.kind == .proof)
        let back := if kept then [] else (h.proof.map (·.blocks)).getD []
        let gone := h.duties.all (fun d => !owed d || d.key == .develop) && h.pins.isEmpty && !h.keep
          && !(s.mi.phase == .recording && s.mi.current.map (·.shot) == some j.shot)
        let job : FileJob := ⟨j.shot, .proof⟩
        (gone = true → t.held j.shot = none
          ∧ t.ss.free = s.ss.free ++ back ++ h.raw ++ ((h.memo.map (·.blocks)).getD []))
        ∧ (gone = false → t.cw.overflow = s.cw.overflow → t.ss.free = s.ss.free ++ back
          ∧ ∃ u, t.held j.shot = some u ∧ u.proof = if kept then h.proof else none)
        ∧ (s.cw.overflow = false → t.cw.overflow = false → ∀ sl, (t.slot sl).queue = (s.slot sl).queue
          ++ if h.dutyState (.card .proof sl) = some .pending ∧ job ∉ (s.slot sl).queue then [job] else [])

/-- Proof arithmetic (R44, R127 to R133): each component of a proof pixel is at most the tone curve's largest value, so
255 for a curve in range; the default curve gives the gained and mixed value's upper byte, rounded half up, at most 255.
The binned means of a proof pixel come from the raw pixels of its s × s quads, each normalized to 16 bits: the R values'
and the B values' sum plus half of s², floored, over s², and both greens' sum plus s² over 2s²; they lie between 0 and
65,535 for sums of quads in range; a proof row holds its pixels' three bytes in order, R, G, B. A value scaled is 0 at
or below black and 65,535 at or above white; and the spans that R130 raises are those below 256, green's black being the
mean of its two, rounded half up. A proof pixel is, stage by stage: the blacks with their trims, clamped; the value
above black scaled to the span; the combined gains in Q4.12, clamped to 1 to 65,535, and the gained values, clamped;
each row of the matrix with its half added and floored, clamped; and the tone curve between its entries. -/
def Obligations.ProofArithmetic : Prop :=
  (∀ (rc : Recipe) (k : Planes) (m : Rgb), (∀ v ∈ rc.tone, v ≤ 255) →
    let p := proofPixel rc k m
    p.r ≤ 255 ∧ p.g ≤ 255 ∧ p.b ≤ 255)
  ∧ (∀ o, o ≤ 65535 → toned defaultRecipe.tone o = min 255 ((o + 128) / 256))
  ∧ (∀ (s : Nat) (x : Bins), 0 < s → x.r ≤ 65535 * (s * s) → x.g ≤ 65535 * (2 * (s * s)) → x.b ≤ 65535 * (s * s) →
    let m := binMeans s x
    m.r ≤ 65535 ∧ m.g ≤ 65535 ∧ m.b ≤ 65535)
  ∧ (∀ (cfa : Cfa) (depth width px : Nat) (rc : Recipe) (k : Planes) (lines : List Nat),
    let s := rc.scale
    let quad : List Plane := match cfa with
      | .rggb => [.r, .gr, .gb, .b] | .grbg => [.gr, .r, .b, .gb] | .gbrg => [.gb, .b, .r, .gr] | .bggr => [.b, .gb, .gr, .r]
    let plane := fun (column row : Nat) => quad.getD (column % 2 + 2 * (row % 2)) .r
    let value := fun (row column : Nat) => lines.getD row 0 / 2 ^ (column * depth) % 2 ^ depth * 2 ^ (16 - depth)
    let total := fun (l : List Plane) => ((List.range (2 * s)).map (fun j => ((List.range (2 * s)).map (fun i =>
      if plane i j ∈ l then value j (2 * s * px + i) else 0)).sum)).sum
    binMeans s (binSums cfa depth s px lines) = ⟨(total [.r] + s * s / 2) / (s * s),
      (total [.gr, .gb] + s * s) / (2 * (s * s)), (total [.b] + s * s / 2) / (s * s)⟩
    ∧ (proofRow cfa depth width rc k lines).length = 3 * width
    ∧ (px < width → ((proofRow cfa depth width rc k lines).drop (3 * px)).take 3 =
      let p := proofPixel rc k (binMeans s (binSums cfa depth s px lines))
      [BitVec.ofNat 8 p.r, BitVec.ofNat 8 p.g, BitVec.ofNat 8 p.b]))
  ∧ (∀ white m b : Nat, (m ≤ b → scaled white m b = 0) ∧ scaled white m b ≤ 65535
    ∧ (256 + b ≤ white → white ≤ m → scaled white m b = 65535)
    ∧ (256 + b ≤ white → m ≤ white → scaled white m b = (m - b) * 65535 / (white - b)))
  ∧ ∀ (rc : Recipe) (k : Planes),
    ((highMask rc k).r = true ↔ (rc.white : Int) - clampInt 0 65535 (k.r + rc.trimR) < 256)
    ∧ ((highMask rc k).b = true ↔ (rc.white : Int) - clampInt 0 65535 (k.b + rc.trimB) < 256)
    ∧ ((highMask rc k).g = true
        ↔ (rc.white : Int) - clampInt 0 65535 (((k.gr : Int) + rc.trimGr + (k.gb + rc.trimGb) + 1) / 2) < 256)
    ∧ ∀ m : Rgb,
      let clamp := fun (v : Int) => min 65535 (max 0 v)
      let bR := clamp (k.r + rc.trimR)
      let bG := clamp (((k.gr : Int) + rc.trimGr + (k.gb + rc.trimGb) + 1) / 2)
      let bB := clamp (k.b + rc.trimB)
      let span := fun (b : Int) => if (rc.white : Int) - b < 256 then 256 else rc.white - b
      let scale := fun (v : Nat) (b : Int) => min 65535 (max 0 (v - b) * 65535 / span b)
      let gain := fun (g : Nat) => max 1 (min 65535 (((g : Int) * rc.gainE + 2048) / 4096))
      let gain16 := fun (l g : Int) => min 65535 ((l * g + 2048) / 4096)
      let yR := gain16 (scale m.r bR) (gain rc.gainR)
      let yG := gain16 (scale m.g bG) (gain rc.gainG)
      let yB := gain16 (scale m.b bB) (gain rc.gainB)
      let row := fun (i : Nat) => (clamp ((rc.matrix.getD i 0 * yR + rc.matrix.getD (i + 1) 0 * yG
        + rc.matrix.getD (i + 2) 0 * yB + 2048) / 4096)).toNat
      let tone := fun (o : Nat) => (rc.tone.getD (o / 256) 0 * (256 - o % 256)
        + rc.tone.getD (o / 256 + 1) 0 * (o % 256) + 128) / 256
      proofPixel rc k m = ⟨tone (row 0), tone (row 3), tone (row 6)⟩

/-! ## The card writer -/

/-- CARD_EXTENTS (R140, R155, R157): a slot other than A or B, and no run or more than 64, are BAD_VALUE; a slot that is
ABSENT, EJECTED or has taken CARD_FINAL is BAD_STATE; a run without sectors, one beyond the card's last sector, and an
overlap among the runs, with the list or with the current file's fragments are BAD_VALUE; more than 64 runs in all is
BUSY; otherwise the runs join the list's tail in order, the reply carries the list's runs and sectors, and a STARVED
slot resumes WRITING, CARD_STATE telling RESUMED, or, without a file and with 64 records, is READY with hold
RETURN_FULL, telling that (the model's reading: log entry 14). The other card commands (R141, R150, R152, R155, R156,
R158): each is BAD_VALUE on a slot other than A or B. CARD_FINAL is BAD_STATE on an ABSENT slot and otherwise sets the
slot's final flag; on slot A, STARVED under the plan OVERFLOW with the switch clear, the overflow move follows: A's file
is abandoned, its job and A's queued jobs move in order to B's tail with their duties but for those whose shot holds the
kind for B, the PROOF duties that wait for their proof move too, and the switch is set, CARD_STATE telling OVERFLOW with
the file. CARD_CLEAR is BAD_STATE unless the slot is FAULTED, which it leaves, READY with CLEARED, or, with jobs and no
run, STARVED with that. FILE_TAKE returns and removes the oldest record in every state, or returns none, and clears a
hold RETURN_FULL. CARD_EJECT is BAD_STATE on an ABSENT or FAULTED slot, changes nothing on an EJECTING one, makes a slot
with an active file EJECTING and any other READY with hold EJECTED, and tells which. CARD_SET takes a low mark and a
write timeout of 10 to 10,000 ms. That the number of runs is tested before the slot's state is the model's reading (log
entry 14), and that the sector total of the reply has 64 bits and a flag one byte its choice (log entry 5). -/
def Obligations.CardExtentsAndCommands : Prop :=
  (∀ (tag : Byte) (l : List Run) (sl : Slot) (s : State), s.awake = true →
      let c := s.slot sl
      let go := exec (.cardExtents ⟨tag, some (some sl, l)⟩) s
      let closed := c.state = .absent ∨ (c.state = .ready ∧ c.hold = .ejected) ∨ c.final = true
      let wrong := (∃ r ∈ l, r.count = 0 ∨ 4294967296 < r.start + r.count) ∨ selfOverlap l = true
        ∨ ∃ r ∈ l, ∃ x ∈ c.extents ++ ((c.file.map (·.fragments)).getD []), runsOverlap r x = true
      exec (.cardExtents ⟨tag, some (none, l)⟩) s = answered tag .badValue [] s
      ∧ (l = [] ∨ 64 < l.length → go = answered tag .badValue [] s)
      ∧ (l ≠ [] → l.length ≤ 64 →
        (closed → go = answered tag .badState [] s)
        ∧ (¬ closed → wrong → go = answered tag .badValue [] s)
        ∧ (¬ closed → ¬ wrong → 64 < c.extents.length + l.length → go = answered tag .busy [] s)
        ∧ (¬ closed → ¬ wrong → c.extents.length + l.length ≤ 64 → ∃ t,
          go = answered tag .ok
            [.u8 (c.extents.length + l.length), .u64 ((c.extents.map (·.count)).sum + (l.map (·.count)).sum)] t
          ∧ (t.slot sl).extents = c.extents ++ l ∧ (t.slot sl).lowArmed = true ∧ t.mem = s.mem
          ∧ (c.state = .starved → c.file.isSome = true ∨ c.returns.length < 64 →
            (t.slot sl).state = .writing ∧ t.TellsCard sl "RESUMED" [])
          ∧ (c.state = .starved → c.file = none → 64 ≤ c.returns.length →
            (t.slot sl).state = .ready ∧ (t.slot sl).hold = .returnFull ∧ t.TellsCard sl "RETURN_FULL" []))))
  ∧ (∀ (tag : Byte) (sl : Slot) (low ms : Nat) (s : State), s.awake = true →
      let c := s.slot sl
      exec (.cardFinal ⟨tag, some none⟩) s = answered tag .badValue [] s
      ∧ exec (.cardClear ⟨tag, some none⟩) s = answered tag .badValue [] s
      ∧ exec (.fileTake ⟨tag, some none⟩) s = answered tag .badValue [] s
      ∧ exec (.cardEject ⟨tag, some none⟩) s = answered tag .badValue [] s
      ∧ exec (.cardSet ⟨tag, some (none, low, ms)⟩) s = answered tag .badValue [] s
      ∧ (c.state = .absent → exec (.cardFinal ⟨tag, some (some sl)⟩) s = answered tag .badState [] s)
      ∧ (c.state ≠ .absent → ∃ t, exec (.cardFinal ⟨tag, some (some sl)⟩) s = answered tag .ok [] t
        ∧ (t.slot sl).final = true
        ∧ (sl = .b → t = { s with cw := { s.cw with b := { s.cw.b with final := true } } })
        ∧ (sl = .a → c.state ≠ .starved ∨ s.cfg.plans.card ≠ .overflow ∨ s.cw.overflow = true →
            t = { s with cw := { s.cw with a := { s.cw.a with final := true } } })
        ∧ (sl = .a → c.state = .starved → s.cfg.plans.card = .overflow → s.cw.overflow = false →
            (s.heldShots.map (·.number)).Nodup →
            let jobs := (c.file.map (fun f => (⟨f.shot, f.kind⟩ : FileJob))).toList ++ c.queue
            let moves := fun (j : FileJob) => (s.dutyOf j.shot (.card j.kind .b)).isNone
            jobs.Nodup → (∀ j ∈ c.queue, s.dutyOf j.shot (.card j.kind .a) = some .pending) →
            (∀ f, c.file = some f → s.dutyOf f.shot (.card f.kind .a) = some .active) →
            t.cw.overflow = true ∧ t.cw.a.file = none
            ∧ t.TellsCard .a "OVERFLOW"
                (match c.file with | some f => [.u32 f.shot, .word f.kind.name] | none => [.u32 0])
            ∧ t.cw.a.queue = jobs.filter (fun j => !moves j) ∧ t.cw.b.queue = s.cw.b.queue ++ jobs.filter moves
            ∧ t.cw.a.state = (if t.cw.a.queue = [] then .ready else .starved)
            ∧ (∀ j ∈ jobs, t.dutyOf j.shot (.card j.kind (if moves j then .b else .a)) = some .pending
              ∧ (moves j = true → t.dutyOf j.shot (.card j.kind .a) = none))
            ∧ (∀ x ∈ s.heldShots, x.dutyState (.card .proof .a) = some .pending → ⟨x.number, .proof⟩ ∉ jobs →
                x.dutyState (.card .proof .b) = none → t.dutyOf x.number (.card .proof .b) = some .pending)
            ∧ (∀ f, c.file = some f → f.fragments ≠ [] → t.cw.a.returns = c.returns
                ++ [⟨f.shot, f.kind, some .overflow, 512 + f.payload, (f.fragments.map (·.count)).sum, f.fragments⟩])))
      ∧ (c.state ≠ .faulted → exec (.cardClear ⟨tag, some (some sl)⟩) s = answered tag .badState [] s)
      ∧ (c.state = .faulted → ∃ t, exec (.cardClear ⟨tag, some (some sl)⟩) s = answered tag .ok [] t
        ∧ (t.slot sl).state ≠ .faulted ∧ (t.slot sl).extents = c.extents ∧ t.mem = s.mem
        ∧ (c.file = none → c.queue = [] ∨ (c.extents ≠ [] ∧ c.returns.length < 64) → s.cw.closing = false →
            sl = .a ∨ s.cw.a.state ≠ .starved → (t.slot sl).state = .ready ∧ t.TellsCard sl "CLEARED" [])
        ∧ (c.file = none → c.hold = .none → c.queue ≠ [] → c.extents = [] → s.cw.closing = false → c.final = false →
            sl = .a ∨ s.cw.a.state ≠ .starved → (t.slot sl).state = .starved ∧ t.TellsCard sl "STARVED" []))
      ∧ (c.returns = [] → exec (.fileTake ⟨tag, some (some sl)⟩) s = answered tag .ok [.present false] s)
      ∧ (∀ r rest, c.returns = r :: rest → ∃ t,
          exec (.fileTake ⟨tag, some (some sl)⟩) s = answered tag .ok
            (record [
              .present true :: [.u32 r.shot, .word r.kind.name, .word (if r.cause.isSome then "ABANDONED" else "WRITTEN")],
              opt r.cause (fun x => [.word x.name]), [.u32 r.bytes, .u32 r.sectors],
              listOf r.fragments (fun x => [.u32 x.start, .u32 x.count])]) t
          ∧ (sl = .b ∨ c.file = none ∨ c.state ≠ .starved → (t.slot sl).returns = rest)
          ∧ ((c.file ≠ none ∧ c.state ≠ .starved) ∨ c.state = .absent ∨ c.state = .faulted ∨
              (c.state = .ready ∧ s.cw.closing = false ∧ rest.length < 64) →
            (t.slot sl).hold = if c.hold = .returnFull then .none else c.hold))
      ∧ (c.state = .absent ∨ c.state = .faulted → exec (.cardEject ⟨tag, some (some sl)⟩) s = answered tag .badState [] s)
      ∧ (c.state = .ejecting → exec (.cardEject ⟨tag, some (some sl)⟩) s = answered tag .ok [] s)
      ∧ (c.state = .ready ∨ c.state = .writing ∨ c.state = .starved → ∃ t,
          exec (.cardEject ⟨tag, some (some sl)⟩) s = answered tag .ok [] t
          ∧ t = { s with cw := t.cw, cp := t.cp }
          ∧ t.slot sl = (if c.file = none then { c with state := .ready, hold := .ejected } else { c with state := .ejecting })
          ∧ t.TellsCard sl (if c.file = none then "EJECTED" else "EJECTING") [])
      ∧ (10 ≤ ms → ms ≤ 10000 → low ≤ 4294967295 → ∃ t, exec (.cardSet ⟨tag, some (some sl, low, ms)⟩) s = answered tag .ok [] t
          ∧ t = { s with cw := t.cw } ∧ t.slot sl = { c with lowMark := low, writeMs := ms })
      ∧ (ms < 10 ∨ 10000 < ms → exec (.cardSet ⟨tag, some (some sl, low, ms)⟩) s = answered tag .badValue [] s))

/-- The card-present line and the start of a file (R138, R139, R144, R145, R152, R154, R155, R157, R159): the line's
change is not taken in standby. A card that appears in an ABSENT slot leaves its list empty, the low warning armed and
CARD_FINAL not taken, in slot A the overflow switch clear, and the slot, but for the closing, READY with INSERTED told,
or with jobs waiting STARVED with that told; one that goes leaves the slot ABSENT with no file, no runs and no hold,
CARD_STATE telling REMOVED with the file. Its active file is abandoned: the file's job stands at the head of the queue,
its duty is PENDING and the slot's pin on the shot is dropped, the abandoned count gains 1, and the sectors that it had
consumed, if any, stand in a REMOVED record, FILES_WAITING telling the list's length. The jobs queued behind it and the
earlier records stand. FILE_START acts when the slot has no file and no hold, is READY, WRITING or STARVED, has a job, a
run and room for a record, and the writer is not closing: the head job's file becomes the current one, of the header's
sector and the sectors of its payload, and the slot is WRITING; its duty is ACTIVE. Its header of 512 bytes holds the
shot's facts at the places of the card file header's table, the develop status and the channels raised only if a proof
is present, and ends with the CRC-32 of the bytes before. That an event whose conditions do not hold changes nothing is
the model's choice (log entry 3). -/
def Obligations.CardsAndFiles : Prop :=
  ∀ (sl : Slot) (v : Bool) (s : State),
    let c := s.slot sl
    (s.cardLine sl = v ∨ s.cp.power = .standby →
      exec (.cardPresentChange sl v) s = .next { s with lines := s.lines.withCard sl v })
    ∧ (s.cardLine sl = false → v = true → s.cp.power ≠ .standby → c.state = .absent → ∃ t,
      exec (.cardPresentChange sl v) s = .next t
      ∧ (t.slot sl).extents = [] ∧ (t.slot sl).final = false ∧ (t.slot sl).state ≠ .absent ∧ (t.slot sl).lowArmed = true
      ∧ (sl = .a → t.cw.overflow = false)
      ∧ (c.file = none → s.cw.closing = false → sl = .a ∨ s.cw.a.state ≠ .starved → (t.slot sl).hold = .none
        ∧ (c.queue = [] → (t.slot sl).state = .ready ∧ t.TellsCard sl "INSERTED" [])
        ∧ (c.queue ≠ [] → (t.slot sl).state = .starved ∧ t.TellsCard sl "STARVED" [])))
    ∧ (s.cardLine sl = true → v = false → s.cp.power ≠ .standby → c.state ≠ .absent → ∃ t,
      exec (.cardPresentChange sl v) s = .next t
      ∧ (t.slot sl).state = .absent ∧ (t.slot sl).extents = [] ∧ (t.slot sl).file = none ∧ (t.slot sl).hold = .none
      ∧ (t.slot sl).final = false
      ∧ t.TellsCard sl "REMOVED" (match c.file with | some f => [.u32 f.shot, .word f.kind.name] | none => [.u32 0])
      ∧ (c.file = none → (t.slot sl).queue = c.queue ∧ (t.slot sl).returns = c.returns)
      ∧ ∀ f, c.file = some f → (t.slot sl).queue = ⟨f.shot, f.kind⟩ :: c.queue
        ∧ (t.slot sl).abandoned = min (c.abandoned + 1) 4294967295
        ∧ (f.fragments = [] → (t.slot sl).returns = c.returns)
        ∧ (f.fragments ≠ [] → (t.slot sl).returns = c.returns
            ++ [⟨f.shot, f.kind, some .removed, 512 + f.payload, (f.fragments.map (·.count)).sum, f.fragments⟩]
          ∧ t.Tells .filesWaiting (.slot sl) [.u8 (c.returns.length + 1)])
        ∧ (s.dutyOf f.shot (.card f.kind sl) ≠ none → ∃ u, t.held f.shot = some u
          ∧ u.dutyState (.card f.kind sl) = some .pending
          ∧ ∀ p ∈ u.pins, p.reader ≠ match sl with | .a => Reader.a | .b => Reader.b))
    ∧ (s.mayStartFile sl = false → exec (.fileStart sl) s = .next s)
    ∧ ∀ j rest h, c.file = none → c.state = .ready ∨ c.state = .writing ∨ c.state = .starved → c.hold = .none →
      c.queue = j :: rest → c.extents ≠ [] → c.returns.length < 64 → s.cw.closing = false → s.held j.shot = some h →
      ∃ t f, exec (.fileStart sl) s = .next t
        ∧ t = { s with ss := { s.ss with table := t.ss.table }, cw := t.cw }
        ∧ t.slot sl = { c with queue := rest, file := some f, state := .writing }
        ∧ f.shot = j.shot ∧ f.kind = j.kind ∧ f.payload = h.payload j.kind
        ∧ f.sectors = 1 + (h.payload j.kind + 511) / 512 ∧ f.issued = 0 ∧ f.written = 0 ∧ f.fragments = []
        ∧ f.flight = none ∧ f.inHand = 0
        ∧ (∀ d, h.duty (.card j.kind sl) = some d → (t.held j.shot).bind (·.dutyState (.card j.kind sl)) = some .active)
        ∧ let kindCode := match j.kind with | .raw => 1 | .proof => 2 | .memo => 3 | .caption => 4
          let cfaCode := match h.geom.cfa with | .rggb => 0 | .grbg => 1 | .gbrg => 2 | .bggr => 3
          let modeCode := match h.snapshot.mode with
            | none => 0 | some .single => 1 | some .continuous => 2 | some .monitor => 3
          let servoCode := match h.snapshot.state with
            | .idle => 0 | .seeking => 1 | .locked => 2 | .following => 3 | .failed => 4 | .suspended => 5
          let caption := h.caption.getD []
          let highs := fun (m : HighMask) => m.r.toNat + 2 * m.g.toNat + 4 * m.b.toNat
          caption.length ≤ 192 → f.header.length = 512
            ∧ f.header.drop 508 = leBytes 4 (crc32 (f.header.take 508))
            ∧ ∀ p ∈ [(0, [0x44, 0x56, 0x37, 0x34]), (4, leBytes 1 1), (5, leBytes 1 kindCode), (6, leBytes 1 cfaCode),
                (7, leBytes 1 h.geom.depth), (8, leBytes 4 h.number), (12, leBytes 4 h.burst), (16, leBytes 2 h.frame),
                (18, leBytes 2 h.geom.width), (20, leBytes 2 h.geom.height), (22, leBytes 1 h.sequence),
                (23, leBytes 1 h.recipe), (24, leBytes 8 h.released), (32, leBytes 8 h.scheduled), (40, leBytes 8 h.exposed),
                (48, leInt 8 h.lateness), (56, leInt 4 h.phase), (60, leBytes 2 h.damaged),
                (62, leBytes 1 (match h.proof, h.develop with
                  | some _, some m => if (m.r || m.g || m.b) = true then 2 else 1
                  | _, _ => 0)),
                (63, leBytes 1 (match h.proof, h.develop with | some _, some m => highs m | _, _ => 0)),
                (64, leBytes 2 h.black.r), (66, leBytes 2 h.black.gr), (68, leBytes 2 h.black.gb), (70, leBytes 2 h.black.b),
                (72, leBytes 2 ((h.proof.map (·.width)).getD 0)), (74, leBytes 2 ((h.proof.map (·.height)).getD 0)),
                (76, leBytes 4 ((h.memo.map (·.length)).getD 0)), (80, leBytes 4 (h.payload j.kind)), (84, leBytes 1 modeCode),
                (85, leBytes 1 servoCode), (86, leBytes 1 (h.snapshot.area.getD 255)),
                (87, leBytes 1 (h.snapshot.moving.toNat + 2 * h.snapshot.confirmed.toNat)),
                (88, leInt 4 h.snapshot.defocus), (92, leInt 4 h.snapshot.counter), (96, leBytes 1 caption.length),
                (97, caption ++ List.replicate (192 - caption.length) 0), (289, List.replicate 219 (0 : Byte))],
              (f.header.drop p.1).take p.2.length = p.2

/-- Card writes (R13, R142, R144, R146 to R151, R154, R155, R157, R159, R187): a slot whose file has its data in hand,
no write in flight and no retry due writes the next sectors from the head run, at most 2,048, not beyond the file or the
run; they leave the run and join the fragments, the last one grown where it is of the same run. EXTENTS_LOW is raised
where that takes the list below the low mark, once until more runs come. A write that takes the last run while the file
needs more leaves the slot STARVED (where no overflow move is due), and in the closing abandons the file with cause
SLEEP. The write carries the file's header, its payload from the shot's extent, and zero bytes to the last sector's end.
A retry writes the same bytes to the same sectors. Where the next write would begin a 65th fragment the file fails: its
record is FRAGMENTED and its duty FAILED. DONE adds the write's sectors to those written; with the file's last sector
the file is complete and a WRITTEN record joins the list; its duty is DONE, but a stale CAPTION's is PENDING again and
queued. Each record raises FILES_WAITING; with the 64th a WRITING slot takes hold RETURN_FULL, and an EJECTING one is
EJECTED. A first error, or timeout, of a write asks for its retry; an error of a retry faults the slot, which then has
no file and no jobs: the file's fragments stand in a FAULT record, its duty and the PENDING ones of the slot are FAILED.
A failed card duty sets KEEP and raises SHOT_KEPT, unless the same kind on the other card is DONE. CARD_STATE tells
STARVED, RETURN_FULL, EJECTED and FAULT. The law of the card (R154): of a slot's sectors, each consumed one is in the
current file's fragments or in a record; every command in ACTIVE and CLOSING but CARD_EXTENTS, FILE_TAKE, a change of
the card-present line and a reset keeps their sum with the list's. That an answer names its write, and one to another
write, or a timeout not due, changes nothing, is the model's reading (log entries 3, 14). -/
def Obligations.CardWrites : Prop :=
  (∀ (sl : Slot) (n : Nat) (s : State),
    let c := s.slot sl
    let recorded := fun (t : State) (f : CardFile) (cause : Option Cause) =>
      (t.slot sl).returns = c.returns
        ++ [⟨f.shot, f.kind, cause, 512 + f.payload, (f.fragments.map (·.count)).sum, f.fragments⟩]
      ∧ t.Tells .filesWaiting (.slot sl) [.u8 (c.returns.length + 1)]
    let ends := fun (t : State) =>
      (c.state = .ejecting → (t.slot sl).state = .ready ∧ (t.slot sl).hold = .ejected ∧ t.TellsCard sl "EJECTED" [])
      ∧ (c.state = .writing → c.hold = .none → 63 ≤ c.returns.length → s.cw.closing = false →
        (t.slot sl).state = .ready ∧ (t.slot sl).hold = .returnFull ∧ t.TellsCard sl "RETURN_FULL" [])
    let warns := c.lowArmed = true ∧ c.final = false
    let warning := fun (l : List Run) =>
      raiseIn .extentsLow (.slot sl) [.u64 (l.map (·.count)).sum, .u8 l.length] s.time s.cp
    let failed := fun (t : State) (f : CardFile) => ∀ h, s.held f.shot = some h → h.dutyState (.card f.kind sl) ≠ none →
      h.dutyState (.card f.kind (otherSlot sl)) ≠ some .done → ∃ u, t.held f.shot = some u
        ∧ u.dutyState (.card f.kind sl) = some .failed ∧ u.keep = true
        ∧ ((∃ x ∈ t.cp.notices, x.key = (.shotKept, .num f.shot)) ∨ t.cp.lost = true)
    let bytes := fun (f : CardFile) (k count : Nat) => (List.range (count * 512)).map (fun i =>
      let p := k * 512 + i
      if p < 512 then f.header.getD p 0
      else if p - 512 < f.payload then
        readExtent s.mem (((s.held f.shot).map (fun h => h.extent f.kind)).getD []) (p - 512)
      else 0)
    (c.wouldFragment = false → c.mayWrite = false → exec (.cardWriteIssue sl) s = .next s)
    ∧ (∀ f, c.file = some f → f.flight = none → f.again = none → f.issued < f.sectors → c.extents ≠ [] →
      f.sameRun = false → 64 ≤ f.fragments.length → ⟨f.shot, f.kind⟩ ∉ c.queue → ∃ t, exec (.cardWriteIssue sl) s = .next t
        ∧ (t.slot sl).file = none ∧ recorded t f (some .fragmented) ∧ (t.slot sl).extents = c.extents
        ∧ (t.slot sl).failed = min (c.failed + 1) 4294967295 ∧ failed t f ∧ ends t)
    ∧ (∀ f r rest, c.file = some f → f.flight = none → f.again = none → c.extents = r :: rest → f.issued < f.sectors →
      c.wouldFragment = false → f.payloadIn (f.issued + min 2048 (min (f.sectors - f.issued) r.count)) ≤ f.inHand →
      let k := min 2048 (min (f.sectors - f.issued) r.count)
      ¬ (rest = [] ∧ k = r.count ∧ f.issued + k < f.sectors) → ∃ t g, exec (.cardWriteIssue sl) s = .next t
        ∧ t = { s with cw := t.cw, cp := t.cp }
        ∧ (t.slot sl).file = some g ∧ g.issued = f.issued + k
        ∧ g.flight = some ⟨r.start, k, bytes f f.issued k, false, s.time + c.writeMs * 1000, c.serial⟩
        ∧ (let left := if k = r.count then rest else ⟨r.start + k, r.count - k⟩ :: rest
          let told := warns ∧ (left.map (·.count)).sum < c.lowMark
          (t.slot sl).extents = left ∧ t.cp = (if told then warning left else s.cp)
          ∧ (t.slot sl).lowArmed = (c.lowArmed && !decide told))
        ∧ (g.fragments.map (·.count)).sum = (f.fragments.map (·.count)).sum + k
        ∧ (f.sameRun = false ∨ f.fragments = [] → g.fragments = f.fragments ++ [⟨r.start, k⟩])
        ∧ (f.sameRun = true → ∀ l last, f.fragments = l ++ [last] →
            g.fragments = l ++ [⟨last.start, last.count + k⟩]))
    ∧ (∀ f r, c.file = some f → f.flight = none → f.again = none → c.extents = [r] → c.wouldFragment = false →
      r.count ≤ 2048 → f.issued + r.count < f.sectors → f.payloadIn (f.issued + r.count) ≤ f.inHand → c.state ≠ .ejecting →
      s.cw.closing = false → s.cfg.plans.card ≠ .overflow ∨ s.cw.overflow = true ∨ s.cw.a.final = false
        ∨ (sl = .b ∧ s.cw.a.state ≠ .starved) →
      ∃ t g, exec (.cardWriteIssue sl) s = .next t ∧ t = { s with cw := t.cw, cp := t.cp }
        ∧ (t.slot sl).state = .starved ∧ (t.slot sl).extents = [] ∧ (t.slot sl).file = some g
        ∧ g.issued = f.issued + r.count
        ∧ g.flight = some
          ⟨r.start, r.count, bytes f f.issued r.count, false, s.time + c.writeMs * 1000, c.serial⟩
        ∧ t.TellsCard sl "STARVED" [] ∧ (warns → 0 < c.lowMark → t.Tells .extentsLow (.slot sl) [.u64 0, .u8 0]))
    ∧ (∀ f r, c.file = some f → f.flight = none → f.again = none → c.extents = [r] → c.wouldFragment = false →
      r.count ≤ 2048 → f.issued + r.count < f.sectors → f.payloadIn (f.issued + r.count) ≤ f.inHand → c.hold = .none →
      c.state ≠ .absent → c.state ≠ .faulted → s.cw.closing = true → sl = .a ∨ s.cw.a.state ≠ .starved →
      ∃ t l, exec (.cardWriteIssue sl) s = .next t ∧ (t.slot sl).file = none ∧ (t.slot sl).state = .ready
        ∧ (t.slot sl).hold = (if c.state = .ejecting then .ejected else .closed)
        ∧ (t.slot sl).queue = ⟨f.shot, f.kind⟩ :: c.queue
        ∧ (l.map (·.count)).sum = (f.fragments.map (·.count)).sum + r.count
        ∧ (t.slot sl).returns = c.returns ++ [⟨f.shot, f.kind, some .sleep, 512 + f.payload, (l.map (·.count)).sum, l⟩])
    ∧ (∀ f w, c.file = some f → f.flight = none → f.again = some w → f.payloadIn f.issued ≤ f.inHand → ∃ t g,
        exec (.cardWriteIssue sl) s = .next t ∧ t = { s with cw := t.cw } ∧ (t.slot sl).file = some g
        ∧ g.flight = some
          ⟨w.start, w.count, bytes f (f.issued - w.count) w.count, true, s.time + c.writeMs * 1000, c.serial⟩
        ∧ g.again = none ∧ (t.slot sl).extents = c.extents)
    ∧ (c.answered n = none → exec (.cardWriteDone sl n) s = .next s ∧ exec (.cardWriteError sl n) s = .next s)
    ∧ (s.expiredWrite sl = none → exec (.writeTimeout sl) s = .next s)
    ∧ (∀ f w, c.answered n = some (f, w) →
      (f.written + w.count ≠ f.sectors → ∃ t, exec (.cardWriteDone sl n) s = .next t ∧ t = { s with cw := t.cw }
        ∧ t.slot sl = { c with
            file := some { f with flight := none, written := f.written + w.count }
            sectors := min (c.sectors + w.count) 18446744073709551615
            recovered := if w.retry = true then min (c.recovered + 1) 4294967295 else c.recovered })
      ∧ (f.written + w.count = f.sectors → ∃ t, exec (.cardWriteDone sl n) s = .next t
        ∧ (t.slot sl).written = min (c.written + 1) 4294967295 ∧ t.mem = s.mem ∧ (t.slot sl).file = none
        ∧ (t.slot sl).returns = c.returns ++ [⟨f.shot, f.kind, none, 512 + f.payload, f.sectors, f.fragments⟩]
        ∧ t.Tells .filesWaiting (.slot sl) [.u8 (c.returns.length + 1)] ∧ ends t
        ∧ ∀ h d, s.held f.shot = some h → (s.heldShots.map (·.number)).Nodup → h.duty (.card f.kind sl) = some d →
          let stale := f.kind = .caption ∧ d.stale = true
          let job : FileJob := ⟨f.shot, f.kind⟩
          (¬ stale → job ∉ c.queue → ∀ u, t.held f.shot = some u → u.dutyState (.card f.kind sl) = some .done)
          ∧ (stale → s.cw.overflow = false → t.cw.overflow = false → job ∉ c.queue → (t.slot sl).queue = c.queue ++ [job]
            ∧ ∃ u e, t.held f.shot = some u ∧ u.duty (.card f.kind sl) = some e ∧ e.state = .pending ∧ e.stale = false)))
    ∧ ∀ f w e, (e = .cardWriteError sl n ∧ c.answered n = some (f, w)) ∨ (e = .writeTimeout sl ∧ s.expiredWrite sl = some (f, w)) →
      (w.retry = false → ∃ t, exec e s = .next t ∧ t = { s with cw := t.cw }
        ∧ t.slot sl = { c with
            errors := min (c.errors + 1) 4294967295
            file := some { f with flight := none, again := some w, inHand := f.payloadIn (f.issued - w.count) } })
      ∧ (w.retry = true → ∃ t, exec e s = .next t ∧ (t.slot sl).state = .faulted ∧ (t.slot sl).file = none
        ∧ (t.slot sl).queue = [] ∧ (t.slot sl).hold = .none ∧ (t.slot sl).errors = min (c.errors + 1) 4294967295
        ∧ (t.slot sl).extents = c.extents ∧ (f.fragments ≠ [] → recorded t f (some .fault)) ∧ failed t f
        ∧ t.TellsCard sl "FAULT" [.u32 f.shot, .word f.kind.name]
        ∧ ∀ m k h, s.held m = some h → (s.heldShots.map (·.number)).Nodup → h.dutyState (.card k sl) = some .pending →
            ∀ u, t.held m = some u → u.dutyState (.card k sl) = some .failed))
  ∧ ∀ (c : Instr) (s t : State) (sl : Slot), s.cp.power = .active ∨ s.cp.power = .closing →
    (∀ r, c ≠ .cardExtents r) → (∀ r, c ≠ .fileTake r) → (∀ x v, c ≠ .cardPresentChange x v) →
    c ≠ .powerUpReset → (c = .replyCollected ∨ c = .commandReset → s.resetReply = false) → exec c s = .next t →
    let count := fun (l : List Run) => (l.map (·.count)).sum
    let listed := fun (x : CardSlot) => count x.extents + count ((x.file.map (·.fragments)).getD [])
      + (x.returns.map (fun r => count r.fragments)).sum
    listed (t.slot sl) = listed (s.slot sl)

/-! ## The tether port -/

/-- Transfers (R13, R163 to R175, R177): the link-up line's change is taken in ACTIVE, where it makes the port IDLE or
DOWN with no credits and no transfer in hand, TETHER_STATE telling the state, LINK_UP or LINK_DOWN, and the entries
queued; a transfer that the loss suspends is PENDING again at the head of its class, with its acked offset to resume
from where it was SENDING. In IDLE the first eligible entry of the queue leaves it and is offered under the next id with
its resume offset: its duty is ACTIVE and an OFFER is sent. A PROOF entry is eligible once its shot's DEVELOP is DONE, a
MEMO entry unless its shot's memo is recording; in a queue in R165's order (URGENT before NORMAL, then by entry order; a
sound state's is, and every step keeps it so, StepKeepsSound) no eligible entry stands ahead of the one offered. When it
leaves a full queue, the first deferred duty joins: URGENT before NORMAL, then the shot whose number was assigned first,
then RAW, PROOF, MEMO, CAPTION; the others stay deferred. A segment is sent while SENDING, with credit, fewer than eight
unacknowledged, its data in hand and no caption update due, and moves the sent offset on by its length. The ack timer's
fourth expiry in a row fails the transfer: an ABORT is sent, its duty is FAILED, and an URGENT shot is kept with
SHOT_KEPT raised. An earlier one repeats the OFFER or goes back to the acked offset. A caption update that is due is
sent. A frame sent is its type, its body's length, its body and their CRC-32. How far the port reads ahead is the
model's reading (log entry 15), and a step whose conditions do not hold changes nothing by its choice (log entry 3). -/
def Obligations.Transfers : Prop :=
  ∀ (v : Bool) (s : State),
    let line := { s with lines := { s.lines with linkUp := v } }
    let q := s.tp.queue
    let eligible := fun (e : Entry) => match e.kind with
      | .proof => s.dutyOf e.shot .develop = some .done
      | .memo => ¬ (s.mi.phase = .recording ∧ ∃ m, s.mi.current = some m ∧ m.shot = e.shot)
      | _ => True
    let ahead := fun (x y : Entry) => (x.urgent = true ∧ y.urgent = false) ∨ (x.urgent = y.urgent ∧ x.order ≤ y.order)
    (s.lines.linkUp = v ∨ s.cp.power ≠ .active → exec (.tetherLinkChange v) s = .next line)
    ∧ (s.lines.linkUp = false → v = true → s.cp.power = .active → ∃ t, exec (.tetherLinkChange v) s = .next t
      ∧ (s.tp.phase = .down → t = { line with
          tp := { s.tp with phase := .idle, credits := 0 }
          cp := raiseIn .tetherState (.num 0) [.word "IDLE", .word "LINK_UP", .u16 s.tp.queue.length] s.time s.cp })
      ∧ (s.tp.phase ≠ .down → t = line))
    ∧ (s.lines.linkUp = true → v = false → s.cp.power = .active → ∃ t, exec (.tetherLinkChange v) s = .next t
      ∧ t.tp.phase = .down ∧ (s.tp.phase = .down → t = line)
      ∧ (s.tp.phase ≠ .down → t.tp.credits = 0 ∧ t.tp.transfer = none
        ∧ t.Tells .tetherState (.num 0) [.word "DOWN", .word "LINK_DOWN", .u16 t.tp.queue.length])
      ∧ (s.tp.phase ≠ .down → s.tp.transfer = none → t = { line with
          tp := { s.tp with phase := .down, credits := 0 }
          cp := raiseIn .tetherState (.num 0) [.word "DOWN", .word "LINK_DOWN", .u16 s.tp.queue.length] s.time s.cp })
      ∧ ∀ x d, s.tp.phase ≠ .down → s.tp.transfer = some x → s.sendDuty x.shot x.kind = some d →
        (∃ u, t.sendDuty x.shot x.kind = some u ∧ u.state = .pending
          ∧ u.resume = if s.tp.phase = .sending then x.acked else d.resume)
        ∧ (s.tp.queue.length < 256 → (∀ y ∈ s.tp.queue, y.shot = x.shot → y.kind ≠ x.kind) →
          ∃ e ∈ t.tp.queue, e.shot = x.shot ∧ e.kind = x.kind ∧ ∀ y ∈ t.tp.queue, y.urgent = e.urgent → e.order ≤ y.order))
    ∧ (s.tp.phase ≠ .idle ∨ (∀ e ∈ q, ¬ eligible e) → exec .transferStart s = .next s)
    ∧ (∀ e front back, s.tp.phase = .idle → q = front ++ e :: back → eligible e → (∀ y ∈ front, ¬ eligible y) → ∃ t x,
      exec .transferStart s = .next t
      ∧ (q.Pairwise ahead → ∀ y ∈ q, eligible y → y = e ∨ ahead e y)
      ∧ t.tp.phase = .offering ∧ t.tp.transfer = some x ∧ x.shot = e.shot ∧ x.kind = e.kind ∧ x.urgent = e.urgent
      ∧ x.id = (s.tp.ids + 1) % 65536 ∧ t.tp.ids = x.id ∧ x.acked = 0 ∧ x.sent = 0 ∧ x.timeouts = 0
      ∧ x.expires = s.time + s.cfg.tether.ackMs * 1000
      ∧ (∀ h, s.held e.shot = some h → x.total = h.payload e.kind)
      ∧ (∀ d, s.sendDuty e.shot e.kind = some d → x.resume = d.resume
          ∧ (t.sendDuty e.shot e.kind).map (·.state) = some .active)
      ∧ (∀ y ∈ t.tp.queue, y.shot = e.shot → y.kind ≠ e.kind)
      ∧ ((∀ h ∈ s.heldShots, ∀ d ∈ h.duties, d.deferred = false) →
          t.tp.queue = q.filter (fun y => !(y.shot == e.shot && y.kind == e.kind)))
      ∧ (s.cp.power = .active → q.length = 256 → (q.map (fun y => (y.shot, y.kind))).Nodup →
        (s.heldShots.map (·.number)).Nodup →
        let rank := fun (k : FileKind) => match k with | .raw => 0 | .proof => 1 | .memo => 2 | .caption => 3
        let deferred := fun (h : Shot) (k : FileKind) (d : Duty) => h ∈ s.heldShots ∧ h.duty (.send k) = some d
          ∧ d.state = .pending ∧ d.deferred = true ∧ (h.number, k) ∉ q.map (fun y => (y.shot, y.kind))
        ∀ h k d, deferred h k d → (∀ h2 k2 d2, h2 ∈ s.heldShots → h2.duty (.send k2) = some d2 → d2.state = .pending →
            d2.deferred = true → deferred h2 k2 d2 ∧ ((d.urgent = true ∧ d2.urgent = false)
              ∨ (d.urgent = d2.urgent ∧ (h.serial < h2.serial ∨ (h.number = h2.number ∧ rank k ≤ rank k2))))) →
          ⟨h.number, k, d.urgent, s.tp.nextOrder⟩ ∈ t.tp.queue ∧ t.tp.queue.length = 256
          ∧ t.tp.deferred = s.tp.deferred - 1 ∧ (t.sendDuty h.number k).map (·.deferred) = some false
          ∧ ∀ h2 k2 d2, deferred h2 k2 d2 → h2.number ≠ h.number ∨ k2 ≠ k → t.sendDuty h2.number k2 = some d2)
      ∧ (∀ h, s.held e.shot = some h → t.tp.out = s.tp.out
          ++ [.offer x.id e.shot h.burst h.frame e.kind e.urgent x.total x.resume (h.caption.getD [])])
      ∧ t.tp.offers = min (s.tp.offers + 1) 4294967295 ∧ t.mem = s.mem ∧ t.cp = s.cp)
    ∧ (s.maySend = false → exec .segSend s = .next s)
    ∧ (∀ x, s.tp.transfer = some x → s.tp.phase = .sending → x.sent < x.total → 1 ≤ s.tp.credits → x.inFlight < 8 →
      x.sent + min 16384 (x.total - x.sent) ≤ x.readTo → x.captionDue = false → ∃ data, exec .segSend s = .next { s with
        tp := { s.tp with
          out := s.tp.out ++ [.seg x.id x.sent data], credits := s.tp.credits - 1
          segments := min (s.tp.segments + 1) 4294967295
          transfer := some { x with sent := x.sent + min 16384 (x.total - x.sent) } } }
      ∧ data.length = min 16384 (x.total - x.sent)
      ∧ ∀ i, i < data.length → data.getD i 0 = readExtent s.mem (((s.held x.shot).map (fun h => h.extent x.kind)).getD []) (x.sent + i))
    ∧ (s.tp.transfer = none ∨ (∀ x, s.tp.transfer = some x → s.time < x.expires) → exec .ackTimerExpiry s = .next s)
    ∧ (∀ x, s.tp.transfer = some x → x.expires ≤ s.time → x.timeouts + 1 < 4 →
      (s.tp.phase = .offering → ∃ t, exec .ackTimerExpiry s = .next t ∧ t = { s with tp := t.tp } ∧ t.tp.phase = .offering
        ∧ t.tp.transfer = some { x with timeouts := x.timeouts + 1, expires := s.time + s.cfg.tether.ackMs * 1000 }
        ∧ ∀ h, s.held x.shot = some h → t.tp.out = s.tp.out
          ++ [.offer x.id x.shot h.burst h.frame x.kind x.urgent x.total x.resume (h.caption.getD [])])
      ∧ (s.tp.phase = .sending → exec .ackTimerExpiry s = .next { s with tp := { s.tp with
          goBacks := min (s.tp.goBacks + 1) 4294967295
          transfer := some { x with
            timeouts := x.timeouts + 1, expires := s.time + s.cfg.tether.ackMs * 1000, sent := x.acked, readTo := x.acked } } }))
    ∧ (∀ x, s.tp.transfer = some x → x.expires ≤ s.time → 4 ≤ x.timeouts + 1 → s.tp.phase = .offering ∨ s.tp.phase = .sending →
      ∃ t, exec .ackTimerExpiry s = .next t ∧ t.tp.phase = .idle ∧ t.tp.transfer = none
        ∧ t.tp.failed = min (s.tp.failed + 1) 4294967295 ∧ t.tp.out = s.tp.out ++ [.abort x.id .failed]
        ∧ ((∃ y ∈ t.cp.notices, y.key = (.transferFailed, .num x.shot)) ∨ t.cp.lost = true)
        ∧ ∀ h, s.held x.shot = some h → h.dutyState (.send x.kind) ≠ none → h.urgent = true → ∃ u, t.held x.shot = some u
          ∧ u.dutyState (.send x.kind) = some .failed ∧ u.keep = true
          ∧ ((∃ y ∈ t.cp.notices, y.key = (.shotKept, .num x.shot)) ∨ t.cp.lost = true))
    ∧ ((∀ x, s.tp.transfer = some x → s.tp.phase ≠ .sending ∨ x.captionDue = false) → exec .captionUpdate s = .next s)
    ∧ (∀ x, s.tp.transfer = some x → s.tp.phase = .sending → x.captionDue = true → exec .captionUpdate s = .next { s with
        tp := { s.tp with
          transfer := some { x with captionDue := false }
          out := s.tp.out ++ [.captionUpdate x.id (((s.held x.shot).bind (·.caption)).getD [])] } })
    ∧ ∀ f : TetherFrame, ∃ (code : Nat) (body : List Byte),
      let head := leBytes 1 code ++ leBytes 2 body.length ++ body
      f.encode = head ++ leBytes 4 (crc32 head) ∧ match f with
        | .offer id shot burst frame kind urgent total resume caption => code = 0x01 ∧ body = leBytes 2 id ++ leBytes 4 shot
            ++ leBytes 4 burst ++ leBytes 2 frame
            ++ leBytes 1 (match kind with | .raw => 1 | .proof => 2 | .memo => 3 | .caption => 4)
            ++ leBytes 1 (if urgent then 1 else 2) ++ leBytes 4 total ++ leBytes 4 resume ++ leBytes 1 caption.length ++ caption
        | .seg id offset data => code = 0x02 ∧ body
            = leBytes 2 id ++ leBytes 4 offset ++ leBytes 2 data.length ++ data ++ leBytes 4 (crc32 data)
        | .captionUpdate id caption => code = 0x03 ∧ body = leBytes 2 id ++ leBytes 1 caption.length ++ caption
        | .abort id reason => code = 0x04
            ∧ body = leBytes 2 id ++ leBytes 1 (match reason with | .failed => 1 | .deleted => 2 | .replaced => 3)
        | .refused request shot reason => code = 0x05 ∧ body = leBytes 1 request.code ++ leBytes 4 shot
            ++ leBytes 1 (match reason with | .disabled => 1 | .badValue => 2 | .busy => 3 | .notOwner => 4)
        | .notAvailable request shot kind reason => code = 0x06 ∧ body = leBytes 1 request.code ++ leBytes 4 shot
            ++ leBytes 1 (match kind with
              | none => 0 | some .raw => 1 | some .proof => 2 | some .memo => 3 | some .caption => 4)
            ++ leBytes 1 (match reason with | .notHeld => 1 | .noData => 2 | .delivered => 3)

/-- The peer's answers (R162, R168, R170, R171, R172): in DOWN every frame is dropped. A bad frame is counted. ACCEPT in
OFFERING of the transfer's id, at a segment's offset or the total, makes the port SENDING from there, or completes the
transfer at the total; DECLINE completes it as declined, and nothing is sent in answer. A transfer completed or declined
leaves its duty DONE with the outcome DELIVERED or DECLINED and resume offset 0, and the port's pin dropped; a kept shot
stays. CREDIT of 1 to 64 adds to the credits, at most 64 in all. ACK of a segment's offset or the total, not beyond what
was sent, advances the acked offset, stops the timeouts' count and starts the ack timer anew, and completes the transfer
at the total. Frames of another id, or not valid then, are counted as stale and change nothing else. -/
def Obligations.PeerAnswers : Prop :=
  ∀ (id n : Nat) (s : State),
    let stale := { s with tp := { s.tp with staleFrames := min (s.tp.staleFrames + 1) 4294967295 } }
    let bad := { s with tp := { s.tp with badFrames := min (s.tp.badFrames + 1) 4294967295 } }
    let done := fun (t : State) (x : Transfer) (how : SendOutcome) => ∀ h, s.held x.shot = some h →
      (s.heldShots.map (·.number)).Nodup → (h.keep = true → t.held x.shot ≠ none)
      ∧ ∀ u, t.held x.shot = some u → (∀ p ∈ u.pins, p.reader ≠ .t)
        ∧ u.duty (.send x.kind) = (h.duty (.send x.kind)).map (fun d =>
          { d with state := .done, outcome := some how, resume := 0, stale := false })
    (s.tp.phase = .down → ∀ c, c = .peerBadFrame ∨ c = .accept id n ∨ c = .decline id ∨ c = .credit n ∨ c = .ack id n →
      exec c s = .next s)
    ∧ (s.tp.phase ≠ .down → exec .peerBadFrame s = .next bad)
    ∧ (s.tp.phase ≠ .down → exec (.credit n) s = .next (if 1 ≤ n ∧ n ≤ 64 then
        { s with tp := { s.tp with credits := min (s.tp.credits + n) 64 } } else bad))
    ∧ (s.tp.phase = .idle → exec (.accept id n) s = .next stale ∧ exec (.decline id) s = .next stale
        ∧ exec (.ack id n) s = .next stale)
    ∧ ∀ x, s.tp.transfer = some x →
      (s.tp.phase ≠ .down → x.id ≠ id → exec (.accept id n) s = .next stale ∧ exec (.decline id) s = .next stale
        ∧ exec (.ack id n) s = .next stale)
      ∧ (s.tp.phase = .offering → exec (.ack id n) s = .next stale)
      ∧ (s.tp.phase = .sending → exec (.accept id n) s = .next stale)
      ∧ (x.id = id → s.tp.phase = .offering →
        (x.total < n ∨ (n % 16384 ≠ 0 ∧ n ≠ x.total) → exec (.accept id n) s = .next stale)
        ∧ (n < x.total → n % 16384 = 0 → exec (.accept id n) s = .next { s with tp := { s.tp with
            phase := .sending
            transfer := some { x with
              acked := n, sent := n, timeouts := 0, readTo := n, expires := s.time + s.cfg.tether.ackMs * 1000 } } })
        ∧ (n = x.total → ∃ t, exec (.accept id n) s = .next t ∧ t.tp.phase = .idle ∧ t.tp.transfer = none
            ∧ t.tp.delivered = min (s.tp.delivered + 1) 4294967295 ∧ done t x .delivered))
      ∧ (x.id = id → s.tp.phase = .offering ∨ s.tp.phase = .sending → ∃ t, exec (.decline id) s = .next t
        ∧ t.tp.phase = .idle ∧ t.tp.transfer = none ∧ t.tp.declined = min (s.tp.declined + 1) 4294967295
        ∧ t.tp.out = s.tp.out ∧ done t x .declined)
      ∧ (x.id = id → s.tp.phase = .sending →
        (x.sent < n ∨ (n % 16384 ≠ 0 ∧ n ≠ x.total) → exec (.ack id n) s = .next stale)
        ∧ (n ≤ x.sent → n % 16384 = 0 ∨ n = x.total →
          (n ≤ x.acked → exec (.ack id n) s = .next s)
          ∧ (x.acked < n → n ≠ x.total → exec (.ack id n) s = .next { s with tp := { s.tp with
              bytesAcked := min (s.tp.bytesAcked + (n - x.acked)) 18446744073709551615
              transfer := some { x with
                acked := n, timeouts := 0, expires := s.time + s.cfg.tether.ackMs * 1000 } } })
          ∧ (x.acked < n → n = x.total → ∃ t, exec (.ack id n) s = .next t ∧ t.tp.phase = .idle ∧ t.tp.transfer = none
              ∧ t.tp.delivered = min (s.tp.delivered + 1) 4294967295 ∧ done t x .delivered)))

/-- The peer's requests (R14, R54, R55, R66, R162, R164, R178 to R181): in DOWN they are dropped. A request that its
setting turns off, or whose values are wrong, or that finds a burst running or no burst of the peer's, is answered
REFUSED, and one for a shot that is not HELD, or is deleting, NOT_AVAILABLE; each is counted, and the burst in hand
counts an ignored release. Otherwise REMOTE_RELEASE starts a burst of the peer's, which with the link DOWN or FAILED
ends at once with reason LINK; REMOTE_END ends it; MARK has just SHOT_MARK's effect, its entries in the URGENT class;
and PULL makes its send duty there, URGENT and not FAILED, each with PEER_COMMAND raised. A PULL leaves the shot's own
mark as it was. A PULL of PROOF whose duty, or another that needs the proof, is then PENDING with no proof sets a DONE
DEVELOP back to PENDING, or adds an absent one, with an URGENT entry in the develop queue unless the engine is HALTED. A
duty that was there keeps its entry, now of the URGENT class in its old entry order, and the transfer of an ACTIVE one
is URGENT; one that was absent or FAILED joins the URGENT class in the next entry order, or is deferred behind 256
entries. A PULL of no known kind answered REFUSED, and PEER_COMMAND after the request's own notices, are the model's
reading (log entry 15). -/
def Obligations.PeerRequests : Prop :=
  ∀ (n shot : Nat) (k : FileKind) (ko : Option FileKind) (s : State),
    (s.tp.phase = .down → ∀ c, c = .remoteRelease n ∨ c = .remoteEnd ∨ c = .mark shot ∨ c = .pull shot ko → exec c s = .next s)
    ∧ (s.tp.phase ≠ .down →
      let refuse := fun (u : State) (r : PeerRequest) (x : Nat) (why : RefuseReason) => { u with tp := { s.tp with
        out := s.tp.out ++ [.refused r x why], refused := min (s.tp.refused + 1) 4294967295 } }
      let missing := fun (r : PeerRequest) (f : Option FileKind) (why : MissingReason) => { s with tp := { s.tp with
        out := s.tp.out ++ [.notAvailable r shot f why], refused := min (s.tp.refused + 1) 4294967295 } }
      (s.cfg.tether.peerRelease = false → exec (.remoteRelease n) s = .next (refuse s .remoteRelease 0 .disabled)
        ∧ exec .remoteEnd s = .next (refuse s .remoteEnd 0 .disabled))
      ∧ (s.cfg.tether.peerRelease = true →
        (n = 0 ∨ 99 < n → exec (.remoteRelease n) s = .next (refuse s .remoteRelease 0 .badValue))
        ∧ (1 ≤ n → n ≤ 99 → s.rtu.phase ≠ .idle → exec (.remoteRelease n) s = .next (refuse
            { s with rtu := { s.rtu with burst := s.rtu.burst.map (fun b => { b with ignored := min (b.ignored + 1) 4294967295 }) } }
            .remoteRelease 0 .busy))
        ∧ (1 ≤ n → n ≤ 99 → s.rtu.phase = .idle → ∃ t, s.BurstBegins .peer (some n) t
            ∧ exec (.remoteRelease n) s = .next (raise .peerCommand (.num 0)
              [.word "REMOTE_RELEASE", .u32 0, .present false, .present true, .u8 n, .present true, .u32 s.rtu.nextBurst] t))
        ∧ (s.ownedBy .peer = false → exec .remoteEnd s = .next (refuse s .remoteEnd 0 .notOwner))
        ∧ (∀ b, s.ownedBy .peer = true → s.rtu.burst = some b → ∃ t, s.EndsByOwner t
            ∧ exec .remoteEnd s = .next (raise .peerCommand (.num 0)
              [.word "REMOTE_END", .u32 0, .present false, .present false, .present true, .u32 b.number] t)))
      ∧ (s.cfg.tether.peerMark = false → exec (.mark shot) s = .next (refuse s .mark shot .disabled))
      ∧ (s.cfg.tether.peerMark = true → s.usable shot = none → exec (.mark shot) s = .next (missing .mark none .notHeld))
      ∧ (s.cfg.tether.peerMark = true → ∀ h, s.usable shot = some h → ∃ t u, exec (.mark shot) s = .next t
          ∧ t.held shot = some u ∧ u.urgent = true ∧ u.number = h.number ∧ u.raw = h.raw
          ∧ (∀ y ∈ t.tp.queue, y.shot = shot → y.urgent = true) ∧ (∀ y ∈ t.de.queue, y.shot = shot → y.urgent = true)
          ∧ (∀ d ∈ u.duties, (∃ f, d.key = .send f) → d.urgent = true)
          ∧ (∀ x, t.tp.transfer = some x → x.shot = shot → x.urgent = true)
          ∧ (s.awake = true → ∃ w, (∀ tag, exec (.shotMark ⟨tag, some (.value shot)⟩) s = answered tag .ok [.u32 shot] w)
            ∧ t = raise .peerCommand (.num shot) [.word "MARK", .u32 shot, .present false, .present false, .present false] w))
      ∧ (s.cfg.tether.peerPull = false → exec (.pull shot ko) s = .next (refuse s .pull shot .disabled))
      ∧ (s.cfg.tether.peerPull = true →
        exec (.pull shot none) s = .next (refuse s .pull shot .badValue)
        ∧ (s.usable shot = none → exec (.pull shot (some k)) s = .next (missing .pull (some k) .notHeld))
        ∧ ∀ h, s.usable shot = some h →
          (((k = .memo ∧ h.memo = none ∧ s.recordsInto shot = false) ∨ (k = .caption ∧ h.caption = none)) →
            exec (.pull shot (some k)) s = .next (missing .pull (some k) .noData))
          ∧ (¬ ((k = .memo ∧ h.memo = none ∧ s.recordsInto shot = false) ∨ (k = .caption ∧ h.caption = none)) →
            (h.dutyState (.send k) = some .done → exec (.pull shot (some k)) s = .next (missing .pull (some k) .delivered))
            ∧ (h.dutyState (.send k) ≠ some .done → ∃ t u, exec (.pull shot (some k)) s = .next t
              ∧ t.Tells .peerCommand (.num shot)
                [.word "PULL", .u32 shot, .present true, .word k.name, .present false, .present false]
              ∧ t.held shot = some u ∧ u.urgent = h.urgent
              ∧ u.dutyState (.send k) = some (match h.dutyState (.send k) with
                  | none => .pending | some .failed => .pending | some d => d)
              ∧ (∃ d, u.duty (.send k) = some d ∧ d.urgent = true)
              ∧ (let waits := k = .proof ∧ u.proof = none
                  ∧ ∃ d ∈ u.duties, d.key.needsProof = true ∧ d.state = .pending
                u.dutyState .develop = (match h.dutyState .develop with
                  | none => if waits then some .pending else none
                  | some .done => if waits then some .pending else some .done
                  | some x => some x)
                ∧ (u.dutyState .develop = h.dutyState .develop ∨ s.de.phase = .halted → t.de.queue = s.de.queue)
                ∧ (u.dutyState .develop ≠ h.dutyState .develop → s.de.phase ≠ .halted →
                  t.de.queue.Perm (s.de.queue.filter (fun y => y.shot != shot) ++ [⟨shot, h.serial, true⟩])))
              ∧ (h.dutyState (.send k) ≠ none → h.dutyState (.send k) ≠ some .failed →
                (∀ y ∈ s.tp.queue, y.shot = shot → y.kind = k → { y with urgent := true } ∈ t.tp.queue)
                ∧ (∀ y ∈ t.tp.queue, y.shot = shot → y.kind = k → y.urgent = true)
                ∧ ∀ x, s.tp.transfer = some x → x.shot = shot → x.kind = k → t.tp.transfer = some { x with urgent := true })
              ∧ (h.dutyState (.send k) = none ∨ h.dutyState (.send k) = some .failed → s.cp.power = .active →
                (∀ y ∈ s.tp.queue, y.shot = shot → y.kind ≠ k) →
                (s.tp.queue.length < 256 → ⟨shot, k, true, s.tp.nextOrder⟩ ∈ t.tp.queue
                  ∧ t.tp.queue.length = s.tp.queue.length + 1)
                ∧ (256 ≤ s.tp.queue.length → t.tp.queue = s.tp.queue ∧ t.tp.deferred = s.tp.deferred + 1
                  ∧ ∃ d, u.duty (.send k) = some d ∧ d.deferred = true))))))

/-! ## Captions and memos -/

/-- The caption and memo commands (R22, R153, R186 to R190, R192, R193, R195, R205): a caption of 0 or more than 192
bytes is BAD_VALUE, a shot that is not HELD, or is deleting, NOT_HELD; a caption that the shot has already changes
nothing, and another replaces it. A late caption (R187): on a card slot with a RAW, PROOF or MEMO file of the shot
ACTIVE or DONE, the CAPTION duty is added, or set back from DONE or FAILED, and its job joins the slot's queue; an
ACTIVE one is marked stale; a PENDING one, and a slot with no file of the shot, stand. Under the overflow switch,
whether it was set or this duty brings the move, the duty of A goes to B unless the shot holds one for B; under the plan
OVERFLOW with the switch clear it stays with A. On the tether (R188) a transfer of the shot sends the caption, at once
in OFFERING and marked as due in SENDING, and with a send duty DONE the SEND_CAPTION duty is added or set back with
resume offset 0 and queued, or deferred where the queue is full. CAPTION_STANDING makes the standing caption pending
until the next landing, unless it equals the applied one. MEMO_LEVEL takes a gain of 0 to 42 dB in steps of 6 and an
offset of two bytes. MEMO_START is BUSY unless the memo input is IDLE and NOT_HELD without a usable shot; otherwise a
cleared decimator serves a memo of the shot, ARMED in mode ON_VOICE, and in MANUAL RECORDING if the capture floor allows
a block, with STORE_LOW where the free count so passes below its threshold. MEMO_STOP is BAD_STATE in IDLE and leaves
the memo input IDLE; in RECORDING the memo ends with reason STOP. That CAPTION_STANDING equal to the applied caption
leaves none pending is the model's reading (log entry 11). -/
def Obligations.CaptionAndMemoCommands : Prop :=
  ∀ (tag : Byte) (n : Nat) (c : List Byte) (s : State), s.awake = true →
    (c.length = 0 ∨ 192 < c.length → exec (.captionSet ⟨tag, some (n, c)⟩) s = answered tag .badValue [] s
      ∧ exec (.captionStanding ⟨tag, some (.value c)⟩) s = answered tag .badValue [] s)
    ∧ (1 ≤ c.length → c.length ≤ 192 →
      (s.usable n = none → exec (.captionSet ⟨tag, some (n, c)⟩) s = answered tag .notHeld [] s)
      ∧ (∀ h, s.usable n = some h →
        (h.caption = some c → exec (.captionSet ⟨tag, some (n, c)⟩) s = answered tag .ok [] s)
        ∧ (h.caption ≠ some c → ∃ t u, exec (.captionSet ⟨tag, some (n, c)⟩) s = answered tag .ok [] t
          ∧ t.held n = some u ∧ u.caption = some c ∧ u.urgent = h.urgent ∧ u.keep = h.keep ∧ u.raw = h.raw
          ∧ t.mem = s.mem ∧ t.rtu = s.rtu ∧ t.sp = s.sp ∧ t.lp = s.lp ∧ t.fe = s.fe
          ∧ (let card := fun (sl : Slot) => DutyKey.card .caption sl
             let job : FileJob := ⟨n, .caption⟩
             let kinds := [FileKind.raw, .proof, .memo]
             let filed := fun (sl : Slot) => ∃ k ∈ kinds,
               h.dutyState (.card k sl) = some .active ∨ h.dutyState (.card k sl) = some .done
             let sent := ∃ k ∈ kinds, h.dutyState (.send k) = some .done
             let again := fun (k : DutyKey) => h.duty k = none ∨ h.dutyState k = some .done ∨ h.dutyState k = some .failed
             (s.cw.overflow = false → t.cw.overflow = false → ∀ sl,
               (¬ filed sl ∨ h.dutyState (card sl) = some .pending → u.duty (card sl) = h.duty (card sl)
                 ∧ (t.slot sl).queue = (s.slot sl).queue)
               ∧ (filed sl → h.dutyState (card sl) = some .active →
                 u.duty (card sl) = (h.duty (card sl)).map (fun d => { d with stale := true }))
               ∧ (filed sl → again (card sl) → u.dutyState (card sl) = some .pending
                 ∧ (job ∉ (s.slot sl).queue → (t.slot sl).queue = (s.slot sl).queue ++ [job])))
             ∧ (t.cw.overflow = true → filed .a → again (card .a) → h.duty (card .b) = none → job ∉ s.cw.a.queue →
               u.duty (card .a) = none ∧ u.dutyState (card .b) = some .pending ∧ job ∈ t.cw.b.queue)
             ∧ (∀ x, s.tp.transfer = some x → x.shot = n →
               (s.tp.phase = .offering → t.tp.out = s.tp.out ++ [.captionUpdate x.id c])
               ∧ (s.tp.phase = .sending → t.tp.transfer = some { x with captionDue := true }))
             ∧ (¬ sent ∨ h.dutyState (.send .caption) = some .pending ∨ h.dutyState (.send .caption) = some .active →
               u.duty (.send .caption) = h.duty (.send .caption) ∧ t.tp.queue = s.tp.queue)
             ∧ (sent → again (.send .caption) → ∃ d, u.duty (.send .caption) = some d ∧ d.state = .pending ∧ d.resume = 0
               ∧ (h.duty (.send .caption) = none → d.urgent = h.urgent)
               ∧ (s.cp.power = .active → (∀ e ∈ s.tp.queue, e.shot = n → e.kind ≠ .caption) →
                 (s.tp.queue.length < 256 → ∃ e ∈ t.tp.queue, e.shot = n ∧ e.kind = .caption ∧ e.urgent = d.urgent)
                 ∧ (256 ≤ s.tp.queue.length → d.deferred = true ∧ t.tp.queue = s.tp.queue))))))
      ∧ exec (.captionStanding ⟨tag, some (.value c)⟩) s = answered tag .ok [] { s with
          waiting := s.waiting.filter (fun w => w.1 != .standingCaption)
            ++ if s.cfg.plans.standing = some c then [] else [(.standingCaption, .text (some c))] })
    ∧ exec (.captionStanding ⟨tag, some .named⟩) s = answered tag .ok [] { s with
        waiting := s.waiting.filter (fun w => w.1 != .standingCaption)
          ++ if s.cfg.plans.standing = none then [] else [(.standingCaption, .text none)] }
    ∧ (∀ g o : Int, exec (.memoLevel ⟨tag, some (g, o)⟩) s
        = if (∃ i : Fin 8, g = 6 * (i : Nat)) ∧ -32768 ≤ o ∧ o ≤ 32767
          then answered tag .ok [] { s with mi := { s.mi with gain := g.toNat, offset := o } } else answered tag .badValue [] s)
    ∧ (s.cp.power = .active → s.mi.phase ≠ .idle → exec (.memoStart ⟨tag, some (.value n)⟩) s = answered tag .busy [] s)
    ∧ (s.cp.power = .active → s.mi.phase = .idle → s.usable n = none →
        exec (.memoStart ⟨tag, some (.value n)⟩) s = answered tag .notHeld [] s)
    ∧ (s.cp.power = .active → s.mi.phase = .idle → s.mi.latest = none →
        exec (.memoStart ⟨tag, some .named⟩) s = answered tag .notHeld [] s)
    ∧ (s.cp.power = .active → s.mi.latest = some n → s.mi.phase = .idle →
        exec (.memoStart ⟨tag, some .named⟩) s = exec (.memoStart ⟨tag, some (.value n)⟩) s)
    ∧ (s.cp.power = .active → s.mi.phase = .idle → ∀ h, s.usable n = some h → ∃ t,
        exec (.memoStart ⟨tag, some (.value n)⟩) s = answered tag .accepted [.u32 n] t
        ∧ (s.cfg.memo.onVoice = true → t = { s with mi := { s.mi with
            phase := .armed, decimator := {}, samples := [], current := some ⟨n, true, 0, [], 0, s.time⟩ } })
        ∧ (s.cfg.memo.onVoice = false → 1 + s.cfg.store.floor ≤ s.ss.free.length →
            t = { s with ss := { s.ss with free := s.ss.free.drop 1 }, cp := s.tellsLow 1, mi := { s.mi with
              phase := .recording, decimator := {}, samples := []
              current := some ⟨n, false, 0, s.ss.free.take 1, 0, s.time⟩ } })
        ∧ (s.cfg.memo.onVoice = false → s.ss.free.length < 1 + s.cfg.store.floor →
            t.mi.phase = .idle ∧ t.mi.truncated = min (s.mi.truncated + 1) 4294967295))
    ∧ (s.mi.phase = .idle → exec (.memoStop ⟨tag, some ()⟩) s = answered tag .badState [] s)
    ∧ (s.mi.phase ≠ .idle → s.mi.current ≠ none → ∃ t, exec (.memoStop ⟨tag, some ()⟩) s = answered tag .ok [] t
        ∧ t.mi.phase = .idle ∧ t.mi.current = none ∧ t.mi.samples = [] ∧ t.mem = s.mem
        ∧ (s.mi.phase = .armed → t = { s with mi := t.mi, cp := t.cp })
        ∧ ∀ m, s.mi.phase = .recording → s.mi.current = some m → t = endMemo .stop m s)

/-- Memo samples and activity frames (R8, R22, R153, R190 to R194, R196). The decimator's three integrators take +1 or
−1 for each of 192 bits and its three combs, of delay 1, then give one value; a sample is the value div 216, less the
offset, times 2 to the gain over 6, each clamped to ±32,767. A frame's energy is its mean magnitude and its crossings
the adjacent pairs of which one is below 0; it is voiced above the energy threshold, or above the crossing threshold
with a quarter of it. While values are still to be discarded a word makes no sample; otherwise in ARMED its sample joins
the frame, and in RECORDING it is also written at its place in the recording, whose last sample of 960,000 ends the
memo; a sample that finds its blocks full takes a block from the free list's head if the floor allows, STORE_LOW raised
where the count so passes below its threshold; otherwise the memo ends TRUNCATED. A full frame is judged and emptied: a
voiced one starts an ARMED memo's recording, likewise with a block, and in RECORDING enough unvoiced ones in a row end
the memo. A recording's end with a length above 0 (R194): the shot's old memo's blocks join the free list, a card slot
with its file active abandons it and the tether aborts its transfer with reason REPLACED; the recording is the shot's
memo; a MEMO duty for each card of the applied plan (under OVERFLOW card A, or B once the switch is set), and SEND_MEMO
where the shot has another send duty, is added, or set back from DONE or FAILED, and the card's job is in its slot's
queue; MEMO_END is raised and the memo input is IDLE. A word is 192 PDM bits, a stage adds the stage before it as just
updated, and a full frame ends before the next sample: the model's reading and choice (log entry 16). That MEMO_SAMPLE
in IDLE, and ACTIVITY_FRAME_END with fewer than 320 samples, change nothing is its choice (log entry 3). -/
def Obligations.MemoEvents : Prop :=
  (∀ (d : Decimator) (n : Nat) (S offset : Int) (gain : Nat) (c : MemoCfg) (l : List Int),
    let integrate := fun (e : Decimator) (j : Nat) =>
      let x1 := if n.testBit j then e.i1 + 1 else e.i1 - 1
      let x2 := e.i2 + x1
      { e with i1 := x1, i2 := x2, i3 := e.i3 + x2 }
    let clamp := fun (v : Int) => max (-32767) (min 32767 v)
    let energy := (l.map Int.natAbs).sum / 320
    let crossings := (List.range (l.length - 1)).countP (fun k => decide (l.getD k 0 < 0) != decide (l.getD (k + 1) 0 < 0))
    Decimator.run 192 0 n d = (List.range 192).foldl integrate d
    ∧ d.comb = ((d.i3 - d.c1 - d.c2 - d.c3).toInt, { d with c1 := d.i3, c2 := d.i3 - d.c1, c3 := d.i3 - d.c1 - d.c2 })
    ∧ sampleOf S gain offset = clamp (clamp (clamp (S / 216) - offset) * 2 ^ (gain / 6))
    ∧ judgeFrame c l = ⟨energy, crossings,
        decide (c.energy < energy ∨ (c.crossing < crossings ∧ c.energy / 4 < energy))⟩)
  ∧ ∀ (bits : BitVec 192) (s : State),
    let r := (Decimator.run 192 0 bits.toNat s.mi.decimator).comb
    let x := sampleOf r.1 s.mi.gain s.mi.offset
    (s.mi.phase = .idle → s.mi.samples.length < 320 → exec (.memoSample bits) s = .next s)
    ∧ (s.mi.phase ≠ .idle → s.mi.samples.length < 320 → 0 < r.2.discard → exec (.memoSample bits) s
        = .next { s with mi := { s.mi with decimator := { r.2 with discard := r.2.discard - 1 } } })
    ∧ (s.mi.phase = .armed → s.mi.samples.length < 320 → r.2.discard = 0 → exec (.memoSample bits) s
        = .next { s with mi := { s.mi with decimator := r.2, samples := s.mi.samples ++ [x] } })
    ∧ (∀ m, s.mi.phase = .recording → s.mi.current = some m → s.mi.samples.length < 320 → r.2.discard = 0 →
      m.samples < 32768 * m.blocks.length →
      (m.samples + 1 < 960000 → exec (.memoSample bits) s = .next { s with
        mem := writeExtent m.blocks (leInt 2 x) (2 * m.samples) s.mem
        mi := { s.mi with
          decimator := r.2, samples := s.mi.samples ++ [x], current := some { m with samples := m.samples + 1 } } })
      ∧ (960000 ≤ m.samples + 1 → ∃ t, exec (.memoSample bits) s = .next t ∧ t.mi.phase = .idle ∧ t.mi.current = none
          ∧ t.mem = writeExtent m.blocks (leInt 2 x) (2 * m.samples) s.mem
          ∧ let ended := { m with samples := m.samples + 1 }
            t = endMemo .limit ended { s with
              mem := writeExtent m.blocks (leInt 2 x) (2 * m.samples) s.mem
              mi := { s.mi with decimator := r.2, samples := s.mi.samples ++ [x], current := some ended } }))
    ∧ (∀ m, s.mi.phase = .recording → s.mi.current = some m → s.mi.samples.length < 320 → r.2.discard = 0 →
      32768 * m.blocks.length ≤ m.samples →
      (1 + s.cfg.store.floor ≤ s.ss.free.length → m.samples + 1 < 960000 → ∃ t, exec (.memoSample bits) s = .next t
        ∧ t = { s with
            cp := s.tellsLow 1, ss := { s.ss with free := s.ss.free.drop 1 }
            mem := writeExtent (m.blocks ++ s.ss.free.take 1) (leInt 2 x) (2 * m.samples) s.mem
            mi := { s.mi with
              decimator := r.2, samples := s.mi.samples ++ [x]
              current := some { m with samples := m.samples + 1, blocks := m.blocks ++ s.ss.free.take 1 } } })
      ∧ (s.ss.free.length < 1 + s.cfg.store.floor → ∃ t, exec (.memoSample bits) s = .next t
        ∧ t = endMemo .truncated m { s with mi := { s.mi with decimator := r.2 } }
        ∧ t.mi.phase = .idle ∧ t.mi.current = none ∧ t.mi.truncated = min (s.mi.truncated + 1) 4294967295
        ∧ ((∃ x ∈ t.cp.notices, x.key = (.memoEnd, .num m.shot)
            ∧ x.values.take 2 = [.word "TRUNCATED", .u32 (2 * m.samples)]) ∨ t.cp.lost = true)))
    ∧ (-32767 ≤ x ∧ x ≤ 32767)
    ∧ (s.mi.samples.length < 320 → exec .activityFrameEnd s = .next s)
    ∧ (320 ≤ s.mi.samples.length → ∃ t, exec .activityFrameEnd s = .next t
      ∧ t.mi.lastFrame = some (judgeFrame s.cfg.memo s.mi.samples) ∧ t.mi.samples = []
      ∧ (s.mi.phase = .armed → (judgeFrame s.cfg.memo s.mi.samples).voiced = false →
          t = { s with mi := { s.mi with lastFrame := t.mi.lastFrame, samples := [] } })
      ∧ (∀ m, s.mi.phase = .armed → s.mi.current = some m → (judgeFrame s.cfg.memo s.mi.samples).voiced = true →
          1 + s.cfg.store.floor ≤ s.ss.free.length → t.mi.phase = .recording
          ∧ t.mi.current = some { m with samples := s.mi.samples.length, blocks := m.blocks ++ s.ss.free.take 1 }
          ∧ t.mem = writeExtent (m.blocks ++ s.ss.free.take 1) (s.mi.samples.flatMap (leInt 2)) 0 s.mem
          ∧ t.ss.free = s.ss.free.drop 1 ∧ t.cp = s.tellsLow 1)
      ∧ (∀ m, s.mi.phase = .recording → s.mi.current = some m →
          let quiet := if (judgeFrame s.cfg.memo s.mi.samples).voiced then 0 else m.silence + 1
          (quiet < s.cfg.memo.silence → t.mi.phase = .recording ∧ t.mi.current = some { m with silence := quiet })
          ∧ (s.cfg.memo.silence ≤ quiet → t.mi.phase = .idle ∧ t.mi.current = none
            ∧ (0 < m.samples → ∀ u, t.held m.shot = some u → (s.heldShots.map (·.number)).Nodup →
                u.memo = some ⟨m.blocks, 2 * m.samples⟩)
            ∧ let ended := { m with silence := quiet }
              t = endMemo .silence ended
                { s with mi := { s.mi with lastFrame := t.mi.lastFrame, samples := [], current := some ended } })))
    ∧ ∀ (reason : MemoReason) (m : MemoRec) (h : Shot), s.mi.phase = .recording → s.mi.current = some m → 0 < m.samples →
      s.held m.shot = some h → (s.heldShots.map (·.number)).Nodup →
      let t := endMemo reason m s
      let job : FileJob := ⟨m.shot, .memo⟩
      let again := fun (k : DutyKey) => h.duty k = none ∨ h.dutyState k = some .done ∨ h.dutyState k = some .failed
      let planned := fun (sl : Slot) => match s.cfg.plans.card with
        | .singleA | .split => sl = .a
        | .mirror => True
        | .overflow => sl = if s.cw.overflow then .b else .a
        | .off => False
      let sends := ∃ k ∈ [FileKind.raw, .proof, .caption], h.duty (.send k) ≠ none
      t.mi.phase = .idle ∧ t.mi.current = none ∧ t.mi.attached = min (s.mi.attached + 1) 4294967295
      ∧ ((∃ x ∈ t.cp.notices, x.key = (.memoEnd, .num m.shot)
          ∧ x.values = [.word reason.name, .u32 (2 * m.samples), flag h.memo.isSome, .u64 m.start, .u64 s.time]) ∨ t.cp.lost = true)
      ∧ (∀ old, h.memo = some old →
        (∀ b ∈ old.blocks, b ∈ t.ss.free)
        ∧ (∀ sl f, (s.slot sl).file = some f → f.shot = m.shot → f.kind = .memo → (t.slot sl).file = none)
        ∧ (∀ x, s.tp.transfer = some x → x.shot = m.shot → x.kind = .memo → t.tp.phase = .idle ∧ t.tp.transfer = none
          ∧ t.tp.out = s.tp.out ++ [.abort x.id .replaced] ∧ t.tp.aborted = min (s.tp.aborted + 1) 4294967295))
      ∧ ∀ u, t.held m.shot = some u → u.memo = some ⟨m.blocks, 2 * m.samples⟩
        ∧ (t.cw.overflow = s.cw.overflow → s.cw.overflow = false ∨ s.cfg.plans.card = .overflow → ∀ sl,
          (planned sl → again (.card .memo sl) → u.dutyState (.card .memo sl) = some .pending ∧ job ∈ (t.slot sl).queue)
          ∧ (¬ planned sl → h.memo = none → u.duty (.card .memo sl) = h.duty (.card .memo sl)))
        ∧ (s.cw.overflow = false → t.cw.overflow = true → s.cfg.plans.card = .overflow → again (.card .memo .a) →
          h.duty (.card .memo .b) = none → u.duty (.card .memo .a) = none
          ∧ u.dutyState (.card .memo .b) = some .pending ∧ job ∈ t.cw.b.queue)
        ∧ (sends → again (.send .memo) → ∃ d, u.duty (.send .memo) = some d ∧ d.state = .pending ∧ d.resume = 0)
        ∧ (¬ sends → h.memo = none → u.duty (.send .memo) = h.duty (.send .memo))

/-! ## Power states and resets -/

/-- SLEEP and the closing (R29, R92, R99, R116, R135, R159, R163, R183, R207, R208): SLEEP is BUSY while a burst runs or
a memo records. Otherwise it is ACCEPTED: the part is CLOSING with the standby kind that HOLD gives, the link is DOWN,
the servo IDLE, the engine HALTED with no job and no queue, the tether port DOWN with no queue, transfer or credit, no
memo waits, the card writer closes, and a running lens port is to stop at its frame's end, a staged drive standing until
then; LINK_STATE, FOCUS_STATE and TETHER_STATE tell it where the part was not so; the configuration and the bytes of the
store stand. The engine's job is abandoned: its DEVELOP is PENDING, the abandon count gains 1, and where it was
DEVELOPING the proof's blocks join the free list's tail. The suspended transfer's duty is PENDING, from its acked offset
where it was SENDING. A card slot with no active file takes hold CLOSED, unless it is held EJECTED, ABSENT or FAULTED;
that a STARVED one without a file does so too is the model's reading (DEDUCED, log entry 14). One with an active file
goes on with it, but where it is STARVED or EJECTING for want of sectors: then the file is abandoned with cause SLEEP,
its sectors stand in a record, its duty is PENDING and its job at the head of the queue. (Not said of a slot A whose
overflow move is due.) Closing completes when no slot has an active file and the lens port is STOPPED: SLEPT is raised
and the part is CLOSED. That the row CLOSING_COMPLETE changes nothing where closing is not complete is the model's
choice (log entry 3). -/
def Obligations.SleepAndClosing : Prop :=
  (∀ (tag : Byte) (s : State), s.taking = true →
    (s.rtu.phase ≠ .idle ∨ s.mi.phase = .recording → exec (.sleep ⟨tag, some ()⟩) s = answered tag .busy [] s)
    ∧ (s.rtu.phase = .idle → s.mi.phase ≠ .recording → (s.tp.phase = .down → s.tp.transfer = none) →
      (s.mi.phase = .armed → s.mi.current ≠ none) → ∃ t, exec (.sleep ⟨tag, some ()⟩) s = answered tag .accepted [] t
        ∧ t.cp.power = .closing ∧ t.cp.heldKind = s.cfg.store.hold ∧ t.cfg = s.cfg ∧ t.waiting = s.waiting ∧ t.mem = s.mem
        ∧ t.rtu = s.rtu ∧ t.lines = s.lines ∧ t.sp.link = .down ∧ (s.sp.link ≠ .down → t.sp.trainReq = false) ∧ t.fe.servo = .idle
        ∧ t.de.phase = .halted ∧ t.de.queue = [] ∧ t.de.job = none
        ∧ t.tp.phase = .down ∧ t.tp.queue = [] ∧ t.tp.transfer = none ∧ t.tp.credits = 0
        ∧ t.tp.deferred = 0 ∧ t.mi.phase = .idle ∧ t.cw.closing = true
        ∧ t.lp = (if s.lp.phase = .stopped then s.lp else { s.lp with stopping := some .sleep })
        ∧ (s.sp.link ≠ .down → t.Tells .linkState (.num 0) [.word "DOWN", .word "STOP", .u8 s.sp.skew])
        ∧ (s.tp.phase ≠ .down → t.Tells .tetherState (.num 0) [.word "DOWN", .word "SLEEP", .u16 0])
        ∧ (s.fe.servo ≠ .idle → t.Tells .focusState (.num 0) ([.word "IDLE", .present false, .word "STOP",
            .word s.fe.last.outcome.name] ++ opt s.fe.last.area (fun a => [.u8 a]) ++ [.i32 s.fe.last.defocus]))
        ∧ (∀ x d, s.tp.transfer = some x → s.sendDuty x.shot x.kind = some d →
          ∃ u, t.sendDuty x.shot x.kind = some u ∧ u.state = .pending
            ∧ u.resume = if s.tp.phase = .sending then x.acked else d.resume)
        ∧ (s.de.job = none → t.de.abandons = s.de.abandons)
        ∧ (∀ j, s.de.job = some j → t.de.abandons = min (s.de.abandons + 1) 4294967295
          ∧ ∀ h, s.held j.shot = some h → h.duty .develop ≠ none → (s.heldShots.map (·.number)).Nodup →
            ∃ u, t.held j.shot = some u ∧ u.dutyState .develop = some .pending
              ∧ (s.de.phase = .developing → u.proof = none ∧ ∀ p ∈ u.pins, p.reader ≠ .d)
              ∧ (s.tp.transfer = none → s.cw.a.file = none → s.cw.b.file = none → t.ss.free = s.ss.free
                ++ if s.de.phase = .developing then (h.proof.map (·.blocks)).getD [] else []))
        ∧ (s.cw.a.state ≠ .starved ∨ s.cfg.plans.card ≠ .overflow ∨ s.cw.overflow = true ∨ s.cw.a.final = false → ∀ sl,
          let c := s.slot sl
          let u := t.slot sl
          let working := c.state = .ready ∨ c.state = .writing ∨ c.state = .starved
          (c.file = none → c.state = .absent ∨ c.state = .faulted ∨ (working ∧ c.hold = .ejected) → u = c)
          ∧ (c.file = none → working → c.hold ≠ .ejected → u = { c with state := .ready, hold := .closed })
          ∧ ∀ f, c.file = some f →
            let short := f.issued < f.sectors ∧ c.extents = [] ∧ (c.state = .starved ∨ c.state = .ejecting)
            (¬ short → u = c)
            ∧ (short → c.hold = .none → u.file = none ∧ u.queue = ⟨f.shot, f.kind⟩ :: c.queue ∧ u.state = .ready
              ∧ u.hold = (if c.state = .ejecting then .ejected else .closed)
              ∧ u.abandoned = min (c.abandoned + 1) 4294967295
              ∧ (f.fragments ≠ [] → u.returns = c.returns
                ++ [⟨f.shot, f.kind, some .sleep, 512 + f.payload, (f.fragments.map (·.count)).sum, f.fragments⟩])
              ∧ (s.dutyOf f.shot (.card f.kind sl) = some .active → t.dutyOf f.shot (.card f.kind sl) = some .pending)))))
  ∧ ∀ s : State,
    let u := raise .slept (.num 0) [.word (if s.cp.heldKind then "HELD" else "PLAIN"), .u64 s.time] s
    let may := s.cp.power = .closing ∧ s.cw.closing = true ∧ s.cw.a.file = none ∧ s.cw.b.file = none ∧ s.lp.phase = .stopped
    (may → exec .closingComplete s = .next { u with cp := { u.cp with power := .closed } })
    ∧ (¬ may → exec .closingComplete s = .next s)

/-- The wake (R25, R26, R74, R99, R116, R137, R161, R185, R197, R205, R210): the WAKE line has no effect in ACTIVE and
CLOSING. In CLOSED and STANDBY the part is ACTIVE with the sensor port and the release unit as after reset, the release
filter started. The servo is IDLE, the area records NO_DATA, the track at its start area, an enabled watcher afresh. The
lens port is STOPPED with its counter UNREFERENCED, its AUX history empty and its counts 0, and with a lens detected and
its enable ON it enters WAITING and tells DETECT. The engine is IDLE with its recipes, default number, selection and
counts; no memo is current, and gain, offset and counts stand. The pending first shot number is applied; the rest of the
configuration, the notice queue and the bytes of the store stand. Each card slot has no runs, no hold, CARD_FINAL not
taken, no file, its settings and counts, its records only after held standby, and follows its line: READY telling
INSERTED, STARVED if its queue holds work, or ABSENT; the overflow switch is clear. The tether port keeps its id counter
and counts and follows its line, without credits. After plain standby the store is empty with the next number at the
first shot number, and no queue holds work; after held standby every entry keeps its record but for its duties, and the
free list and the next number stand. Then the queues hold the HELD shots' PENDING duties: a card slot's by the order of
the shots' numbers and within a shot RAW, PROOF, MEMO, CAPTION, a PROOF only once its proof is done; the develop queue
URGENT first, then by that order, an entry URGENT where the duty or its shot is (DEDUCED, log entry 22); and the transfer
queue URGENT first, then by that order and that of the kinds, each with its resume offset, the duties beyond 256
deferred. That the store's bytes stand through a plain wake (log entry 2), the last result's other fields and what an
idle watcher keeps (log entry 18), and the lens's kept bits (log entry 19) are the model's choices. -/
def Obligations.WakeLeaves : Prop :=
  ∀ s : State,
    (s.cp.power = .active ∨ s.cp.power = .closing → exec .wakeLine s = .next s)
    ∧ (s.cp.power = .closed ∨ s.cp.power = .standby → ∃ t, exec .wakeLine s = .next t
      ∧ t.cp = { s.cp with power := .active, notices := t.cp.notices, lost := t.cp.lost }
      ∧ (s.cp.lost = true → t.cp.lost = true) ∧ s.cp.notices.map (·.key) <+: t.cp.notices.map (·.key)
      ∧ (∀ x ∈ s.cp.notices, x.kind ≠ .cardState → x.kind ≠ .lensState → x.kind ≠ .tetherState → x ∈ t.cp.notices)
      ∧ t.time = s.time ∧ t.mem = s.mem ∧ t.lines = s.lines ∧ t.pending = s.pending
      ∧ t.cfg = (s.waiting.filter (fun w => w.1 == .firstShotNumber)).foldl (fun c w => c.apply w.1 w.2) s.cfg
      ∧ t.waiting = s.waiting.filter (fun w => w.1 != .firstShotNumber)
      ∧ t.sp = {}
      ∧ t.rtu = { ({} : Rtu) with
          level := if s.cfg.burst.filterMs = 0 then some s.lines.releasePressed else none
          filterAt := if s.cfg.burst.filterMs = 0 then none else some (s.time + s.cfg.burst.filterMs * 1000) }
      ∧ t.fe = { s.fe with
          areas := List.replicate 121 {}, inHand := none, track := ⟨false, s.fe.trackStart, none, 0⟩, last := {}
          servo := .idle, servoMode := none, fails := 0, settle := none, settledAt := none, settleTimedOut := false
          watcher := if s.fe.watcher.enabled then ⟨true, false, 0, none, none, s.fe.watcher.wakes⟩ else s.fe.watcher }
      ∧ (let stopped := { s.lp with
          phase := .stopped, stopping := none, referenced := false, auxHistory := [], frames := 0, missing := 0
          parity := 0, absent := 0, repeated := 0, drives := 0, homes := 0, auxReceived := 0, auxDiscards := 0
          encErrors := 0 }
        (s.lines.lensDetect = false ∨ s.lp.enable = false → t.lp = stopped)
        ∧ (s.lines.lensDetect = true → s.lp.enable = true →
          t.lp = { stopped with
            phase := .waiting, frameFrom := s.time, framePeriod := s.cfg.lens.framePeriod, slot := 0, failRun := 0
            goodRun := 0, lastSeq := none }
          ∧ t.Tells .lensState (.num 0)
              [.word "WAITING", .word "DETECT", .i32 s.lp.counter, .word "UNREFERENCED", flag s.lp.overrun]))
      ∧ t.de = { s.de with phase := .idle, job := none, queue := t.de.queue }
      ∧ t.mi = { s.mi with phase := .idle, current := none, samples := [], lastFrame := none, latest := none }
      ∧ t.cw.closing = false ∧ t.cw.overflow = false
      ∧ (s.cp.heldKind = false → t.ss = { Store.reset with next := t.cfg.firstShot })
      ∧ (s.cp.heldKind = true → t.ss = { s.ss with request := none, lastLanded := none, wheelPos := 0, table := t.ss.table }
          ∧ t.ss.table.map (fun x => { x with duties := [] }) = s.ss.table.map (fun x => { x with duties := [] }))
      ∧ t.tp = { s.tp with
          phase := if s.lines.linkUp then .idle else .down, credits := 0, transfer := none
          queue := t.tp.queue, deferred := t.tp.deferred, nextOrder := t.tp.nextOrder }
      ∧ (s.lines.linkUp = true → t.Tells .tetherState (.num 0) [.word "IDLE", .word "LINK_UP", .u16 t.tp.queue.length])
      ∧ (∀ sl, t.slot sl = { s.slot sl with
          hold := .none, extents := [], final := false, file := none, lowArmed := true, queue := (t.slot sl).queue
          returns := if s.cp.heldKind then (s.slot sl).returns else []
          state := if s.cardLine sl then (if (t.slot sl).queue = [] then .ready else .starved) else .absent }
        ∧ (s.cardLine sl = true → t.TellsCard sl (if (t.slot sl).queue = [] then "INSERTED" else "STARVED") []))
      ∧ (s.cp.heldKind = false →
          t.tp.queue = [] ∧ t.tp.deferred = 0 ∧ t.de.queue = [] ∧ ∀ sl, (t.slot sl).queue = [])
      ∧ (s.cp.heldKind = true → (s.heldShots.map (·.number)).Nodup →
        let kinds := [FileKind.raw, .proof, .memo, .caption]
        let rank := fun (k : FileKind) => kinds.idxOf k
        let owes := fun (h : Shot) (k : DutyKey) => h ∈ s.heldShots ∧ h.dutyState k = some .pending
        let pending := s.heldShots.flatMap (fun h => kinds.filter (fun k => h.dutyState (.send k) == some .pending))
        (∀ sl,
          (∀ j, j ∈ (t.slot sl).queue ↔ ∃ h, owes h (.card j.kind sl) ∧ h.number = j.shot
            ∧ (j.kind = .proof → h.dutyState .develop = some .done ∧ h.proof ≠ none))
          ∧ (t.slot sl).queue.Pairwise (fun x y => x ≠ y ∧ ∀ h ∈ s.heldShots, ∀ g ∈ s.heldShots, h.number = x.shot →
            g.number = y.shot → h.serial ≤ g.serial ∧ (x.shot = y.shot → rank x.kind < rank y.kind)))
        ∧ (∀ e, e ∈ t.de.queue ↔ ∃ h d, owes h .develop ∧ h.duty .develop = some d
            ∧ e = ⟨h.number, h.serial, h.urgent || d.urgent⟩)
        ∧ t.de.queue.Pairwise (fun x y => x.shot ≠ y.shot
            ∧ ((x.urgent = true ∧ y.urgent = false) ∨ (x.urgent = y.urgent ∧ x.serial ≤ y.serial)))
        ∧ t.tp.queue.length = min 256 pending.length ∧ t.tp.deferred = pending.length - 256
        ∧ (∀ e ∈ t.tp.queue, ∃ h d, owes h (.send e.kind) ∧ h.duty (.send e.kind) = some d ∧ e.shot = h.number
            ∧ e.urgent = d.urgent ∧ (t.sendDuty e.shot e.kind).map (·.resume) = some d.resume)
        ∧ t.tp.queue.Pairwise (fun x y => (x.urgent = true ∧ y.urgent = false) ∨ (x.urgent = y.urgent
            ∧ ∀ h ∈ s.heldShots, ∀ g ∈ s.heldShots, h.number = x.shot → g.number = y.shot →
              h.serial ≤ g.serial ∧ (x.shot = y.shot → rank x.kind < rank y.kind)))
        ∧ ∀ h k d, owes h (.send k) → h.duty (.send k) = some d → (∀ e ∈ t.tp.queue, e.shot = h.number → e.kind ≠ k) →
            ∀ e ∈ t.tp.queue, (e.urgent = true ∧ d.urgent = false) ∨ (e.urgent = d.urgent
              ∧ ∀ g ∈ s.heldShots, g.number = e.shot → g.serial ≤ h.serial)))

/-- The resets (R3, R25, R50, R98, R115, R137, R160, R184, R197, R205, R211, R212): RESET is answered OK with a reply
whose collection performs the command reset; COMMAND_RESET stands for that moment and does nothing at another. The
command reset keeps the applied values of the configuration, the pending first shot number applied, and leaves no
pending value, the time base 0, no reply, no answer in the marker, no lost notice, an empty store with its next number
at the first shot number, the sensor port, the focus and development engines and the memo input as after reset, no
burst, and the part ACTIVE. The tether port has no transfer, queue, credit, id or count and follows its line, IDLE with
TETHER_STATE telling LINK_UP or DOWN. Each card slot has no run, job, record, hold or count, its low mark and write
timeout at their defaults, and follows its line, READY with INSERTED told or ABSENT. The lens port has its latches,
limits, stages, histories and counts as after reset and the applied frame period, and follows its line, WAITING with
LENS_STATE telling DETECT or STOPPED. The power-up reset gives the defaults besides, and with every input line inactive
exactly the state after reset. That the store's bytes stand through a command reset is the model's choice (log entry 2),
as are the values after reset of the last result's fields that R98 does not list (log entry 18) and of the recorded lens
bits (log entry 19). That the reset comes with the collection of its reply is the model's reading (log entry 6). -/
def Obligations.ResetsLeave : Prop :=
  (∀ (tag : Byte) (s : State), s.awake = true →
    exec (.reset ⟨tag, some ()⟩) s = .next { s with cp := { s.cp with slot := some ⟨tag, .ok, [], true⟩ } })
  ∧ ∀ (c : Instr) (s : State),
    (s.resetReply = false → exec .commandReset s = .next s)
    ∧ (c = .powerUpReset ∨ (s.resetReply = true ∧ (c = .replyCollected ∨ c = .commandReset)) → ∃ t, exec c s = .next t
      ∧ t.time = 0 ∧ t.pending = s.pending ∧ t.lines = s.lines ∧ t.waiting = []
      ∧ t.cfg = (if c = .powerUpReset then {}
          else (s.waiting.filter (fun w => w.1 == .firstShotNumber)).foldl (fun c w => c.apply w.1 w.2) s.cfg)
      ∧ t.mem = (if c = .powerUpReset then [] else s.mem)
      ∧ t.ss = { Store.reset with next := t.cfg.firstShot }
      ∧ t.sp = {} ∧ t.fe = {} ∧ t.de = {} ∧ t.mi = {} ∧ t.rtu.phase = .idle ∧ t.rtu.burst = none ∧ t.rtu.nextBurst = 1
      ∧ t.tp = { ({} : Tether) with phase := if s.lines.linkUp then .idle else .down }
      ∧ t.tp.queue = [] ∧ t.tp.transfer = none ∧ t.tp.credits = 0 ∧ t.tp.deferred = 0 ∧ t.tp.ids = 0
      ∧ [t.tp.offers, t.tp.delivered, t.tp.declined, t.tp.failed, t.tp.aborted, t.tp.goBacks, t.tp.segments, t.tp.bytesAcked,
          t.tp.badFrames, t.tp.staleFrames, t.tp.refused] = List.replicate 11 0
      ∧ (s.lines.linkUp = true → t.Tells .tetherState (.num 0) [.word "IDLE", .word "LINK_UP", .u16 0])
      ∧ t.cw.overflow = false ∧ t.cw.closing = false
      ∧ (∀ sl, let c := t.slot sl
        c = { ({} : CardSlot) with state := if s.cardLine sl then .ready else .absent }
        ∧ c.extents = [] ∧ c.queue = [] ∧ c.returns = [] ∧ c.final = false ∧ c.hold = .none ∧ c.file = none ∧ c.lowArmed = true
        ∧ c.lowMark = 262144 ∧ c.writeMs = 1000
        ∧ [c.written, c.abandoned, c.failed, c.errors, c.recovered, c.sectors] = List.replicate 6 0
        ∧ (s.cardLine sl = true → t.TellsCard sl "INSERTED" []))
      ∧ (let l := t.lp
        l = { ({} : Lens) with
          phase := if s.lines.lensDetect then .waiting else .stopped, framePeriod := t.cfg.lens.framePeriod }
        ∧ l.enable = true ∧ l.stage = none ∧ l.irisStage = none ∧ l.lastDrive = none ∧ l.irisSent = 0 ∧ l.homing = false
        ∧ l.far = -8388608 ∧ l.near = 8388607 ∧ l.irisMin = 0 ∧ l.irisMax = 255 ∧ l.auxQueue = [] ∧ l.auxHistory = []
        ∧ l.latest = none ∧ l.lensType = none ∧ l.counter = 0 ∧ l.referenced = false ∧ l.overrun = false
        ∧ [l.frames, l.failRun, l.goodRun, l.missing, l.parity, l.absent, l.repeated, l.drives, l.homes, l.auxReceived,
          l.auxDiscards, l.encErrors] = List.replicate 12 0
        ∧ (s.lines.lensDetect = true →
          t.Tells .lensState (.num 0) [.word "WAITING", .word "DETECT", .i32 0, .word "UNREFERENCED", flag false]))
      ∧ t.cp.slot = none ∧ t.cp.marker = none ∧ t.cp.lost = false ∧ t.cp.power = .active)
    ∧ exec .powerUpReset { s with lines := {} } = .next { State.reset with pending := s.pending }
end

