-- ==== Sys2Proof/Laws/Memory.lean ====
section
/-! SUPPORT. The laws of the store's bytes: every write keeps the canonical form, a read after a write gives the value
written, and every other byte reads as before. -/

namespace Sys2Proof.Machine

-- One theorem at a time: the package as one text has more of them than the checker has threads.
set_option Elab.async false

open Sys2Proof

/-! ## The canonical form -/

/-- A list canonical from a higher address is canonical from a lower one. -/
theorem wfFrom_mono {lo hi : Nat} (h : lo ≤ hi) : ∀ {m : List Host.Cell}, wfFrom hi m = true → wfFrom lo m = true
  | [], _ => rfl
  | (a, b) :: l, hm => by
    simp only [wfFrom, Bool.and_eq_true, decide_eq_true_eq] at hm ⊢
    exact ⟨⟨by omega, hm.1.2⟩, hm.2⟩

/-- A write at or above the lower bound keeps the canonical form. -/
theorem wfFrom_memWrite (x : Nat) (v : Byte) : ∀ (m : List Host.Cell) (lo : Nat), lo ≤ x → wfFrom lo m = true →
    wfFrom lo (memWrite m x v) = true
  | [], lo, hx, _ => by
    by_cases hv : v = Config.unwritten <;> simp [memWrite, wfFrom, hv, hx]
  | (a, b) :: l, lo, hx, hm => by
    simp only [wfFrom, Bool.and_eq_true, decide_eq_true_eq] at hm
    simp only [memWrite]
    split
    · split
      · simp only [wfFrom, Bool.and_eq_true, decide_eq_true_eq]; exact hm
      · simp only [wfFrom, Bool.and_eq_true, decide_eq_true_eq, bne_iff_ne, ne_eq]
        exact ⟨⟨hx, by assumption⟩, ⟨by omega, by simpa using hm.1.2⟩, hm.2⟩
    · split
      · split
        · exact wfFrom_mono (by omega) hm.2
        · simp only [wfFrom, Bool.and_eq_true, decide_eq_true_eq, bne_iff_ne, ne_eq]
          refine ⟨⟨hx, by assumption⟩, ?_⟩
          rename_i h _; rw [h]; exact hm.2
      · simp only [wfFrom, Bool.and_eq_true, decide_eq_true_eq]
        exact ⟨hm.1, wfFrom_memWrite x v l (a + 1) (by omega) hm.2⟩

/-- A write keeps the canonical form. -/
theorem memWrite_wf {m : List Host.Cell} (h : Memory.wf m = true) (x : Nat) (v : Byte) :
    Memory.wf (memWrite m x v) = true := wfFrom_memWrite x v m 0 (Nat.zero_le x) h

/-- Writing bytes into an extent keeps the canonical form. -/
theorem writeExtent_wf (blocks : List Nat) : ∀ (l : List Byte) (off : Nat) (m : List Host.Cell), Memory.wf m = true →
    Memory.wf (writeExtent blocks l off m) = true
  | [], _, _, h => h
  | v :: l, off, m, h => by
    refine writeExtent_wf blocks l (off + 1) _ ?_
    split
    · exact memWrite_wf h _ _
    · exact h

/-! ## Reads after writes -/

/-- Below its lower bound a canonical list reads as unwritten. -/
theorem memRead_below : ∀ (m : List Host.Cell) (lo x : Nat), wfFrom lo m = true → x < lo → memRead m x = Config.unwritten
  | [], _, _, _, _ => rfl
  | (a, b) :: l, lo, x, hm, hx => by
    simp only [wfFrom, Bool.and_eq_true, decide_eq_true_eq] at hm
    rw [memRead, if_neg (by omega), if_pos (by omega)]

/-- A byte reads as the value just written to it. -/
theorem memRead_memWrite_same (x : Nat) (v : Byte) : ∀ (m : List Host.Cell) (lo : Nat), wfFrom lo m = true →
    memRead (memWrite m x v) x = v
  | [], _, _ => by
    by_cases hv : v = Config.unwritten <;> simp [memWrite, memRead, hv]
  | (a, b) :: l, lo, hm => by
    simp only [wfFrom, Bool.and_eq_true, decide_eq_true_eq] at hm
    simp only [memWrite]
    split
    · split
      · rename_i hxa hv; rw [memRead, if_neg (by omega), if_pos hxa, hv]
      · simp [memRead]
    · split
      · split
        · rename_i hxa hv; rw [hv]; exact memRead_below l (a + 1) x hm.2 (by omega)
        · simp [memRead]
      · rename_i hlt hne
        rw [memRead, if_neg hne, if_neg hlt]
        exact memRead_memWrite_same x v l (a + 1) hm.2

/-- A write leaves every other byte as it was. -/
theorem memRead_memWrite_other (x y : Nat) (hxy : y ≠ x) (v : Byte) : ∀ (m : List Host.Cell) (lo : Nat), wfFrom lo m = true →
    memRead (memWrite m x v) y = memRead m y
  | [], _, _ => by
    by_cases hv : v = Config.unwritten <;> simp [memWrite, memRead, hv, hxy]
  | (a, b) :: l, lo, hm => by
    simp only [wfFrom, Bool.and_eq_true, decide_eq_true_eq] at hm
    simp only [memWrite]
    split
    · rename_i hxa
      split
      · rfl
      · rw [memRead, if_neg hxy]
        split
        · rw [memRead, if_neg (by omega), if_pos (by omega)]
        · rfl
    · split
      · rename_i hxa
        subst hxa
        have hbelow : y < x → memRead l y = Config.unwritten := fun h => memRead_below l (x + 1) y hm.2 (by omega)
        split
        · rw [memRead, if_neg hxy]
          split
          · rename_i h; rw [hbelow h]
          · rfl
        · simp [memRead, hxy]
      · rw [memRead, memRead]
        split
        · rfl
        · split
          · rfl
          · exact memRead_memWrite_other x y hxy v l (a + 1) hm.2

/-- A byte that no address of the written range names reads as before. -/
theorem memRead_writeExtent_other (blocks : List Nat) (y : Nat) : ∀ (l : List Byte) (off : Nat) (m : List Host.Cell),
    Memory.wf m = true → (∀ i, i < l.length → extentAddr blocks (off + i) ≠ some y) →
    memRead (writeExtent blocks l off m) y = memRead m y
  | [], _, _, _, _ => rfl
  | v :: l, off, m, hm, h => by
    have h0 : extentAddr blocks off ≠ some y := by simpa using h 0 (by simp)
    have hrest : ∀ i, i < l.length → extentAddr blocks (off + 1 + i) ≠ some y := fun i hi => by
      have := h (i + 1) (by simpa using hi)
      rwa [show off + (i + 1) = off + 1 + i by omega] at this
    rw [writeExtent]
    split
    · rename_i a ha
      rw [memRead_writeExtent_other blocks y l (off + 1) _ (memWrite_wf hm _ _) hrest]
      exact memRead_memWrite_other a y (fun e => h0 (by rw [ha, e])) v m 0 hm
    · exact memRead_writeExtent_other blocks y l (off + 1) m hm hrest

end Sys2Proof.Machine
end

