-- ==== Sys2Proof/Laws/Notices.lean ====
section
/-! SUPPORT. The laws of the notice queue (R201): raising a notice keeps the queue's bound, its distinct subjects and its
repeat counts, and touches nothing but the queue and NOTICES_LOST. -/

namespace Sys2Proof.Machine

-- One theorem at a time: the package as one text has more of them than the checker has threads.
set_option Elab.async false

open Sys2Proof

/-! ## What a raising leaves -/

@[simp] theorem raiseIn_slot (k : NoticeKind) (sub : Subject) (v : List Wire) (t : Nat) (c : CommandPort) :
    (raiseIn k sub v t c).slot = c.slot := by unfold raiseIn; split_ifs <;> rfl
@[simp] theorem raiseIn_marker (k : NoticeKind) (sub : Subject) (v : List Wire) (t : Nat) (c : CommandPort) :
    (raiseIn k sub v t c).marker = c.marker := by unfold raiseIn; split_ifs <;> rfl
@[simp] theorem raiseIn_power (k : NoticeKind) (sub : Subject) (v : List Wire) (t : Nat) (c : CommandPort) :
    (raiseIn k sub v t c).power = c.power := by unfold raiseIn; split_ifs <;> rfl
@[simp] theorem raiseIn_heldKind (k : NoticeKind) (sub : Subject) (v : List Wire) (t : Nat) (c : CommandPort) :
    (raiseIn k sub v t c).heldKind = c.heldKind := by unfold raiseIn; split_ifs <;> rfl

/-- NOTICES_LOST, once set, stays set through a raising (R201). -/
theorem raiseIn_lost (k : NoticeKind) (sub : Subject) (v : List Wire) (t : Nat) (c : CommandPort) (h : c.lost = true) :
    (raiseIn k sub v t c).lost = true := by unfold raiseIn; split_ifs <;> simp [h]

@[simp] theorem raise_pending (k : NoticeKind) (sub : Subject) (v : List Wire) (s : State) :
    (raise k sub v s).pending = s.pending := rfl
@[simp] theorem raise_time (k : NoticeKind) (sub : Subject) (v : List Wire) (s : State) : (raise k sub v s).time = s.time := rfl
@[simp] theorem raise_lines (k : NoticeKind) (sub : Subject) (v : List Wire) (s : State) : (raise k sub v s).lines = s.lines := rfl
@[simp] theorem raise_cfg (k : NoticeKind) (sub : Subject) (v : List Wire) (s : State) : (raise k sub v s).cfg = s.cfg := rfl
@[simp] theorem raise_waiting (k : NoticeKind) (sub : Subject) (v : List Wire) (s : State) :
    (raise k sub v s).waiting = s.waiting := rfl
@[simp] theorem raise_mem (k : NoticeKind) (sub : Subject) (v : List Wire) (s : State) : (raise k sub v s).mem = s.mem := rfl
@[simp] theorem raise_ss (k : NoticeKind) (sub : Subject) (v : List Wire) (s : State) : (raise k sub v s).ss = s.ss := rfl
@[simp] theorem raise_sp (k : NoticeKind) (sub : Subject) (v : List Wire) (s : State) : (raise k sub v s).sp = s.sp := rfl
@[simp] theorem raise_rtu (k : NoticeKind) (sub : Subject) (v : List Wire) (s : State) : (raise k sub v s).rtu = s.rtu := rfl
@[simp] theorem raise_fe (k : NoticeKind) (sub : Subject) (v : List Wire) (s : State) : (raise k sub v s).fe = s.fe := rfl
@[simp] theorem raise_lp (k : NoticeKind) (sub : Subject) (v : List Wire) (s : State) : (raise k sub v s).lp = s.lp := rfl
@[simp] theorem raise_de (k : NoticeKind) (sub : Subject) (v : List Wire) (s : State) : (raise k sub v s).de = s.de := rfl
@[simp] theorem raise_cw (k : NoticeKind) (sub : Subject) (v : List Wire) (s : State) : (raise k sub v s).cw = s.cw := rfl
@[simp] theorem raise_tp (k : NoticeKind) (sub : Subject) (v : List Wire) (s : State) : (raise k sub v s).tp = s.tp := rfl
@[simp] theorem raise_mi (k : NoticeKind) (sub : Subject) (v : List Wire) (s : State) : (raise k sub v s).mi = s.mi := rfl
@[simp] theorem raise_cp (k : NoticeKind) (sub : Subject) (v : List Wire) (s : State) :
    (raise k sub v s).cp = raiseIn k sub v s.time s.cp := rfl

/-! ## What a raising keeps -/

/-- Whether a queued notice is the one raised is a matter of its key. -/
theorem sameNotice_iff (k : NoticeKind) (sub : Subject) (n : Notice) : sameNotice k sub n = true ↔ n.key = (k, sub) := by
  simp [sameNotice, Notice.key]

/-- Updating an entry in place leaves every key as it was. -/
theorem bumpQueue_keys (k : NoticeKind) (sub : Subject) (t : Nat) (v : List Wire) (q : List Notice) :
    (bumpQueue k sub t v q).map Notice.key = q.map Notice.key := by
  unfold bumpQueue
  rw [List.map_map]
  refine List.map_congr_left fun n _ => ?_
  simp only [Function.comp_apply]
  split <;> rfl

/-- Raising a notice keeps the queue right (R201). -/
theorem raiseIn_right (k : NoticeKind) (sub : Subject) (v : List Wire) (t : Nat) (c : CommandPort)
    (h : NoticesRight c.notices) : NoticesRight (raiseIn k sub v t c).notices := by
  unfold raiseIn
  split_ifs with h1 h2
  · refine ⟨?_, ?_, ?_⟩
    · simpa [bumpQueue] using h.room
    · simpa only [bumpQueue_keys] using h.distinct
    · intro n hn
      obtain ⟨m, hm, rfl⟩ := List.mem_map.1 hn
      have := h.counted m hm
      split
      · simp only [bumpNotice]; omega
      · exact this
  · refine ⟨?_, ?_, ?_⟩
    · simpa using h2
    · have hnew : (k, sub) ∉ c.notices.map Notice.key := by
        intro hmem
        obtain ⟨m, hm, hk⟩ := List.mem_map.1 hmem
        exact h1 (List.any_eq_true.2 ⟨m, hm, (sameNotice_iff k sub m).2 hk⟩)
      simp only [List.map_append, List.map_cons, List.map_nil, List.nodup_append]
      exact ⟨h.distinct, by simp, fun a ha b hb e => hnew (by
        have : b = (k, sub) := by simpa [Notice.key] using hb
        rw [← this, ← e]; exact ha)⟩
    · intro n hn
      rcases List.mem_append.1 hn with hn | hn
      · exact h.counted n hn
      · have : n = ⟨k, sub, v, 1, t⟩ := by simpa using hn
        subst this
        simp
  · exact h

/-- A queue without its head is right. -/
theorem NoticesRight.tail {n : Notice} {l : List Notice} (h : NoticesRight (n :: l)) : NoticesRight l :=
  ⟨by have := h.room; simp only [List.length_cons] at this; omega, (List.nodup_cons.1 h.distinct).2,
    fun m hm => h.counted m (List.mem_cons_of_mem _ hm)⟩

/-- The empty queue is right. -/
theorem NoticesRight.nil : NoticesRight [] := ⟨by decide, by decide, fun _ h => absurd h (by simp)⟩

end Sys2Proof.Machine
end

