-- ==== Sys2Proof/Laws/Keeps.lean ====
section
/-! SUPPORT. What every operation of the blocks keeps, said once: the queue of commands, the time, the reply slot, the
marker and the power state stand as they were, NOTICES_LOST is not cleared, and a sound state stays sound. The files of
this folder that end in `Keeps` give one lemma for each operation, in the form in which they chain: what is kept up to a
state is kept up to the operation's result. -/

namespace Sys2Proof.Machine

-- One theorem at a time: the package as one text has more of them than the checker has threads.
set_option Elab.async false

open Sys2Proof

/-- What an operation keeps from `s` to `t`. -/
structure Keeps (s t : State) : Prop where
  pending : t.pending = s.pending
  time : t.time = s.time
  slot : t.cp.slot = s.cp.slot := by with_reducible rfl
  marker : t.cp.marker = s.cp.marker := by with_reducible rfl
  power : t.cp.power = s.cp.power := by with_reducible rfl
  kind : t.cp.heldKind = s.cp.heldKind := by with_reducible rfl
  lost : s.cp.lost = true → t.cp.lost = true
  sound : s.Sound → t.Sound

/-- Two states that agree in everything that `Keeps` speaks of. -/
structure Same (s t : State) : Prop where
  pending : t.pending = s.pending := by with_reducible rfl
  time : t.time = s.time := by with_reducible rfl
  slot : t.cp.slot = s.cp.slot := by with_reducible rfl
  marker : t.cp.marker = s.cp.marker := by with_reducible rfl
  power : t.cp.power = s.cp.power := by with_reducible rfl
  kind : t.cp.heldKind = s.cp.heldKind := by with_reducible rfl
  notices : t.cp.notices = s.cp.notices := by with_reducible rfl
  lost : t.cp.lost = s.cp.lost := by with_reducible rfl
  memory : t.mem = s.mem := by with_reducible rfl
  table : t.ss.table.length = s.ss.table.length := by with_reducible rfl
  credits : t.tp.credits = s.tp.credits := by with_reducible rfl
  auxQueue : t.lp.auxQueue = s.lp.auxQueue := by with_reducible rfl
  auxHistory : t.lp.auxHistory = s.lp.auxHistory := by with_reducible rfl
  counter : t.lp.counter = s.lp.counter := by with_reducible rfl
  index : t.cfg.lens.indexValue = s.cfg.lens.indexValue := by with_reducible rfl
  areas : t.fe.areas.length = s.fe.areas.length := by with_reducible rfl
  recipes : t.de.recipes.length = s.de.recipes.length := by with_reducible rfl
  sends : t.tp.queue = s.tp.queue := by with_reducible rfl
  orders : t.tp.nextOrder = s.tp.nextOrder := by with_reducible rfl

variable {a s t : State}

/-- The order of the transfer queue rests on the queue and the next entry order alone (R165). -/
theorem Tether.InOrder.upd {p q : Tether} (h : p.InOrder) (hq : q.queue = p.queue) (hn : q.nextOrder = p.nextOrder) :
    q.InOrder := by
  obtain ⟨h1, h2⟩ := h
  constructor
  · rw [hq]; exact h1
  · rw [hq, hn]; exact h2

theorem Keeps.refl (s : State) : Keeps s s := ⟨rfl, rfl, rfl, rfl, rfl, rfl, id, id⟩

theorem Keeps.trans (h1 : Keeps a s) (h2 : Keeps s t) : Keeps a t :=
  ⟨h2.pending.trans h1.pending, h2.time.trans h1.time, h2.slot.trans h1.slot, h2.marker.trans h1.marker,
    h2.power.trans h1.power, h2.kind.trans h1.kind, h2.lost ∘ h1.lost, h2.sound ∘ h1.sound⟩

theorem Same.keeps (e : Same s t) : Keeps s t where
  pending := e.pending
  time := e.time
  slot := e.slot
  marker := e.marker
  power := e.power
  kind := e.kind
  lost h := e.lost.trans h
  sound h :=
    { memory := by rw [e.memory]; exact h.memory
      notices := by rw [e.notices]; exact h.notices
      table := e.table.trans h.table
      credits := by rw [e.credits]; exact h.credits
      auxQueue := by rw [e.auxQueue]; exact h.auxQueue
      auxHistory := by rw [e.auxHistory]; exact h.auxHistory
      counter := by rw [e.counter]; exact h.counter
      index := by rw [e.index]; exact h.index
      areas := e.areas.trans h.areas
      recipes := e.recipes.trans h.recipes
      sends := h.sends.upd e.sends e.orders }

/-- An update of what `Keeps` does not speak of. -/
theorem Keeps.upd (h : Keeps a s) (e : Same s t) : Keeps a t := h.trans e.keeps

/-- What each turn keeps, a fold keeps. -/
theorem foldl_keeps {α : Type} (f : State → α → State) (hf : ∀ t x, Keeps a t → Keeps a (f t x)) :
    ∀ (l : List α) {s : State}, Keeps a s → Keeps a (l.foldl f s)
  | [], _, h => h
  | x :: l, _, h => foldl_keeps f hf l (hf _ x h)

/-- Bytes written into the store. -/
theorem Keeps.write (h : Keeps a s) (e : Same s { t with mem := s.mem }) (w : Memory.wf s.mem = true → Memory.wf t.mem = true) :
    Keeps a t :=
  h.trans
    { pending := e.pending
      time := e.time
      slot := e.slot
      marker := e.marker
      power := e.power
      kind := e.kind
      lost := fun x => e.lost.trans x
      sound := fun x => { e.keeps.sound x with memory := w x.memory } }

/-- A notice raised. -/
theorem raise_keeps {k : NoticeKind} {sub : Subject} {v : List Wire} (h : Keeps a s) : Keeps a (raise k sub v s) :=
  h.trans
    { pending := rfl
      time := rfl
      slot := raiseIn_slot k sub v s.time s.cp
      marker := raiseIn_marker k sub v s.time s.cp
      power := raiseIn_power k sub v s.time s.cp
      kind := raiseIn_heldKind k sub v s.time s.cp
      lost := fun x => raiseIn_lost k sub v s.time s.cp x
      sound := fun x => { x with notices := raiseIn_right k sub v s.time s.cp x.notices } }

/-- The store's bytes replaced by bytes in their canonical form. -/
theorem Keeps.bytes (h : Keeps a s) {m : List Host.Cell} (hm : Memory.wf s.mem = true → Memory.wf m = true) :
    Keeps a { s with mem := m } := h.write {} hm

/-! ## What the store and its consumers leave alone -/

/-- What an operation of the store, the card writer, the development engine, the tether port or the memo input keeps: beside
what all keep, the lines, the settings, the sensor port, the release and timing unit, the focus engine and the lens port
stand as they were. -/
structure Stays (s t : State) : Prop where
  keeps : Keeps s t
  lines : t.lines = s.lines
  cfg : t.cfg = s.cfg
  waiting : t.waiting = s.waiting
  sp : t.sp = s.sp
  rtu : t.rtu = s.rtu
  fe : t.fe = s.fe
  lp : t.lp = s.lp

/-- Two states that agree in everything that `Stays` speaks of. -/
structure Alike (s t : State) : Prop extends Same s t where
  lines : t.lines = s.lines := by with_reducible rfl
  cfg : t.cfg = s.cfg := by with_reducible rfl
  waiting : t.waiting = s.waiting := by with_reducible rfl
  sp : t.sp = s.sp := by with_reducible rfl
  rtu : t.rtu = s.rtu := by with_reducible rfl
  fe : t.fe = s.fe := by with_reducible rfl
  lp : t.lp = s.lp := by with_reducible rfl

theorem Stays.refl (s : State) : Stays s s := ⟨Keeps.refl s, rfl, rfl, rfl, rfl, rfl, rfl, rfl⟩

theorem Stays.trans (h1 : Stays a s) (h2 : Stays s t) : Stays a t :=
  ⟨h1.keeps.trans h2.keeps, h2.lines.trans h1.lines, h2.cfg.trans h1.cfg, h2.waiting.trans h1.waiting, h2.sp.trans h1.sp,
    h2.rtu.trans h1.rtu, h2.fe.trans h1.fe, h2.lp.trans h1.lp⟩

/-- An update of what `Stays` does not speak of. -/
theorem Stays.upd (h : Stays a s) (e : Alike s t) : Stays a t :=
  h.trans ⟨e.toSame.keeps, e.lines, e.cfg, e.waiting, e.sp, e.rtu, e.fe, e.lp⟩

theorem foldl_stays {α : Type} (f : State → α → State) (hf : ∀ t x, Stays a t → Stays a (f t x)) :
    ∀ (l : List α) {s : State}, Stays a s → Stays a (l.foldl f s)
  | [], _, h => h
  | x :: l, _, h => foldl_stays f hf l (hf _ x h)

theorem Stays.bytes (h : Stays a s) {m : List Host.Cell} (hm : Memory.wf s.mem = true → Memory.wf m = true) :
    Stays a { s with mem := m } := h.trans ⟨(Keeps.refl s).bytes hm, rfl, rfl, rfl, rfl, rfl, rfl, rfl⟩

theorem raise_stays {k : NoticeKind} {sub : Subject} {v : List Wire} (h : Stays a s) : Stays a (raise k sub v s) :=
  h.trans ⟨raise_keeps (Keeps.refl s), rfl, rfl, rfl, rfl, rfl, rfl, rfl⟩

/-! ## Host commands and the power states -/

/-- What a host command or a change of the power state keeps: the queue of commands and the time stand, NOTICES_LOST is not
cleared, and a sound state stays sound. -/
structure Safe (s t : State) : Prop where
  pending : t.pending = s.pending
  time : t.time = s.time
  lost : s.cp.lost = true → t.cp.lost = true
  sound : s.Sound → t.Sound

theorem Keeps.safe (h : Keeps s t) : Safe s t := ⟨h.pending, h.time, h.lost, h.sound⟩

theorem Safe.refl (s : State) : Safe s s := (Keeps.refl s).safe

theorem Safe.trans (h1 : Safe a s) (h2 : Safe s t) : Safe a t :=
  ⟨h2.pending.trans h1.pending, h2.time.trans h1.time, h2.lost ∘ h1.lost, h2.sound ∘ h1.sound⟩

/-- A state that differs only in the reply slot, the marker and the power state. -/
theorem port_safe (slot : Option Reply) (marker : Option (Byte × Status)) (power : Power) (kind : Bool) :
    Safe s { s with cp := { s.cp with slot := slot, marker := marker, power := power, heldKind := kind } } :=
  ⟨rfl, rfl, id, fun x => ⟨x.memory, x.notices, x.table, x.credits, x.auxQueue, x.auxHistory, x.counter, x.index, x.areas,
    x.recipes, x.sends⟩⟩

end Sys2Proof.Machine
end

