-- ==== Sys2Proof/Laws/StoreKeeps.lean ====
section
/-! SUPPORT. What the operations of the shot store's free list, table, duties and pins keep (`Machine/Ops.lean`). -/

namespace Sys2Proof.Machine

-- One theorem at a time: the package as one text has more of them than the checker has threads.
set_option Elab.async false

open Sys2Proof

variable {a s : State}
/-- Changing an entry leaves as many. -/
theorem updateFirst_length (p : Shot → Bool) (f : Shot → Shot) : ∀ l : List Shot, (updateFirst p f l).length = l.length
  | [] => rfl
  | t :: l => by
    simp only [updateFirst]
    split
    · rfl
    · simp [updateFirst_length p f l]

theorem modEntry_stays {p : Shot → Bool} {f : Shot → Shot} (h : Stays a s) : Stays a (modEntry p f s) := by
  unfold modEntry
  exact h.upd { table := updateFirst_length p f s.ss.table }


theorem setFree_stays {l : List Nat} (h : Stays a s) : Stays a (setFree l s) := by
  unfold setFree
  try dsimp only
  repeat' first
    | exact h
    | exact h.upd {}
    | refine raise_stays ?_
    | refine Stays.upd (s := raise _ _ _ _) ?_ {}
    | split

theorem giveBlocks_stays {l : List Nat} (h : Stays a s) : Stays a (giveBlocks l s) := by
  unfold giveBlocks
  repeat' first
    | exact h
    | exact h.upd {}
    | refine setFree_stays ?_

theorem modHeld_stays {n : Nat} {f : Shot → Shot} (h : Stays a s) : Stays a (modHeld n f s) := by
  unfold modHeld
  repeat' first
    | exact h
    | exact h.upd {}
    | refine modEntry_stays ?_

theorem setDuty_stays {n : Nat} {k : DutyKey} {f : Duty → Duty} (h : Stays a s) : Stays a (setDuty n k f s) := by
  unfold setDuty
  repeat' first
    | exact h
    | exact h.upd {}
    | refine modHeld_stays ?_

theorem addPin_stays {n : Nat} {r : Reader} {k : FileKind} (h : Stays a s) : Stays a (addPin n r k s) := by
  unfold addPin
  try dsimp only
  repeat' first
    | exact h
    | exact h.upd {}
    | refine modHeld_stays ?_

theorem dropPin_stays {n : Nat} {r : Reader} (h : Stays a s) : Stays a (dropPin n r s) := by
  unfold dropPin
  repeat' first
    | exact h
    | exact h.upd {}
    | refine modHeld_stays ?_

theorem dropProof_stays {n : Nat} (h : Stays a s) : Stays a (dropProof n s) := by
  unfold dropProof
  try dsimp only
  repeat' first
    | exact h
    | exact h.upd {}
    | refine giveBlocks_stays ?_
    | refine modHeld_stays ?_
    | refine Stays.upd (s := giveBlocks _ _) ?_ {}
    | refine Stays.upd (s := modHeld _ _ _) ?_ {}
    | split

theorem proofTest_stays {n : Nat} (h : Stays a s) : Stays a (proofTest n s) := by
  unfold proofTest
  try dsimp only
  repeat' first
    | exact h
    | exact h.upd {}
    | refine dropProof_stays ?_
    | refine Stays.upd (s := dropProof _ _) ?_ {}
    | split

theorem raiseMemoEnd_stays {shot : Nat} {r : MemoReason} {length : Nat} {replaced : Bool} {start : Nat}
    (h : Stays a s) : Stays a (raiseMemoEnd shot r length replaced start s) := by
  unfold raiseMemoEnd
  repeat' first
    | exact h
    | exact h.upd {}
    | refine raise_stays ?_

theorem abortArmed_stays {n : Nat} (h : Stays a s) : Stays a (abortArmed n s) := by
  unfold abortArmed
  try dsimp only
  repeat' first
    | exact h
    | exact h.upd {}
    | refine raiseMemoEnd_stays ?_
    | refine Stays.upd (s := raiseMemoEnd _ _ _ _ _ _) ?_ {}
    | split

theorem freeTest_stays {n : Nat} (h : Stays a s) : Stays a (freeTest n s) := by
  unfold freeTest
  try dsimp only
  repeat' first
    | exact h
    | exact h.upd {}
    | refine giveBlocks_stays ?_
    | refine modHeld_stays ?_
    | refine abortArmed_stays ?_
    | refine Stays.upd (s := giveBlocks _ _) ?_ {}
    | refine Stays.upd (s := modHeld _ _ _) ?_ {}
    | refine Stays.upd (s := abortArmed _ _) ?_ {}
    | split

theorem shotTests_stays {n : Nat} (h : Stays a s) : Stays a (shotTests n s) := by
  unfold shotTests
  repeat' first
    | exact h
    | exact h.upd {}
    | refine proofTest_stays ?_
    | refine freeTest_stays ?_

theorem failDuty_stays {n : Nat} {k : DutyKey} (h : Stays a s) : Stays a (failDuty n k s) := by
  unfold failDuty
  try dsimp only
  repeat' first
    | exact h
    | exact h.upd {}
    | refine raise_stays ?_
    | refine modHeld_stays ?_
    | refine setDuty_stays ?_
    | refine shotTests_stays ?_
    | refine Stays.upd (s := raise _ _ _ _) ?_ {}
    | refine Stays.upd (s := modHeld _ _ _) ?_ {}
    | refine Stays.upd (s := setDuty _ _ _ _) ?_ {}
    | refine Stays.upd (s := shotTests _ _) ?_ {}
    | split

/-! ## The same in the weaker form, for the operations that also touch other blocks -/

theorem modEntry_keeps {p : Shot → Bool} {f : Shot → Shot} (h : Keeps a s) : Keeps a (modEntry p f s) :=
  h.trans (modEntry_stays (Stays.refl s)).keeps
theorem giveBlocks_keeps {l : List Nat} (h : Keeps a s) : Keeps a (giveBlocks l s) :=
  h.trans (giveBlocks_stays (Stays.refl s)).keeps
theorem modHeld_keeps {n : Nat} {f : Shot → Shot} (h : Keeps a s) : Keeps a (modHeld n f s) :=
  h.trans (modHeld_stays (Stays.refl s)).keeps
theorem freeTest_keeps {n : Nat} (h : Keeps a s) : Keeps a (freeTest n s) :=
  h.trans (freeTest_stays (Stays.refl s)).keeps
theorem proofTest_keeps {n : Nat} (h : Keeps a s) : Keeps a (proofTest n s) :=
  h.trans (proofTest_stays (Stays.refl s)).keeps
theorem shotTests_keeps {n : Nat} (h : Keeps a s) : Keeps a (shotTests n s) :=
  h.trans (shotTests_stays (Stays.refl s)).keeps
theorem retest_keeps {c : Limit} (h : Keeps a s) : Keeps a (retest c s) := by
  unfold retest
  try dsimp only
  repeat' first
    | exact h
    | exact h.upd {}
    | split

end Sys2Proof.Machine
end

