-- ==== Sys2Proof/Laws/CardKeeps.lean ====
section
/-! SUPPORT. What the operations of the card writer keep (`Machine/CardOps.lean`). -/

namespace Sys2Proof.Machine

-- One theorem at a time: the package as one text has more of them than the checker has threads.
set_option Elab.async false

open Sys2Proof

variable {a s : State}

theorem modSlot_stays {sl : Slot} {f : CardSlot → CardSlot} (h : Stays a s) : Stays a (modSlot sl f s) := by
  unfold modSlot
  split <;> exact h.upd {}


theorem raiseCard_stays {sl : Slot} {reason : String} {extra : List Wire}
    (h : Stays a s) : Stays a (raiseCard sl reason extra s) := by
  unfold raiseCard
  try dsimp only
  repeat' first
    | exact h
    | exact h.upd {}
    | with_reducible refine raise_stays ?_

theorem lowTest_stays {sl : Slot} (h : Stays a s) : Stays a (lowTest sl s) := by
  unfold lowTest
  try dsimp only
  repeat' first
    | exact h
    | exact h.upd {}
    | with_reducible refine raise_stays ?_
    | with_reducible refine modSlot_stays ?_
    | refine Stays.upd (s := raise _ _ _ _) ?_ {}
    | refine Stays.upd (s := modSlot _ _ _) ?_ {}
    | split

theorem holdFull_stays {sl : Slot} (h : Stays a s) : Stays a (holdFull sl s) := by
  unfold holdFull
  repeat' first
    | exact h
    | exact h.upd {}
    | with_reducible refine modSlot_stays ?_
    | with_reducible refine raiseCard_stays ?_

theorem addRecord_stays {sl : Slot} {r : FileRecord} (h : Stays a s) : Stays a (addRecord sl r s) := by
  unfold addRecord
  try dsimp only
  repeat' first
    | exact h
    | exact h.upd {}
    | with_reducible refine raise_stays ?_
    | with_reducible refine modSlot_stays ?_
    | with_reducible refine holdFull_stays ?_
    | refine Stays.upd (s := raise _ _ _ _) ?_ {}
    | refine Stays.upd (s := modSlot _ _ _) ?_ {}
    | refine Stays.upd (s := holdFull _ _) ?_ {}
    | split

theorem starve_stays {sl : Slot} (h : Stays a s) : Stays a (starve sl s) := by
  unfold starve
  repeat' first
    | exact h
    | exact h.upd {}
    | with_reducible refine modSlot_stays ?_
    | with_reducible refine raiseCard_stays ?_

theorem slotRest_stays {sl : Slot} (h : Stays a s) : Stays a (slotRest sl s) := by
  unfold slotRest
  try dsimp only
  repeat' first
    | exact h
    | exact h.upd {}
    | with_reducible refine modSlot_stays ?_
    | with_reducible refine raiseCard_stays ?_
    | with_reducible refine holdFull_stays ?_
    | with_reducible refine starve_stays ?_
    | refine Stays.upd (s := modSlot _ _ _) ?_ {}
    | refine Stays.upd (s := raiseCard _ _ _ _) ?_ {}
    | refine Stays.upd (s := holdFull _ _) ?_ {}
    | refine Stays.upd (s := starve _ _) ?_ {}
    | split

theorem abandonDuty_stays {sl : Slot} {c : Cause} {f : CardFile}
    (h : Stays a s) : Stays a (abandonDuty sl c f s) := by
  unfold abandonDuty
  try dsimp only
  repeat' first
    | exact h
    | exact h.upd {}
    | with_reducible refine dropPin_stays ?_
    | with_reducible refine failDuty_stays ?_
    | with_reducible refine setDuty_stays ?_
    | with_reducible refine shotTests_stays ?_
    | with_reducible refine modSlot_stays ?_
    | refine Stays.upd (s := dropPin _ _ _) ?_ {}
    | refine Stays.upd (s := failDuty _ _ _) ?_ {}
    | refine Stays.upd (s := setDuty _ _ _ _) ?_ {}
    | refine Stays.upd (s := shotTests _ _) ?_ {}
    | refine Stays.upd (s := modSlot _ _ _) ?_ {}
    | split

theorem abandon_stays {sl : Slot} {c : Cause} (h : Stays a s) : Stays a (abandon sl c s) := by
  unfold abandon
  try dsimp only
  repeat' first
    | exact h
    | exact h.upd {}
    | with_reducible refine modSlot_stays ?_
    | with_reducible refine addRecord_stays ?_
    | with_reducible refine abandonDuty_stays ?_
    | refine Stays.upd (s := modSlot _ _ _) ?_ {}
    | refine Stays.upd (s := addRecord _ _ _) ?_ {}
    | refine Stays.upd (s := abandonDuty _ _ _ _) ?_ {}
    | split

theorem retarget_stays {j : FileJob} (h : Stays a s) : Stays a (retarget j s) := setDuty_stays h

theorem moveJob_stays {j : FileJob} (h : Stays a s) : Stays a (moveJob s j) := by
  unfold moveJob
  split
  · exact modSlot_stays (modSlot_stays (retarget_stays h))
  · exact h

theorem moveWaiting_stays {j : FileJob} (h : Stays a s) : Stays a (moveWaiting s j) := by
  unfold moveWaiting
  split
  · exact retarget_stays h
  · exact h

theorem overflowMove_stays (h : Stays a s) : Stays a (overflowMove s) := by
  unfold overflowMove
  dsimp only
  refine slotRest_stays (raiseCard_stays (Stays.upd (modSlot_stays ?_) {}))
  exact foldl_stays _ (fun _ _ => moveWaiting_stays) _ (foldl_stays _ (fun _ _ => moveJob_stays) _ (abandon_stays h))


theorem overflowTest_stays (h : Stays a s) : Stays a (overflowTest s) := by
  unfold overflowTest
  try dsimp only
  repeat' first
    | exact h
    | exact h.upd {}
    | with_reducible refine overflowMove_stays ?_
    | refine Stays.upd (s := overflowMove _) ?_ {}
    | split

theorem slotSettle_stays {sl : Slot} (h : Stays a s) : Stays a (slotSettle sl s) := by
  unfold slotSettle
  repeat' first
    | exact h
    | exact h.upd {}
    | with_reducible refine slotRest_stays ?_
    | with_reducible refine overflowTest_stays ?_

theorem handCard_stays {n : Nat} {k : FileKind} {sl : Slot} (h : Stays a s) : Stays a (handCard n k sl s) := by
  unfold handCard
  try dsimp only
  repeat' first
    | exact h
    | exact h.upd {}
    | with_reducible refine modSlot_stays ?_
    | with_reducible refine retarget_stays ?_
    | with_reducible refine slotSettle_stays ?_
    | refine Stays.upd (s := modSlot _ _ _) ?_ {}
    | refine Stays.upd (s := retarget _ _) ?_ {}
    | refine Stays.upd (s := slotSettle _ _) ?_ {}
    | split

theorem startFile_stays {sl : Slot} (h : Stays a s) : Stays a (startFile sl s) := by
  unfold startFile
  try dsimp only
  repeat' first
    | exact h
    | exact h.upd {}
    | with_reducible refine setDuty_stays ?_
    | with_reducible refine modSlot_stays ?_
    | refine Stays.upd (s := setDuty _ _ _ _) ?_ {}
    | refine Stays.upd (s := modSlot _ _ _) ?_ {}
    | split

theorem cardRead_stays {sl : Slot} (h : Stays a s) : Stays a (cardRead sl s) := by
  unfold cardRead
  try dsimp only
  repeat' first
    | exact h
    | exact h.upd {}
    | with_reducible refine addPin_stays ?_
    | with_reducible refine modSlot_stays ?_
    | refine Stays.upd (s := addPin _ _ _ _) ?_ {}
    | refine Stays.upd (s := modSlot _ _ _) ?_ {}
    | split

theorem starveActive_stays {sl : Slot} (h : Stays a s) : Stays a (starveActive sl s) := by
  unfold starveActive
  try dsimp only
  repeat' first
    | exact h
    | exact h.upd {}
    | with_reducible refine starve_stays ?_
    | with_reducible refine abandon_stays ?_
    | with_reducible refine overflowTest_stays ?_
    | with_reducible refine slotSettle_stays ?_
    | refine Stays.upd (s := starve _ _) ?_ {}
    | refine Stays.upd (s := abandon _ _ _) ?_ {}
    | refine Stays.upd (s := overflowTest _) ?_ {}
    | refine Stays.upd (s := slotSettle _ _) ?_ {}
    | split

theorem issueFresh_stays {sl : Slot} {f : CardFile} {r : Run} {rest : List Run}
    (h : Stays a s) : Stays a (issueFresh sl f r rest s) := by
  unfold issueFresh
  try dsimp only
  repeat' first
    | exact h
    | exact h.upd {}
    | with_reducible refine modSlot_stays ?_
    | with_reducible refine lowTest_stays ?_
    | with_reducible refine starveActive_stays ?_
    | refine Stays.upd (s := modSlot _ _ _) ?_ {}
    | refine Stays.upd (s := lowTest _ _) ?_ {}
    | refine Stays.upd (s := starveActive _ _) ?_ {}
    | split

theorem issueAgain_stays {sl : Slot} {f : CardFile} {w : CardWrite}
    (h : Stays a s) : Stays a (issueAgain sl f w s) := by
  unfold issueAgain
  repeat' first
    | exact h
    | exact h.upd {}
    | with_reducible refine modSlot_stays ?_

theorem issueWrite_stays {sl : Slot} (h : Stays a s) : Stays a (issueWrite sl s) := by
  unfold issueWrite
  try dsimp only
  repeat' first
    | exact h
    | exact h.upd {}
    | with_reducible refine abandon_stays ?_
    | with_reducible refine slotSettle_stays ?_
    | with_reducible refine issueFresh_stays ?_
    | with_reducible refine issueAgain_stays ?_
    | refine Stays.upd (s := abandon _ _ _) ?_ {}
    | refine Stays.upd (s := slotSettle _ _) ?_ {}
    | refine Stays.upd (s := issueFresh _ _ _ _ _) ?_ {}
    | refine Stays.upd (s := issueAgain _ _ _ _) ?_ {}
    | split

theorem reopenStale_stays {n : Nat} {sl : Slot} {stale : Bool}
    (h : Stays a s) : Stays a (reopenStale n sl stale s) := by
  unfold reopenStale
  try dsimp only
  repeat' first
    | exact h
    | exact h.upd {}
    | with_reducible refine setDuty_stays ?_
    | with_reducible refine handCard_stays ?_
    | refine Stays.upd (s := setDuty _ _ _ _) ?_ {}
    | refine Stays.upd (s := handCard _ _ _ _) ?_ {}
    | split

theorem completeFile_stays {sl : Slot} {f : CardFile} (h : Stays a s) : Stays a (completeFile sl f s) := by
  unfold completeFile
  try dsimp only
  repeat' first
    | exact h
    | exact h.upd {}
    | with_reducible refine dropPin_stays ?_
    | with_reducible refine setDuty_stays ?_
    | with_reducible refine shotTests_stays ?_
    | with_reducible refine modSlot_stays ?_
    | with_reducible refine addRecord_stays ?_
    | with_reducible refine slotSettle_stays ?_
    | with_reducible refine reopenStale_stays ?_

theorem writeDone_stays {sl : Slot} {f : CardFile} {w : CardWrite}
    (h : Stays a s) : Stays a (writeDone sl f w s) := by
  unfold writeDone
  try dsimp only
  repeat' first
    | exact h
    | exact h.upd {}
    | with_reducible refine modSlot_stays ?_
    | with_reducible refine completeFile_stays ?_
    | refine Stays.upd (s := modSlot _ _ _) ?_ {}
    | refine Stays.upd (s := completeFile _ _ _) ?_ {}
    | split

theorem faultSlot_stays {sl : Slot} (h : Stays a s) : Stays a (faultSlot sl s) := by
  unfold faultSlot
  dsimp only
  exact raiseCard_stays
    (foldl_stays _ (fun _ _ => failDuty_stays) _ (modSlot_stays (abandon_stays (modSlot_stays h))))


theorem writeFailed_stays {sl : Slot} {f : CardFile} {w : CardWrite}
    (h : Stays a s) : Stays a (writeFailed sl f w s) := by
  unfold writeFailed
  try dsimp only
  repeat' first
    | exact h
    | exact h.upd {}
    | with_reducible refine modSlot_stays ?_
    | with_reducible refine faultSlot_stays ?_
    | refine Stays.upd (s := modSlot _ _ _) ?_ {}
    | refine Stays.upd (s := faultSlot _ _) ?_ {}
    | split

theorem insertCard_stays {sl : Slot} (h : Stays a s) : Stays a (insertCard sl s) := by
  unfold insertCard
  try dsimp only
  repeat' first
    | exact h
    | exact h.upd {}
    | with_reducible refine modSlot_stays ?_
    | with_reducible refine raiseCard_stays ?_
    | with_reducible refine slotSettle_stays ?_
    | refine Stays.upd (s := modSlot _ _ _) ?_ {}
    | refine Stays.upd (s := raiseCard _ _ _ _) ?_ {}
    | refine Stays.upd (s := slotSettle _ _) ?_ {}
    | split

theorem removeCard_stays {sl : Slot} (h : Stays a s) : Stays a (removeCard sl s) := by
  unfold removeCard
  try dsimp only
  repeat' first
    | exact h
    | exact h.upd {}
    | with_reducible refine modSlot_stays ?_
    | with_reducible refine raiseCard_stays ?_
    | with_reducible refine abandon_stays ?_

theorem presentStep_stays {sl : Slot} (h : Stays a s) : Stays a (presentStep sl s) := by
  unfold presentStep
  try dsimp only
  repeat' first
    | exact h
    | exact h.upd {}
    | with_reducible refine insertCard_stays ?_
    | with_reducible refine removeCard_stays ?_
    | refine Stays.upd (s := insertCard _ _) ?_ {}
    | refine Stays.upd (s := removeCard _ _) ?_ {}
    | split

theorem resumeSlot_stays {sl : Slot} (h : Stays a s) : Stays a (resumeSlot sl s) := by
  unfold resumeSlot
  try dsimp only
  repeat' first
    | exact h
    | exact h.upd {}
    | with_reducible refine modSlot_stays ?_
    | with_reducible refine raiseCard_stays ?_
    | with_reducible refine holdFull_stays ?_
    | with_reducible refine slotSettle_stays ?_
    | refine Stays.upd (s := modSlot _ _ _) ?_ {}
    | refine Stays.upd (s := raiseCard _ _ _ _) ?_ {}
    | refine Stays.upd (s := holdFull _ _) ?_ {}
    | refine Stays.upd (s := slotSettle _ _) ?_ {}
    | split

theorem closeSlot_stays {sl : Slot} (h : Stays a s) : Stays a (closeSlot sl s) := by
  unfold closeSlot
  try dsimp only
  repeat' first
    | exact h
    | exact h.upd {}
    | with_reducible refine abandon_stays ?_
    | with_reducible refine slotSettle_stays ?_
    | refine Stays.upd (s := abandon _ _ _) ?_ {}
    | refine Stays.upd (s := slotSettle _ _) ?_ {}
    | split

theorem cardSleep_stays (h : Stays a s) : Stays a (cardSleep s) := by
  unfold cardSleep
  repeat' first
    | exact h
    | exact h.upd {}
    | with_reducible refine closeSlot_stays ?_

theorem cardWake_stays {held : Bool} (h : Stays a s) : Stays a (cardWake held s) := by
  unfold cardWake
  repeat' first
    | exact h
    | exact h.upd {}
    | with_reducible refine presentStep_stays ?_

/-! ## The same in the weaker form, for the operations that also touch other blocks -/

theorem modSlot_keeps {sl : Slot} {f : CardSlot → CardSlot} (h : Keeps a s) : Keeps a (modSlot sl f s) :=
  h.trans (modSlot_stays (Stays.refl s)).keeps
theorem raiseCard_keeps {sl : Slot} {reason : String} {extra : List Wire} (h : Keeps a s) : Keeps a (raiseCard sl reason extra s) :=
  h.trans (raiseCard_stays (Stays.refl s)).keeps
theorem abandon_keeps {sl : Slot} {c : Cause} (h : Keeps a s) : Keeps a (abandon sl c s) :=
  h.trans (abandon_stays (Stays.refl s)).keeps
theorem overflowTest_keeps (h : Keeps a s) : Keeps a (overflowTest s) :=
  h.trans (overflowTest_stays (Stays.refl s)).keeps
theorem slotSettle_keeps {sl : Slot} (h : Keeps a s) : Keeps a (slotSettle sl s) :=
  h.trans (slotSettle_stays (Stays.refl s)).keeps
theorem startFile_keeps {sl : Slot} (h : Keeps a s) : Keeps a (startFile sl s) :=
  h.trans (startFile_stays (Stays.refl s)).keeps
theorem cardRead_keeps {sl : Slot} (h : Keeps a s) : Keeps a (cardRead sl s) :=
  h.trans (cardRead_stays (Stays.refl s)).keeps
theorem issueWrite_keeps {sl : Slot} (h : Keeps a s) : Keeps a (issueWrite sl s) :=
  h.trans (issueWrite_stays (Stays.refl s)).keeps
theorem writeDone_keeps {sl : Slot} {f : CardFile} {w : CardWrite} (h : Keeps a s) : Keeps a (writeDone sl f w s) :=
  h.trans (writeDone_stays (Stays.refl s)).keeps
theorem writeFailed_keeps {sl : Slot} {f : CardFile} {w : CardWrite} (h : Keeps a s) : Keeps a (writeFailed sl f w s) :=
  h.trans (writeFailed_stays (Stays.refl s)).keeps
theorem presentStep_keeps {sl : Slot} (h : Keeps a s) : Keeps a (presentStep sl s) :=
  h.trans (presentStep_stays (Stays.refl s)).keeps
theorem resumeSlot_keeps {sl : Slot} (h : Keeps a s) : Keeps a (resumeSlot sl s) :=
  h.trans (resumeSlot_stays (Stays.refl s)).keeps
theorem cardSleep_keeps (h : Keeps a s) : Keeps a (cardSleep s) := h.trans (cardSleep_stays (Stays.refl s)).keeps
theorem cardWake_keeps {held : Bool} (h : Keeps a s) : Keeps a (cardWake held s) :=
  h.trans (cardWake_stays (Stays.refl s)).keeps

end Sys2Proof.Machine
end

