-- ==== Sys2Proof/Laws/State.lean ====
section
/-! SUPPORT. What each named update of the state leaves and what it writes: one lemma for each field and each update, true by
definition, so that no later proof unfolds a record update. -/

namespace Sys2Proof.Machine

-- One theorem at a time: the package as one text has more of them than the checker has threads.
set_option Elab.async false

open Sys2Proof

variable (s : State)

/-! ## `modEntry` -/

@[simp] theorem modEntry_pending (p : Shot → Bool) (f : Shot → Shot) : (modEntry p f s).pending = s.pending := rfl
@[simp] theorem modEntry_time (p : Shot → Bool) (f : Shot → Shot) : (modEntry p f s).time = s.time := rfl
@[simp] theorem modEntry_lines (p : Shot → Bool) (f : Shot → Shot) : (modEntry p f s).lines = s.lines := rfl
@[simp] theorem modEntry_cfg (p : Shot → Bool) (f : Shot → Shot) : (modEntry p f s).cfg = s.cfg := rfl
@[simp] theorem modEntry_waiting (p : Shot → Bool) (f : Shot → Shot) : (modEntry p f s).waiting = s.waiting := rfl
@[simp] theorem modEntry_mem (p : Shot → Bool) (f : Shot → Shot) : (modEntry p f s).mem = s.mem := rfl
@[simp] theorem modEntry_ss (p : Shot → Bool) (f : Shot → Shot) :
    (modEntry p f s).ss = { s.ss with table := updateFirst p f s.ss.table } := rfl
@[simp] theorem modEntry_sp (p : Shot → Bool) (f : Shot → Shot) : (modEntry p f s).sp = s.sp := rfl
@[simp] theorem modEntry_rtu (p : Shot → Bool) (f : Shot → Shot) : (modEntry p f s).rtu = s.rtu := rfl
@[simp] theorem modEntry_fe (p : Shot → Bool) (f : Shot → Shot) : (modEntry p f s).fe = s.fe := rfl
@[simp] theorem modEntry_lp (p : Shot → Bool) (f : Shot → Shot) : (modEntry p f s).lp = s.lp := rfl
@[simp] theorem modEntry_de (p : Shot → Bool) (f : Shot → Shot) : (modEntry p f s).de = s.de := rfl
@[simp] theorem modEntry_cw (p : Shot → Bool) (f : Shot → Shot) : (modEntry p f s).cw = s.cw := rfl
@[simp] theorem modEntry_tp (p : Shot → Bool) (f : Shot → Shot) : (modEntry p f s).tp = s.tp := rfl
@[simp] theorem modEntry_mi (p : Shot → Bool) (f : Shot → Shot) : (modEntry p f s).mi = s.mi := rfl
@[simp] theorem modEntry_cp (p : Shot → Bool) (f : Shot → Shot) : (modEntry p f s).cp = s.cp := rfl

/-! ## `modHeld` -/

@[simp] theorem modHeld_pending (n : Nat) (f : Shot → Shot) : (modHeld n f s).pending = s.pending := rfl
@[simp] theorem modHeld_time (n : Nat) (f : Shot → Shot) : (modHeld n f s).time = s.time := rfl
@[simp] theorem modHeld_lines (n : Nat) (f : Shot → Shot) : (modHeld n f s).lines = s.lines := rfl
@[simp] theorem modHeld_cfg (n : Nat) (f : Shot → Shot) : (modHeld n f s).cfg = s.cfg := rfl
@[simp] theorem modHeld_waiting (n : Nat) (f : Shot → Shot) : (modHeld n f s).waiting = s.waiting := rfl
@[simp] theorem modHeld_mem (n : Nat) (f : Shot → Shot) : (modHeld n f s).mem = s.mem := rfl
@[simp] theorem modHeld_ss (n : Nat) (f : Shot → Shot) :
    (modHeld n f s).ss = { s.ss with table := updateFirst (isHeld n) f s.ss.table } := rfl
@[simp] theorem modHeld_sp (n : Nat) (f : Shot → Shot) : (modHeld n f s).sp = s.sp := rfl
@[simp] theorem modHeld_rtu (n : Nat) (f : Shot → Shot) : (modHeld n f s).rtu = s.rtu := rfl
@[simp] theorem modHeld_fe (n : Nat) (f : Shot → Shot) : (modHeld n f s).fe = s.fe := rfl
@[simp] theorem modHeld_lp (n : Nat) (f : Shot → Shot) : (modHeld n f s).lp = s.lp := rfl
@[simp] theorem modHeld_de (n : Nat) (f : Shot → Shot) : (modHeld n f s).de = s.de := rfl
@[simp] theorem modHeld_cw (n : Nat) (f : Shot → Shot) : (modHeld n f s).cw = s.cw := rfl
@[simp] theorem modHeld_tp (n : Nat) (f : Shot → Shot) : (modHeld n f s).tp = s.tp := rfl
@[simp] theorem modHeld_mi (n : Nat) (f : Shot → Shot) : (modHeld n f s).mi = s.mi := rfl
@[simp] theorem modHeld_cp (n : Nat) (f : Shot → Shot) : (modHeld n f s).cp = s.cp := rfl

/-! ## `setDuty` -/

@[simp] theorem setDuty_pending (n : Nat) (k : DutyKey) (f : Duty → Duty) : (setDuty n k f s).pending = s.pending := rfl
@[simp] theorem setDuty_time (n : Nat) (k : DutyKey) (f : Duty → Duty) : (setDuty n k f s).time = s.time := rfl
@[simp] theorem setDuty_lines (n : Nat) (k : DutyKey) (f : Duty → Duty) : (setDuty n k f s).lines = s.lines := rfl
@[simp] theorem setDuty_cfg (n : Nat) (k : DutyKey) (f : Duty → Duty) : (setDuty n k f s).cfg = s.cfg := rfl
@[simp] theorem setDuty_waiting (n : Nat) (k : DutyKey) (f : Duty → Duty) : (setDuty n k f s).waiting = s.waiting := rfl
@[simp] theorem setDuty_mem (n : Nat) (k : DutyKey) (f : Duty → Duty) : (setDuty n k f s).mem = s.mem := rfl
@[simp] theorem setDuty_ss (n : Nat) (k : DutyKey) (f : Duty → Duty) :
    (setDuty n k f s).ss = { s.ss with table := updateFirst (isHeld n) (Shot.setDuty k f) s.ss.table } := rfl
@[simp] theorem setDuty_sp (n : Nat) (k : DutyKey) (f : Duty → Duty) : (setDuty n k f s).sp = s.sp := rfl
@[simp] theorem setDuty_rtu (n : Nat) (k : DutyKey) (f : Duty → Duty) : (setDuty n k f s).rtu = s.rtu := rfl
@[simp] theorem setDuty_fe (n : Nat) (k : DutyKey) (f : Duty → Duty) : (setDuty n k f s).fe = s.fe := rfl
@[simp] theorem setDuty_lp (n : Nat) (k : DutyKey) (f : Duty → Duty) : (setDuty n k f s).lp = s.lp := rfl
@[simp] theorem setDuty_de (n : Nat) (k : DutyKey) (f : Duty → Duty) : (setDuty n k f s).de = s.de := rfl
@[simp] theorem setDuty_cw (n : Nat) (k : DutyKey) (f : Duty → Duty) : (setDuty n k f s).cw = s.cw := rfl
@[simp] theorem setDuty_tp (n : Nat) (k : DutyKey) (f : Duty → Duty) : (setDuty n k f s).tp = s.tp := rfl
@[simp] theorem setDuty_mi (n : Nat) (k : DutyKey) (f : Duty → Duty) : (setDuty n k f s).mi = s.mi := rfl
@[simp] theorem setDuty_cp (n : Nat) (k : DutyKey) (f : Duty → Duty) : (setDuty n k f s).cp = s.cp := rfl

/-! ## `withdrawRequest` -/

@[simp] theorem withdrawRequest_pending : (withdrawRequest s).pending = s.pending := rfl
@[simp] theorem withdrawRequest_time : (withdrawRequest s).time = s.time := rfl
@[simp] theorem withdrawRequest_lines : (withdrawRequest s).lines = s.lines := rfl
@[simp] theorem withdrawRequest_cfg : (withdrawRequest s).cfg = s.cfg := rfl
@[simp] theorem withdrawRequest_waiting : (withdrawRequest s).waiting = s.waiting := rfl
@[simp] theorem withdrawRequest_mem : (withdrawRequest s).mem = s.mem := rfl
@[simp] theorem withdrawRequest_ss : (withdrawRequest s).ss = { s.ss with request := none } := rfl
@[simp] theorem withdrawRequest_sp : (withdrawRequest s).sp = s.sp := rfl
@[simp] theorem withdrawRequest_rtu : (withdrawRequest s).rtu = s.rtu := rfl
@[simp] theorem withdrawRequest_fe : (withdrawRequest s).fe = s.fe := rfl
@[simp] theorem withdrawRequest_lp : (withdrawRequest s).lp = s.lp := rfl
@[simp] theorem withdrawRequest_de : (withdrawRequest s).de = s.de := rfl
@[simp] theorem withdrawRequest_cw : (withdrawRequest s).cw = s.cw := rfl
@[simp] theorem withdrawRequest_tp : (withdrawRequest s).tp = s.tp := rfl
@[simp] theorem withdrawRequest_mi : (withdrawRequest s).mi = s.mi := rfl
@[simp] theorem withdrawRequest_cp : (withdrawRequest s).cp = s.cp := rfl

/-! ## `modSensor` -/

@[simp] theorem modSensor_pending (f : SensorPort → SensorPort) : (modSensor f s).pending = s.pending := rfl
@[simp] theorem modSensor_time (f : SensorPort → SensorPort) : (modSensor f s).time = s.time := rfl
@[simp] theorem modSensor_lines (f : SensorPort → SensorPort) : (modSensor f s).lines = s.lines := rfl
@[simp] theorem modSensor_cfg (f : SensorPort → SensorPort) : (modSensor f s).cfg = s.cfg := rfl
@[simp] theorem modSensor_waiting (f : SensorPort → SensorPort) : (modSensor f s).waiting = s.waiting := rfl
@[simp] theorem modSensor_mem (f : SensorPort → SensorPort) : (modSensor f s).mem = s.mem := rfl
@[simp] theorem modSensor_ss (f : SensorPort → SensorPort) : (modSensor f s).ss = s.ss := rfl
@[simp] theorem modSensor_sp (f : SensorPort → SensorPort) : (modSensor f s).sp = f s.sp := rfl
@[simp] theorem modSensor_rtu (f : SensorPort → SensorPort) : (modSensor f s).rtu = s.rtu := rfl
@[simp] theorem modSensor_fe (f : SensorPort → SensorPort) : (modSensor f s).fe = s.fe := rfl
@[simp] theorem modSensor_lp (f : SensorPort → SensorPort) : (modSensor f s).lp = s.lp := rfl
@[simp] theorem modSensor_de (f : SensorPort → SensorPort) : (modSensor f s).de = s.de := rfl
@[simp] theorem modSensor_cw (f : SensorPort → SensorPort) : (modSensor f s).cw = s.cw := rfl
@[simp] theorem modSensor_tp (f : SensorPort → SensorPort) : (modSensor f s).tp = s.tp := rfl
@[simp] theorem modSensor_mi (f : SensorPort → SensorPort) : (modSensor f s).mi = s.mi := rfl
@[simp] theorem modSensor_cp (f : SensorPort → SensorPort) : (modSensor f s).cp = s.cp := rfl

/-! ## `setReadout` -/

@[simp] theorem setReadout_pending (r : Readout) : (setReadout r s).pending = s.pending := rfl
@[simp] theorem setReadout_time (r : Readout) : (setReadout r s).time = s.time := rfl
@[simp] theorem setReadout_lines (r : Readout) : (setReadout r s).lines = s.lines := rfl
@[simp] theorem setReadout_cfg (r : Readout) : (setReadout r s).cfg = s.cfg := rfl
@[simp] theorem setReadout_waiting (r : Readout) : (setReadout r s).waiting = s.waiting := rfl
@[simp] theorem setReadout_mem (r : Readout) : (setReadout r s).mem = s.mem := rfl
@[simp] theorem setReadout_ss (r : Readout) : (setReadout r s).ss = s.ss := rfl
@[simp] theorem setReadout_sp (r : Readout) : (setReadout r s).sp = { s.sp with reading := .active r } := rfl
@[simp] theorem setReadout_rtu (r : Readout) : (setReadout r s).rtu = s.rtu := rfl
@[simp] theorem setReadout_fe (r : Readout) : (setReadout r s).fe = s.fe := rfl
@[simp] theorem setReadout_lp (r : Readout) : (setReadout r s).lp = s.lp := rfl
@[simp] theorem setReadout_de (r : Readout) : (setReadout r s).de = s.de := rfl
@[simp] theorem setReadout_cw (r : Readout) : (setReadout r s).cw = s.cw := rfl
@[simp] theorem setReadout_tp (r : Readout) : (setReadout r s).tp = s.tp := rfl
@[simp] theorem setReadout_mi (r : Readout) : (setReadout r s).mi = s.mi := rfl
@[simp] theorem setReadout_cp (r : Readout) : (setReadout r s).cp = s.cp := rfl

/-! ## `modBurst` -/

@[simp] theorem modBurst_pending (f : BurstRec → BurstRec) : (modBurst f s).pending = s.pending := rfl
@[simp] theorem modBurst_time (f : BurstRec → BurstRec) : (modBurst f s).time = s.time := rfl
@[simp] theorem modBurst_lines (f : BurstRec → BurstRec) : (modBurst f s).lines = s.lines := rfl
@[simp] theorem modBurst_cfg (f : BurstRec → BurstRec) : (modBurst f s).cfg = s.cfg := rfl
@[simp] theorem modBurst_waiting (f : BurstRec → BurstRec) : (modBurst f s).waiting = s.waiting := rfl
@[simp] theorem modBurst_mem (f : BurstRec → BurstRec) : (modBurst f s).mem = s.mem := rfl
@[simp] theorem modBurst_ss (f : BurstRec → BurstRec) : (modBurst f s).ss = s.ss := rfl
@[simp] theorem modBurst_sp (f : BurstRec → BurstRec) : (modBurst f s).sp = s.sp := rfl
@[simp] theorem modBurst_rtu (f : BurstRec → BurstRec) :
    (modBurst f s).rtu = { s.rtu with burst := s.rtu.burst.map f } := rfl
@[simp] theorem modBurst_fe (f : BurstRec → BurstRec) : (modBurst f s).fe = s.fe := rfl
@[simp] theorem modBurst_lp (f : BurstRec → BurstRec) : (modBurst f s).lp = s.lp := rfl
@[simp] theorem modBurst_de (f : BurstRec → BurstRec) : (modBurst f s).de = s.de := rfl
@[simp] theorem modBurst_cw (f : BurstRec → BurstRec) : (modBurst f s).cw = s.cw := rfl
@[simp] theorem modBurst_tp (f : BurstRec → BurstRec) : (modBurst f s).tp = s.tp := rfl
@[simp] theorem modBurst_mi (f : BurstRec → BurstRec) : (modBurst f s).mi = s.mi := rfl
@[simp] theorem modBurst_cp (f : BurstRec → BurstRec) : (modBurst f s).cp = s.cp := rfl

/-! ## `clearSettle` -/

@[simp] theorem clearSettle_pending : (clearSettle s).pending = s.pending := rfl
@[simp] theorem clearSettle_time : (clearSettle s).time = s.time := rfl
@[simp] theorem clearSettle_lines : (clearSettle s).lines = s.lines := rfl
@[simp] theorem clearSettle_cfg : (clearSettle s).cfg = s.cfg := rfl
@[simp] theorem clearSettle_waiting : (clearSettle s).waiting = s.waiting := rfl
@[simp] theorem clearSettle_mem : (clearSettle s).mem = s.mem := rfl
@[simp] theorem clearSettle_ss : (clearSettle s).ss = s.ss := rfl
@[simp] theorem clearSettle_sp : (clearSettle s).sp = s.sp := rfl
@[simp] theorem clearSettle_rtu : (clearSettle s).rtu = s.rtu := rfl
@[simp] theorem clearSettle_fe :
    (clearSettle s).fe = { s.fe with settle := none } := rfl
@[simp] theorem clearSettle_lp : (clearSettle s).lp = s.lp := rfl
@[simp] theorem clearSettle_de : (clearSettle s).de = s.de := rfl
@[simp] theorem clearSettle_cw : (clearSettle s).cw = s.cw := rfl
@[simp] theorem clearSettle_tp : (clearSettle s).tp = s.tp := rfl
@[simp] theorem clearSettle_mi : (clearSettle s).mi = s.mi := rfl
@[simp] theorem clearSettle_cp : (clearSettle s).cp = s.cp := rfl

/-! ## `startWatcher` -/

@[simp] theorem startWatcher_pending : (startWatcher s).pending = s.pending := rfl
@[simp] theorem startWatcher_time : (startWatcher s).time = s.time := rfl
@[simp] theorem startWatcher_lines : (startWatcher s).lines = s.lines := rfl
@[simp] theorem startWatcher_cfg : (startWatcher s).cfg = s.cfg := rfl
@[simp] theorem startWatcher_waiting : (startWatcher s).waiting = s.waiting := rfl
@[simp] theorem startWatcher_mem : (startWatcher s).mem = s.mem := rfl
@[simp] theorem startWatcher_ss : (startWatcher s).ss = s.ss := rfl
@[simp] theorem startWatcher_sp : (startWatcher s).sp = s.sp := rfl
@[simp] theorem startWatcher_rtu : (startWatcher s).rtu = s.rtu := rfl
@[simp] theorem startWatcher_fe : (startWatcher s).fe = { s.fe with watcher := s.fe.watcher.started } := rfl
@[simp] theorem startWatcher_lp : (startWatcher s).lp = s.lp := rfl
@[simp] theorem startWatcher_de : (startWatcher s).de = s.de := rfl
@[simp] theorem startWatcher_cw : (startWatcher s).cw = s.cw := rfl
@[simp] theorem startWatcher_tp : (startWatcher s).tp = s.tp := rfl
@[simp] theorem startWatcher_mi : (startWatcher s).mi = s.mi := rfl
@[simp] theorem startWatcher_cp : (startWatcher s).cp = s.cp := rfl

/-! ## `enableWatcher` -/

@[simp] theorem enableWatcher_pending (b : Bool) : (enableWatcher b s).pending = s.pending := rfl
@[simp] theorem enableWatcher_time (b : Bool) : (enableWatcher b s).time = s.time := rfl
@[simp] theorem enableWatcher_lines (b : Bool) : (enableWatcher b s).lines = s.lines := rfl
@[simp] theorem enableWatcher_cfg (b : Bool) : (enableWatcher b s).cfg = s.cfg := rfl
@[simp] theorem enableWatcher_waiting (b : Bool) : (enableWatcher b s).waiting = s.waiting := rfl
@[simp] theorem enableWatcher_mem (b : Bool) : (enableWatcher b s).mem = s.mem := rfl
@[simp] theorem enableWatcher_ss (b : Bool) : (enableWatcher b s).ss = s.ss := rfl
@[simp] theorem enableWatcher_sp (b : Bool) : (enableWatcher b s).sp = s.sp := rfl
@[simp] theorem enableWatcher_rtu (b : Bool) : (enableWatcher b s).rtu = s.rtu := rfl
@[simp] theorem enableWatcher_fe (b : Bool) :
    (enableWatcher b s).fe = { s.fe with watcher := { s.fe.watcher with enabled := b } } := rfl
@[simp] theorem enableWatcher_lp (b : Bool) : (enableWatcher b s).lp = s.lp := rfl
@[simp] theorem enableWatcher_de (b : Bool) : (enableWatcher b s).de = s.de := rfl
@[simp] theorem enableWatcher_cw (b : Bool) : (enableWatcher b s).cw = s.cw := rfl
@[simp] theorem enableWatcher_tp (b : Bool) : (enableWatcher b s).tp = s.tp := rfl
@[simp] theorem enableWatcher_mi (b : Bool) : (enableWatcher b s).mi = s.mi := rfl
@[simp] theorem enableWatcher_cp (b : Bool) : (enableWatcher b s).cp = s.cp := rfl

/-! ## `clearHoming` -/

@[simp] theorem clearHoming_pending : (clearHoming s).pending = s.pending := rfl
@[simp] theorem clearHoming_time : (clearHoming s).time = s.time := rfl
@[simp] theorem clearHoming_lines : (clearHoming s).lines = s.lines := rfl
@[simp] theorem clearHoming_cfg : (clearHoming s).cfg = s.cfg := rfl
@[simp] theorem clearHoming_waiting : (clearHoming s).waiting = s.waiting := rfl
@[simp] theorem clearHoming_mem : (clearHoming s).mem = s.mem := rfl
@[simp] theorem clearHoming_ss : (clearHoming s).ss = s.ss := rfl
@[simp] theorem clearHoming_sp : (clearHoming s).sp = s.sp := rfl
@[simp] theorem clearHoming_rtu : (clearHoming s).rtu = s.rtu := rfl
@[simp] theorem clearHoming_fe : (clearHoming s).fe = s.fe := rfl
@[simp] theorem clearHoming_lp : (clearHoming s).lp = { s.lp with homing := false, homeAt := none } := rfl
@[simp] theorem clearHoming_de : (clearHoming s).de = s.de := rfl
@[simp] theorem clearHoming_cw : (clearHoming s).cw = s.cw := rfl
@[simp] theorem clearHoming_tp : (clearHoming s).tp = s.tp := rfl
@[simp] theorem clearHoming_mi : (clearHoming s).mi = s.mi := rfl
@[simp] theorem clearHoming_cp : (clearHoming s).cp = s.cp := rfl

/-! ## `recordWord` -/

@[simp] theorem recordWord_pending (w : StatusWord) : (recordWord w s).pending = s.pending := rfl
@[simp] theorem recordWord_time (w : StatusWord) : (recordWord w s).time = s.time := rfl
@[simp] theorem recordWord_lines (w : StatusWord) : (recordWord w s).lines = s.lines := rfl
@[simp] theorem recordWord_cfg (w : StatusWord) : (recordWord w s).cfg = s.cfg := rfl
@[simp] theorem recordWord_waiting (w : StatusWord) : (recordWord w s).waiting = s.waiting := rfl
@[simp] theorem recordWord_mem (w : StatusWord) : (recordWord w s).mem = s.mem := rfl
@[simp] theorem recordWord_ss (w : StatusWord) : (recordWord w s).ss = s.ss := rfl
@[simp] theorem recordWord_sp (w : StatusWord) : (recordWord w s).sp = s.sp := rfl
@[simp] theorem recordWord_rtu (w : StatusWord) : (recordWord w s).rtu = s.rtu := rfl
@[simp] theorem recordWord_fe (w : StatusWord) : (recordWord w s).fe = s.fe := rfl
@[simp] theorem recordWord_de (w : StatusWord) : (recordWord w s).de = s.de := rfl
@[simp] theorem recordWord_cw (w : StatusWord) : (recordWord w s).cw = s.cw := rfl
@[simp] theorem recordWord_tp (w : StatusWord) : (recordWord w s).tp = s.tp := rfl
@[simp] theorem recordWord_mi (w : StatusWord) : (recordWord w s).mi = s.mi := rfl
@[simp] theorem recordWord_cp (w : StatusWord) : (recordWord w s).cp = s.cp := rfl

/-! ## `putRecipe` -/

@[simp] theorem putRecipe_pending (n : Nat) (r : Recipe) : (putRecipe n r s).pending = s.pending := rfl
@[simp] theorem putRecipe_time (n : Nat) (r : Recipe) : (putRecipe n r s).time = s.time := rfl
@[simp] theorem putRecipe_lines (n : Nat) (r : Recipe) : (putRecipe n r s).lines = s.lines := rfl
@[simp] theorem putRecipe_cfg (n : Nat) (r : Recipe) : (putRecipe n r s).cfg = s.cfg := rfl
@[simp] theorem putRecipe_waiting (n : Nat) (r : Recipe) : (putRecipe n r s).waiting = s.waiting := rfl
@[simp] theorem putRecipe_mem (n : Nat) (r : Recipe) : (putRecipe n r s).mem = s.mem := rfl
@[simp] theorem putRecipe_ss (n : Nat) (r : Recipe) : (putRecipe n r s).ss = s.ss := rfl
@[simp] theorem putRecipe_sp (n : Nat) (r : Recipe) : (putRecipe n r s).sp = s.sp := rfl
@[simp] theorem putRecipe_rtu (n : Nat) (r : Recipe) : (putRecipe n r s).rtu = s.rtu := rfl
@[simp] theorem putRecipe_fe (n : Nat) (r : Recipe) : (putRecipe n r s).fe = s.fe := rfl
@[simp] theorem putRecipe_lp (n : Nat) (r : Recipe) : (putRecipe n r s).lp = s.lp := rfl
@[simp] theorem putRecipe_de (n : Nat) (r : Recipe) :
    (putRecipe n r s).de = { s.de with recipes := modAt n (fun _ => r) s.de.recipes } := rfl
@[simp] theorem putRecipe_cw (n : Nat) (r : Recipe) : (putRecipe n r s).cw = s.cw := rfl
@[simp] theorem putRecipe_tp (n : Nat) (r : Recipe) : (putRecipe n r s).tp = s.tp := rfl
@[simp] theorem putRecipe_mi (n : Nat) (r : Recipe) : (putRecipe n r s).mi = s.mi := rfl
@[simp] theorem putRecipe_cp (n : Nat) (r : Recipe) : (putRecipe n r s).cp = s.cp := rfl

/-! ## `sendFrame` -/

@[simp] theorem sendFrame_pending (f : TetherFrame) : (sendFrame f s).pending = s.pending := rfl
@[simp] theorem sendFrame_time (f : TetherFrame) : (sendFrame f s).time = s.time := rfl
@[simp] theorem sendFrame_lines (f : TetherFrame) : (sendFrame f s).lines = s.lines := rfl
@[simp] theorem sendFrame_cfg (f : TetherFrame) : (sendFrame f s).cfg = s.cfg := rfl
@[simp] theorem sendFrame_waiting (f : TetherFrame) : (sendFrame f s).waiting = s.waiting := rfl
@[simp] theorem sendFrame_mem (f : TetherFrame) : (sendFrame f s).mem = s.mem := rfl
@[simp] theorem sendFrame_ss (f : TetherFrame) : (sendFrame f s).ss = s.ss := rfl
@[simp] theorem sendFrame_sp (f : TetherFrame) : (sendFrame f s).sp = s.sp := rfl
@[simp] theorem sendFrame_rtu (f : TetherFrame) : (sendFrame f s).rtu = s.rtu := rfl
@[simp] theorem sendFrame_fe (f : TetherFrame) : (sendFrame f s).fe = s.fe := rfl
@[simp] theorem sendFrame_lp (f : TetherFrame) : (sendFrame f s).lp = s.lp := rfl
@[simp] theorem sendFrame_de (f : TetherFrame) : (sendFrame f s).de = s.de := rfl
@[simp] theorem sendFrame_cw (f : TetherFrame) : (sendFrame f s).cw = s.cw := rfl
@[simp] theorem sendFrame_tp (f : TetherFrame) : (sendFrame f s).tp = { s.tp with out := s.tp.out ++ [f] } := rfl
@[simp] theorem sendFrame_mi (f : TetherFrame) : (sendFrame f s).mi = s.mi := rfl
@[simp] theorem sendFrame_cp (f : TetherFrame) : (sendFrame f s).cp = s.cp := rfl

/-! ## `setTransfer` -/

@[simp] theorem setTransfer_pending (t : Option Transfer) : (setTransfer t s).pending = s.pending := rfl
@[simp] theorem setTransfer_time (t : Option Transfer) : (setTransfer t s).time = s.time := rfl
@[simp] theorem setTransfer_lines (t : Option Transfer) : (setTransfer t s).lines = s.lines := rfl
@[simp] theorem setTransfer_cfg (t : Option Transfer) : (setTransfer t s).cfg = s.cfg := rfl
@[simp] theorem setTransfer_waiting (t : Option Transfer) : (setTransfer t s).waiting = s.waiting := rfl
@[simp] theorem setTransfer_mem (t : Option Transfer) : (setTransfer t s).mem = s.mem := rfl
@[simp] theorem setTransfer_ss (t : Option Transfer) : (setTransfer t s).ss = s.ss := rfl
@[simp] theorem setTransfer_sp (t : Option Transfer) : (setTransfer t s).sp = s.sp := rfl
@[simp] theorem setTransfer_rtu (t : Option Transfer) : (setTransfer t s).rtu = s.rtu := rfl
@[simp] theorem setTransfer_fe (t : Option Transfer) : (setTransfer t s).fe = s.fe := rfl
@[simp] theorem setTransfer_lp (t : Option Transfer) : (setTransfer t s).lp = s.lp := rfl
@[simp] theorem setTransfer_de (t : Option Transfer) : (setTransfer t s).de = s.de := rfl
@[simp] theorem setTransfer_cw (t : Option Transfer) : (setTransfer t s).cw = s.cw := rfl
@[simp] theorem setTransfer_tp (t : Option Transfer) : (setTransfer t s).tp = { s.tp with transfer := t } := rfl
@[simp] theorem setTransfer_mi (t : Option Transfer) : (setTransfer t s).mi = s.mi := rfl
@[simp] theorem setTransfer_cp (t : Option Transfer) : (setTransfer t s).cp = s.cp := rfl

/-! ## `setMemo` -/

@[simp] theorem setMemo_pending (m : MemoRec) : (setMemo m s).pending = s.pending := rfl
@[simp] theorem setMemo_time (m : MemoRec) : (setMemo m s).time = s.time := rfl
@[simp] theorem setMemo_lines (m : MemoRec) : (setMemo m s).lines = s.lines := rfl
@[simp] theorem setMemo_cfg (m : MemoRec) : (setMemo m s).cfg = s.cfg := rfl
@[simp] theorem setMemo_waiting (m : MemoRec) : (setMemo m s).waiting = s.waiting := rfl
@[simp] theorem setMemo_mem (m : MemoRec) : (setMemo m s).mem = s.mem := rfl
@[simp] theorem setMemo_ss (m : MemoRec) : (setMemo m s).ss = s.ss := rfl
@[simp] theorem setMemo_sp (m : MemoRec) : (setMemo m s).sp = s.sp := rfl
@[simp] theorem setMemo_rtu (m : MemoRec) : (setMemo m s).rtu = s.rtu := rfl
@[simp] theorem setMemo_fe (m : MemoRec) : (setMemo m s).fe = s.fe := rfl
@[simp] theorem setMemo_lp (m : MemoRec) : (setMemo m s).lp = s.lp := rfl
@[simp] theorem setMemo_de (m : MemoRec) : (setMemo m s).de = s.de := rfl
@[simp] theorem setMemo_cw (m : MemoRec) : (setMemo m s).cw = s.cw := rfl
@[simp] theorem setMemo_tp (m : MemoRec) : (setMemo m s).tp = s.tp := rfl
@[simp] theorem setMemo_mi (m : MemoRec) : (setMemo m s).mi = { s.mi with current := some m } := rfl
@[simp] theorem setMemo_cp (m : MemoRec) : (setMemo m s).cp = s.cp := rfl

/-! ## `memoIdle` -/

@[simp] theorem memoIdle_pending : (memoIdle s).pending = s.pending := rfl
@[simp] theorem memoIdle_time : (memoIdle s).time = s.time := rfl
@[simp] theorem memoIdle_lines : (memoIdle s).lines = s.lines := rfl
@[simp] theorem memoIdle_cfg : (memoIdle s).cfg = s.cfg := rfl
@[simp] theorem memoIdle_waiting : (memoIdle s).waiting = s.waiting := rfl
@[simp] theorem memoIdle_mem : (memoIdle s).mem = s.mem := rfl
@[simp] theorem memoIdle_ss : (memoIdle s).ss = s.ss := rfl
@[simp] theorem memoIdle_sp : (memoIdle s).sp = s.sp := rfl
@[simp] theorem memoIdle_rtu : (memoIdle s).rtu = s.rtu := rfl
@[simp] theorem memoIdle_fe : (memoIdle s).fe = s.fe := rfl
@[simp] theorem memoIdle_lp : (memoIdle s).lp = s.lp := rfl
@[simp] theorem memoIdle_de : (memoIdle s).de = s.de := rfl
@[simp] theorem memoIdle_cw : (memoIdle s).cw = s.cw := rfl
@[simp] theorem memoIdle_tp : (memoIdle s).tp = s.tp := rfl
@[simp] theorem memoIdle_mi : (memoIdle s).mi = { s.mi with phase := .idle, current := none, samples := [] } := rfl
@[simp] theorem memoIdle_cp : (memoIdle s).cp = s.cp := rfl

/-! ## `setMarker` -/

@[simp] theorem setMarker_pending (tag : Byte) (st : Status) : (setMarker tag st s).pending = s.pending := rfl
@[simp] theorem setMarker_time (tag : Byte) (st : Status) : (setMarker tag st s).time = s.time := rfl
@[simp] theorem setMarker_lines (tag : Byte) (st : Status) : (setMarker tag st s).lines = s.lines := rfl
@[simp] theorem setMarker_cfg (tag : Byte) (st : Status) : (setMarker tag st s).cfg = s.cfg := rfl
@[simp] theorem setMarker_waiting (tag : Byte) (st : Status) : (setMarker tag st s).waiting = s.waiting := rfl
@[simp] theorem setMarker_mem (tag : Byte) (st : Status) : (setMarker tag st s).mem = s.mem := rfl
@[simp] theorem setMarker_ss (tag : Byte) (st : Status) : (setMarker tag st s).ss = s.ss := rfl
@[simp] theorem setMarker_sp (tag : Byte) (st : Status) : (setMarker tag st s).sp = s.sp := rfl
@[simp] theorem setMarker_rtu (tag : Byte) (st : Status) : (setMarker tag st s).rtu = s.rtu := rfl
@[simp] theorem setMarker_fe (tag : Byte) (st : Status) : (setMarker tag st s).fe = s.fe := rfl
@[simp] theorem setMarker_lp (tag : Byte) (st : Status) : (setMarker tag st s).lp = s.lp := rfl
@[simp] theorem setMarker_de (tag : Byte) (st : Status) : (setMarker tag st s).de = s.de := rfl
@[simp] theorem setMarker_cw (tag : Byte) (st : Status) : (setMarker tag st s).cw = s.cw := rfl
@[simp] theorem setMarker_tp (tag : Byte) (st : Status) : (setMarker tag st s).tp = s.tp := rfl
@[simp] theorem setMarker_mi (tag : Byte) (st : Status) : (setMarker tag st s).mi = s.mi := rfl
@[simp] theorem setMarker_cp (tag : Byte) (st : Status) :
    (setMarker tag st s).cp = { s.cp with marker := some (tag, st) } := rfl

/-! ## `modSlot` -/

@[simp] theorem modSlot_pending (sl : Slot) (f : CardSlot → CardSlot) : (modSlot sl f s).pending = s.pending := by cases sl <;> rfl
@[simp] theorem modSlot_time (sl : Slot) (f : CardSlot → CardSlot) : (modSlot sl f s).time = s.time := by cases sl <;> rfl
@[simp] theorem modSlot_lines (sl : Slot) (f : CardSlot → CardSlot) : (modSlot sl f s).lines = s.lines := by cases sl <;> rfl
@[simp] theorem modSlot_cfg (sl : Slot) (f : CardSlot → CardSlot) : (modSlot sl f s).cfg = s.cfg := by cases sl <;> rfl
@[simp] theorem modSlot_waiting (sl : Slot) (f : CardSlot → CardSlot) : (modSlot sl f s).waiting = s.waiting := by cases sl <;> rfl
@[simp] theorem modSlot_mem (sl : Slot) (f : CardSlot → CardSlot) : (modSlot sl f s).mem = s.mem := by cases sl <;> rfl
@[simp] theorem modSlot_ss (sl : Slot) (f : CardSlot → CardSlot) : (modSlot sl f s).ss = s.ss := by cases sl <;> rfl
@[simp] theorem modSlot_sp (sl : Slot) (f : CardSlot → CardSlot) : (modSlot sl f s).sp = s.sp := by cases sl <;> rfl
@[simp] theorem modSlot_rtu (sl : Slot) (f : CardSlot → CardSlot) : (modSlot sl f s).rtu = s.rtu := by cases sl <;> rfl
@[simp] theorem modSlot_fe (sl : Slot) (f : CardSlot → CardSlot) : (modSlot sl f s).fe = s.fe := by cases sl <;> rfl
@[simp] theorem modSlot_lp (sl : Slot) (f : CardSlot → CardSlot) : (modSlot sl f s).lp = s.lp := by cases sl <;> rfl
@[simp] theorem modSlot_de (sl : Slot) (f : CardSlot → CardSlot) : (modSlot sl f s).de = s.de := by cases sl <;> rfl
@[simp] theorem modSlot_slot (sl : Slot) (f : CardSlot → CardSlot) : (modSlot sl f s).slot sl = f (s.slot sl) := by
  cases sl <;> rfl
@[simp] theorem modSlot_other (sl : Slot) (f : CardSlot → CardSlot) :
    (modSlot sl f s).slot (otherSlot sl) = s.slot (otherSlot sl) := by cases sl <;> rfl
@[simp] theorem modSlot_overflow (sl : Slot) (f : CardSlot → CardSlot) :
    (modSlot sl f s).cw.overflow = s.cw.overflow := by cases sl <;> rfl
@[simp] theorem modSlot_closing (sl : Slot) (f : CardSlot → CardSlot) :
    (modSlot sl f s).cw.closing = s.cw.closing := by cases sl <;> rfl
@[simp] theorem modSlot_tp (sl : Slot) (f : CardSlot → CardSlot) : (modSlot sl f s).tp = s.tp := by cases sl <;> rfl
@[simp] theorem modSlot_mi (sl : Slot) (f : CardSlot → CardSlot) : (modSlot sl f s).mi = s.mi := by cases sl <;> rfl
@[simp] theorem modSlot_cp (sl : Slot) (f : CardSlot → CardSlot) : (modSlot sl f s).cp = s.cp := by cases sl <;> rfl

/-! ## `placeReply` -/

@[simp] theorem placeReply_pending (tag : Byte) (b : Bool) (x : Answer) : (placeReply tag b x).pending = x.state.pending := rfl
@[simp] theorem placeReply_time (tag : Byte) (b : Bool) (x : Answer) : (placeReply tag b x).time = x.state.time := rfl
@[simp] theorem placeReply_lines (tag : Byte) (b : Bool) (x : Answer) : (placeReply tag b x).lines = x.state.lines := rfl
@[simp] theorem placeReply_cfg (tag : Byte) (b : Bool) (x : Answer) : (placeReply tag b x).cfg = x.state.cfg := rfl
@[simp] theorem placeReply_waiting (tag : Byte) (b : Bool) (x : Answer) : (placeReply tag b x).waiting = x.state.waiting := rfl
@[simp] theorem placeReply_mem (tag : Byte) (b : Bool) (x : Answer) : (placeReply tag b x).mem = x.state.mem := rfl
@[simp] theorem placeReply_ss (tag : Byte) (b : Bool) (x : Answer) : (placeReply tag b x).ss = x.state.ss := rfl
@[simp] theorem placeReply_sp (tag : Byte) (b : Bool) (x : Answer) : (placeReply tag b x).sp = x.state.sp := rfl
@[simp] theorem placeReply_rtu (tag : Byte) (b : Bool) (x : Answer) : (placeReply tag b x).rtu = x.state.rtu := rfl
@[simp] theorem placeReply_fe (tag : Byte) (b : Bool) (x : Answer) : (placeReply tag b x).fe = x.state.fe := rfl
@[simp] theorem placeReply_lp (tag : Byte) (b : Bool) (x : Answer) : (placeReply tag b x).lp = x.state.lp := rfl
@[simp] theorem placeReply_de (tag : Byte) (b : Bool) (x : Answer) : (placeReply tag b x).de = x.state.de := rfl
@[simp] theorem placeReply_cw (tag : Byte) (b : Bool) (x : Answer) : (placeReply tag b x).cw = x.state.cw := rfl
@[simp] theorem placeReply_tp (tag : Byte) (b : Bool) (x : Answer) : (placeReply tag b x).tp = x.state.tp := rfl
@[simp] theorem placeReply_mi (tag : Byte) (b : Bool) (x : Answer) : (placeReply tag b x).mi = x.state.mi := rfl
@[simp] theorem placeReply_cp (tag : Byte) (b : Bool) (x : Answer) :
    (placeReply tag b x).cp = { x.state.cp with slot := some ⟨tag, x.status, x.result, b⟩ } := rfl

/-! ## `tick` -/

@[simp] theorem tick_pending : (tick s).pending = s.pending := rfl
@[simp] theorem tick_time : (tick s).time = (s.time + 1) % 18446744073709551616 := rfl
@[simp] theorem tick_lines : (tick s).lines = s.lines := rfl
@[simp] theorem tick_cfg : (tick s).cfg = s.cfg := rfl
@[simp] theorem tick_waiting : (tick s).waiting = s.waiting := rfl
@[simp] theorem tick_mem : (tick s).mem = s.mem := rfl
@[simp] theorem tick_ss : (tick s).ss = s.ss := rfl
@[simp] theorem tick_sp : (tick s).sp = s.sp := rfl
@[simp] theorem tick_rtu : (tick s).rtu = s.rtu := rfl
@[simp] theorem tick_fe : (tick s).fe = s.fe := rfl
@[simp] theorem tick_lp : (tick s).lp = s.lp := rfl
@[simp] theorem tick_de : (tick s).de = s.de := rfl
@[simp] theorem tick_cw : (tick s).cw = s.cw := rfl
@[simp] theorem tick_tp : (tick s).tp = s.tp := rfl
@[simp] theorem tick_mi : (tick s).mi = s.mi := rfl
@[simp] theorem tick_cp : (tick s).cp = s.cp := rfl

end Sys2Proof.Machine
end

