-- ==== Sys2Proof/Laws/Table.lean ====
section
/-! SUPPORT. The shot table said once: what changing the first entry that meets a test does to the list, to the HELD shots
and to their duties, and the small lemmas of a shot's record. -/

namespace Sys2Proof.Machine

-- One theorem at a time: the package as one text has more of them than the checker has threads.
set_option Elab.async false

open Sys2Proof

variable {s t : State} {p : Shot → Bool} {f : Shot → Shot} {l : List Shot}

/-! ## The first entry that meets a test -/

/-- With no entry that meets the test, nothing changes. -/
theorem updateFirst_none (h : l.find? p = none) : updateFirst p f l = l := by
  induction l with
  | nil => rfl
  | cons x l ih =>
    have hx : p x = false := by
      have := (List.find?_eq_none.1 h) x (List.mem_cons_self ..)
      simpa using this
    have hl : l.find? p = none := by simpa [List.find?_cons, hx] using h
    simp [updateFirst, hx, ih hl]

/-- The entry that is changed stands between those before it, which do not meet the test, and those after it. -/
theorem updateFirst_some {x : Shot} (h : l.find? p = some x) : ∃ l1 l2, l = l1 ++ x :: l2 ∧ (∀ y ∈ l1, p y = false) ∧ p x = true
    ∧ ∀ g, updateFirst p g l = l1 ++ g x :: l2 := by
  induction l with
  | nil => simp at h
  | cons y l ih =>
    by_cases hy : p y = true
    · have : y = x := by simpa [List.find?_cons, hy] using h
      subst this
      exact ⟨[], l, rfl, by simp, hy, fun g => by simp [updateFirst, hy]⟩
    · have hy' : p y = false := by simpa using hy
      obtain ⟨l1, l2, rfl, h1, hx, h2⟩ := ih (by simpa [List.find?_cons, hy'] using h)
      refine ⟨y :: l1, l2, rfl, ?_, hx, fun g => by simp [updateFirst, hy', h2 g]⟩
      intro z hz
      rcases List.mem_cons.1 hz with rfl | hz
      · exact hy'
      · exact h1 z hz

/-- Every entry after a change is one from before or the changed one. -/
theorem mem_updateFirst {y : Shot} (h : y ∈ updateFirst p f l) : y ∈ l ∨ ∃ x, l.find? p = some x ∧ y = f x := by
  cases hx : l.find? p with
  | none => exact .inl (by rwa [updateFirst_none hx] at h)
  | some x =>
    obtain ⟨l1, l2, rfl, -, -, h2⟩ := updateFirst_some hx
    rw [h2 f] at h
    simp only [List.mem_append, List.mem_cons] at h ⊢
    rcases h with h | rfl | h
    · exact .inl (.inl h)
    · exact .inr ⟨x, rfl, rfl⟩
    · exact .inl (.inr (.inr h))

/-- A property of all entries stays one if the change keeps it for the entry it meets. -/
theorem forall_updateFirst {P : Shot → Prop} (hl : ∀ y ∈ l, P y) (hf : ∀ x, l.find? p = some x → P (f x)) :
    ∀ y ∈ updateFirst p f l, P y := by
  intro y hy
  rcases mem_updateFirst hy with h | ⟨x, hx, rfl⟩
  · exact hl y h
  · exact hf x hx

/-- A list gathered from the entries stands if the changed entry gives what it gave. -/
theorem flatMap_updateFirst {α : Type} {g : Shot → List α} (hf : ∀ x, l.find? p = some x → g (f x) = g x) :
    (updateFirst p f l).flatMap g = l.flatMap g := by
  cases hx : l.find? p with
  | none => rw [updateFirst_none hx]
  | some x =>
    obtain ⟨l1, l2, rfl, -, -, h2⟩ := updateFirst_some hx
    rw [h2 f]
    simp [hf x hx]

/-- A count of the entries stands if the changed entry counts as it did. -/
theorem countP_updateFirst {q : Shot → Bool} (hf : ∀ x, l.find? p = some x → q (f x) = q x) :
    (updateFirst p f l).countP q = l.countP q := by
  cases hx : l.find? p with
  | none => rw [updateFirst_none hx]
  | some x =>
    obtain ⟨l1, l2, rfl, -, -, h2⟩ := updateFirst_some hx
    rw [h2 f]
    simp [List.countP_append, List.countP_cons, hf x hx]

/-- An entry found is in the list and meets the test. -/
theorem find_mem {x : Shot} (h : l.find? p = some x) : x ∈ l ∧ p x = true :=
  ⟨List.mem_of_find?_eq_some h, List.find?_some h⟩

/-! ## HELD shots -/

theorem isHeld_iff {n : Nat} {x : Shot} : isHeld n x = true ↔ x.state = .held ∧ x.number = n := by
  simp [isHeld]

/-- A HELD shot's record is one of the table's, is HELD and has its number. -/
theorem held_mem {n : Nat} {x : Shot} (h : s.held n = some x) : x ∈ s.ss.table ∧ x.state = .held ∧ x.number = n :=
  ⟨(find_mem h).1, isHeld_iff.1 (find_mem h).2⟩

theorem dutyOf_eq {n : Nat} {x : Shot} {k : DutyKey} (h : s.held n = some x) : s.dutyOf n k = x.dutyState k := by
  simp [State.dutyOf, h]

/-- A shot with a duty is HELD. -/
theorem held_of_dutyOf {n : Nat} {k : DutyKey} {d : DutyState} (h : s.dutyOf n k = some d) :
    ∃ x, s.held n = some x ∧ x.dutyState k = some d := by
  unfold State.dutyOf at h
  cases hx : s.held n with
  | none => rw [hx] at h; cases h
  | some x => exact ⟨x, rfl, by rw [hx] at h; exact h⟩

/-- The HELD shot found after a change of an entry that stays HELD under its number. -/
theorem find_updateHeld {n m : Nat} (hf : ∀ x, l.find? (isHeld n) = some x → isHeld n (f x) = true) :
    (updateFirst (isHeld n) f l).find? (isHeld m) = if m = n then (l.find? (isHeld n)).map f else l.find? (isHeld m) := by
  cases hx : l.find? (isHeld n) with
  | none =>
    rw [updateFirst_none hx]
    by_cases e : m = n
    · subst e; simp [hx]
    · simp [e]
  | some x =>
    obtain ⟨l1, l2, rfl, h1, hxn, h2⟩ := updateFirst_some hx
    rw [h2 f]
    have hfx := hf x hx
    by_cases e : m = n
    · subst e
      have : l1.find? (isHeld m) = none := List.find?_eq_none.2 (fun y hy => by simp [h1 y hy])
      simp [List.find?_append, this, List.find?_cons, hfx]
    · have e1 : isHeld m x = false := by
        rw [isHeld_iff] at hxn
        simp [isHeld, hxn.2]; intro _ h; exact e h.symm
      have e2 : isHeld m (f x) = false := by
        rw [isHeld_iff] at hfx
        simp [isHeld, hfx.2]; intro _ h; exact e h.symm
      simp [List.find?_append, List.find?_cons, e1, e2, e]

/-- The HELD shots found after a change of an entry that is not HELD and does not become it. -/
theorem find_updateOther {m : Nat} (hf : ∀ x, l.find? p = some x → x.state ≠ .held ∧ (f x).state ≠ .held) :
    (updateFirst p f l).find? (isHeld m) = l.find? (isHeld m) := by
  cases hx : l.find? p with
  | none => rw [updateFirst_none hx]
  | some x =>
    obtain ⟨l1, l2, rfl, -, -, h2⟩ := updateFirst_some hx
    obtain ⟨a, b⟩ := hf x hx
    rw [h2 f]
    simp [List.find?_append, List.find?_cons, isHeld, a, b]

/-- The HELD shots of other numbers, found after an entry is freed. -/
theorem find_freeHeld {n m : Nat} (e : m ≠ n) :
    (updateFirst (isHeld n) (fun _ => ({} : Shot)) l).find? (isHeld m) = l.find? (isHeld m) := by
  cases hx : l.find? (isHeld n) with
  | none => rw [updateFirst_none hx]
  | some x =>
    obtain ⟨l1, l2, rfl, -, hxn, h2⟩ := updateFirst_some hx
    rw [h2]
    have e1 : isHeld m x = false := by
      rw [isHeld_iff] at hxn
      simp [isHeld, hxn.2]; intro _ h; exact e h.symm
    have e2 : isHeld m ({} : Shot) = false := rfl
    simp [List.find?_append, List.find?_cons, e1, e2]

/-! ## Duties of one record -/

/-- A change that leaves every duty's key leaves the keys. -/
theorem map_key {g : Duty → Duty} (hg : ∀ d, (g d).key = d.key) (ds : List Duty) :
    (ds.map g).map (·.key) = ds.map (·.key) := by
  simp [hg]

/-- A duty of a key after a change of each duty that leaves its key. -/
theorem find_mapDuty {g : Duty → Duty} (hg : ∀ d, (g d).key = d.key) (k : DutyKey) (ds : List Duty) :
    (ds.map g).find? (fun d => d.key == k) = (ds.find? (fun d => d.key == k)).map g := by
  induction ds with
  | nil => rfl
  | cons d ds ih =>
    simp only [List.map_cons, List.find?_cons, hg]
    cases d.key == k <;> simp [ih]

/-- The duty states of a record whose duties are each changed with their keys left. -/
theorem dutyState_map {x : Shot} {g : Duty → Duty} (hg : ∀ d, (g d).key = d.key) (k : DutyKey) :
    ({ x with duties := x.duties.map g } : Shot).dutyState k = (x.duty k).map (fun d => (g d).state) := by
  simp only [Shot.dutyState, Shot.duty, find_mapDuty hg]
  cases x.duties.find? (fun d => d.key == k) <;> rfl

theorem duty_key {x : Shot} {k : DutyKey} {d : Duty} (h : x.duty k = some d) : d.key = k ∧ d ∈ x.duties := by
  have := List.find?_some h
  exact ⟨by simpa using this, List.mem_of_find?_eq_some h⟩

theorem into_key (st : DutyState) (d : Duty) : (d.into st).key = d.key := by cases st <;> rfl

theorem into_state (st : DutyState) (d : Duty) : (d.into st).state = st := by cases st <;> rfl

/-- The duty states of a record with one duty changed. -/
theorem dutyState_setDuty {x : Shot} {k : DutyKey} {g : Duty → Duty} (hg : ∀ d, (g d).key = d.key) (j : DutyKey) :
    (x.setDuty k g).dutyState j = if j = k then (x.duty k).map (fun d => (g d).state) else x.dutyState j := by
  have hk : ∀ d : Duty, (if d.key == k then g d else d).key = d.key := by
    intro d; split <;> simp [hg]
  unfold Shot.setDuty
  rw [dutyState_map hk]
  by_cases e : j = k
  · subst e
    rw [if_pos rfl]
    cases h : x.duty j with
    | none => rfl
    | some d => simp [(duty_key h).1]
  · rw [if_neg e]
    cases h : x.duty j with
    | none => simp [Shot.dutyState, h]
    | some d =>
      have := (duty_key h).1
      simp [Shot.dutyState, h, this, e]

/-- With no duty owed, no duty is PENDING or ACTIVE. -/
theorem not_owed {x : Shot} (h : x.duties.all (fun d => !d.owed) = true) (k : DutyKey) :
    x.dutyState k ≠ some .pending ∧ x.dutyState k ≠ some .active := by
  unfold Shot.dutyState
  cases hd : x.duty k with
  | none => simp
  | some d =>
    have := (List.all_eq_true.1 h) d (duty_key hd).2
    simp only [Duty.owed, Bool.not_eq_true', Bool.or_eq_false_iff, beq_eq_false_iff_ne] at this
    simpa using this

end Sys2Proof.Machine
end

