-- ==== Sys2Proof/Laws/Core.lean ====
section
/-! SUPPORT. The part of a lawful state that the store's consumers work on, and what an update must leave alone for it to
stand: the blocks, the entries, and the links from the queues and the work in hand to the duties they serve. -/

namespace Sys2Proof.Machine

-- One theorem at a time: the package as one text has more of them than the checker has threads.
set_option Elab.async false

open Sys2Proof

/-- The laws that the store and its consumers keep together. -/
structure CoreOk (s : State) : Prop where
  blocks : s.allBlocks.Perm (List.range Config.blocks)
  entries : ∀ t ∈ s.ss.table, t.Lawful
  slots : ∀ sl, s.SlotLawful sl
  developDistinct : (s.de.queue.map (·.shot)).Nodup
  developQueued : ∀ e ∈ s.de.queue, s.dutyOf e.shot .develop = some .pending
  job : ∀ j, s.de.job = some j → s.dutyOf j.shot .develop = some .active
    ∧ (s.de.phase ≠ .developing → (s.held j.shot).bind (·.proof) = none)
  memo : ∀ m, s.mi.current = some m → (s.held m.shot).isSome = true ∧ (s.mi.phase = .armed → m.blocks = [])
  memoIdle : s.mi.phase = .idle ↔ s.mi.current = none

/-- What of a card file the laws speak of. -/
def CardFile.job (f : CardFile) : FileJob := ⟨f.shot, f.kind⟩

/-- What of a memo record the laws speak of. -/
def MemoRec.place (m : MemoRec) : Nat × List Nat := (m.shot, m.blocks)

/-- Two states that agree in the queues, the work in hand and the memo. -/
structure SameLinks (s t : State) : Prop where
  current : t.mi.current.map MemoRec.place = s.mi.current.map MemoRec.place := by rfl
  phase : t.mi.phase = s.mi.phase := by rfl
  queue : t.de.queue = s.de.queue := by rfl
  job : t.de.job.map (·.shot) = s.de.job.map (·.shot) := by rfl
  engine : t.de.phase = s.de.phase := by rfl
  queueA : t.cw.a.queue = s.cw.a.queue := by rfl
  fileA : t.cw.a.file.map CardFile.job = s.cw.a.file.map CardFile.job := by rfl
  queueB : t.cw.b.queue = s.cw.b.queue := by rfl
  fileB : t.cw.b.file.map CardFile.job = s.cw.b.file.map CardFile.job := by rfl

/-- Two states that agree in all that `CoreOk` speaks of. -/
structure SameCore (s t : State) : Prop extends SameLinks s t where
  free : t.ss.free = s.ss.free := by rfl
  table : t.ss.table = s.ss.table := by rfl

variable {s t : State}

theorem SameLinks.slotQueue (e : SameLinks s t) (sl : Slot) : (t.slot sl).queue = (s.slot sl).queue := by
  cases sl
  · exact e.queueA
  · exact e.queueB

theorem SameLinks.slotFile (e : SameLinks s t) (sl : Slot) :
    (t.slot sl).file.map CardFile.job = (s.slot sl).file.map CardFile.job := by
  cases sl
  · exact e.fileA
  · exact e.fileB

/-- Whether a consumer holds an entry, a job or a file for a duty. -/
def State.Linked (s : State) (n : Nat) : DutyKey → Prop
  | .card k sl => (⟨n, k⟩ : FileJob) ∈ (s.slot sl).queue ∨ (s.slot sl).file.map CardFile.job = some ⟨n, k⟩
  | .develop => n ∈ s.de.queue.map (·.shot) ∨ s.de.job.map (·.shot) = some n
  | .send _ => False

/-- A linked duty is PENDING or ACTIVE. -/
theorem CoreOk.owed (h : CoreOk s) {n : Nat} {k : DutyKey} (hl : s.Linked n k) :
    s.dutyOf n k = some .pending ∨ s.dutyOf n k = some .active := by
  cases k with
  | card k sl =>
    rcases hl with hl | hl
    · exact .inl ((h.slots sl).queued _ hl)
    · obtain ⟨f, hf, e⟩ := Option.map_eq_some_iff.1 hl
      have := (h.slots sl).active f hf
      simp only [CardFile.job, FileJob.mk.injEq] at e
      rw [e.1, e.2] at this
      exact .inr this
  | develop =>
    rcases hl with hl | hl
    · obtain ⟨e, he, rfl⟩ := List.mem_map.1 hl
      exact .inl (h.developQueued e he)
    · obtain ⟨j, hj, rfl⟩ := Option.map_eq_some_iff.1 hl
      exact .inr (h.job j hj).1
  | send k => exact hl.elim

/-- A queued job's duty is PENDING, so it is not the active file's. -/
theorem CoreOk.not_linked (h : CoreOk s) {n : Nat} {k : DutyKey} (hp : s.dutyOf n k ≠ some .pending)
    (ha : s.dutyOf n k ≠ some .active) : ¬ s.Linked n k := fun hl =>
  (h.owed hl).elim hp ha

/-- A change of the table that leaves the blocks, keeps the entries lawful, and leaves the linked duties, the HELD shots and
the absence of proofs, keeps the laws. -/
theorem CoreOk.table (h : CoreOk s) (e : SameLinks s t)
    (blocks : (t.ss.free ++ t.ss.table.flatMap Shot.blocks).Perm (s.ss.free ++ s.ss.table.flatMap Shot.blocks))
    (entries : ∀ x ∈ t.ss.table, x.Lawful)
    (duties : ∀ n k, s.Linked n k → t.dutyOf n k = s.dutyOf n k)
    (held : ∀ m, s.mi.current = some m → (s.held m.shot).isSome = true → (t.held m.shot).isSome = true)
    (proofs : ∀ n, s.de.job.map (·.shot) = some n → s.de.phase ≠ .developing → (s.held n).bind (·.proof) = none →
      (t.held n).bind (·.proof) = none) : CoreOk t where
  blocks := by
    have hr : t.recordingExtent = s.recordingExtent := by
      have := e.current
      unfold State.recordingExtent
      cases h1 : t.mi.current <;> cases h2 : s.mi.current <;> simp_all [MemoRec.place]
    unfold State.allBlocks
    rw [hr]
    exact (blocks.append_right _).trans h.blocks
  entries := entries
  slots sl :=
    { distinct := by rw [e.slotQueue]; exact (h.slots sl).distinct
      queued := fun j hj => by
        rw [e.slotQueue] at hj
        rw [duties _ _ (show s.Linked j.shot (.card j.kind sl) from .inl hj)]
        exact (h.slots sl).queued j hj
      active := fun f hf => by
        have hm : (s.slot sl).file.map CardFile.job = some f.job := by rw [← e.slotFile, hf]; rfl
        rw [duties _ _ (show s.Linked f.shot (.card f.kind sl) from .inr hm)]
        obtain ⟨g, hg, hj⟩ := Option.map_eq_some_iff.1 hm
        have := (h.slots sl).active g hg
        simp only [CardFile.job, FileJob.mk.injEq] at hj
        rwa [hj.1, hj.2] at this }
  developDistinct := by rw [e.queue]; exact h.developDistinct
  developQueued x hx := by
    rw [e.queue] at hx
    rw [duties _ _ (show s.Linked x.shot .develop from .inl (List.mem_map_of_mem hx))]
    exact h.developQueued x hx
  job j hj := by
    have hm : s.de.job.map (·.shot) = some j.shot := by rw [← e.job, hj]; rfl
    obtain ⟨i, hi, hij⟩ := Option.map_eq_some_iff.1 hm
    have hd := h.job i hi
    rw [hij] at hd
    refine ⟨?_, fun hp => ?_⟩
    · rw [duties _ _ (show s.Linked j.shot .develop from .inr hm)]
      exact hd.1
    · rw [e.engine] at hp
      exact proofs _ hm hp (hd.2 hp)
  memo m hm := by
    have : s.mi.current.map MemoRec.place = some m.place := by rw [← e.current, hm]; rfl
    obtain ⟨i, hi, hij⟩ := Option.map_eq_some_iff.1 this
    simp only [MemoRec.place, Prod.mk.injEq] at hij
    have hh := h.memo i hi
    rw [e.phase, ← hij.1, ← hij.2]
    exact ⟨held i hi hh.1, hh.2⟩
  memoIdle := by
    rw [e.phase, h.memoIdle, ← Option.map_eq_none_iff (f := MemoRec.place), ← e.current, Option.map_eq_none_iff]

/-- An update of what the laws do not speak of. -/
theorem CoreOk.upd (h : CoreOk s) (e : SameCore s t) : CoreOk t :=
  h.table e.toSameLinks (by rw [e.free, e.table]) (by rw [e.table]; exact h.entries)
    (fun n k _ => by simp [State.dutyOf, State.held, e.table]) (fun m _ hm => by simpa [State.held, e.table] using hm)
    (fun n _ _ hn => by simpa [State.held, e.table] using hn)

/-! ## Mild changes of a HELD shot -/

/-- A change of a record that leaves its state, its number, its extents, its duties' keys and states, and no reader with two
pins. -/
structure Mild (x y : Shot) : Prop where
  state : y.state = x.state := by rfl
  number : y.number = x.number := by rfl
  raw : y.raw = x.raw := by rfl
  proof : y.proof = x.proof := by rfl
  memo : y.memo = x.memo := by rfl
  keys : y.duties.map (·.key) = x.duties.map (·.key) := by rfl
  states : ∀ k, y.dutyState k = x.dutyState k := by intro; rfl
  pins : (x.pins.map (·.reader)).Nodup → (y.pins.map (·.reader)).Nodup := by exact id

theorem Mild.blocks {x y : Shot} (m : Mild x y) : y.blocks = x.blocks := by
  simp [Shot.blocks, m.raw, m.proof, m.memo]

/-- A HELD record changed mildly stays lawful. -/
theorem Mild.lawful {x y : Shot} (m : Mild x y) (hs : x.state = .held) (h : x.Lawful) : y.Lawful where
  free e := by rw [m.state, hs] at e; cases e
  early e := by rw [m.state, hs] at e; rcases e with e | e <;> cases e
  numbered _ := by rw [m.number]; exact h.numbered (.inr hs)
  duties := by rw [m.keys]; exact h.duties
  pins := m.pins h.pins
  proof e := by rw [m.proof] at e; simpa [m.states] using h.proof e

theorem CoreOk.entry (h : CoreOk s) {n : Nat} {x : Shot} (hx : s.held n = some x) : x.Lawful :=
  h.entries x (held_mem hx).1

/-- A HELD shot changed mildly. -/
theorem modHeld_core {n : Nat} {f : Shot → Shot} (hf : ∀ x, s.held n = some x → Mild x (f x)) (h : CoreOk s) :
    CoreOk (modHeld n f s) := by
  have hheld : ∀ m, (modHeld n f s).held m = if m = n then (s.held n).map f else s.held m := by
    intro m
    exact find_updateHeld (fun x hx => by
      have := hf x hx
      have hx' := isHeld_iff.1 (find_mem hx).2
      exact isHeld_iff.2 ⟨this.state.trans hx'.1, this.number.trans hx'.2⟩)
  refine h.table {} ?_ ?_ ?_ ?_ ?_
  · have : (modHeld n f s).ss.table.flatMap Shot.blocks = s.ss.table.flatMap Shot.blocks :=
      flatMap_updateFirst (fun x hx => (hf x hx).blocks)
    rw [this]
    exact .refl _
  · exact forall_updateFirst h.entries (fun x hx => (hf x hx).lawful (held_mem hx).2.1 (h.entry hx))
  · intro m k _
    simp only [State.dutyOf, hheld]
    by_cases e : m = n
    · subst e
      cases hx : s.held m with
      | none => simp
      | some x => simp [(hf x hx).states k]
    · simp [e]
  · intro m _ hm
    simp only [hheld]
    split <;> simp_all
  · intro m _ _ hm
    simp only [hheld]
    by_cases e : m = n
    · subst e
      cases hx : s.held m with
      | none => simp
      | some x => rw [hx] at hm; simpa [(hf x hx).proof] using hm
    · simpa [e] using hm

end Sys2Proof.Machine
end

