-- ==== Sys2Proof/Laws/CoreStore.lean ====
section
/-! SUPPORT. What the operations on the free list, the table, the duties and the pins do to the laws of the store and its
consumers (`Machine/Ops.lean`). -/

namespace Sys2Proof.Machine

-- One theorem at a time: the package as one text has more of them than the checker has threads.
set_option Elab.async false

open Sys2Proof

variable {s t : State}

/-! ## Notices and the free list -/

theorem raise_core {k : NoticeKind} {sub : Subject} {v : List Wire} (h : CoreOk s) : CoreOk (raise k sub v s) := h.upd {}

/-- What replacing the free list does: the list is the new one, and only the notices may change beside it. -/
theorem setFree_spec (l : List Nat) (s : State) : ∃ c, setFree l s = { s with ss := { s.ss with free := l }, cp := c } := by
  unfold setFree
  dsimp only
  split <;> exact ⟨_, rfl⟩

theorem giveBlocks_spec (l : List Nat) (s : State) :
    ∃ c, giveBlocks l s = { s with ss := { s.ss with free := s.ss.free ++ l }, cp := c } := setFree_spec _ s

theorem takeBlocks_spec (n : Nat) (s : State) :
    (takeBlocks n s).1 = s.ss.free.take n
    ∧ ∃ c, (takeBlocks n s).2 = { s with ss := { s.ss with free := s.ss.free.drop n }, cp := c } := ⟨rfl, setFree_spec _ s⟩

/-! ## Duties and pins -/

/-- A duty's record changed, its key left: no link may name the duty, and a DEVELOP duty may leave ACTIVE and DONE only with
no proof extent there. -/
theorem setDuty_core {n : Nat} {k : DutyKey} {g : Duty → Duty} (hg : ∀ d, (g d).key = d.key) (h : CoreOk s)
    (hl : ¬ s.Linked n k)
    (hp : k = .develop → (s.held n).bind (·.proof) = none ∨ ∀ d, (g d).state = .active ∨ (g d).state = .done) :
    CoreOk (setDuty n k g s) := by
  have hheld : ∀ m, (setDuty n k g s).held m = if m = n then (s.held n).map (Shot.setDuty k g) else s.held m := by
    intro m
    exact find_updateHeld (fun x hx => isHeld_iff.2 (isHeld_iff.1 (find_mem hx).2))
  have hk : ∀ d : Duty, (if d.key == k then g d else d).key = d.key := by
    intro d; split <;> simp [hg]
  refine h.table {} ?_ ?_ ?_ ?_ ?_
  · have : (setDuty n k g s).ss.table.flatMap Shot.blocks = s.ss.table.flatMap Shot.blocks :=
      flatMap_updateFirst (fun x _ => rfl)
    rw [this]
    exact .refl _
  · refine forall_updateFirst h.entries (fun x hx => ?_)
    have hs := (held_mem hx).2.1
    have hx' := h.entry hx
    exact
      { free := fun e => by simp only [Shot.setDuty] at e; rw [hs] at e; cases e
        early := fun e => by simp only [Shot.setDuty] at e; rw [hs] at e; rcases e with e | e <;> cases e
        numbered := fun _ => hx'.numbered (.inr hs)
        duties := by
          have := hx'.duties
          simp only [Shot.setDuty]
          rwa [map_key hk]
        pins := hx'.pins
        proof := fun e => by
          have e' : x.proof.isSome = true := e
          have hd := hx'.proof e'
          rw [dutyState_setDuty hg]
          by_cases c : DutyKey.develop = k
          · rw [if_pos c]
            have hxx : s.held n = some x := hx
            rcases hp c.symm with hq | hq
            · rw [hxx] at hq
              have hp' : x.proof = none := hq
              rw [hp'] at e'
              cases e'
            · subst c
              rcases hdu : x.duty .develop with _ | d
              · simp [Shot.dutyState, hdu] at hd
              · rcases hq d with c | c <;> simp [c]
          · rwa [if_neg c] }
  · intro m j hj
    simp only [State.dutyOf, hheld]
    by_cases e : m = n
    · subst e
      cases hx : s.held m with
      | none => simp
      | some x =>
        have : j ≠ k := fun c => hl (c ▸ hj)
        simp [dutyState_setDuty hg, this]
    · simp [e]
  · intro m _ hm
    simp only [hheld]
    split <;> simp_all
  · intro m _ _ hm
    simp only [hheld]
    by_cases e : m = n
    · subst e
      cases hx : s.held m with
      | none => simp
      | some x => rw [hx] at hm; simpa [Shot.setDuty] using hm
    · simpa [e] using hm

theorem setDuty_links (n : Nat) (k : DutyKey) (g : Duty → Duty) (s : State) : SameLinks s (setDuty n k g s) := {}

/-- A send duty's record changed, its key left: no link names a send duty. -/
theorem setSend_core {n : Nat} {k : FileKind} {g : Duty → Duty} (hg : ∀ d, (g d).key = d.key) (h : CoreOk s) :
    CoreOk (setDuty n (.send k) g s) := setDuty_core hg h (fun hl => hl) (fun e => by cases e)

theorem addPin_core {n : Nat} {r : Reader} {k : FileKind} (h : CoreOk s) : CoreOk (addPin n r k s) := by
  refine modHeld_core (fun x _ => ?_) h
  split
  · exact {}
  · rename_i hp
    refine { pins := fun hx => ?_ }
    rw [List.map_append]
    refine List.Nodup.append hx (by simp) ?_
    intro y hy hy2
    simp only [List.map_cons, List.map_nil, List.mem_singleton] at hy2
    subst hy2
    obtain ⟨p, hp1, hp2⟩ := List.mem_map.1 hy
    exact hp (List.any_eq_true.2 ⟨p, hp1, by simp [hp2]⟩)

theorem dropPin_core {n : Nat} {r : Reader} (h : CoreOk s) : CoreOk (dropPin n r s) :=
  modHeld_core (fun x _ => { pins := fun hx => hx.sublist (List.filter_sublist.map _) }) h

/-! ## Proof release and freeing -/

/-- A HELD shot's proof extent given back. -/
theorem dropProof_core {n : Nat} (h : CoreOk s) : CoreOk (dropProof n s) := by
  unfold dropProof
  cases hx : s.held n with
  | none => exact h
  | some x =>
    cases hp : x.proof with
    | none => simpa [hp] using h
    | some p =>
      simp only [Option.bind_some, hp]
      obtain ⟨c, hc⟩ := giveBlocks_spec p.blocks (modHeld n (fun t => { t with proof := none }) s)
      rw [hc]
      set u : State := { modHeld n (fun t => { t with proof := none }) s with
        ss := { (modHeld n (fun t => { t with proof := none }) s).ss with
          free := (modHeld n (fun t => { t with proof := none }) s).ss.free ++ p.blocks }, cp := c } with hu
      have htab : u.ss.table = updateFirst (isHeld n) (fun t => { t with proof := none }) s.ss.table := rfl
      have hheld : ∀ m, u.held m = if m = n then (s.held n).map (fun t => { t with proof := none }) else s.held m := by
        intro m
        exact find_updateHeld (fun x hx => isHeld_iff.2 (isHeld_iff.1 (find_mem hx).2))
      refine h.table {} ?_ ?_ ?_ ?_ ?_
      · obtain ⟨l1, l2, hl, -, -, h2⟩ := updateFirst_some hx
        rw [htab, h2, hl]
        change (s.ss.free ++ p.blocks ++ _).Perm _
        simp only [List.flatMap_append, List.flatMap_cons, Shot.blocks, hp]
        simp only [Option.map_none, Option.getD_none, Option.map_some, Option.getD_some, List.append_nil]
        rw [List.perm_iff_count]
        intro a
        simp only [List.count_append]
        omega
      · rw [htab]
        refine forall_updateFirst h.entries (fun y hy => ?_)
        have hs := (held_mem hy).2.1
        have hy' := h.entry hy
        exact
          { free := fun e => by rw [hs] at e; cases e
            early := fun e => by rw [hs] at e; rcases e with e | e <;> cases e
            numbered := fun _ => hy'.numbered (.inr hs)
            duties := hy'.duties
            pins := hy'.pins
            proof := fun e => by simp at e }
      · intro m k _
        simp only [State.dutyOf, hheld]
        split
        · rename_i e; subst e; cases s.held m <;> rfl
        · rfl
      · intro m _ hm
        simp only [hheld]
        split <;> simp_all
      · intro m _ _ hm
        simp only [hheld]
        split
        · cases s.held n <;> rfl
        · exact hm

theorem proofTest_core {n : Nat} (h : CoreOk s) : CoreOk (proofTest n s) := by
  unfold proofTest
  split
  · split
    · exact dropProof_core h
    · exact h
  · exact h

/-- A memo with no blocks taken out of the memo input. -/
theorem CoreOk.noMemo (h : CoreOk s) (hb : s.recordingExtent = []) (e : SameCore { s with mi := t.mi } t)
    (hp : t.mi.phase = .idle)    (ht : t.mi.current = none) : CoreOk t := by
  have ht' : t.recordingExtent = [] := by simp [State.recordingExtent, ht]
  have hcore : CoreOk { s with mi := t.mi } :=
    { blocks := by
        have := h.blocks
        simp only [State.allBlocks, hb] at this
        have e2 : ({ s with mi := t.mi } : State).recordingExtent = [] := ht'
        simp only [State.allBlocks, e2]
        exact this
      entries := h.entries
      slots := fun sl => ⟨(h.slots sl).distinct, (h.slots sl).queued, (h.slots sl).active⟩
      developDistinct := h.developDistinct
      developQueued := h.developQueued
      job := h.job
      memo := fun m hm => by simp only [ht] at hm; cases hm
      memoIdle := ⟨fun _ => ht, fun _ => hp⟩ }
  exact hcore.upd e

theorem abortArmed_core {n : Nat} (h : CoreOk s) : CoreOk (abortArmed n s) := by
  unfold abortArmed
  split
  · rename_i m hm
    split
    · rename_i c
      exact h.noMemo (by simp [State.recordingExtent, hm, (h.memo m hm).2 c.1]) {} rfl rfl
    · exact h
  · exact h

/-- A shot with nothing owed, whose links are none, freed. -/
theorem freeTest_core {n : Nat} (h : CoreOk s) : CoreOk (freeTest n s) := by
  unfold freeTest
  cases hx : s.held n with
  | none => exact h
  | some x =>
    dsimp only
    split
    · rename_i c
      simp only [Bool.and_eq_true, Shot.freeable, Bool.not_eq_true'] at c
      obtain ⟨⟨⟨howed, -⟩, -⟩, hrec⟩ := c
      obtain ⟨cp1, hc⟩ := giveBlocks_spec x.blocks (modHeld n (fun _ => {}) s)
      rw [hc]
      set u : State := { modHeld n (fun _ => {}) s with
        ss := { (modHeld n (fun _ => {}) s).ss with free := (modHeld n (fun _ => {}) s).ss.free ++ x.blocks }, cp := cp1 }
        with hu
      have hw := abortArmed_core (n := n) h
      have hlinks : SameLinks (abortArmed n s) (abortArmed n u) := by
        have : u.mi = s.mi := rfl
        unfold abortArmed
        rw [this]
        split
        · split
          · exact {}
          · exact {}
        · exact {}
      have htab : (abortArmed n u).ss = u.ss := by
        unfold abortArmed
        split
        · split <;> rfl
        · rfl
      have htab0 : (abortArmed n s).ss = s.ss := by
        unfold abortArmed
        split
        · split <;> rfl
        · rfl
      have hfind : ∀ m, m ≠ n → (abortArmed n u).held m = s.held m := by
        intro m e
        show (abortArmed n u).ss.table.find? _ = _
        rw [htab]
        exact find_freeHeld e
      have hheld0 : ∀ m, (abortArmed n s).held m = s.held m := by
        intro m
        show (abortArmed n s).ss.table.find? _ = _
        rw [htab0]; rfl
      have hlinked : ∀ m k, (abortArmed n s).Linked m k → m ≠ n := by
        rintro m k hl rfl
        have := hw.owed hl
        have hno := not_owed howed k
        simp only [State.dutyOf, hheld0, hx, Option.bind_some] at this
        exact this.elim hno.1 hno.2
      refine hw.table hlinks ?_ ?_ ?_ ?_ ?_
      · rw [htab, htab0]
        obtain ⟨l1, l2, hl, -, -, h2⟩ := updateFirst_some hx
        have e1 : u.ss.table = l1 ++ ({} : Shot) :: l2 := h2 _
        have e2 : u.ss.free = s.ss.free ++ x.blocks := rfl
        rw [e1, e2, hl]
        simp only [List.flatMap_append, List.flatMap_cons]
        have e3 : Shot.blocks {} = [] := rfl
        rw [e3, List.nil_append, List.perm_iff_count]
        intro a
        simp only [List.count_append]
        omega
      · rw [htab]
        exact forall_updateFirst h.entries (fun y hy =>
          { free := fun _ => rfl, early := fun _ => ⟨rfl, rfl⟩, numbered := fun e => by rcases e with e | e <;> cases e
            duties := List.nodup_nil, pins := List.nodup_nil, proof := fun e => by cases e })
      · intro m k hl
        have e := hlinked m k hl
        simp only [State.dutyOf, hfind m e, hheld0]
      · intro m hm hh
        rw [hheld0] at hh
        have : m.shot ≠ n := by
          rintro rfl
          have hm' := hm
          unfold abortArmed at hm'
          cases hcur : s.mi.current with
          | none => rw [hcur] at hm'; dsimp only at hm'; rw [hcur] at hm'; cases hm'
          | some i =>
            rw [hcur] at hm'
            dsimp only at hm'
            by_cases c : s.mi.phase = .armed ∧ i.shot = m.shot
            · rw [if_pos c] at hm'; cases hm'
            · rw [if_neg c, hcur] at hm'
              have : i = m := by simpa using hm'
              subst this
              have hp : s.mi.phase ≠ .idle := fun e => by rw [h.memoIdle.1 e] at hcur; cases hcur
              cases hph : s.mi.phase with
              | idle => exact hp hph
              | armed => exact c ⟨hph, rfl⟩
              | recording => simp [State.recordsInto, hph, hcur] at hrec
        rwa [hfind _ this]
      · intro m hj hp hn
        have : m ≠ n := hlinked m .develop (.inr hj)
        rw [hheld0] at hn
        rwa [hfind _ this]
    · exact h

theorem shotTests_core {n : Nat} (h : CoreOk s) : CoreOk (shotTests n s) := freeTest_core (proofTest_core h)

/-! ## Failing a duty -/

/-- A duty that no consumer holds fails. -/
theorem failDuty_core {n : Nat} {k : DutyKey} (hk : k ≠ .develop) (h : CoreOk s) (hl : ¬ s.Linked n k) :
    CoreOk (failDuty n k s) := by
  unfold failDuty
  split
  · exact h
  · dsimp only
    have h1 : CoreOk (setDuty n k (Duty.into .failed) s) := setDuty_core (into_key _) h hl (fun e => (hk e).elim)
    split
    · exact shotTests_core (raise_core (modHeld_core (fun x _ => {}) h1))
    · exact shotTests_core h1

end Sys2Proof.Machine
end

