-- ==== Sys2Proof/Laws/CoreCard.lean ====
section
/-! SUPPORT. What the card writer's operations do to the laws of the store and its consumers (`Machine/CardOps.lean`). -/

namespace Sys2Proof.Machine

-- One theorem at a time: the package as one text has more of them than the checker has threads.
set_option Elab.async false

open Sys2Proof

variable {s t : State}

/-! ## Duty states after a change -/

/-- The duty states after a duty's record is changed, its key left. -/
theorem dutyOf_setDuty {n : Nat} {k : DutyKey} {g : Duty → Duty} (hg : ∀ d, (g d).key = d.key) (m : Nat) (j : DutyKey) :
    (setDuty n k g s).dutyOf m j
      = if m = n ∧ j = k then (s.held n).bind (fun x => (x.duty k).map (fun d => (g d).state)) else s.dutyOf m j := by
  have hheld : (setDuty n k g s).held m = if m = n then (s.held n).map (Shot.setDuty k g) else s.held m :=
    find_updateHeld (fun x hx => isHeld_iff.2 (isHeld_iff.1 (find_mem hx).2))
  simp only [State.dutyOf, hheld]
  by_cases e : m = n
  · subst e
    cases hx : s.held m with
    | none => simp
    | some x =>
      by_cases c : j = k
      · simp [dutyState_setDuty hg, c]
      · simp [dutyState_setDuty hg, c]
  · simp [e]

/-- A duty put into a state has that state. -/
theorem dutyOf_into {n : Nat} {k : DutyKey} {st d : DutyState} (h : s.dutyOf n k = some d) :
    (setDuty n k (Duty.into st) s).dutyOf n k = some st := by
  rw [dutyOf_setDuty (into_key st), if_pos ⟨rfl, rfl⟩]
  obtain ⟨x, hx, hd⟩ := held_of_dutyOf h
  rw [hx]
  unfold Shot.dutyState at hd
  obtain ⟨y, hy, -⟩ := Option.map_eq_some_iff.1 hd
  simp [hy, into_state]

/-! ## Slots -/

theorem modSlot_ne {sl sl' : Slot} (e : sl' ≠ sl) (f : CardSlot → CardSlot) (s : State) :
    (modSlot sl f s).slot sl' = s.slot sl' := by
  cases sl <;> cases sl' <;> first | rfl | exact absurd rfl e

/-- A slot changed in what the laws do not speak of. -/
theorem modSlot_same {sl : Slot} {f : CardSlot → CardSlot} (hq : ∀ c, (f c).queue = c.queue)
    (hf : ∀ c, (f c).file.map CardFile.job = c.file.map CardFile.job) : SameCore s (modSlot sl f s) := by
  cases sl
  · exact { queueA := hq _, fileA := hf _ }
  · exact { queueB := hq _, fileB := hf _ }

/-- A slot changed so that its queue and its file stay lawful. -/
theorem modSlot_core {sl : Slot} {f : CardSlot → CardSlot} (h : CoreOk s) (hs : (modSlot sl f s).SlotLawful sl) :
    CoreOk (modSlot sl f s) := by
  have hm : (modSlot sl f s).mi = s.mi := by cases sl <;> rfl
  have hd : (modSlot sl f s).de = s.de := by cases sl <;> rfl
  have hss : (modSlot sl f s).ss = s.ss := by cases sl <;> rfl
  have hheld : ∀ n, (modSlot sl f s).held n = s.held n := fun n => by simp [State.held]
  have hduty : ∀ n k, (modSlot sl f s).dutyOf n k = s.dutyOf n k := fun n k => by simp [State.dutyOf, hheld]
  exact
    { blocks := by simp only [State.allBlocks, State.recordingExtent, hm, hss]; exact h.blocks
      entries := by rw [hss]; exact h.entries
      slots := fun sl' => by
        by_cases e : sl' = sl
        · subst e; exact hs
        · exact
            { distinct := by rw [modSlot_ne e]; exact (h.slots sl').distinct
              queued := fun j hj => by rw [modSlot_ne e] at hj; rw [hduty]; exact (h.slots sl').queued j hj
              active := fun f hf => by rw [modSlot_ne e] at hf; rw [hduty]; exact (h.slots sl').active f hf }
      developDistinct := by rw [hd]; exact h.developDistinct
      developQueued := fun e he => by rw [hd] at he; rw [hduty]; exact h.developQueued e he
      job := fun j hj => by rw [hd] at hj ⊢; rw [hduty, hheld]; exact h.job j hj
      memo := fun m hm' => by rw [hm] at hm' ⊢; rw [hheld]; exact h.memo m hm'
      memoIdle := by rw [hm]; exact h.memoIdle }

theorem modSlot_dutyOf (sl : Slot) (f : CardSlot → CardSlot) (s : State) (n : Nat) (k : DutyKey) :
    (modSlot sl f s).dutyOf n k = s.dutyOf n k := by cases sl <;> rfl

/-- A slot's queue shortened. -/
theorem modSlot_fewer {sl : Slot} {f : CardSlot → CardSlot} (hq : ∀ c, (f c).queue.Sublist c.queue)
    (hf : ∀ c, (f c).file = none ∨ (f c).file.map CardFile.job = c.file.map CardFile.job) (h : CoreOk s) :
    CoreOk (modSlot sl f s) := by
  refine modSlot_core h ⟨?_, ?_, ?_⟩
  · rw [modSlot_slot]; exact (h.slots sl).distinct.sublist (hq _)
  · intro j hj
    rw [modSlot_slot] at hj
    rw [modSlot_dutyOf]
    exact (h.slots sl).queued j ((hq _).subset hj)
  · intro x hx
    rw [modSlot_slot] at hx
    rw [modSlot_dutyOf]
    rcases hf (s.slot sl) with c | c
    · rw [c] at hx; cases hx
    · rw [hx] at c
      obtain ⟨g, hg, e⟩ := Option.map_eq_some_iff.1 c.symm
      have := (h.slots sl).active g hg
      simp only [CardFile.job, FileJob.mk.injEq] at e
      rwa [e.1, e.2] at this

theorem raiseCard_core {sl : Slot} {reason : String} {extra : List Wire} (h : CoreOk s) : CoreOk (raiseCard sl reason extra s) :=
  raise_core h

theorem lowTest_core {sl : Slot} (h : CoreOk s) : CoreOk (lowTest sl s) := by
  unfold lowTest
  dsimp only
  split
  · exact raise_core (h.upd (modSlot_same (fun _ => rfl) (fun _ => rfl)))
  · exact h

theorem holdFull_core {sl : Slot} (h : CoreOk s) : CoreOk (holdFull sl s) :=
  raiseCard_core (h.upd (modSlot_same (fun _ => rfl) (fun _ => rfl)))

theorem starve_core {sl : Slot} (h : CoreOk s) : CoreOk (starve sl s) :=
  raiseCard_core (h.upd (modSlot_same (fun _ => rfl) (fun _ => rfl)))

theorem addRecord_same (sl : Slot) (r : FileRecord) (s : State) : SameCore s (addRecord sl r s) := by
  have h1 : SameCore s (modSlot sl (fun x => { x with returns := x.returns ++ [r] }) s) :=
    modSlot_same (fun _ => rfl) (fun _ => rfl)
  unfold addRecord
  dsimp only
  split
  · have h2 : ∀ u : State, SameCore u (modSlot sl (fun x => { x with state := .ready, hold := .returnFull }) u) :=
      fun u => modSlot_same (fun _ => rfl) (fun _ => rfl)
    unfold holdFull raiseCard
    cases sl <;> exact {}
  · cases sl <;> exact {}

theorem addRecord_core {sl : Slot} {r : FileRecord} (h : CoreOk s) : CoreOk (addRecord sl r s) := h.upd (addRecord_same sl r s)

theorem slotRest_core {sl : Slot} (h : CoreOk s) : CoreOk (slotRest sl s) := by
  unfold slotRest
  dsimp only
  repeat' first
    | exact h
    | exact starve_core h
    | exact holdFull_core h
    | exact raiseCard_core (h.upd (modSlot_same (fun _ => rfl) (fun _ => rfl)))
    | exact h.upd (modSlot_same (fun _ => rfl) (fun _ => rfl))
    | split

/-! ## Abandonment -/

theorem setDuty_modSlot (sl : Slot) (f : CardSlot → CardSlot) (n : Nat) (k : DutyKey) (g : Duty → Duty) (s : State) :
    setDuty n k g (modSlot sl f s) = modSlot sl f (setDuty n k g s) := by cases sl <;> rfl

/-- The state in which an abandoned file is no longer the slot's: the laws hold, its duty is ACTIVE, and nothing is linked to
it. -/
theorem noFile_core {sl : Slot} {f : CardFile} {g : CardSlot → CardSlot} (h : CoreOk s) (hf : (s.slot sl).file = some f)
    (hg : ∀ c, (g c).queue = c.queue ∧ (g c).file = none) :
    CoreOk (modSlot sl g s) ∧ (modSlot sl g s).dutyOf f.shot (.card f.kind sl) = some .active
      ∧ ¬ (modSlot sl g s).Linked f.shot (.card f.kind sl) := by
  have ha := (h.slots sl).active f hf
  refine ⟨modSlot_fewer (fun c => by rw [(hg c).1]) (fun c => .inl (hg c).2) h, by rw [modSlot_dutyOf]; exact ha, ?_⟩
  rintro (hl | hl)
  · rw [modSlot_slot, (hg _).1] at hl
    have := (h.slots sl).queued _ hl
    rw [ha] at this
    cases this
  · rw [modSlot_slot, (hg _).2] at hl
    cases hl

theorem SameCore.dutyOf (e : SameCore s t) (n : Nat) (k : DutyKey) : t.dutyOf n k = s.dutyOf n k := by
  simp [State.dutyOf, State.held, e.table]

theorem SameLinks.linked (e : SameLinks s t) {n : Nat} {k : DutyKey} (h : t.Linked n k) : s.Linked n k := by
  cases k with
  | card k sl =>
    simp only [State.Linked] at h ⊢
    rwa [e.slotQueue, e.slotFile] at h
  | develop =>
    simp only [State.Linked] at h ⊢
    rwa [e.queue, e.job] at h
  | send k => exact h

/-- A job put at the head of its slot's queue, its duty PENDING again. -/
theorem requeue_core {sl : Slot} {n : Nat} {k : FileKind} (h : CoreOk s) (ha : s.dutyOf n (.card k sl) = some .active)
    (hl : ¬ s.Linked n (.card k sl)) :
    CoreOk (setDuty n (.card k sl) (Duty.into .pending)
      (modSlot sl (fun x => { x with queue := ⟨n, k⟩ :: x.queue }) s)) := by
  rw [setDuty_modSlot]
  have h1 : CoreOk (setDuty n (.card k sl) (Duty.into .pending) s) := setDuty_core (into_key _) h hl (fun e => by cases e)
  have hd : (setDuty n (.card k sl) (Duty.into .pending) s).dutyOf n (.card k sl) = some .pending := dutyOf_into ha
  have hslot : (setDuty n (.card k sl) (Duty.into .pending) s).slot sl = s.slot sl := by cases sl <;> rfl
  refine modSlot_core h1 ⟨?_, ?_, ?_⟩
  · rw [modSlot_slot, hslot]
    exact List.nodup_cons.2 ⟨fun c => hl (.inl c), (h.slots sl).distinct⟩
  · intro j hj
    rw [modSlot_slot] at hj
    rw [modSlot_dutyOf]
    rcases List.mem_cons.1 hj with rfl | hj
    · exact hd
    · exact (h1.slots sl).queued j hj
  · intro f hf
    rw [modSlot_slot] at hf
    rw [modSlot_dutyOf]
    exact (h1.slots sl).active f hf

theorem abandon_core {sl : Slot} {c : Cause} (h : CoreOk s) : CoreOk (abandon sl c s) := by
  unfold abandon
  split
  · exact h
  · rename_i f hf
    dsimp only
    obtain ⟨h1, ha1, hl1⟩ := noFile_core (g := fun x => { x with
      file := none
      abandoned := if c.fails then x.abandoned else sat32 x.abandoned
      failed := if c.fails then sat32 x.failed else x.failed }) h hf (fun _ => ⟨rfl, rfl⟩)
    generalize modSlot sl _ s = s1 at h1 ha1 hl1
    have main : ∀ u, SameCore s1 u → CoreOk (abandonDuty sl c f u) := by
      intro u e
      have hu := h1.upd e
      have hau : u.dutyOf f.shot (.card f.kind sl) = some .active := by rw [e.dutyOf]; exact ha1
      have hlu : ¬ u.Linked f.shot (.card f.kind sl) := fun hl => hl1 (e.toSameLinks.linked hl)
      unfold abandonDuty
      dsimp only
      have back : CoreOk (shotTests f.shot (dropPin f.shot (slotReader sl) (setDuty f.shot (.card f.kind sl) (Duty.into .pending)
          (modSlot sl (fun x => { x with queue := ⟨f.shot, f.kind⟩ :: x.queue }) u)))) :=
        shotTests_core (dropPin_core (requeue_core hu hau hlu))
      cases c with
      | deleted =>
        exact shotTests_core (dropPin_core (setDuty_core (into_key _) hu hlu (fun e => by cases e)))
      | fragmented => exact shotTests_core (dropPin_core (failDuty_core (by simp) hu hlu))
      | fault => exact shotTests_core (dropPin_core (failDuty_core (by simp) hu hlu))
      | removed => exact back
      | overflow => exact back
      | sleep => exact back
      | replaced => exact back
    split
    · exact main s1 {}
    · exact main _ (addRecord_same ..)

/-! ## The overflow move -/

/-- The HELD shots after a duty's target is changed. -/
theorem retarget_held (j : FileJob) (s : State) (m : Nat) : (retarget j s).held m
    = if m = j.shot then (s.held j.shot).map (Shot.setDuty (.card j.kind .a) (fun d => { d with key := .card j.kind .b }))
      else s.held m :=
  find_updateHeld (fun x hx => isHeld_iff.2 (isHeld_iff.1 (find_mem hx).2))

/-- The duties of a record whose duty for slot A becomes one for slot B, with none for B there. -/
theorem duty_retarget {x : Shot} {k : FileKind} (hb : x.duty (.card k .b) = none) (j : DutyKey) :
    (x.setDuty (.card k .a) (fun d => { d with key := .card k .b })).dutyState j
      = if j = .card k .b then x.dutyState (.card k .a) else if j = .card k .a then none else x.dutyState j := by
  have hb' : ∀ d ∈ x.duties, d.key ≠ .card k .b := by
    intro d hd e
    have := List.find?_eq_none.1 hb d hd
    simp [e] at this
  unfold Shot.dutyState Shot.duty Shot.setDuty
  dsimp only
  clear hb
  generalize x.duties = l at hb'
  induction l with
  | nil => simp
  | cons d l ih =>
    have ihl := ih (fun y hy => hb' y (List.mem_cons_of_mem _ hy))
    have hd := hb' d (List.mem_cons_self ..)
    by_cases c : d.key = .card k .a
    · by_cases e1 : j = .card k .b
      · subst e1; simp [c]
      · by_cases e2 : j = .card k .a
        · subst e2
          have : (DutyKey.card k .b == DutyKey.card k .a) = false := by simp
          simp only [if_neg e1, if_true] at ihl ⊢
          simp only [List.map_cons, c, beq_self_eq_true, if_true, List.find?_cons, this]
          exact ihl
        · have e1' : (DutyKey.card k .b == j) = false := by simpa using fun e => e1 e.symm
          have e2' : (DutyKey.card k .a == j) = false := by simpa using fun e => e2 e.symm
          simp only [List.map_cons, c, beq_self_eq_true, if_true, List.find?_cons, e1', e2', if_neg e1, if_neg e2] at ihl ⊢
          exact ihl
    · have c' : (d.key == DutyKey.card k .a) = false := by simpa using c
      simp only [List.map_cons, c', Bool.false_eq_true, if_false, List.find?_cons]
      by_cases e1 : j = .card k .b
      · subst e1
        have : (d.key == DutyKey.card k .b) = false := by simpa using hd
        simp only [this, if_true] at ihl ⊢
        exact ihl
      · by_cases e2 : j = .card k .a
        · subst e2
          simp only [c', if_neg e1, if_true] at ihl ⊢
          simpa using ihl
        · simp only [if_neg e1, if_neg e2] at ihl ⊢
          cases d.key == j
          · exact ihl
          · rfl

/-- A shot that may move holds the kind for no slot B. -/
theorem mayMove_spec {j : FileJob} (h : s.mayMove j = true) : ∃ x, s.held j.shot = some x ∧ x.duty (.card j.kind .b) = none := by
  unfold State.mayMove at h
  split at h
  · rename_i x hx
    exact ⟨x, hx, by simpa using h⟩
  · cases h

/-- The duty states after a duty's target is changed. -/
theorem dutyOf_retarget {j : FileJob} (h : s.mayMove j = true) (m : Nat) (k : DutyKey) : (retarget j s).dutyOf m k
    = if m = j.shot ∧ k = .card j.kind .b then s.dutyOf j.shot (.card j.kind .a)
      else if m = j.shot ∧ k = .card j.kind .a then none else s.dutyOf m k := by
  obtain ⟨x, hx, hb⟩ := mayMove_spec h
  simp only [State.dutyOf, retarget_held]
  by_cases e : m = j.shot
  · subst e
    simp only [if_true, hx, Option.map_some, Option.bind_some, duty_retarget hb, true_and]
  · simp [e]

theorem retarget_core {j : FileJob} (h : CoreOk s) (hm : s.mayMove j = true) (hl : ¬ s.Linked j.shot (.card j.kind .a)) :
    CoreOk (retarget j s) := by
  obtain ⟨x, hx, hb⟩ := mayMove_spec hm
  refine h.table {} ?_ ?_ ?_ ?_ ?_
  · have : (retarget j s).ss.table.flatMap Shot.blocks = s.ss.table.flatMap Shot.blocks :=
      flatMap_updateFirst (fun x _ => rfl)
    rw [this]
    exact .refl _
  · refine forall_updateFirst h.entries (fun y hy => ?_)
    have hy1 : s.held j.shot = some y := hy
    rw [hx] at hy1
    cases hy1
    have hs := (held_mem hx).2.1
    have hx' := h.entry hx
    exact
      { free := fun e => by simp only [Shot.setDuty] at e; rw [hs] at e; cases e
        early := fun e => by simp only [Shot.setDuty] at e; rw [hs] at e; rcases e with e | e <;> cases e
        numbered := fun _ => hx'.numbered (.inr hs)
        duties := by
          have hd := hx'.duties
          have hb' : ∀ d ∈ x.duties, d.key ≠ .card j.kind .b := by
            intro d hd e
            have := List.find?_eq_none.1 hb d hd
            simp [e] at this
          simp only [Shot.setDuty, List.map_map]
          have hn := hd.of_map
          rw [List.nodup_map_iff_inj_on hn] at hd ⊢
          intro d1 h1 d2 h2 e
          apply hd d1 h1 d2 h2
          simp only [Function.comp_apply] at e
          have b1 := hb' d1 h1
          have b2 := hb' d2 h2
          by_cases c1 : d1.key = .card j.kind .a <;> by_cases c2 : d2.key = .card j.kind .a <;> simp_all
        pins := hx'.pins
        proof := fun e => by
          have e' : x.proof.isSome = true := e
          have := hx'.proof e'
          rw [duty_retarget hb]
          simpa using this }
  · intro m k hlk
    rw [dutyOf_retarget hm]
    by_cases e1 : m = j.shot ∧ k = .card j.kind .b
    · obtain ⟨rfl, rfl⟩ := e1
      have := h.owed hlk
      rw [dutyOf_eq hx] at this
      simp [Shot.dutyState, hb] at this
    · rw [if_neg e1]
      by_cases e2 : m = j.shot ∧ k = .card j.kind .a
      · obtain ⟨rfl, rfl⟩ := e2
        exact absurd hlk hl
      · rw [if_neg e2]
  · intro m _ hh
    rw [retarget_held]
    split <;> simp_all
  · intro m _ _ hh
    rw [retarget_held]
    split
    · rename_i e
      subst e
      rw [hx] at hh ⊢
      simpa [Shot.setDuty] using hh
    · exact hh

theorem retarget_slot (j : FileJob) (s : State) (sl : Slot) : (retarget j s).slot sl = s.slot sl := by cases sl <;> rfl

/-- A job appended to a slot's queue, its duty PENDING and not in the queue yet. -/
theorem append_core {sl : Slot} {j : FileJob} (h : CoreOk s) (hd : s.dutyOf j.shot (.card j.kind sl) = some .pending)
    (hn : j ∉ (s.slot sl).queue) : CoreOk (modSlot sl (fun x => { x with queue := x.queue ++ [j] }) s) := by
  refine modSlot_core h ⟨?_, ?_, ?_⟩
  · rw [modSlot_slot]
    exact List.Nodup.append (h.slots sl).distinct (by simp) (by simpa using hn)
  · intro i hi
    rw [modSlot_slot] at hi
    rw [modSlot_dutyOf]
    rcases List.mem_append.1 hi with hi | hi
    · exact (h.slots sl).queued i hi
    · rw [List.mem_singleton] at hi
      subst hi
      exact hd
  · intro f hf
    rw [modSlot_slot] at hf
    rw [modSlot_dutyOf]
    exact (h.slots sl).active f hf

theorem retarget_modSlot (sl : Slot) (f : CardSlot → CardSlot) (j : FileJob) (s : State) :
    modSlot sl f (retarget j s) = retarget j (modSlot sl f s) := by cases sl <;> rfl

theorem moveJob_core {j : FileJob} (h : CoreOk s) (hj : j ∈ s.cw.a.queue) (hf : s.cw.a.file = none) : CoreOk (moveJob s j) := by
  unfold moveJob
  split
  · rename_i hm
    have hp : s.dutyOf j.shot (.card j.kind .a) = some .pending := (h.slots .a).queued j hj
    rw [retarget_modSlot]
    set u := modSlot .a (fun x => { x with queue := x.queue.filter (· != j) }) s with hu
    have h1 : CoreOk u := modSlot_fewer (fun c => List.filter_sublist) (fun c => .inr rfl) h
    have hm1 : u.mayMove j = true := hm
    have hl1 : ¬ u.Linked j.shot (.card j.kind .a) := by
      rintro (c | c)
      · simp [hu] at c
      · have : (u.slot .a).file = none := hf
        rw [this] at c
        cases c
    have h2 := retarget_core h1 hm1 hl1
    refine append_core h2 ?_ ?_
    · rw [dutyOf_retarget hm1, if_pos ⟨rfl, rfl⟩]
      exact hp
    · intro c
      rw [retarget_slot] at c
      have := (h1.slots .b).queued _ c
      obtain ⟨x, hx, hb⟩ := mayMove_spec hm1
      rw [dutyOf_eq hx] at this
      simp [Shot.dutyState, hb] at this
  · exact h

theorem moveJob_card (j : FileJob) (s : State) : (moveJob s j).cw.a.file = s.cw.a.file
    ∧ (s.mayMove j = true → (moveJob s j).cw.a.queue = s.cw.a.queue.filter (· != j))
    ∧ (s.mayMove j = false → moveJob s j = s) := by
  refine ⟨?_, fun h => ?_, fun h => ?_⟩ <;> unfold moveJob
  · split <;> rfl
  · rw [if_pos h]; rfl
  · rw [if_neg (by simp [h])]

theorem moveJobs_core : ∀ (l : List FileJob) {s : State}, CoreOk s → l.Nodup → (∀ j ∈ l, j ∈ s.cw.a.queue) → s.cw.a.file = none →
    CoreOk (l.foldl moveJob s) ∧ (l.foldl moveJob s).cw.a.file = none
  | [], _, h, _, _, hf => ⟨h, hf⟩
  | j :: l, s, h, hn, hq, hf => by
    have hn' := List.nodup_cons.1 hn
    have c := moveJob_card j s
    refine moveJobs_core l (moveJob_core h (hq j (List.mem_cons_self ..)) hf) hn'.2 ?_ (c.1.trans hf)
    intro i hi
    have hi' := hq i (List.mem_cons_of_mem _ hi)
    cases hm : s.mayMove j with
    | false => rw [c.2.2 hm]; exact hi'
    | true =>
      rw [c.2.1 hm]
      refine List.mem_filter.2 ⟨hi', ?_⟩
      have : i ≠ j := fun e => hn'.1 (e ▸ hi)
      simpa using this

theorem moveWaiting_core {j : FileJob} (h : CoreOk s) (hj : j ∉ s.cw.a.queue) (hf : s.cw.a.file = none) :
    CoreOk (moveWaiting s j) ∧ (moveWaiting s j).cw = s.cw := by
  unfold moveWaiting
  split
  · rename_i hm
    refine ⟨retarget_core h hm ?_, rfl⟩
    rintro (c | c)
    · exact hj c
    · have : (s.slot .a).file = none := hf
      rw [this] at c
      cases c
  · exact ⟨h, rfl⟩

theorem moveWaitings_core : ∀ (l : List FileJob) {s : State}, CoreOk s → (∀ j ∈ l, j ∉ s.cw.a.queue) → s.cw.a.file = none →
    CoreOk (l.foldl moveWaiting s)
  | [], _, h, _, _ => h
  | j :: l, s, h, hq, hf => by
    obtain ⟨h1, c⟩ := moveWaiting_core h (hq j (List.mem_cons_self ..)) hf
    exact moveWaitings_core l h1 (fun i hi => by rw [c]; exact hq i (List.mem_cons_of_mem _ hi)) (by rw [c]; exact hf)

theorem shotTests_cw (n : Nat) (s : State) : (shotTests n s).cw = s.cw := by
  have h1 : ∀ (l : List Nat) (u : State), (giveBlocks l u).cw = u.cw := fun l u => by
    obtain ⟨c, hc⟩ := giveBlocks_spec l u
    rw [hc]
  have h2 : ∀ u : State, (dropProof n u).cw = u.cw := fun u => by
    unfold dropProof
    split
    · rw [h1]; rfl
    · rfl
  have h3 : ∀ u : State, (proofTest n u).cw = u.cw := fun u => by
    unfold proofTest
    split
    · split
      · exact h2 u
      · rfl
    · rfl
  have h4 : ∀ u : State, (abortArmed n u).cw = u.cw := fun u => by
    unfold abortArmed
    split
    · split <;> rfl
    · rfl
  unfold shotTests freeTest
  split
  · split
    · rw [h4, h1]; exact h3 s
    · exact h3 s
  · exact h3 s

theorem failDuty_cw (n : Nat) (k : DutyKey) (s : State) : (failDuty n k s).cw = s.cw := by
  unfold failDuty
  split
  · rfl
  · dsimp only
    split
    · rw [shotTests_cw]; rfl
    · rw [shotTests_cw]; rfl

theorem addRecord_file (sl : Slot) (r : FileRecord) (s : State) (sl' : Slot) :
    ((addRecord sl r s).slot sl').file = (s.slot sl').file := by
  unfold addRecord holdFull raiseCard
  dsimp only
  split <;> cases sl <;> cases sl' <;> rfl

/-- After an abandonment the slot has no file. -/
theorem abandon_file (sl : Slot) (c : Cause) (s : State) : ((abandon sl c s).slot sl).file = none := by
  have hcw : ∀ (u v : State), u.cw = v.cw → (u.slot sl).file = (v.slot sl).file := fun u v e => by
    cases sl <;> simp [State.slot, e]
  unfold abandon
  split
  · assumption
  · rename_i f hf
    dsimp only
    have key : ∀ u : State, (u.slot sl).file = none → ((abandonDuty sl c f u).slot sl).file = none := by
      intro u hu
      unfold abandonDuty
      dsimp only
      have back : ((shotTests f.shot (dropPin f.shot (slotReader sl) (setDuty f.shot (.card f.kind sl) (Duty.into .pending)
          (modSlot sl (fun x => { x with queue := ⟨f.shot, f.kind⟩ :: x.queue }) u)))).slot sl).file = none := by
        rw [hcw _ _ (shotTests_cw ..)]
        have : ((modSlot sl (fun x => { x with queue := ⟨f.shot, f.kind⟩ :: x.queue }) u).slot sl).file = none := by
          rw [modSlot_slot]; exact hu
        exact (hcw _ _ rfl).trans this
      cases c with
      | deleted => rw [hcw _ _ (shotTests_cw ..)]; exact (hcw _ _ rfl).trans hu
      | fragmented =>
        rw [hcw _ _ (shotTests_cw ..)]
        exact (hcw _ (failDuty f.shot (.card f.kind sl) u) rfl).trans ((hcw _ _ (failDuty_cw ..)).trans hu)
      | fault =>
        rw [hcw _ _ (shotTests_cw ..)]
        exact (hcw _ (failDuty f.shot (.card f.kind sl) u) rfl).trans ((hcw _ _ (failDuty_cw ..)).trans hu)
      | removed => exact back
      | overflow => exact back
      | sleep => exact back
      | replaced => exact back
    apply key
    split
    · rw [modSlot_slot]
    · rw [addRecord_file, modSlot_slot]

theorem overflowMove_core (h : CoreOk s) : CoreOk (overflowMove s) := by
  unfold overflowMove
  dsimp only
  have h1 := abandon_core (sl := .a) (c := .overflow) h
  have hf := abandon_file .a .overflow s
  obtain ⟨h2, hf2⟩ := moveJobs_core (abandon .a .overflow s).cw.a.queue h1 (h1.slots .a).distinct (fun _ hj => hj) hf
  generalize List.foldl moveJob _ _ = s2 at h2 hf2
  have h3 : CoreOk (s2.waitingProofs.foldl moveWaiting s2) := by
    refine moveWaitings_core _ h2 (fun j hj => ?_) hf2
    have := (List.mem_filter.1 hj).2
    simpa using this
  exact slotRest_core (raiseCard_core ((h3.upd (modSlot_same (sl := .a)
    (f := fun x => { x with state := if x.queue = [] then .ready else .starved }) (fun _ => rfl) (fun _ => rfl))).upd {}))

theorem overflowTest_core (h : CoreOk s) : CoreOk (overflowTest s) := by
  unfold overflowTest
  split
  · exact overflowMove_core h
  · exact h

theorem slotSettle_core {sl : Slot} (h : CoreOk s) : CoreOk (slotSettle sl s) := overflowTest_core (slotRest_core h)

/-! ## The queue and the files -/

theorem handCard_core {n : Nat} {k : FileKind} {sl : Slot} (h : CoreOk s) : CoreOk (handCard n k sl s) := by
  unfold handCard
  dsimp only
  split
  · exact h
  · rename_i c
    simp only [not_or, not_not] at c
    obtain ⟨hp, hn⟩ := c
    split
    · rename_i hm
      simp only [Bool.and_eq_true, beq_iff_eq] at hm
      obtain ⟨⟨rfl, -⟩, hm⟩ := hm
      have hl : ¬ s.Linked n (.card k .a) := by
        rintro (c | c)
        · exact hn c
        · obtain ⟨f, hf, e⟩ := Option.map_eq_some_iff.1 c
          have := (h.slots .a).active f hf
          simp only [CardFile.job, FileJob.mk.injEq] at e
          rw [e.1, e.2, hp] at this
          cases this
      have h2 : CoreOk (retarget ⟨n, k⟩ s) := retarget_core h hm hl
      refine slotSettle_core (append_core h2 ?_ ?_)
      · rw [dutyOf_retarget hm, if_pos ⟨rfl, rfl⟩]; exact hp
      · intro c
        rw [retarget_slot] at c
        have := (h.slots .b).queued _ c
        obtain ⟨x, hx, hb⟩ := mayMove_spec hm
        rw [dutyOf_eq hx] at this
        simp [Shot.dutyState, hb] at this
    · exact slotSettle_core (append_core h hp hn)

theorem startFile_core {sl : Slot} (h : CoreOk s) (hnf : (s.slot sl).file = none) : CoreOk (startFile sl s) := by
  unfold startFile
  split
  · exact h
  · rename_i j rest hq
    have hp : s.dutyOf j.shot (.card j.kind sl) = some .pending := (h.slots sl).queued j (by rw [hq]; exact List.mem_cons_self ..)
    have hnd : (j :: rest).Nodup := hq ▸ (h.slots sl).distinct
    split
    · rename_i hx
      obtain ⟨x, hx', -⟩ := held_of_dutyOf hp
      rw [hx] at hx'
      cases hx'
    · rename_i x hx
      dsimp only
      -- first the job leaves the queue, then its duty is ACTIVE, then the file is there
      set u := modSlot sl (fun c => { c with queue := rest }) s with hu
      have h1 : CoreOk u := by
        refine modSlot_core h ⟨?_, ?_, ?_⟩
        · rw [modSlot_slot]; exact (List.nodup_cons.1 hnd).2
        · intro i hi
          rw [modSlot_slot] at hi
          rw [modSlot_dutyOf]
          exact (h.slots sl).queued i (by rw [hq]; exact List.mem_cons_of_mem _ hi)
        · intro f hf
          rw [modSlot_slot] at hf
          rw [modSlot_dutyOf]
          exact (h.slots sl).active f hf
      have hl : ¬ u.Linked j.shot (.card j.kind sl) := by
        rintro (c | c)
        · rw [hu, modSlot_slot] at c
          exact (List.nodup_cons.1 hnd).1 c
        · rw [hu, modSlot_slot] at c
          simp [hnf] at c
      have h2 : CoreOk (setDuty j.shot (.card j.kind sl) (Duty.into .active) u) :=
        setDuty_core (into_key _) h1 hl (fun e => by cases e)
      have hd : (setDuty j.shot (.card j.kind sl) (Duty.into .active) u).dutyOf j.shot (.card j.kind sl) = some .active :=
        dutyOf_into (by rw [hu, modSlot_dutyOf]; exact hp)
      generalize hfile : ({ shot := j.shot, kind := j.kind, header := fileHeader j.kind (x.payload j.kind) x
                            payload := x.payload j.kind, sectors := 1 + ceilDiv (x.payload j.kind) Config.sectorBytes } : CardFile) = f
      have hjob : f.shot = j.shot ∧ f.kind = j.kind := by subst hfile; exact ⟨rfl, rfl⟩
      have e : setDuty j.shot (.card j.kind sl) (Duty.into .active)
          (modSlot sl (fun x => { x with queue := rest, file := some f, state := .writing }) s)
          = modSlot sl (fun x => { x with file := some f, state := .writing })
              (setDuty j.shot (.card j.kind sl) (Duty.into .active) u) := by
        cases sl <;> rfl
      rw [e]
      refine modSlot_core h2 ⟨?_, ?_, ?_⟩
      · rw [modSlot_slot]; exact (h2.slots sl).distinct
      · intro i hi
        rw [modSlot_slot] at hi
        rw [modSlot_dutyOf]
        exact (h2.slots sl).queued i hi
      · intro g hg
        rw [modSlot_slot] at hg
        have : f = g := by simpa using hg
        subst this
        rw [modSlot_dutyOf, hjob.1, hjob.2]
        exact hd

theorem cardRead_core {sl : Slot} (h : CoreOk s) : CoreOk (cardRead sl s) := by
  unfold cardRead
  split
  · exact h
  · rename_i f hf
    dsimp only
    refine addPin_core (modSlot_core h ⟨?_, ?_, ?_⟩)
    · rw [modSlot_slot]; exact (h.slots sl).distinct
    · intro j hj
      rw [modSlot_slot] at hj
      rw [modSlot_dutyOf]
      exact (h.slots sl).queued j hj
    · intro g hg
      rw [modSlot_slot] at hg
      rw [modSlot_dutyOf]
      have : some _ = some g := hg
      have := Option.some.inj this
      rw [← this]
      exact (h.slots sl).active f hf

/-- The active file's progress changed. -/
theorem file_core {sl : Slot} {f : CardFile} {u : CardSlot → CardSlot} (h : CoreOk s) (hf : (s.slot sl).file = some f)
    (hq : (u (s.slot sl)).queue = (s.slot sl).queue) (hu : (u (s.slot sl)).file.map CardFile.job = some f.job) :
    CoreOk (modSlot sl u s) := by
  refine modSlot_core h ⟨?_, ?_, ?_⟩
  · rw [modSlot_slot, hq]; exact (h.slots sl).distinct
  · intro j hj
    rw [modSlot_slot, hq] at hj
    rw [modSlot_dutyOf]
    exact (h.slots sl).queued j hj
  · intro x hx
    rw [modSlot_slot] at hx
    rw [hx] at hu
    have hg := Option.some.inj hu
    simp only [CardFile.job, FileJob.mk.injEq] at hg
    rw [modSlot_dutyOf, hg.1, hg.2]
    exact (h.slots sl).active f hf

theorem starveActive_core {sl : Slot} (h : CoreOk s) : CoreOk (starveActive sl s) := by
  unfold starveActive
  repeat' first
    | exact h
    | exact slotSettle_core (abandon_core h)
    | exact slotSettle_core (abandon_core (starve_core h))
    | exact overflowTest_core (starve_core h)
    | split

theorem issueFresh_core {sl : Slot} {f : CardFile} {r : Run} {rest : List Run} (h : CoreOk s)
    (hf : (s.slot sl).file = some f) : CoreOk (issueFresh sl f r rest s) := by
  unfold issueFresh
  dsimp only
  generalize f.sectorData _ _ _ _ = data
  have h1 := file_core (sl := sl) (u := fun x => { x with
      extents := if f.nextCount r = r.count then rest else ⟨r.start + f.nextCount r, r.count - f.nextCount r⟩ :: rest
      serial := x.serial + 1
      file := some { f with
        issued := f.issued + f.nextCount r, fragments := growFragments f.sameRun r.start (f.nextCount r) f.fragments
        sameRun := f.nextCount r != r.count
        flight := some ⟨r.start, f.nextCount r, data, false, s.time + x.writeMs * 1000, x.serial⟩ } }) h hf rfl rfl
  have h2 := lowTest_core (sl := sl) h1
  generalize lowTest sl _ = s2 at h2 ⊢
  split
  · exact starveActive_core h2
  · exact h2

theorem issueAgain_core {sl : Slot} {f : CardFile} {w : CardWrite} (h : CoreOk s) (hf : (s.slot sl).file = some f) :
    CoreOk (issueAgain sl f w s) := by
  unfold issueAgain
  dsimp only
  generalize f.sectorData _ _ _ _ = data
  exact file_core h hf rfl rfl

theorem issueWrite_core {sl : Slot} (h : CoreOk s) : CoreOk (issueWrite sl s) := by
  unfold issueWrite
  dsimp only
  split
  · exact slotSettle_core (abandon_core h)
  · split
    · exact h
    · split
      · rename_i f hf
        split
        · exact issueAgain_core h hf
        · exact issueFresh_core h hf
        · exact h
      · exact h

theorem reopenStale_core {n : Nat} {sl : Slot} {stale : Bool} (h : CoreOk s)
    (hl : ¬ s.Linked n (.card .caption sl)) : CoreOk (reopenStale n sl stale s) := by
  unfold reopenStale
  split
  · exact handCard_core (setDuty_core (into_key _) h hl (fun e => by cases e))
  · exact h

theorem completeFile_core {sl : Slot} {f : CardFile} (h : CoreOk s) (hf : (s.slot sl).file.map CardFile.job = some f.job) :
    CoreOk (completeFile sl f s) := by
  obtain ⟨f0, hf0, ej⟩ := Option.map_eq_some_iff.1 hf
  simp only [CardFile.job, FileJob.mk.injEq] at ej
  unfold completeFile
  dsimp only
  obtain ⟨h1, -, hl1⟩ := noFile_core (g := fun x => { x with file := none }) h hf0 (fun _ => ⟨rfl, rfl⟩)
  rw [ej.1, ej.2] at hl1
  generalize modSlot sl (fun x => { x with file := none }) s = s1 at h1 hl1
  have e := addRecord_same sl ⟨f.shot, f.kind, none, Config.sectorBytes + f.payload, f.sectors, f.fragments⟩ s1
  have h2 := h1.upd e
  have hl2 := fun hl => hl1 (e.toSameLinks.linked hl)
  generalize addRecord sl _ s1 = s2 at h2 hl2
  have h3 : CoreOk (setDuty f.shot (.card f.kind sl) (Duty.into .done) s2) :=
    setDuty_core (into_key _) h2 hl2 (fun e => by cases e)
  have h4 := dropPin_core (n := f.shot) (r := slotReader sl) h3
  have e4 : SameLinks s2 (dropPin f.shot (slotReader sl) (setDuty f.shot (.card f.kind sl) (Duty.into .done) s2)) := {}
  generalize dropPin f.shot (slotReader sl) (setDuty f.shot (.card f.kind sl) (Duty.into .done) s2) = s4 at h4 e4
  have e5 : SameCore s4 (modSlot sl (fun x => { x with written := sat32 x.written }) s4) :=
    modSlot_same (fun _ => rfl) (fun _ => rfl)
  have h5 := h4.upd e5
  by_cases hc : f.kind = .caption
  · refine slotSettle_core (shotTests_core (reopenStale_core h5 ?_))
    intro hl
    have := e4.linked (e5.toSameLinks.linked hl)
    rw [hc] at hl2
    exact hl2 this
  · have : (f.kind == FileKind.caption) = false := by simpa using hc
    simp only [this, Bool.false_and, reopenStale]
    exact slotSettle_core (shotTests_core h5)

theorem writeDone_core {sl : Slot} {f : CardFile} {w : CardWrite} (h : CoreOk s) (hf : (s.slot sl).file = some f) :
    CoreOk (writeDone sl f w s) := by
  unfold writeDone
  dsimp only
  have h1 : CoreOk (modSlot sl (fun x => { x with
      file := some { f with flight := none, written := f.written + w.count }, sectors := sat64 x.sectors w.count
      recovered := if w.retry then sat32 x.recovered else x.recovered }) s) :=
    file_core h hf rfl rfl
  split
  · exact completeFile_core h1 (by rw [modSlot_slot]; rfl)
  · exact h1

/-! ## Faults and the line -/

/-- Duties of a slot with no queue and no file, failed one after another. -/
theorem failAll_core {sl : Slot} : ∀ (l : List (Nat × DutyKey)) {s : State}, (∀ p ∈ l, ∃ k, p.2 = .card k sl) → CoreOk s →
    (s.slot sl).queue = [] → (s.slot sl).file = none → CoreOk (l.foldl (fun t p => failDuty p.1 p.2 t) s)
  | [], _, _, h, _, _ => h
  | p :: l, s, hl, h, hq, hf => by
    obtain ⟨k, hk⟩ := hl p (List.mem_cons_self ..)
    have hcw := failDuty_cw p.1 p.2 s
    have hslot : (failDuty p.1 p.2 s).slot sl = s.slot sl := by cases sl <;> simp [State.slot, hcw]
    refine failAll_core l (fun q hq => hl q (List.mem_cons_of_mem _ hq)) (failDuty_core (by rw [hk]; simp) h ?_)
      (by rw [hslot]; exact hq) (by rw [hslot]; exact hf)
    rw [hk]
    rintro (c | c)
    · rw [hq] at c; cases c
    · rw [hf] at c; cases c

theorem pendingOn_card {sl : Slot} {p : Nat × DutyKey} (h : p ∈ s.pendingOn sl) : ∃ k, p.2 = .card k sl := by
  simp only [State.pendingOn, List.mem_flatMap, List.mem_map, List.mem_filter, Bool.and_eq_true] at h
  obtain ⟨x, -, d, ⟨-, -, hk⟩, rfl⟩ := h
  revert hk
  cases d.key with
  | card k x => intro hk; exact ⟨k, by simpa using hk⟩
  | send k => intro hk; simp at hk
  | develop => intro hk; simp at hk

theorem faultSlot_core {sl : Slot} (h : CoreOk s) : CoreOk (faultSlot sl s) := by
  unfold faultSlot
  dsimp only
  have h1 : CoreOk (abandon sl .fault (modSlot sl (fun x => { x with state := .faulted, hold := .none }) s)) :=
    abandon_core (h.upd (modSlot_same (fun _ => rfl) (fun _ => rfl)))
  have hf := abandon_file sl .fault (modSlot sl (fun x => { x with state := .faulted, hold := .none }) s)
  generalize abandon sl .fault _ = s1 at h1 hf
  have h2 : CoreOk (modSlot sl (fun x => { x with queue := [] }) s1) :=
    modSlot_fewer (fun _ => List.nil_sublist _) (fun _ => .inr rfl) h1
  refine raiseCard_core (failAll_core _ (fun p hp => pendingOn_card hp) h2 ?_ ?_)
  · rw [modSlot_slot]
  · rw [modSlot_slot]; exact hf

theorem writeFailed_core {sl : Slot} {f : CardFile} {w : CardWrite} (h : CoreOk s) (hf : (s.slot sl).file = some f) :
    CoreOk (writeFailed sl f w s) := by
  unfold writeFailed
  dsimp only
  have h1 : CoreOk (modSlot sl (fun x => { x with
      errors := sat32 x.errors
      file := some { f with flight := none, again := some w, inHand := f.payloadIn (f.issued - w.count) } }) s) :=
    file_core h hf rfl rfl
  split
  · exact faultSlot_core h1
  · exact h1

theorem insertCard_core {sl : Slot} (h : CoreOk s) : CoreOk (insertCard sl s) := by
  unfold insertCard
  dsimp only
  have h1 : CoreOk (modSlot sl (fun x => { x with
      state := .ready, hold := .none, extents := [], final := false, lowArmed := true }) s) :=
    h.upd (modSlot_same (fun _ => rfl) (fun _ => rfl))
  refine slotSettle_core (raiseCard_core ?_)
  split
  · exact h1.upd {}
  · exact h1

theorem removeCard_core {sl : Slot} (h : CoreOk s) : CoreOk (removeCard sl s) := by
  unfold removeCard
  dsimp only
  have h1 := abandon_core (sl := sl) (c := .removed) (h.upd (modSlot_same (sl := sl)
    (f := fun x => { x with state := .absent, hold := .none }) (fun _ => rfl) (fun _ => rfl)))
  exact raiseCard_core (h1.upd (modSlot_same (fun _ => rfl) (fun _ => rfl)))

theorem presentStep_core {sl : Slot} (h : CoreOk s) : CoreOk (presentStep sl s) := by
  unfold presentStep
  split
  · split
    · exact insertCard_core h
    · exact h
  · split
    · exact h
    · exact removeCard_core h

theorem resumeSlot_core {sl : Slot} (h : CoreOk s) : CoreOk (resumeSlot sl s) := by
  unfold resumeSlot
  dsimp only
  split
  · exact slotSettle_core h
  · split
    · exact holdFull_core h
    · exact raiseCard_core (h.upd (modSlot_same (fun _ => rfl) (fun _ => rfl)))

theorem closeSlot_core {sl : Slot} (h : CoreOk s) : CoreOk (closeSlot sl s) := by
  unfold closeSlot
  dsimp only
  split
  · exact slotSettle_core (abandon_core h)
  · exact slotSettle_core h

theorem cardSleep_core (h : CoreOk s) : CoreOk (cardSleep s) := closeSlot_core (closeSlot_core (h.upd {}))

end Sys2Proof.Machine
end

