-- ==== Sys2Proof/Laws/DevelopKeeps.lean ====
section
/-! SUPPORT. What the operations of the development engine keep (`Machine/DevelopOps.lean`). -/

namespace Sys2Proof.Machine

-- One theorem at a time: the package as one text has more of them than the checker has threads.
set_option Elab.async false

open Sys2Proof

variable {a s : State}

theorem takeBlocks_stays {n : Nat} (h : Stays a s) : Stays a (takeBlocks n s).2 := setFree_stays h

theorem joinDevelop_stays {n serial : Nat} {urgent : Bool}
    (h : Stays a s) : Stays a (joinDevelop n serial urgent s) := by
  unfold joinDevelop
  try dsimp only
  repeat' first
    | exact h
    | exact h.upd {}
    | split

theorem hastenDevelop_stays {n : Nat} (h : Stays a s) : Stays a (hastenDevelop n s) := by
  unfold hastenDevelop
  try dsimp only
  repeat' first
    | exact h
    | exact h.upd {}

theorem grantJob_stays {j : Job} (h : Stays a s) : Stays a (grantJob j s) := by
  unfold grantJob
  exact Stays.upd (modHeld_stays (takeBlocks_stays h)) {}

theorem startJob_stays (h : Stays a s) : Stays a (startJob s) := by
  unfold startJob
  try dsimp only
  repeat' first
    | exact h
    | exact h.upd {}
    | with_reducible refine setDuty_stays ?_
    | with_reducible refine grantJob_stays ?_
    | refine Stays.upd (s := setDuty _ _ _ _) ?_ {}
    | refine Stays.upd (s := grantJob _ _) ?_ {}
    | split

/-- Rows written keep the store's canonical form. -/
theorem writeRows_wf {raw proof : List Nat} {j : Job} {n : Nat} {m : List Host.Cell} (h : Memory.wf m = true) :
    Memory.wf (writeRows raw proof j n m) = true := by
  unfold writeRows
  generalize (List.range n).drop j.rows = l
  induction l generalizing m with
  | nil => exact h
  | cons y l ih => exact ih (writeExtent_wf _ _ _ _ h)

theorem developRead_stays (h : Stays a s) : Stays a (developRead s) := by
  unfold developRead
  split
  · exact h
  · dsimp only
    have hk {m : List Host.Cell} {d : Develop} (hm : Memory.wf s.mem = true → Memory.wf m = true)
        (hd : d.recipes = s.de.recipes) : Stays a { s with mem := m, de := d } :=
      (h.bytes hm).upd { recipes := by rw [hd] }
    split
    · exact shotTests_stays (dropPin_stays (addPin_stays (hk writeRows_wf rfl)))
    · exact addPin_stays (hk writeRows_wf rfl)


theorem completeJob_stays {j : Job} (h : Stays a s) : Stays a (completeJob j s) := by
  unfold completeJob
  dsimp only
  exact shotTests_stays (handCard_stays (handCard_stays
    (Stays.upd (setDuty_stays (modHeld_stays (h.bytes writeRows_wf))) {})))

theorem clearJob_stays {j : Job} (h : Stays a s) : Stays a (clearJob j s) := by
  unfold clearJob
  try dsimp only
  repeat' first
    | exact h
    | exact h.upd {}
    | with_reducible refine dropPin_stays ?_
    | with_reducible refine dropProof_stays ?_
    | refine Stays.upd (s := dropPin _ _ _) ?_ {}
    | refine Stays.upd (s := dropProof _ _) ?_ {}
    | split

theorem abortJob_stays {n : Nat} (h : Stays a s) : Stays a (abortJob n s) := by
  unfold abortJob
  try dsimp only
  repeat' first
    | exact h
    | exact h.upd {}
    | with_reducible refine setDuty_stays ?_
    | with_reducible refine clearJob_stays ?_
    | refine Stays.upd (s := setDuty _ _ _ _) ?_ {}
    | refine Stays.upd (s := clearJob _ _) ?_ {}
    | split

theorem developSleep_stays (h : Stays a s) : Stays a (developSleep s) := by
  unfold developSleep
  try dsimp only
  repeat' first
    | exact h
    | exact h.upd {}
    | with_reducible refine setDuty_stays ?_
    | with_reducible refine clearJob_stays ?_
    | refine Stays.upd (s := setDuty _ _ _ _) ?_ {}
    | refine Stays.upd (s := clearJob _ _) ?_ {}
    | split

theorem developWake_stays (h : Stays a s) : Stays a (developWake s) := by
  unfold developWake
  repeat' first
    | exact h
    | exact h.upd {}

/-! ## The same in the weaker form, for the operations that also touch other blocks -/

theorem takeBlocks_keeps {n : Nat} (h : Keeps a s) : Keeps a (takeBlocks n s).2 :=
  h.trans (takeBlocks_stays (Stays.refl s)).keeps
theorem joinDevelop_keeps {n serial : Nat} {urgent : Bool} (h : Keeps a s) : Keeps a (joinDevelop n serial urgent s) :=
  h.trans (joinDevelop_stays (Stays.refl s)).keeps
theorem grantJob_keeps {j : Job} (h : Keeps a s) : Keeps a (grantJob j s) :=
  h.trans (grantJob_stays (Stays.refl s)).keeps
theorem startJob_keeps (h : Keeps a s) : Keeps a (startJob s) := h.trans (startJob_stays (Stays.refl s)).keeps
theorem developRead_keeps (h : Keeps a s) : Keeps a (developRead s) := h.trans (developRead_stays (Stays.refl s)).keeps
theorem completeJob_keeps {j : Job} (h : Keeps a s) : Keeps a (completeJob j s) :=
  h.trans (completeJob_stays (Stays.refl s)).keeps
theorem abortJob_keeps {n : Nat} (h : Keeps a s) : Keeps a (abortJob n s) :=
  h.trans (abortJob_stays (Stays.refl s)).keeps
theorem developSleep_keeps (h : Keeps a s) : Keeps a (developSleep s) :=
  h.trans (developSleep_stays (Stays.refl s)).keeps
theorem developWake_keeps (h : Keeps a s) : Keeps a (developWake s) := h.trans (developWake_stays (Stays.refl s)).keeps

end Sys2Proof.Machine
end

