-- ==== Sys2Proof/Laws/FocusKeeps.lean ====
section
/-! SUPPORT. What the operations of the focus engine keep (`Machine/FocusOps.lean`). -/

namespace Sys2Proof.Machine

-- One theorem at a time: the package as one text has more of them than the checker has threads.
set_option Elab.async false

open Sys2Proof

variable {a s : State}

theorem raiseFocus_keeps {reason : String} (h : Keeps a s) : Keeps a (raiseFocus reason s) := by
  unfold raiseFocus
  repeat' first
    | exact h
    | exact h.upd {}
    | with_reducible refine raise_keeps ?_

theorem enterServo_keeps {st : ServoState} {reason : String} (h : Keeps a s) : Keeps a (enterServo st reason s) := by
  unfold enterServo
  repeat' first
    | exact h
    | exact h.upd {}
    | with_reducible refine retest_keeps ?_
    | with_reducible refine raiseFocus_keeps ?_

theorem emptyDrive_keeps (h : Keeps a s) : Keeps a (emptyDrive s) := by
  unfold emptyDrive
  try dsimp only
  repeat' first
    | exact h
    | exact h.upd {}
    | split

theorem clearSettle_keeps (h : Keeps a s) : Keeps a (clearSettle s) := by
  unfold clearSettle
  repeat' first
    | exact h
    | exact h.upd {}

theorem startServo_keeps {m : ServoMode} {reason : String} (h : Keeps a s) : Keeps a (startServo m reason s) := by
  unfold startServo
  try dsimp only
  repeat' first
    | exact h
    | exact h.upd {}
    | with_reducible refine retest_keeps ?_
    | with_reducible refine enterServo_keeps ?_
    | with_reducible refine emptyDrive_keeps ?_
    | with_reducible refine clearSettle_keeps ?_
    | refine Keeps.upd (s := retest _ _) ?_ {}
    | refine Keeps.upd (s := enterServo _ _ _) ?_ {}
    | refine Keeps.upd (s := emptyDrive _) ?_ {}
    | refine Keeps.upd (s := clearSettle _) ?_ {}
    | split

theorem quitServo_keeps (h : Keeps a s) : Keeps a (quitServo s) := by
  unfold quitServo
  try dsimp only
  repeat' first
    | exact h
    | exact h.upd {}
    | with_reducible refine retest_keeps ?_
    | with_reducible refine enterServo_keeps ?_
    | with_reducible refine emptyDrive_keeps ?_
    | with_reducible refine clearSettle_keeps ?_
    | refine Keeps.upd (s := retest _ _) ?_ {}
    | refine Keeps.upd (s := enterServo _ _ _) ?_ {}
    | refine Keeps.upd (s := emptyDrive _) ?_ {}
    | refine Keeps.upd (s := clearSettle _) ?_ {}
    | split

theorem stopServo_keeps (h : Keeps a s) : Keeps a (stopServo s) := quitServo_keeps (emptyDrive_keeps h)

theorem lensCheck_keeps (h : Keeps a s) : Keeps a (lensCheck s) := by
  unfold lensCheck
  try dsimp only
  repeat' first
    | exact h
    | exact h.upd {}
    | with_reducible refine enterServo_keeps ?_
    | with_reducible refine emptyDrive_keeps ?_
    | with_reducible refine clearSettle_keeps ?_
    | refine Keeps.upd (s := enterServo _ _ _) ?_ {}
    | refine Keeps.upd (s := emptyDrive _) ?_ {}
    | refine Keeps.upd (s := clearSettle _) ?_ {}
    | split

theorem settleReport_keeps {moving : Bool} (h : Keeps a s) : Keeps a (settleReport moving s) := by
  unfold settleReport
  try dsimp only
  repeat' first
    | exact h
    | exact h.upd {}
    | split

theorem settleSent_keeps (h : Keeps a s) : Keeps a (settleSent s) := by
  unfold settleSent
  repeat' first
    | exact h
    | exact h.upd {}

theorem stageDrive_keeps {ih : InHand} {r : LastResult} (h : Keeps a s) : Keeps a (stageDrive ih r s) := by
  unfold stageDrive
  try dsimp only
  repeat' first
    | exact h
    | exact h.upd {}
    | split

theorem beginSettle_keeps (h : Keeps a s) : Keeps a (beginSettle s) := by
  unfold beginSettle
  repeat' first
    | exact h
    | exact h.upd {}

theorem seek_keeps {ih : InHand} {r : LastResult} (h : Keeps a s) : Keeps a (seek ih r s) := by
  unfold seek
  try dsimp only
  repeat' first
    | exact h
    | exact h.upd {}
    | with_reducible refine enterServo_keeps ?_
    | with_reducible refine emptyDrive_keeps ?_
    | with_reducible refine stageDrive_keeps ?_
    | with_reducible refine beginSettle_keeps ?_
    | refine Keeps.upd (s := enterServo _ _ _) ?_ {}
    | refine Keeps.upd (s := emptyDrive _) ?_ {}
    | refine Keeps.upd (s := stageDrive _ _ _) ?_ {}
    | refine Keeps.upd (s := beginSettle _) ?_ {}
    | split

theorem follow_keeps {ih : InHand} {r : LastResult} (h : Keeps a s) : Keeps a (follow ih r s) := by
  unfold follow
  try dsimp only
  repeat' first
    | exact h
    | exact h.upd {}
    | with_reducible refine stageDrive_keeps ?_
    | refine Keeps.upd (s := stageDrive _ _ _) ?_ {}
    | split

theorem servoAct_keeps {ih : InHand} (h : Keeps a s) : Keeps a (servoAct ih s) := by
  unfold servoAct
  try dsimp only
  repeat' first
    | exact h
    | exact h.upd {}
    | with_reducible refine seek_keeps ?_
    | with_reducible refine follow_keeps ?_
    | refine Keeps.upd (s := seek _ _ _) ?_ {}
    | refine Keeps.upd (s := follow _ _ _) ?_ {}
    | split

theorem wakeWatcher_keeps {ih : InHand} {e ref : Nat} (h : Keeps a s) : Keeps a (wakeWatcher ih e ref s) := by
  unfold wakeWatcher
  try dsimp only
  repeat' first
    | exact h
    | exact h.upd {}
    | with_reducible refine raise_keeps ?_
    | with_reducible refine startServo_keeps ?_
    | refine Keeps.upd (s := raise _ _ _ _) ?_ {}
    | refine Keeps.upd (s := startServo _ _ _) ?_ {}
    | split

theorem watchSample_keeps {ih : InHand} (h : Keeps a s) : Keeps a (watchSample ih s) := by
  unfold watchSample
  try dsimp only
  repeat' first
    | exact h
    | exact h.upd {}
    | with_reducible refine wakeWatcher_keeps ?_
    | refine Keeps.upd (s := wakeWatcher _ _ _ _) ?_ {}
    | split

theorem openReadout_keeps {k : ReadoutKind} {start : Nat} (h : Keeps a s) : Keeps a (openReadout k start s) := by
  unfold openReadout
  try dsimp only
  repeat' first
    | exact h
    | exact h.upd {}

/-- The eleven areas of one row replaced leave as many records. -/
theorem setRow_length {r : Nat} {l areas : List AreaResult} (hl : l.length = 11) (hr : r ≤ 10) (ha : areas.length = 121) :
    (setRow r l areas).length = 121 := by
  simp only [setRow, List.length_append, List.length_take, List.length_drop, hl, ha]
  omega

theorem completeReadout_keeps {ih : InHand} (h : Keeps a s) : Keeps a (completeReadout ih s) := by
  unfold completeReadout
  dsimp only
  refine watchSample_keeps (servoAct_keeps ?_)
  split
  · exact raiseFocus_keeps (h.upd {})
  · exact h.upd {}

/-- Area records replaced by as many. -/
theorem Keeps.areas (h : Keeps a s) {f : Focus} (hf : s.fe.areas.length = 121 → f.areas.length = 121) :
    Keeps a { s with fe := f } :=
  h.trans
    { pending := rfl
      time := rfl
      lost := id
      sound := fun x => { x with areas := hf x.areas } }

/-- A row of areas from its payload, or damaged, is eleven records (R76). -/
theorem handRow_keeps {r : Nat} {payload : Option (List Word16)} (hr : r ≤ 10) (h : Keeps a s) :
    Keeps a (handRow r payload s) := by
  unfold handRow
  split
  · exact h
  · dsimp only
    split
    · exact h.upd {}
    · have hk (ih1 : InHand) (row : List AreaResult) (hl : row.length = 11) :
          Keeps a { s with fe := { s.fe with inHand := some ih1, areas := setRow r row s.fe.areas } } :=
        h.areas fun ha => setRow_length hl hr ha
      split <;> (try refine completeReadout_keeps ?_) <;> refine hk _ _ ?_ <;> cases payload <;> simp [rowResults]

end Sys2Proof.Machine
end

