-- ==== Sys2Proof/Laws/Host.lean ====
section
/-! SUPPORT. What a host command can do, said once (R198, R199, R209, R210): with the slot busy its frame goes to the marker;
with the slot empty and the blocks running it is judged, executed and answered. -/

namespace Sys2Proof.Machine

-- One theorem at a time: the package as one text has more of them than the checker has threads.
set_option Elab.async false

open Sys2Proof

variable {α : Type} {s : State} {g : Gate} {r : Req α} {act : α → State → Answer}

/-- What `awake` says. -/
theorem awake_iff : s.awake = true ↔ s.cp.slot = none ∧ (s.cp.power = .active ∨ s.cp.power = .closing) := by
  simp [State.awake]

/-- What `taking` says. -/
theorem taking_iff : s.taking = true ↔ s.cp.slot = none ∧ s.cp.power = .active := by
  simp [State.taking]

/-- A part that takes all commands is awake. -/
theorem awake_of_taking (h : s.taking = true) : s.awake = true := by
  rw [taking_iff] at h
  exact awake_iff.2 ⟨h.1, .inl h.2⟩

/-- A frame does not wake a part whose blocks run (R210). -/
theorem wakeFor_awake (q : Bool) (h : s.awake = true) : wakeFor q s = s := by
  rw [awake_iff] at h
  rcases h with ⟨-, h | h⟩ <;> simp [wakeFor, State.wakesOn, h]

/-- A frame that arrives while the slot is busy (R199). -/
theorem hostCommand_busy (h : s.cp.slot.isSome = true) : hostCommand g r act s = setMarker r.tag .notReady s := by
  simp [hostCommand, h]

/-- A command taken with the slot empty while the blocks run (R198, R209). -/
theorem hostCommand_awake (h : s.awake = true) :
    hostCommand g r act s = placeReply r.tag (g == .resets && r.fields.isSome) (judgeCommand g r.fields act s) := by
  have hs := (awake_iff.1 h).1
  simp [hostCommand, hs, wakeFor_awake _ h]

/-- A command whose payload holds its fields, where CLOSING does not refuse it, does what its own checks and effect give. -/
theorem judgeCommand_some (x : α) (h : ¬ (g = .active ∧ s.cp.power = .closing)) : judgeCommand g (some x) act s = act x s := by
  simp [judgeCommand, h]

/-- A command that every power state with running blocks takes. -/
theorem hostCommand_plain (tag : Byte) (x : α) (h : s.awake = true) (hg : g ≠ .active) (hr : g ≠ .resets) :
    hostCommand g ⟨tag, some x⟩ act s = placeReply tag false (act x s) := by
  rw [hostCommand_awake h, judgeCommand_some x (fun e => hg e.1)]
  cases g with
  | quiet => rfl
  | active => exact absurd rfl hg
  | resets => exact absurd rfl hr
  | plain => rfl

/-- A command that ACTIVE takes. -/
theorem hostCommand_taking (tag : Byte) (x : α) (h : s.taking = true) :
    hostCommand .active ⟨tag, some x⟩ act s = placeReply tag false (act x s) := by
  have hp := (taking_iff.1 h).2
  rw [hostCommand_awake (awake_of_taking h), judgeCommand_some x (by simp [hp])]
  rfl

/-- A command whose payload does not hold its fields is answered BAD_VALUE (R198, fourth check). -/
theorem hostCommand_fieldless (tag : Byte) (h : s.awake = true) :
    hostCommand g ⟨tag, none⟩ act s = placeReply tag false (deny .badValue s) := by
  rw [hostCommand_awake h]
  cases g <;> rfl

/-- The outcome of an answered command. -/
theorem next_placeReply (tag : Byte) (a : Answer) :
    (.next (placeReply tag false a) : Host.Outcome State Fault Refusal) = answered tag a.status a.result a.state := rfl

end Sys2Proof.Machine
end

