-- ==== Sys2Proof/Laws/LensKeeps.lean ====
section
/-! SUPPORT. What the operations of the lens port keep (`Machine/LensOps.lean`). -/

namespace Sys2Proof.Machine

-- One theorem at a time: the package as one text has more of them than the checker has threads.
set_option Elab.async false

open Sys2Proof

variable {a s : State}

/-- The lens port changed, with its AUX lists and its counter within their bounds. -/
theorem Keeps.lens (h : Keeps a s) {l : Lens} (hq : s.lp.auxQueue.length ≤ 4 → l.auxQueue.length ≤ 4)
    (hh : s.lp.auxHistory.length ≤ 4 → l.auxHistory.length ≤ 4)
    (hc : s.Sound → InCounter l.counter) : Keeps a { s with lp := l } :=
  h.trans
    { pending := rfl
      time := rfl
      lost := id
      sound := fun x => ⟨x.memory, x.notices, x.table, x.credits, hq x.auxQueue, hh x.auxHistory, hc x, x.index, x.areas,
        x.recipes, x.sends⟩ }


theorem raiseLens_keeps {reason : String} (h : Keeps a s) : Keeps a (raiseLens reason s) := by
  unfold raiseLens
  repeat' first
    | exact h
    | exact h.upd {}
    | with_reducible refine raise_keeps ?_

theorem homingTest_keeps (h : Keeps a s) : Keeps a (homingTest s) := by
  unfold homingTest
  try dsimp only
  repeat' first
    | exact h
    | exact h.upd {}
    | with_reducible refine raiseLens_keeps ?_
    | refine Keeps.upd (s := raiseLens _ _) ?_ {}
    | split

theorem clearHoming_keeps (h : Keeps a s) : Keeps a (clearHoming s) := by
  unfold clearHoming
  repeat' first
    | exact h
    | exact h.upd {}

theorem dropReference_keeps (h : Keeps a s) : Keeps a (dropReference s) := by
  unfold dropReference
  try dsimp only
  repeat' first
    | exact h
    | exact h.upd {}
    | with_reducible refine raiseLens_keeps ?_
    | refine Keeps.upd (s := raiseLens _ _) ?_ {}
    | split

theorem reference_keeps (h : Keeps a s) : Keeps a (reference s) := by
  unfold reference
  split
  · exact h
  · refine lensCheck_keeps ?_
    split
    · exact raiseLens_keeps (clearHoming_keeps (raiseLens_keeps (h.upd {})))
    · exact raiseLens_keeps (h.upd {})

theorem lensStopped_keeps {reason : String} (h : Keeps a s) : Keeps a (lensStopped reason s) := by
  unfold lensStopped
  split
  · exact h
  · exact lensCheck_keeps (raiseLens_keeps (dropReference_keeps (h.lens (by simp) id (·.counter))))

/-- Counting a failing slot changes nothing but its count. -/
theorem countFailure_keeps {why : SlotFailure} (h : Keeps a s) : Keeps a { s with lp := countFailure why s.lp } := by
  cases why <;> exact h.upd { auxQueue := rfl, auxHistory := rfl, counter := rfl }


theorem unreference_keeps (h : Keeps a s) : Keeps a (unreference s) := by
  unfold unreference
  try dsimp only
  repeat' first
    | exact h
    | exact h.upd {}
    | with_reducible refine lensCheck_keeps ?_
    | with_reducible refine homingTest_keeps ?_
    | with_reducible refine dropReference_keeps ?_
    | refine Keeps.upd (s := lensCheck _) ?_ {}
    | refine Keeps.upd (s := homingTest _) ?_ {}
    | refine Keeps.upd (s := dropReference _) ?_ {}
    | split

theorem lensWaiting_keeps {reason : String} (h : Keeps a s) : Keeps a (lensWaiting reason s) := by
  unfold lensWaiting
  repeat' first
    | exact h
    | exact h.upd {}
    | with_reducible refine lensCheck_keeps ?_
    | with_reducible refine raiseLens_keeps ?_

theorem lensLost_keeps {why : SlotFailure} (h : Keeps a s) : Keeps a (lensLost why s) := by
  unfold lensLost
  repeat' first
    | exact h
    | exact h.upd {}
    | with_reducible refine lensCheck_keeps ?_
    | with_reducible refine raiseLens_keeps ?_
    | with_reducible refine dropReference_keeps ?_

theorem recordWord_keeps {w : StatusWord} (h : Keeps a s) : Keeps a (recordWord w s) := by
  unfold recordWord
  repeat' first
    | exact h
    | exact h.upd {}

theorem compareWord_keeps {w : StatusWord} (h : Keeps a s) : Keeps a (compareWord w s) := by
  unfold compareWord
  try dsimp only
  repeat' first
    | exact h
    | exact h.upd {}
    | with_reducible refine lensCheck_keeps ?_
    | with_reducible refine raiseLens_keeps ?_
    | with_reducible refine homingTest_keeps ?_
    | with_reducible refine dropReference_keeps ?_
    | with_reducible refine recordWord_keeps ?_
    | refine Keeps.upd (s := lensCheck _) ?_ {}
    | refine Keeps.upd (s := raiseLens _ _) ?_ {}
    | refine Keeps.upd (s := homingTest _) ?_ {}
    | refine Keeps.upd (s := dropReference _) ?_ {}
    | refine Keeps.upd (s := recordWord _ _) ?_ {}
    | split

theorem lensAnswered_keeps {w : StatusWord} (h : Keeps a s) : Keeps a (lensAnswered w s) := by
  unfold lensAnswered
  repeat' first
    | exact h
    | exact h.upd {}
    | with_reducible refine lensCheck_keeps ?_
    | with_reducible refine raiseLens_keeps ?_
    | with_reducible refine homingTest_keeps ?_
    | with_reducible refine recordWord_keeps ?_

theorem lensRecovered_keeps {w : StatusWord} (h : Keeps a s) : Keeps a (lensRecovered w s) := by
  unfold lensRecovered
  repeat' first
    | exact h
    | exact h.upd {}
    | with_reducible refine lensCheck_keeps ?_
    | with_reducible refine raiseLens_keeps ?_
    | with_reducible refine homingTest_keeps ?_
    | with_reducible refine compareWord_keeps ?_

theorem goodWord_keeps {w : StatusWord} (h : Keeps a s) : Keeps a (goodWord w s) := by
  unfold goodWord
  try dsimp only
  repeat' first
    | exact h
    | exact h.upd {}
    | with_reducible refine compareWord_keeps ?_
    | with_reducible refine lensAnswered_keeps ?_
    | with_reducible refine lensRecovered_keeps ?_
    | refine Keeps.upd (s := compareWord _ _) ?_ {}
    | refine Keeps.upd (s := lensAnswered _ _) ?_ {}
    | refine Keeps.upd (s := lensRecovered _ _) ?_ {}
    | split

theorem failingSlot_keeps {why : SlotFailure} (h : Keeps a s) : Keeps a (failingSlot why s) := by
  unfold failingSlot
  try dsimp only
  repeat' first
    | exact h
    | exact h.upd {}
    | with_reducible refine lensLost_keeps ?_
    | refine Keeps.upd (s := lensLost _ _) ?_ {}
    | split

theorem takeStatus_keeps {w : Option Word32} (h : Keeps a s) : Keeps a (takeStatus w s) := by
  unfold takeStatus
  dsimp only
  split
  · exact failingSlot_keeps (countFailure_keeps (s := { s with lp := { s.lp with slot := 1 } }) (h.upd {}))
  · exact goodWord_keeps (settleReport_keeps (h.upd {}))
  · exact h.upd {}

theorem sendDrive_keeps (h : Keeps a s) : Keeps a (sendDrive s) := by
  unfold sendDrive
  try dsimp only
  repeat' first
    | exact h
    | exact h.upd {}
    | with_reducible refine settleSent_keeps ?_
    | refine Keeps.upd (s := settleSent _) ?_ {}
    | split

theorem sendIris_keeps (h : Keeps a s) : Keeps a (sendIris s) := by
  unfold sendIris
  try dsimp only
  repeat' first
    | exact h
    | exact h.upd {}

theorem endFrame_keeps (h : Keeps a s) : Keeps a (endFrame s) := by
  unfold endFrame
  try dsimp only
  repeat' first
    | exact h
    | exact h.upd {}
    | with_reducible refine lensStopped_keeps ?_
    | refine Keeps.upd (s := lensStopped _ _) ?_ {}
    | split

theorem detectStep_keeps (h : Keeps a s) : Keeps a (detectStep s) := by
  unfold detectStep
  try dsimp only
  repeat' first
    | exact h
    | exact h.upd {}
    | with_reducible refine lensWaiting_keeps ?_
    | with_reducible refine lensStopped_keeps ?_
    | refine Keeps.upd (s := lensWaiting _ _) ?_ {}
    | refine Keeps.upd (s := lensStopped _ _) ?_ {}
    | split

theorem lensApplied_keeps {old : LensCfg} (h : Keeps a s) : Keeps a (lensApplied old s) := by
  unfold lensApplied
  try dsimp only
  repeat' first
    | exact h
    | exact h.upd {}
    | with_reducible refine homingTest_keeps ?_
    | with_reducible refine clearHoming_keeps ?_
    | with_reducible refine unreference_keeps ?_
    | refine Keeps.upd (s := homingTest _) ?_ {}
    | refine Keeps.upd (s := clearHoming _) ?_ {}
    | refine Keeps.upd (s := unreference _) ?_ {}
    | split

theorem lensSleep_keeps (h : Keeps a s) : Keeps a (lensSleep s) := by
  unfold lensSleep
  try dsimp only
  repeat' first
    | exact h
    | exact h.upd {}
    | split

/-- The lens's answer leaves the AUX queue as it is and the history at four words at most (R110). -/
theorem takeAux_lists (w : Option Word32) (l : Lens) :
    (takeAux w l).auxQueue = l.auxQueue ∧ (takeAux w l).counter = l.counter
      ∧ (l.auxHistory.length ≤ 4 → (takeAux w l).auxHistory.length ≤ 4) := by
  unfold takeAux
  split
  · split
    · refine ⟨rfl, rfl, fun _ => ?_⟩
      simp only [List.length_drop, Config.auxRoom]
      omega
    · exact ⟨rfl, rfl, id⟩
  · exact ⟨rfl, rfl, id⟩

theorem sendAux_keeps {w : Option Word32} (h : Keeps a s) : Keeps a (sendAux w s) := by
  unfold sendAux
  dsimp only
  refine h.lens (fun hq => ?_) (fun hh => (takeAux_lists w _).2.2 hh) (fun x => ?_)
  · rw [(takeAux_lists w _).1]
    dsimp only
    split
    · rw [List.length_drop]; omega
    · exact hq
  · rw [(takeAux_lists w _).2.1]
    exact x.counter

theorem countStep_keeps {delta : Int} (h : Keeps a s) : Keeps a (countStep delta s) := by
  unfold countStep
  dsimp only
  split_ifs with hv ho
  · exact h.lens id id fun _ => hv
  · exact h
  · exact raiseLens_keeps (h.upd {})

theorem encoderStep_keeps {x y : Bool} (h : Keeps a s) : Keeps a (encoderStep x y s) := by
  unfold encoderStep
  dsimp only
  repeat' first
    | exact h.upd {}
    | refine countStep_keeps ?_
    | refine unreference_keeps ?_
    | split

theorem indexStep_keeps (h : Keeps a s) : Keeps a (indexStep s) := by
  unfold indexStep
  split
  · exact reference_keeps (h.lens id id (·.index))
  · exact h

theorem lensWake_keeps (h : Keeps a s) : Keeps a (lensWake s) := by
  unfold lensWake
  exact detectStep_keeps (h.lens id (fun _ => by simp) (·.counter))

end Sys2Proof.Machine
end

