-- ==== Sys2Proof/Laws/TetherKeeps.lean ====
section
/-! SUPPORT. What the operations of the tether port keep (`Machine/TetherOps.lean`). -/

namespace Sys2Proof.Machine

-- One theorem at a time: the package as one text has more of them than the checker has threads.
set_option Elab.async false

open Sys2Proof

variable {a s : State}

/-- The order of the transfer queue, as `Entry.before` tells it (R165). -/
theorem before_iff (x y : Entry) : x.before y = true
    ↔ (x.urgent = true ∧ y.urgent = false) ∨ (x.urgent = y.urgent ∧ x.order ≤ y.order) := by
  cases hx : x.urgent <;> cases hy : y.urgent <;> simp [Entry.before, hx, hy]

/-- A queue that is put in order is in order, if its entries' orders are below the next. -/
theorem sortTether_inOrder {p : Tether} {l : List Entry} (hq : p.queue = sortTether l)
    (h : ∀ e ∈ l, e.order < p.nextOrder) : p.InOrder where
  sorted := by
    rw [hq]
    have : Std.Total (fun x y : Entry => x.before y = true) := ⟨fun x y => by
      rw [before_iff, before_iff]; cases x.urgent <;> cases y.urgent <;> simp <;> omega⟩
    have : IsTrans Entry (fun x y : Entry => x.before y = true) := ⟨fun x y z => by
      rw [before_iff, before_iff, before_iff]
      cases x.urgent <;> cases y.urgent <;> cases z.urgent <;> simp <;> omega⟩
    exact (List.pairwise_insertionSort (fun x y : Entry => x.before y = true) l).imp fun {x y} => (before_iff x y).1
  next e he := h e ((List.mem_insertionSort _).1 (hq ▸ he))

/-- Entries that leave the queue leave it in order. -/
theorem Tether.InOrder.sub {p q : Tether} (h : p.InOrder) (hq : q.queue.Sublist p.queue) (hn : q.nextOrder = p.nextOrder) :
    q.InOrder := ⟨h.sorted.sublist hq, fun e he => hn ▸ h.next e (hq.subset he)⟩

/-- The smallest of a list of numbers and another is at most the other. -/
theorem foldl_min_le (l : List Int) (o : Int) : l.foldl min o ≤ o := by
  induction l generalizing o with
  | nil => exact le_refl o
  | cons a l ih => exact (ih (min o a)).trans (min_le_left o a)

/-- An order at the head of a class is below the next but one. -/
theorem headOrder_lt {u : Bool} {p : Tether} (h : p.InOrder) : headOrder u p < p.nextOrder + 1 := by
  unfold headOrder
  split
  · omega
  · next o l e =>
    have hm : o ∈ (p.queue.filter (fun e => e.urgent == u)).map (·.order) := by rw [e]; exact List.mem_cons_self
    obtain ⟨x, hx, rfl⟩ := List.mem_map.1 hm
    have h1 := h.next x (List.mem_of_mem_filter hx)
    have h2 := foldl_min_le l x.order
    omega

/-- The tether port changed, with its credits within the cap (R170) and its queue in order (R165). -/
theorem Keeps.tether (h : Keeps a s) {p : Tether} (hc : s.tp.credits ≤ 64 → p.credits ≤ 64)
    (hq : s.tp.InOrder → p.InOrder := by exact fun h => h.upd rfl rfl) :
    Keeps a { s with tp := p } :=
  h.trans
    { pending := rfl
      time := rfl
      lost := id
      sound := fun x => ⟨x.memory, x.notices, x.table, hc x.credits, x.auxQueue, x.auxHistory, x.counter, x.index, x.areas,
        x.recipes, hq x.sends⟩ }

theorem Stays.tether (h : Stays a s) {p : Tether} (hc : s.tp.credits ≤ 64 → p.credits ≤ 64)
    (hq : s.tp.InOrder → p.InOrder := by exact fun h => h.upd rfl rfl) : Stays a { s with tp := p } :=
  h.trans ⟨(Keeps.refl s).tether hc hq, rfl, rfl, rfl, rfl, rfl, rfl, rfl⟩


theorem sendFrame_stays {f : TetherFrame} (h : Stays a s) : Stays a (sendFrame f s) := by
  unfold sendFrame
  repeat' first
    | exact h
    | exact h.upd {}

theorem raiseTether_stays {reason : String} (h : Stays a s) : Stays a (raiseTether reason s) := by
  unfold raiseTether
  repeat' first
    | exact h
    | exact h.upd {}
    | with_reducible refine raise_stays ?_

theorem setTransfer_stays {t : Option Transfer} (h : Stays a s) : Stays a (setTransfer t s) := by
  unfold setTransfer
  repeat' first
    | exact h
    | exact h.upd {}

theorem joinTether_stays {atHead : Bool} {n : Nat} {k : FileKind}
    (h : Stays a s) : Stays a (joinTether atHead n k s) := by
  unfold joinTether
  dsimp only
  split
  · exact h
  split
  · exact h
  split
  · exact Stays.upd (setDuty_stays h) {}
  · refine h.tether id fun o => ?_
    refine sortTether_inOrder rfl fun e he => ?_
    have hn := @headOrder_lt (((s.sendDuty n k).map (·.urgent)).getD false) _ o
    dsimp only
    rcases List.mem_append.1 he with he | he
    · have := o.next e he; omega
    · rw [List.mem_singleton.1 he]; dsimp only; split <;> omega

theorem queueDeferred_stays {p : Nat × FileKind} (h : Stays a s) : Stays a (queueDeferred s p) := by
  unfold queueDeferred
  dsimp only
  exact joinTether_stays (Stays.upd (setDuty_stays h) {})

theorem refill_stays (h : Stays a s) : Stays a (refill s) :=
  foldl_stays _ (fun _ _ => queueDeferred_stays) _ h


theorem hastenSends_stays {p : FileKind → Bool} {n : Nat} (h : Stays a s) : Stays a (hastenSends p n s) := by
  unfold hastenSends
  extract_lets isSend s1
  have h1 : Stays a s1 := modHeld_stays h
  clear_value s1
  refine h1.tether id fun o => sortTether_inOrder rfl fun e he => ?_
  obtain ⟨x, hx, rfl⟩ := List.mem_map.1 he
  have := o.next x hx
  split <;> exact this

theorem sendOffer_stays {t : Transfer} (h : Stays a s) : Stays a (sendOffer t s) := by
  unfold sendOffer
  try dsimp only
  repeat' first
    | exact h
    | exact h.upd {}
    | with_reducible refine sendFrame_stays ?_
    | refine Stays.upd (s := sendFrame _ _) ?_ {}

theorem startTransfer_stays (h : Stays a s) : Stays a (startTransfer s) := by
  unfold startTransfer
  split
  · exact h
  · exact refill_stays (sendOffer_stays ((setDuty_stays h).tether id fun o => o.sub List.filter_sublist rfl))

theorem endTransfer_stays {t : Transfer} (h : Stays a s) : Stays a (endTransfer t s) := by
  unfold endTransfer
  try dsimp only
  repeat' first
    | exact h
    | exact h.upd {}
    | with_reducible refine dropPin_stays ?_
    | refine Stays.upd (s := dropPin _ _ _) ?_ {}

theorem deliver_stays {t : Transfer} (h : Stays a s) : Stays a (deliver t s) := by
  unfold deliver
  try dsimp only
  repeat' first
    | exact h
    | exact h.upd {}
    | with_reducible refine setDuty_stays ?_
    | with_reducible refine shotTests_stays ?_
    | with_reducible refine endTransfer_stays ?_
    | refine Stays.upd (s := setDuty _ _ _ _) ?_ {}
    | refine Stays.upd (s := shotTests _ _) ?_ {}
    | refine Stays.upd (s := endTransfer _ _) ?_ {}

theorem declineTransfer_stays {t : Transfer} (h : Stays a s) : Stays a (declineTransfer t s) := by
  unfold declineTransfer
  try dsimp only
  repeat' first
    | exact h
    | exact h.upd {}
    | with_reducible refine setDuty_stays ?_
    | with_reducible refine shotTests_stays ?_
    | with_reducible refine endTransfer_stays ?_
    | refine Stays.upd (s := setDuty _ _ _ _) ?_ {}
    | refine Stays.upd (s := shotTests _ _) ?_ {}
    | refine Stays.upd (s := endTransfer _ _) ?_ {}

theorem failTransfer_stays {t : Transfer} (h : Stays a s) : Stays a (failTransfer t s) := by
  unfold failTransfer
  try dsimp only
  repeat' first
    | exact h
    | exact h.upd {}
    | with_reducible refine failDuty_stays ?_
    | with_reducible refine raise_stays ?_
    | with_reducible refine shotTests_stays ?_
    | with_reducible refine sendFrame_stays ?_
    | with_reducible refine endTransfer_stays ?_
    | refine Stays.upd (s := failDuty _ _ _) ?_ {}
    | refine Stays.upd (s := raise _ _ _ _) ?_ {}
    | refine Stays.upd (s := shotTests _ _) ?_ {}
    | refine Stays.upd (s := sendFrame _ _) ?_ {}
    | refine Stays.upd (s := endTransfer _ _) ?_ {}

theorem abortTransfer_stays {t : Transfer} {r : AbortReason} (h : Stays a s) : Stays a (abortTransfer t r s) := by
  unfold abortTransfer
  try dsimp only
  repeat' first
    | exact h
    | exact h.upd {}
    | with_reducible refine sendFrame_stays ?_
    | with_reducible refine endTransfer_stays ?_
    | refine Stays.upd (s := sendFrame _ _) ?_ {}
    | refine Stays.upd (s := endTransfer _ _) ?_ {}

theorem deleteTransfer_stays {n : Nat} (h : Stays a s) : Stays a (deleteTransfer n s) := by
  unfold deleteTransfer
  try dsimp only
  repeat' first
    | exact h
    | exact h.upd {}
    | with_reducible refine setDuty_stays ?_
    | with_reducible refine abortTransfer_stays ?_
    | refine Stays.upd (s := setDuty _ _ _ _) ?_ {}
    | refine Stays.upd (s := abortTransfer _ _ _) ?_ {}
    | split

theorem replaceTransfer_stays {n : Nat} (h : Stays a s) : Stays a (replaceTransfer n s) := by
  unfold replaceTransfer
  try dsimp only
  repeat' first
    | exact h
    | exact h.upd {}
    | with_reducible refine setDuty_stays ?_
    | with_reducible refine joinTether_stays ?_
    | with_reducible refine abortTransfer_stays ?_
    | refine Stays.upd (s := setDuty _ _ _ _) ?_ {}
    | refine Stays.upd (s := joinTether _ _ _ _) ?_ {}
    | refine Stays.upd (s := abortTransfer _ _ _) ?_ {}
    | split

theorem suspendTransfer_stays {t : Transfer} (h : Stays a s) : Stays a (suspendTransfer t s) := by
  unfold suspendTransfer
  try dsimp only
  repeat' first
    | exact h
    | exact h.upd {}
    | with_reducible refine setDuty_stays ?_
    | with_reducible refine shotTests_stays ?_
    | with_reducible refine endTransfer_stays ?_

theorem tetherDown_stays {reason : String} (h : Stays a s) : Stays a (tetherDown reason s) :=
  raiseTether_stays (h.tether (p := { s.tp with phase := .down, credits := 0 }) fun _ => by simp)


theorem tetherLost_stays (h : Stays a s) : Stays a (tetherLost s) := by
  unfold tetherLost
  try dsimp only
  repeat' first
    | exact h
    | exact h.upd {}
    | with_reducible refine joinTether_stays ?_
    | with_reducible refine suspendTransfer_stays ?_
    | with_reducible refine tetherDown_stays ?_
    | refine Stays.upd (s := joinTether _ _ _ _) ?_ {}
    | refine Stays.upd (s := suspendTransfer _ _) ?_ {}
    | refine Stays.upd (s := tetherDown _ _) ?_ {}
    | split

theorem staleFrame_stays (h : Stays a s) : Stays a (staleFrame s) := by
  unfold staleFrame
  repeat' first
    | exact h
    | exact h.upd {}

theorem badPeerFrame_stays (h : Stays a s) : Stays a (badPeerFrame s) := by
  unfold badPeerFrame
  repeat' first
    | exact h
    | exact h.upd {}

theorem acceptTransfer_stays {t : Transfer} {start : Nat} (h : Stays a s) : Stays a (acceptTransfer t start s) := by
  unfold acceptTransfer
  try dsimp only
  repeat' first
    | exact h
    | exact h.upd {}
    | with_reducible refine setTransfer_stays ?_
    | with_reducible refine deliver_stays ?_
    | refine Stays.upd (s := setTransfer _ _) ?_ {}
    | refine Stays.upd (s := deliver _ _) ?_ {}
    | split

theorem ackTransfer_stays {t : Transfer} {offset : Nat} (h : Stays a s) : Stays a (ackTransfer t offset s) := by
  unfold ackTransfer
  try dsimp only
  repeat' first
    | exact h
    | exact h.upd {}
    | with_reducible refine deliver_stays ?_
    | refine Stays.upd (s := deliver _ _) ?_ {}
    | split

theorem tetherRead_stays (h : Stays a s) : Stays a (tetherRead s) := by
  unfold tetherRead
  try dsimp only
  repeat' first
    | exact h
    | exact h.upd {}
    | with_reducible refine addPin_stays ?_
    | with_reducible refine setTransfer_stays ?_
    | refine Stays.upd (s := addPin _ _ _ _) ?_ {}
    | refine Stays.upd (s := setTransfer _ _) ?_ {}
    | split

theorem ackExpired_stays {t : Transfer} (h : Stays a s) : Stays a (ackExpired t s) := by
  unfold ackExpired
  try dsimp only
  repeat' first
    | exact h
    | exact h.upd {}
    | with_reducible refine setTransfer_stays ?_
    | with_reducible refine sendOffer_stays ?_
    | with_reducible refine failTransfer_stays ?_
    | refine Stays.upd (s := setTransfer _ _) ?_ {}
    | refine Stays.upd (s := sendOffer _ _) ?_ {}
    | refine Stays.upd (s := failTransfer _ _) ?_ {}
    | split

theorem captionChanged_stays {n : Nat} (h : Stays a s) : Stays a (captionChanged n s) := by
  unfold captionChanged
  try dsimp only
  repeat' first
    | exact h
    | exact h.upd {}
    | with_reducible refine sendFrame_stays ?_
    | with_reducible refine setTransfer_stays ?_
    | refine Stays.upd (s := sendFrame _ _) ?_ {}
    | refine Stays.upd (s := setTransfer _ _) ?_ {}
    | split

theorem sendCaption_stays {t : Transfer} (h : Stays a s) : Stays a (sendCaption t s) := by
  unfold sendCaption
  repeat' first
    | exact h
    | exact h.upd {}
    | with_reducible refine sendFrame_stays ?_
    | with_reducible refine setTransfer_stays ?_

theorem refusePeer_stays {r : PeerRequest} {shot : Nat} {why : RefuseReason}
    (h : Stays a s) : Stays a (refusePeer r shot why s) := by
  unfold refusePeer
  try dsimp only
  repeat' first
    | exact h
    | exact h.upd {}
    | with_reducible refine sendFrame_stays ?_
    | refine Stays.upd (s := sendFrame _ _) ?_ {}

theorem notAvailable_stays {r : PeerRequest} {shot : Nat} {k : Option FileKind} {why : MissingReason}
    (h : Stays a s) : Stays a (notAvailable r shot k why s) := by
  unfold notAvailable
  try dsimp only
  repeat' first
    | exact h
    | exact h.upd {}
    | with_reducible refine sendFrame_stays ?_
    | refine Stays.upd (s := sendFrame _ _) ?_ {}

theorem raisePeer_stays {r : PeerRequest} {shot : Nat} {k : Option FileKind} {count burst : Option Nat}
    (h : Stays a s) : Stays a (raisePeer r shot k count burst s) := by
  unfold raisePeer
  repeat' first
    | exact h
    | exact h.upd {}
    | with_reducible refine raise_stays ?_

theorem linkUpStep_stays (h : Stays a s) : Stays a (linkUpStep s) := by
  unfold linkUpStep
  split
  · split
    · exact raiseTether_stays (h.tether (p := { s.tp with phase := .idle, credits := 0 }) fun _ => by simp)
    · exact h
  · exact tetherLost_stays h

theorem tetherWake_stays (h : Stays a s) : Stays a (tetherWake s) :=
  h.tether (p := { s.tp with phase := .down, queue := [], deferred := 0, credits := 0, transfer := none }) (fun _ => by simp)
    fun _ => ⟨List.Pairwise.nil, fun _ h => nomatch h⟩

theorem sendSegment_stays {t : Transfer} (h : Stays a s) : Stays a (sendSegment t s) := by
  unfold sendSegment
  exact Stays.tether (sendFrame_stays h) fun hc => by dsimp only; omega

theorem tetherSleep_stays (h : Stays a s) : Stays a (tetherSleep s) := by
  unfold tetherSleep
  dsimp only
  have hk {u : State} (hu : Stays a u) (l : List Shot) (hl : l.length = u.ss.table.length) :
      Stays a { u with
        tp := { u.tp with queue := [], deferred := 0, credits := 0 }
        ss := { u.ss with table := l } } :=
    Stays.upd (hu.tether (p := { u.tp with queue := [], deferred := 0, credits := 0 }) (fun _ => by simp)
      fun _ => ⟨List.Pairwise.nil, fun _ h => nomatch h⟩) { table := hl }
  have h1 : Stays a (match s.tp.transfer with | some t => suspendTransfer t s | none => s) := by
    split
    · exact suspendTransfer_stays h
    · exact h
  split
  · exact hk h1 _ (List.length_map ..)
  · exact tetherDown_stays (hk h1 _ (List.length_map ..))

/-! ## The same in the weaker form, for the operations that also touch other blocks -/

theorem joinTether_keeps {atHead : Bool} {n : Nat} {k : FileKind} (h : Keeps a s) : Keeps a (joinTether atHead n k s) :=
  h.trans (joinTether_stays (Stays.refl s)).keeps
theorem refill_keeps (h : Keeps a s) : Keeps a (refill s) := h.trans (refill_stays (Stays.refl s)).keeps
theorem hastenSends_keeps {p : FileKind → Bool} {n : Nat} (h : Keeps a s) : Keeps a (hastenSends p n s) :=
  h.trans (hastenSends_stays (Stays.refl s)).keeps
theorem startTransfer_keeps (h : Keeps a s) : Keeps a (startTransfer s) :=
  h.trans (startTransfer_stays (Stays.refl s)).keeps
theorem declineTransfer_keeps {t : Transfer} (h : Keeps a s) : Keeps a (declineTransfer t s) :=
  h.trans (declineTransfer_stays (Stays.refl s)).keeps
theorem deleteTransfer_keeps {n : Nat} (h : Keeps a s) : Keeps a (deleteTransfer n s) :=
  h.trans (deleteTransfer_stays (Stays.refl s)).keeps
theorem staleFrame_keeps (h : Keeps a s) : Keeps a (staleFrame s) := h.trans (staleFrame_stays (Stays.refl s)).keeps
theorem badPeerFrame_keeps (h : Keeps a s) : Keeps a (badPeerFrame s) :=
  h.trans (badPeerFrame_stays (Stays.refl s)).keeps
theorem acceptTransfer_keeps {t : Transfer} {start : Nat} (h : Keeps a s) : Keeps a (acceptTransfer t start s) :=
  h.trans (acceptTransfer_stays (Stays.refl s)).keeps
theorem ackTransfer_keeps {t : Transfer} {offset : Nat} (h : Keeps a s) : Keeps a (ackTransfer t offset s) :=
  h.trans (ackTransfer_stays (Stays.refl s)).keeps
theorem tetherRead_keeps (h : Keeps a s) : Keeps a (tetherRead s) := h.trans (tetherRead_stays (Stays.refl s)).keeps
theorem ackExpired_keeps {t : Transfer} (h : Keeps a s) : Keeps a (ackExpired t s) :=
  h.trans (ackExpired_stays (Stays.refl s)).keeps
theorem sendCaption_keeps {t : Transfer} (h : Keeps a s) : Keeps a (sendCaption t s) :=
  h.trans (sendCaption_stays (Stays.refl s)).keeps
theorem refusePeer_keeps {r : PeerRequest} {shot : Nat} {why : RefuseReason} (h : Keeps a s) : Keeps a (refusePeer r shot why s) :=
  h.trans (refusePeer_stays (Stays.refl s)).keeps
theorem notAvailable_keeps {r : PeerRequest} {shot : Nat} {k : Option FileKind} {why : MissingReason} (h : Keeps a s) : Keeps a (notAvailable r shot k why s) :=
  h.trans (notAvailable_stays (Stays.refl s)).keeps
theorem raisePeer_keeps {r : PeerRequest} {shot : Nat} {k : Option FileKind} {count burst : Option Nat} (h : Keeps a s) : Keeps a (raisePeer r shot k count burst s) :=
  h.trans (raisePeer_stays (Stays.refl s)).keeps
theorem linkUpStep_keeps (h : Keeps a s) : Keeps a (linkUpStep s) := h.trans (linkUpStep_stays (Stays.refl s)).keeps
theorem tetherWake_keeps (h : Keeps a s) : Keeps a (tetherWake s) := h.trans (tetherWake_stays (Stays.refl s)).keeps
theorem sendSegment_keeps {t : Transfer} (h : Keeps a s) : Keeps a (sendSegment t s) :=
  h.trans (sendSegment_stays (Stays.refl s)).keeps
theorem tetherSleep_keeps (h : Keeps a s) : Keeps a (tetherSleep s) := h.trans (tetherSleep_stays (Stays.refl s)).keeps

end Sys2Proof.Machine
end

