-- ==== Sys2Proof/Laws/MemoKeeps.lean ====
section
/-! SUPPORT. What the operations on duties and those of the memo input keep (`Machine/Duties.lean`,
`Machine/MemoOps.lean`). -/

namespace Sys2Proof.Machine

-- One theorem at a time: the package as one text has more of them than the checker has threads.
set_option Elab.async false

open Sys2Proof

variable {a s : State}

theorem handDuty_stays {n : Nat} {k : DutyKey} (h : Stays a s) : Stays a (handDuty n k s) := by
  unfold handDuty
  try dsimp only
  repeat' first
    | exact h
    | exact h.upd {}
    | with_reducible refine handCard_stays ?_
    | with_reducible refine joinDevelop_stays ?_
    | with_reducible refine joinTether_stays ?_
    | refine Stays.upd (s := handCard _ _ _ _) ?_ {}
    | refine Stays.upd (s := joinDevelop _ _ _ _) ?_ {}
    | refine Stays.upd (s := joinTether _ _ _ _) ?_ {}
    | split

theorem appendDuty_stays {n : Nat} {k : DutyKey} {urgent : Bool}
    (h : Stays a s) : Stays a (appendDuty n k urgent s) := by
  unfold appendDuty
  repeat' first
    | exact h
    | exact h.upd {}
    | with_reducible refine modHeld_stays ?_

theorem resetDuty_stays {n : Nat} {k : DutyKey} {urgent : Bool}
    (h : Stays a s) : Stays a (resetDuty n k urgent s) := by
  unfold resetDuty
  repeat' first
    | exact h
    | exact h.upd {}
    | with_reducible refine setDuty_stays ?_

theorem putDuty_stays {back : DutyState → Bool} {n : Nat} {k : DutyKey} {urgent : Bool}
    (h : Stays a s) : Stays a (putDuty back n k urgent s) := by
  unfold putDuty
  try dsimp only
  repeat' first
    | exact h
    | exact h.upd {}
    | with_reducible refine handDuty_stays ?_
    | with_reducible refine appendDuty_stays ?_
    | with_reducible refine resetDuty_stays ?_
    | refine Stays.upd (s := handDuty _ _ _) ?_ {}
    | refine Stays.upd (s := appendDuty _ _ _ _) ?_ {}
    | refine Stays.upd (s := resetDuty _ _ _ _) ?_ {}
    | split

theorem needProof_stays {n : Nat} (h : Stays a s) : Stays a (needProof n s) := by
  unfold needProof
  try dsimp only
  repeat' first
    | exact h
    | exact h.upd {}
    | with_reducible refine handDuty_stays ?_
    | with_reducible refine appendDuty_stays ?_
    | with_reducible refine resetDuty_stays ?_
    | refine Stays.upd (s := handDuty _ _ _) ?_ {}
    | refine Stays.upd (s := appendDuty _ _ _ _) ?_ {}
    | refine Stays.upd (s := resetDuty _ _ _ _) ?_ {}
    | split

theorem markShot_stays {n : Nat} (h : Stays a s) : Stays a (markShot n s) := by
  unfold markShot
  dsimp only
  refine hastenDevelop_stays (hastenSends_stays (needProof_stays ?_))
  split
  · exact putDuty_stays (foldl_stays _ (fun _ _ => putDuty_stays) _ (modHeld_stays h))
  · exact foldl_stays _ (fun _ _ => putDuty_stays) _ (modHeld_stays h)

theorem captionCard_stays {n : Nat} {sl : Slot} (h : Stays a s) : Stays a (captionCard n sl s) := by
  unfold captionCard
  try dsimp only
  repeat' first
    | exact h
    | exact h.upd {}
    | with_reducible refine setDuty_stays ?_
    | with_reducible refine putDuty_stays ?_
    | refine Stays.upd (s := setDuty _ _ _ _) ?_ {}
    | refine Stays.upd (s := putDuty _ _ _ _ _) ?_ {}
    | split

theorem captionSend_stays {n : Nat} (h : Stays a s) : Stays a (captionSend n s) := by
  unfold captionSend
  try dsimp only
  repeat' first
    | exact h
    | exact h.upd {}
    | with_reducible refine putDuty_stays ?_
    | refine Stays.upd (s := putDuty _ _ _ _ _) ?_ {}
    | split

theorem setCaption_stays {n : Nat} {c : List Byte} (h : Stays a s) : Stays a (setCaption n c s) := by
  unfold setCaption
  try dsimp only
  repeat' first
    | exact h
    | exact h.upd {}
    | with_reducible refine captionChanged_stays ?_
    | with_reducible refine modHeld_stays ?_
    | with_reducible refine captionCard_stays ?_
    | with_reducible refine captionSend_stays ?_

theorem memoIdle_stays (h : Stays a s) : Stays a (memoIdle s) := by
  unfold memoIdle
  repeat' first
    | exact h
    | exact h.upd {}

theorem replaceFile_stays {n : Nat} {sl : Slot} (h : Stays a s) : Stays a (replaceFile n sl s) := by
  unfold replaceFile
  try dsimp only
  repeat' first
    | exact h
    | exact h.upd {}
    | with_reducible refine abandon_stays ?_
    | refine Stays.upd (s := abandon _ _ _) ?_ {}
    | split

theorem replaceMemo_stays {n : Nat} (h : Stays a s) : Stays a (replaceMemo n s) := by
  unfold replaceMemo
  try dsimp only
  repeat' first
    | exact h
    | exact h.upd {}
    | with_reducible refine giveBlocks_stays ?_
    | with_reducible refine modHeld_stays ?_
    | with_reducible refine replaceTransfer_stays ?_
    | with_reducible refine replaceFile_stays ?_
    | refine Stays.upd (s := giveBlocks _ _) ?_ {}
    | refine Stays.upd (s := modHeld _ _ _) ?_ {}
    | refine Stays.upd (s := replaceTransfer _ _) ?_ {}
    | refine Stays.upd (s := replaceFile _ _ _) ?_ {}
    | split

theorem memoDuties_stays {n : Nat} (h : Stays a s) : Stays a (memoDuties n s) := by
  unfold memoDuties
  dsimp only
  have hf := foldl_stays (fun t sl => putDuty DutyState.isEnded n (.card .memo sl) false t) (fun _ _ => putDuty_stays)
    s.memoTargets h
  repeat' first
    | exact hf
    | exact putDuty_stays hf
    | split


theorem attachMemo_stays {m : MemoRec} (h : Stays a s) : Stays a (attachMemo m s) := by
  unfold attachMemo
  try dsimp only
  repeat' first
    | exact h
    | exact h.upd {}
    | with_reducible refine modHeld_stays ?_
    | with_reducible refine replaceMemo_stays ?_
    | with_reducible refine memoDuties_stays ?_
    | refine Stays.upd (s := modHeld _ _ _) ?_ {}
    | refine Stays.upd (s := replaceMemo _ _) ?_ {}
    | refine Stays.upd (s := memoDuties _ _) ?_ {}

theorem endMemo_stays {r : MemoReason} {m : MemoRec} (h : Stays a s) : Stays a (endMemo r m s) := by
  unfold endMemo
  try dsimp only
  repeat' first
    | exact h
    | exact h.upd {}
    | with_reducible refine giveBlocks_stays ?_
    | with_reducible refine raiseMemoEnd_stays ?_
    | with_reducible refine shotTests_stays ?_
    | with_reducible refine slotSettle_stays ?_
    | with_reducible refine memoIdle_stays ?_
    | with_reducible refine attachMemo_stays ?_
    | refine Stays.upd (s := giveBlocks _ _) ?_ {}
    | refine Stays.upd (s := raiseMemoEnd _ _ _ _ _ _) ?_ {}
    | refine Stays.upd (s := shotTests _ _) ?_ {}
    | refine Stays.upd (s := slotSettle _ _) ?_ {}
    | refine Stays.upd (s := memoIdle _) ?_ {}
    | refine Stays.upd (s := attachMemo _ _) ?_ {}
    | split

theorem cancelMemo_stays {m : MemoRec} (h : Stays a s) : Stays a (cancelMemo m s) := by
  unfold cancelMemo
  repeat' first
    | exact h
    | exact h.upd {}
    | with_reducible refine raiseMemoEnd_stays ?_
    | with_reducible refine memoIdle_stays ?_

theorem abortMemo_stays {n : Nat} (h : Stays a s) : Stays a (abortMemo n s) := by
  unfold abortMemo
  try dsimp only
  repeat' first
    | exact h
    | exact h.upd {}
    | with_reducible refine giveBlocks_stays ?_
    | with_reducible refine raiseMemoEnd_stays ?_
    | with_reducible refine memoIdle_stays ?_
    | refine Stays.upd (s := giveBlocks _ _) ?_ {}
    | refine Stays.upd (s := raiseMemoEnd _ _ _ _ _ _) ?_ {}
    | refine Stays.upd (s := memoIdle _) ?_ {}
    | split

theorem setMemo_stays {m : MemoRec} (h : Stays a s) : Stays a (setMemo m s) := by
  unfold setMemo
  repeat' first
    | exact h
    | exact h.upd {}

/-- A block asked of the store, and given. -/
theorem askBlock_stays {m : MemoRec} {r : MemoRec × State} (hr : askBlock m s = some r) (h : Stays a s) : Stays a r.2 := by
  unfold askBlock at hr
  split at hr
  · cases hr
    exact takeBlocks_stays h
  · cases hr

theorem withRoom_stays {m : MemoRec} {r : MemoRec × State} (hr : withRoom m s = some r) (h : Stays a s) : Stays a r.2 := by
  unfold withRoom at hr
  split at hr
  · cases hr
    exact h
  · exact askBlock_stays hr h

theorem recordSample_stays {x : Int} {m : MemoRec} (h : Stays a s) : Stays a (recordSample x m s) := by
  unfold recordSample
  split
  · exact endMemo_stays h
  · rename_i m1 s1 hr
    dsimp only
    have hk {v : Memo} : Stays a { s1 with mem := writeExtent m1.blocks (leInt 2 x) (2 * m1.samples) s1.mem, mi := v } :=
      Stays.upd ((withRoom_stays hr h).bytes (writeExtent_wf m1.blocks (leInt 2 x) (2 * m1.samples) s1.mem)) {}
    split
    · exact endMemo_stays (setMemo_stays hk)
    · exact setMemo_stays hk

theorem startRecording_stays {m : MemoRec} (h : Stays a s) : Stays a (startRecording m s) := by
  unfold startRecording
  dsimp only
  split
  · exact endMemo_stays (h.upd {})
  · rename_i hr
    exact setMemo_stays (askBlock_stays hr (h.upd {}))


theorem startMemo_stays {n : Nat} (h : Stays a s) : Stays a (startMemo n s) := by
  unfold startMemo
  try dsimp only
  repeat' first
    | exact h
    | exact h.upd {}
    | with_reducible refine startRecording_stays ?_
    | refine Stays.upd (s := startRecording _ _) ?_ {}
    | split

theorem voiceStart_stays {m : MemoRec} {l : List Int} (h : Stays a s) : Stays a (voiceStart m l s) := by
  unfold voiceStart
  dsimp only
  split
  · exact endMemo_stays (h.upd {})
  · rename_i hr
    exact setMemo_stays ((askBlock_stays hr (h.upd {})).bytes (writeExtent_wf _ _ _ _))

theorem endActivity_stays (h : Stays a s) : Stays a (endActivity s) := by
  unfold endActivity
  dsimp only
  have hk {v : Memo} : Stays a { s with mi := v } := h.upd {}
  repeat' first
    | exact hk
    | refine voiceStart_stays ?_
    | refine endMemo_stays ?_
    | refine setMemo_stays ?_
    | split

theorem takeSample_stays {x : Int} (h : Stays a s) : Stays a (takeSample x s) := by
  unfold takeSample
  try dsimp only
  repeat' first
    | exact h
    | exact h.upd {}
    | with_reducible refine recordSample_stays ?_
    | refine Stays.upd (s := recordSample _ _ _) ?_ {}
    | split

theorem pdmWord_stays {bits : BitVec 192} (h : Stays a s) : Stays a (pdmWord bits s) := by
  unfold pdmWord
  try dsimp only
  repeat' first
    | exact h
    | exact h.upd {}
    | with_reducible refine takeSample_stays ?_
    | refine Stays.upd (s := takeSample _ _) ?_ {}
    | split

theorem memoSleep_stays (h : Stays a s) : Stays a (memoSleep s) := by
  unfold memoSleep
  try dsimp only
  repeat' first
    | exact h
    | exact h.upd {}
    | with_reducible refine cancelMemo_stays ?_
    | refine Stays.upd (s := cancelMemo _ _) ?_ {}
    | split

theorem memoWake_stays (h : Stays a s) : Stays a (memoWake s) := by
  unfold memoWake
  repeat' first
    | exact h
    | exact h.upd {}

/-! ## The same in the weaker form, for the operations that also touch other blocks -/

theorem handDuty_keeps {n : Nat} {k : DutyKey} (h : Keeps a s) : Keeps a (handDuty n k s) :=
  h.trans (handDuty_stays (Stays.refl s)).keeps
theorem putDuty_keeps {back : DutyState → Bool} {n : Nat} {k : DutyKey} {urgent : Bool} (h : Keeps a s) : Keeps a (putDuty back n k urgent s) :=
  h.trans (putDuty_stays (Stays.refl s)).keeps
theorem needProof_keeps {n : Nat} (h : Keeps a s) : Keeps a (needProof n s) :=
  h.trans (needProof_stays (Stays.refl s)).keeps
theorem markShot_keeps {n : Nat} (h : Keeps a s) : Keeps a (markShot n s) :=
  h.trans (markShot_stays (Stays.refl s)).keeps
theorem setCaption_keeps {n : Nat} {c : List Byte} (h : Keeps a s) : Keeps a (setCaption n c s) :=
  h.trans (setCaption_stays (Stays.refl s)).keeps
theorem endMemo_keeps {r : MemoReason} {m : MemoRec} (h : Keeps a s) : Keeps a (endMemo r m s) :=
  h.trans (endMemo_stays (Stays.refl s)).keeps
theorem cancelMemo_keeps {m : MemoRec} (h : Keeps a s) : Keeps a (cancelMemo m s) :=
  h.trans (cancelMemo_stays (Stays.refl s)).keeps
theorem abortMemo_keeps {n : Nat} (h : Keeps a s) : Keeps a (abortMemo n s) :=
  h.trans (abortMemo_stays (Stays.refl s)).keeps
theorem startMemo_keeps {n : Nat} (h : Keeps a s) : Keeps a (startMemo n s) :=
  h.trans (startMemo_stays (Stays.refl s)).keeps
theorem endActivity_keeps (h : Keeps a s) : Keeps a (endActivity s) := h.trans (endActivity_stays (Stays.refl s)).keeps
theorem pdmWord_keeps {bits : BitVec 192} (h : Keeps a s) : Keeps a (pdmWord bits s) :=
  h.trans (pdmWord_stays (Stays.refl s)).keeps
theorem memoSleep_keeps (h : Keeps a s) : Keeps a (memoSleep s) := h.trans (memoSleep_stays (Stays.refl s)).keeps
theorem memoWake_keeps (h : Keeps a s) : Keeps a (memoWake s) := h.trans (memoWake_stays (Stays.refl s)).keeps

end Sys2Proof.Machine
end

