-- ==== Sys2Proof/Laws/ReleaseKeeps.lean ====
section
/-! SUPPORT. What the operations of the settings and of the release and timing unit keep (`Machine/Settings.lean`,
`Machine/Timing.lean`). -/

namespace Sys2Proof.Machine

-- One theorem at a time: the package as one text has more of them than the checker has threads.
set_option Elab.async false

open Sys2Proof

variable {a s : State}

/-- A quotient rounded up, times its divisor, is the first multiple at or after the dividend. -/
theorem ceilDivInt_bounds (a : Int) {p : Nat} (hp : 0 < p) : a ≤ ceilDivInt a p * p ∧ ceilDivInt a p * p < a + p := by
  have hge := Int.emod_nonneg (-a) (b := (p : Int)) (by omega)
  have hlt := Int.emod_lt_of_pos (-a) (b := (p : Int)) (by omega)
  have hsum := Int.mul_ediv_add_emod (-a) p
  have hneg : ceilDivInt a p * p = -(p * (-a / (p : Int))) := by unfold ceilDivInt; ring
  omega

/-- All that new sync values do to the sync state (R70). -/
theorem syncApplied_takes (old new : BurstCfg) (time : Nat) (r : Rtu) :
    r.TakesSync old new time (syncApplied old new time r) := by
  unfold Rtu.TakesSync syncApplied
  split_ifs with hmode hperiod
  · exact ⟨rfl, fun _ => ⟨rfl, rfl, rfl⟩, fun h => absurd h hmode⟩
  · refine ⟨rfl, fun h => absurd h ‹_›, fun _ => ⟨rfl, rfl, ?_, fun g hg _ hp => ?_⟩⟩
    · rintro (h | h)
      · simp [h]
      · exact absurd h hperiod
    · have hb := ceilDivInt_bounds (time - g.anchor) hp
      exact ⟨ceilDivInt (time - g.anchor) g.period, by simp [hg], by omega, by omega⟩
  · exact ⟨rfl, fun h => absurd h ‹_›, fun _ => ⟨rfl, rfl, fun _ => rfl, fun _ _ h => absurd h ‹_›⟩⟩

/-- A field's value that is in its range leaves the index value in the counter's range (R204, R113). -/
theorem Cfg.put_index {c c' : Cfg} {f : Field} {v : CfgVal} (h : c.put f v = some c') (hi : InCounter c.lens.indexValue) :
    InCounter c'.lens.indexValue := by
  cases f <;> simp only [Cfg.put, Option.map_eq_some_iff] at h <;> obtain ⟨x, hx, rfl⟩ := h
  case indexValue =>
    cases v <;> simp only [intIn, reduceCtorEq] at hx
    split_ifs at hx with hr
    cases hx
    exact hr
  all_goals exact hi

/-- Applying a value leaves the index value in the counter's range. -/
theorem Cfg.apply_index {c : Cfg} {f : Field} {v : CfgVal} (hi : InCounter c.lens.indexValue) :
    InCounter (c.apply f v).lens.indexValue := by
  unfold Cfg.apply
  cases h : c.put f v with
  | none => exact hi
  | some c' => exact Cfg.put_index h hi

/-- A changed configuration record and its waiting values. -/
theorem Keeps.config (h : Keeps a s) {c : Cfg} {w : List (Field × CfgVal)}
    (hc : InCounter s.cfg.lens.indexValue → InCounter c.lens.indexValue) : Keeps a { s with cfg := c, waiting := w } :=
  h.trans
    { pending := rfl
      time := rfl
      lost := id
      sound := fun x => ⟨x.memory, x.notices, x.table, x.credits, x.auxQueue, x.auxHistory, x.counter, hc x.index, x.areas,
        x.recipes, x.sends⟩ }

theorem applyWaiting_keeps {p : Field → Bool} (h : Keeps a s) : Keeps a (applyWaiting p s) := by
  refine h.config fun hi => ?_
  generalize s.waiting.filter (fun w => p w.1) = l
  generalize s.cfg = c at hi
  induction l generalizing c with
  | nil => exact hi
  | cons w l ih => exact ih _ (Cfg.apply_index hi)


theorem setWaiting_keeps {f : Field} {v : CfgVal} (h : Keeps a s) : Keeps a (setWaiting f v s) := by
  unfold setWaiting
  try dsimp only
  repeat' first
    | exact h
    | exact h.upd {}

theorem applyBurst_keeps (h : Keeps a s) : Keeps a (applyBurst s) := by
  unfold applyBurst
  try dsimp only
  repeat' first
    | exact h
    | exact h.upd {}
    | refine applyWaiting_keeps ?_
    | refine Keeps.upd (s := applyWaiting _ _) ?_ {}

theorem requestFrame_keeps {b : BurstRec} {k : Nat} (h : Keeps a s) : Keeps a (requestFrame b k s) := by
  unfold requestFrame
  try dsimp only
  repeat' first
    | exact h
    | exact h.upd {}

theorem clearEntry_keeps {p : Shot → Bool} (h : Keeps a s) : Keeps a (clearEntry p s) := by
  unfold clearEntry
  try dsimp only
  repeat' first
    | exact h
    | exact h.upd {}
    | refine giveBlocks_keeps ?_
    | refine modEntry_keeps ?_
    | refine Keeps.upd (s := giveBlocks _ _) ?_ {}
    | refine Keeps.upd (s := modEntry _ _ _) ?_ {}
    | split

theorem returnReservation_keeps (h : Keeps a s) : Keeps a (returnReservation s) := by
  unfold returnReservation
  repeat' first
    | exact h
    | exact h.upd {}
    | refine clearEntry_keeps ?_

theorem withdrawRequest_keeps (h : Keeps a s) : Keeps a (withdrawRequest s) := by
  unfold withdrawRequest
  repeat' first
    | exact h
    | exact h.upd {}

theorem voidShot_keeps {p : Shot → Bool} {r : VoidReason} (h : Keeps a s) : Keeps a (voidShot p r s) := by
  unfold voidShot
  try dsimp only
  repeat' first
    | exact h
    | exact h.upd {}
    | refine raise_keeps ?_
    | refine clearEntry_keeps ?_
    | refine Keeps.upd (s := raise _ _ _ _) ?_ {}
    | refine Keeps.upd (s := clearEntry _ _) ?_ {}
    | split

theorem modBurst_keeps {f : BurstRec → BurstRec} (h : Keeps a s) : Keeps a (modBurst f s) := by
  unfold modBurst
  repeat' first
    | exact h
    | exact h.upd {}

theorem finishBurst_keeps {r : EndReason} (h : Keeps a s) : Keeps a (finishBurst r s) := by
  unfold finishBurst
  try dsimp only
  repeat' first
    | exact h
    | exact h.upd {}
    | refine raise_keeps ?_
    | refine returnReservation_keeps ?_
    | refine withdrawRequest_keeps ?_
    | refine Keeps.upd (s := raise _ _ _ _) ?_ {}
    | refine Keeps.upd (s := returnReservation _) ?_ {}
    | refine Keeps.upd (s := withdrawRequest _) ?_ {}
    | split

theorem cutBurst_keeps {r : EndReason} {v : VoidReason} (h : Keeps a s) : Keeps a (cutBurst r v s) := by
  unfold cutBurst
  try dsimp only
  repeat' first
    | exact h
    | exact h.upd {}
    | refine voidShot_keeps ?_
    | refine modBurst_keeps ?_
    | refine finishBurst_keeps ?_
    | refine Keeps.upd (s := voidShot _ _ _) ?_ {}
    | refine Keeps.upd (s := modBurst _ _) ?_ {}
    | refine Keeps.upd (s := finishBurst _ _) ?_ {}
    | split

theorem linkLost_keeps {byStop : Bool} (h : Keeps a s) : Keeps a (linkLost byStop s) := by
  unfold linkLost
  try dsimp only
  repeat' first
    | exact h
    | exact h.upd {}
    | refine cutBurst_keeps ?_
    | refine Keeps.upd (s := cutBurst _ _ _) ?_ {}
    | split

theorem enterWaiting_keeps (h : Keeps a s) : Keeps a (enterWaiting s) := by
  unfold enterWaiting
  try dsimp only
  repeat' first
    | exact h
    | exact h.upd {}
    | split

theorem startBurst_keeps {owner : Owner} {count : Option Nat}
    (h : Keeps a s) : Keeps a (startBurst owner count s) := by
  unfold startBurst
  try dsimp only
  repeat' first
    | exact h
    | exact h.upd {}
    | refine applyBurst_keeps ?_
    | refine requestFrame_keeps ?_
    | refine finishBurst_keeps ?_
    | refine enterWaiting_keeps ?_
    | refine Keeps.upd (s := applyBurst _) ?_ {}
    | refine Keeps.upd (s := requestFrame _ _ _) ?_ {}
    | refine Keeps.upd (s := finishBurst _ _) ?_ {}
    | refine Keeps.upd (s := enterWaiting _) ?_ {}
    | split

theorem takeRelease_keeps {owner : Owner} {count : Option Nat}
    (h : Keeps a s) : Keeps a (takeRelease owner count s) := by
  unfold takeRelease
  try dsimp only
  repeat' first
    | exact h
    | exact h.upd {}
    | refine modBurst_keeps ?_
    | refine startBurst_keeps ?_
    | refine Keeps.upd (s := modBurst _ _) ?_ {}
    | refine Keeps.upd (s := startBurst _ _ _) ?_ {}
    | split

theorem takeOwnerEnd_keeps (h : Keeps a s) : Keeps a (takeOwnerEnd s) := by
  unfold takeOwnerEnd
  try dsimp only
  repeat' first
    | exact h
    | exact h.upd {}
    | refine returnReservation_keeps ?_
    | refine withdrawRequest_keeps ?_
    | refine modBurst_keeps ?_
    | refine finishBurst_keeps ?_
    | refine Keeps.upd (s := returnReservation _) ?_ {}
    | refine Keeps.upd (s := withdrawRequest _) ?_ {}
    | refine Keeps.upd (s := modBurst _ _) ?_ {}
    | refine Keeps.upd (s := finishBurst _ _) ?_ {}
    | split

theorem closeFrame_keeps {landed : Bool} (h : Keeps a s) : Keeps a (closeFrame landed s) := by
  unfold closeFrame
  try dsimp only
  repeat' first
    | exact h
    | exact h.upd {}
    | refine modBurst_keeps ?_
    | refine finishBurst_keeps ?_
    | refine enterWaiting_keeps ?_
    | refine Keeps.upd (s := modBurst _ _) ?_ {}
    | refine Keeps.upd (s := finishBurst _ _) ?_ {}
    | refine Keeps.upd (s := enterWaiting _) ?_ {}
    | split

theorem sampleDelay_keeps {k : Nat} (h : Keeps a s) : Keeps a (sampleDelay k s) := by
  unfold sampleDelay
  try dsimp only
  repeat' first
    | exact h
    | exact h.upd {}
    | split

theorem stampShot_keeps {b : BurstRec} (h : Keeps a s) : Keeps a (stampShot b s) := by
  unfold stampShot
  try dsimp only
  repeat' first
    | exact h
    | exact h.upd {}
    | refine modEntry_keeps ?_
    | refine Keeps.upd (s := modEntry _ _ _) ?_ {}

theorem noteLate_keeps {b : BurstRec} {late : Int} (h : Keeps a s) : Keeps a (noteLate b late s) := by
  unfold noteLate
  try dsimp only
  repeat' first
    | exact h
    | exact h.upd {}
    | refine raise_keeps ?_
    | refine modBurst_keeps ?_
    | refine Keeps.upd (s := raise _ _ _ _) ?_ {}
    | refine Keeps.upd (s := modBurst _ _) ?_ {}
    | split

theorem fireFrame_keeps {b : BurstRec} (h : Keeps a s) : Keeps a (fireFrame b s) := by
  unfold fireFrame
  try dsimp only
  repeat' first
    | exact h
    | exact h.upd {}
    | refine requestFrame_keeps ?_
    | refine modBurst_keeps ?_
    | refine sampleDelay_keeps ?_
    | refine stampShot_keeps ?_
    | refine noteLate_keeps ?_
    | refine Keeps.upd (s := requestFrame _ _ _) ?_ {}
    | refine Keeps.upd (s := modBurst _ _) ?_ {}
    | refine Keeps.upd (s := sampleDelay _ _) ?_ {}
    | refine Keeps.upd (s := stampShot _ _) ?_ {}
    | refine Keeps.upd (s := noteLate _ _ _) ?_ {}
    | split

theorem moveGrid_keeps {place : Int} (h : Keeps a s) : Keeps a (moveGrid place s) := by
  unfold moveGrid
  try dsimp only
  repeat' first
    | exact h
    | exact h.upd {}
    | refine modEntry_keeps ?_
    | refine Keeps.upd (s := modEntry _ _ _) ?_ {}
    | split

theorem realign_keeps (h : Keeps a s) : Keeps a (realign s) := by
  unfold realign
  try dsimp only
  repeat' first
    | exact h
    | exact h.upd {}
    | refine moveGrid_keeps ?_
    | refine Keeps.upd (s := moveGrid _ _) ?_ {}
    | split

theorem noteWindow_keeps {e : Int} (h : Keeps a s) : Keeps a (noteWindow e s) := by
  unfold noteWindow
  try dsimp only
  repeat' first
    | exact h
    | exact h.upd {}
    | refine raise_keeps ?_
    | refine Keeps.upd (s := raise _ _ _ _) ?_ {}
    | split

theorem syncAct_keeps {err : Option Int} {live : Bool} (h : Keeps a s) : Keeps a (syncAct err live s) := by
  unfold syncAct
  try dsimp only
  repeat' first
    | exact h
    | exact h.upd {}
    | refine takeRelease_keeps ?_
    | refine realign_keeps ?_
    | refine noteWindow_keeps ?_
    | refine Keeps.upd (s := takeRelease _ _ _) ?_ {}
    | refine Keeps.upd (s := realign _) ?_ {}
    | refine Keeps.upd (s := noteWindow _ _) ?_ {}
    | split

theorem syncEdgeAt_keeps {live : Bool} (h : Keeps a s) : Keeps a (syncEdgeAt live s) := by
  unfold syncEdgeAt
  try dsimp only
  repeat' first
    | exact h
    | exact h.upd {}
    | refine syncAct_keeps ?_

theorem filterTake_keeps {live : Bool} (h : Keeps a s) : Keeps a (filterTake live s) := by
  unfold filterTake
  try dsimp only
  repeat' first
    | exact h
    | exact h.upd {}
    | refine takeRelease_keeps ?_
    | refine takeOwnerEnd_keeps ?_
    | refine Keeps.upd (s := takeRelease _ _ _) ?_ {}
    | refine Keeps.upd (s := takeOwnerEnd _) ?_ {}
    | split

theorem filterStart_keeps {live : Bool} (h : Keeps a s) : Keeps a (filterStart live s) := by
  unfold filterStart
  try dsimp only
  repeat' first
    | exact h
    | exact h.upd {}
    | refine filterTake_keeps ?_
    | refine Keeps.upd (s := filterTake _ _) ?_ {}
    | split

end Sys2Proof.Machine
end

