-- ==== Sys2Proof/Laws/ShotKeeps.lean ====
section
/-! SUPPORT. What the operations over whole shots and the read wheel keep (`Machine/StoreOps.lean`). -/

namespace Sys2Proof.Machine

-- One theorem at a time: the package as one text has more of them than the checker has threads.
set_option Elab.async false

open Sys2Proof

variable {a s : State}

theorem grantReservation_keeps {r : ResReq} (h : Keeps a s) : Keeps a (grantReservation r s) := by
  unfold grantReservation
  exact retest_keeps (modEntry_keeps (takeBlocks_keeps (h.upd {})))

theorem applyAtLanding_keeps (h : Keeps a s) : Keeps a (applyAtLanding s) := by
  unfold applyAtLanding
  try dsimp only
  repeat' first
    | exact h
    | exact h.upd {}
    | with_reducible refine applyWaiting_keeps ?_
    | refine Keeps.upd (s := applyWaiting _ _) ?_ {}

theorem landShot_keeps {black : Planes} (h : Keeps a s) : Keeps a (landShot black s) := by
  unfold landShot
  split
  · exact h
  · dsimp only
    exact shotTests_keeps
      (foldl_keeps _ (fun _ _ => handDuty_keeps) _ (Keeps.upd (modEntry_keeps (applyAtLanding_keeps h)) {}))

theorem markNumber_keeps {n : Nat} {t : State} (ht : markNumber n s = some t) (h : Keeps a s) : Keeps a t := by
  unfold markNumber at ht
  split at ht
  · cases ht
    exact markShot_keeps h
  · cases ht

theorem markCurrent_keeps {r : Nat × State} (hr : markCurrent s = some r) (h : Keeps a s) : Keeps a r.2 := by
  unfold markCurrent at hr
  split at hr
  · cases hr
    exact modEntry_keeps h
  · split at hr
    · cases hr
      exact modEntry_keeps h
    · simp only [Option.bind_eq_some_iff, Option.map_eq_some_iff] at hr
      obtain ⟨n, -, t, ht, rfl⟩ := hr
      exact markNumber_keeps ht h


theorem deleteFile_keeps {n : Nat} {sl : Slot} (h : Keeps a s) : Keeps a (deleteFile n sl s) := by
  unfold deleteFile
  try dsimp only
  repeat' first
    | exact h
    | exact h.upd {}
    | with_reducible refine abandon_keeps ?_
    | with_reducible refine slotSettle_keeps ?_
    | refine Keeps.upd (s := abandon _ _ _) ?_ {}
    | refine Keeps.upd (s := slotSettle _ _) ?_ {}
    | split

theorem dropEntries_keeps {n : Nat} (h : Keeps a s) : Keeps a (dropEntries n s) := by
  unfold dropEntries
  exact Keeps.upd (s := { s with tp := s.tp.without n _ }) (h.tether id fun o => o.sub List.filter_sublist rfl) {}

theorem deleteShot_keeps {n : Nat} (h : Keeps a s) : Keeps a (deleteShot n s) := by
  unfold deleteShot
  exact shotTests_keeps (abortMemo_keeps (proofTest_keeps (deleteTransfer_keeps (abortJob_keeps (refill_keeps
    (slotSettle_keeps (slotSettle_keeps (deleteFile_keeps (deleteFile_keeps (proofTest_keeps
      (modHeld_keeps (dropEntries_keeps h))))))))))))

theorem pullShot_keeps {n : Nat} {k : FileKind} (h : Keeps a s) : Keeps a (pullShot n k s) := by
  unfold pullShot
  try dsimp only
  repeat' first
    | exact h
    | exact h.upd {}
    | with_reducible refine hastenSends_keeps ?_
    | with_reducible refine needProof_keeps ?_
    | with_reducible refine putDuty_keeps ?_
    | refine Keeps.upd (s := hastenSends _ _ _) ?_ {}
    | refine Keeps.upd (s := needProof _ _) ?_ {}
    | refine Keeps.upd (s := putDuty _ _ _ _ _) ?_ {}
    | split

theorem grantRead_keeps {r : Reader} (h : Keeps a s) : Keeps a (grantRead r s) := by
  unfold grantRead
  try dsimp only
  repeat' first
    | exact h
    | exact h.upd {}
    | with_reducible refine cardRead_keeps ?_
    | with_reducible refine developRead_keeps ?_
    | with_reducible refine tetherRead_keeps ?_
    | refine Keeps.upd (s := cardRead _ _) ?_ {}
    | refine Keeps.upd (s := developRead _) ?_ {}
    | refine Keeps.upd (s := tetherRead _) ?_ {}
    | split

theorem visitSlot_keeps (h : Keeps a s) : Keeps a (visitSlot s) := by
  unfold visitSlot
  have h1 : Keeps a (if s.ss.wheelPos = 0 then applyWaiting (fun f => f == .wheel) s else s) := by
    split
    · exact applyWaiting_keeps h
    · exact h
  generalize (if s.ss.wheelPos = 0 then applyWaiting (fun f => f == .wheel) s else s) = u at h1
  dsimp only
  split
  · exact Keeps.upd (grantRead_keeps h1) {}
  · exact h1.upd {}

theorem handCardDuties_keeps {sl : Slot} {t : Shot} (h : Keeps a s) : Keeps a (handCardDuties sl t s) := by
  refine foldl_keeps _ (fun u k hu => ?_) _ h
  split
  · exact handDuty_keeps hu
  · exact hu

theorem handBack_keeps (h : Keeps a s) : Keeps a (handBack s) := by
  unfold handBack
  dsimp only
  refine foldl_keeps _ (fun _ _ => joinTether_keeps) _ (foldl_keeps _ (fun u t hu => ?_) _
    (foldl_keeps _ (fun _ _ hu => handCardDuties_keeps (handCardDuties_keeps hu)) _ h))
  repeat' first
    | exact hu
    | exact joinDevelop_keeps hu
    | split


theorem storeHeld_keeps (h : Keeps a s) : Keeps a (storeHeld s) := by
  unfold storeHeld
  repeat' first
    | exact h
    | exact h.upd {}

end Sys2Proof.Machine
end

