-- ==== Sys2Proof/Laws/SensorKeeps.lean ====
section
/-! SUPPORT. What the operations of the sensor port keep (`Machine/SensorOps.lean`). -/

namespace Sys2Proof.Machine

-- One theorem at a time: the package as one text has more of them than the checker has threads.
set_option Elab.async false

open Sys2Proof

variable {a s : State}

theorem modSensor_keeps {f : SensorPort → SensorPort} (h : Keeps a s) : Keeps a (modSensor f s) := by
  unfold modSensor
  exact h.upd {}

theorem raiseRetrain_keeps {lane : Option Nat} {r : RetrainReason}
    (h : Keeps a s) : Keeps a (raiseRetrain lane r s) := by
  unfold raiseRetrain
  repeat' first
    | exact h
    | exact h.upd {}
    | with_reducible refine raise_keeps ?_

theorem requestRetrain_keeps {lane : Option Nat} {r : RetrainReason}
    (h : Keeps a s) : Keeps a (requestRetrain lane r s) := by
  unfold requestRetrain
  repeat' first
    | exact h
    | exact h.upd {}
    | with_reducible refine retest_keeps ?_
    | with_reducible refine modSensor_keeps ?_
    | with_reducible refine raiseRetrain_keeps ?_

theorem errorTest_keeps (h : Keeps a s) : Keeps a (errorTest s) := by
  unfold errorTest
  try dsimp only
  repeat' first
    | exact h
    | exact h.upd {}
    | with_reducible refine requestRetrain_keeps ?_
    | refine Keeps.upd (s := requestRetrain _ _ _) ?_ {}
    | split

theorem laneError_keeps {i : Nat} (h : Keeps a s) : Keeps a (laneError i s) := by
  unfold laneError
  try dsimp only
  repeat' first
    | exact h
    | exact h.upd {}
    | with_reducible refine modSensor_keeps ?_
    | with_reducible refine errorTest_keeps ?_
    | refine Keeps.upd (s := modSensor _ _) ?_ {}
    | refine Keeps.upd (s := errorTest _) ?_ {}
    | split

theorem allError_keeps (h : Keeps a s) : Keeps a (allError s) := by
  unfold allError
  try dsimp only
  repeat' first
    | exact h
    | exact h.upd {}
    | with_reducible refine modSensor_keeps ?_
    | with_reducible refine errorTest_keeps ?_
    | refine Keeps.upd (s := modSensor _ _) ?_ {}
    | refine Keeps.upd (s := errorTest _) ?_ {}
    | split

theorem orderError_keeps (h : Keeps a s) : Keeps a (orderError s) := by
  unfold orderError
  repeat' first
    | exact h
    | exact h.upd {}
    | with_reducible refine modSensor_keeps ?_

theorem raiseLink_keeps {reason : String} (h : Keeps a s) : Keeps a (raiseLink reason s) := by
  unfold raiseLink
  repeat' first
    | exact h
    | exact h.upd {}
    | with_reducible refine raise_keeps ?_

theorem abandonReadout_keeps (h : Keeps a s) : Keeps a (abandonReadout s) := by
  unfold abandonReadout
  repeat' first
    | exact h
    | exact h.upd {}
    | with_reducible refine modSensor_keeps ?_

theorem assertTraining_keeps (h : Keeps a s) : Keeps a (assertTraining s) := by
  unfold assertTraining
  repeat' first
    | exact h
    | exact h.upd {}
    | with_reducible refine modSensor_keeps ?_

theorem releaseTraining_keeps (h : Keeps a s) : Keeps a (releaseTraining s) := by
  unfold releaseTraining
  repeat' first
    | exact h
    | exact h.upd {}
    | with_reducible refine modSensor_keeps ?_

theorem failAttempt_keeps {r : FailReason} (h : Keeps a s) : Keeps a (failAttempt r s) := by
  unfold failAttempt
  try dsimp only
  repeat' first
    | exact h
    | exact h.upd {}
    | with_reducible refine linkLost_keeps ?_
    | with_reducible refine modSensor_keeps ?_
    | with_reducible refine raiseLink_keeps ?_
    | with_reducible refine releaseTraining_keeps ?_
    | refine Keeps.upd (s := linkLost _ _) ?_ {}
    | refine Keeps.upd (s := modSensor _ _) ?_ {}
    | refine Keeps.upd (s := raiseLink _ _) ?_ {}
    | refine Keeps.upd (s := releaseTraining _) ?_ {}
    | split

theorem enterTraining_keeps {reason : String} (h : Keeps a s) : Keeps a (enterTraining reason s) := by
  unfold enterTraining
  try dsimp only
  repeat' first
    | exact h
    | exact h.upd {}
    | with_reducible refine retest_keeps ?_
    | with_reducible refine modSensor_keeps ?_
    | with_reducible refine raiseLink_keeps ?_
    | with_reducible refine abandonReadout_keeps ?_
    | with_reducible refine assertTraining_keeps ?_

theorem startLink_keeps (h : Keeps a s) : Keeps a (startLink s) := by
  unfold startLink
  try dsimp only
  repeat' first
    | exact h
    | exact h.upd {}
    | with_reducible refine applyWaiting_keeps ?_
    | with_reducible refine modSensor_keeps ?_
    | with_reducible refine enterTraining_keeps ?_

theorem linkDown_keeps (h : Keeps a s) : Keeps a (linkDown s) := by
  unfold linkDown
  try dsimp only
  repeat' first
    | exact h
    | exact h.upd {}
    | with_reducible refine retest_keeps ?_
    | with_reducible refine modSensor_keeps ?_
    | with_reducible refine raiseLink_keeps ?_
    | with_reducible refine abandonReadout_keeps ?_
    | with_reducible refine releaseTraining_keeps ?_

theorem stopLink_keeps (h : Keeps a s) : Keeps a (stopLink s) := by
  unfold stopLink
  repeat' first
    | exact h
    | exact h.upd {}
    | with_reducible refine linkLost_keeps ?_
    | with_reducible refine linkDown_keeps ?_

theorem sensorSleep_keeps (h : Keeps a s) : Keeps a (sensorSleep s) := by
  unfold sensorSleep
  try dsimp only
  repeat' first
    | exact h
    | exact h.upd {}
    | with_reducible refine linkDown_keeps ?_
    | refine Keeps.upd (s := linkDown _) ?_ {}
    | split

theorem takeMark_keeps {i wt : Nat} (h : Keeps a s) : Keeps a (takeMark i wt s) := by
  unfold takeMark
  try dsimp only
  repeat' first
    | exact h
    | exact h.upd {}
    | with_reducible refine modSensor_keeps ?_
    | with_reducible refine failAttempt_keeps ?_
    | refine Keeps.upd (s := modSensor _ _) ?_ {}
    | refine Keeps.upd (s := failAttempt _ _) ?_ {}
    | split

theorem trainingDone_keeps (h : Keeps a s) : Keeps a (trainingDone s) := by
  unfold trainingDone
  try dsimp only
  repeat' first
    | exact h
    | exact h.upd {}
    | with_reducible refine retest_keeps ?_
    | with_reducible refine modSensor_keeps ?_
    | with_reducible refine raiseLink_keeps ?_
    | with_reducible refine releaseTraining_keeps ?_

theorem judgeParams_keeps (h : Keeps a s) : Keeps a (judgeParams s) := by
  unfold judgeParams
  try dsimp only
  repeat' first
    | exact h
    | exact h.upd {}
    | with_reducible refine failAttempt_keeps ?_
    | with_reducible refine trainingDone_keeps ?_
    | refine Keeps.upd (s := failAttempt _ _) ?_ {}
    | refine Keeps.upd (s := trainingDone _) ?_ {}
    | split

@[simp] theorem judgeUnit_unitOpen (n : Nat) (p : SensorPort) : (judgeUnit n p).unitOpen = false := rfl
@[simp] theorem judgeUnit_assembly (n : Nat) (p : SensorPort) : (judgeUnit n p).assembly = [] := rfl
@[simp] theorem judgeUnit_items (n : Nat) (p : SensorPort) : (judgeUnit n p).items = p.items := rfl
@[simp] theorem judgeUnit_fifos (n : Nat) (p : SensorPort) : (judgeUnit n p).fifos = p.fifos := rfl
@[simp] theorem judgeUnit_turn (n : Nat) (p : SensorPort) : (judgeUnit n p).turn = p.turn := rfl
@[simp] theorem judgeUnit_length (n : Nat) (p : SensorPort) : (judgeUnit n p).checkers.length = p.checkers.length := by
  unfold judgeUnit
  dsimp only
  split <;> simp

/-- What each lane's checker makes of a unit of a TEST readout that is no header (R48). -/
theorem judgeUnit_checker {n j : Nat} {p : SensorPort} (hj : j < p.checkers.length) :
    (judgeUnit n p).checkers.getD j {} =
      if p.unitOpen = true ∧ p.checkOn = true ∧ j < n then
        (laneShare n j p.assembly).foldl Checker.judge ((p.checkers.getD j {}).judge 0)
      else p.checkers.getD j {} := by
  unfold judgeUnit
  by_cases hu : p.unitOpen = true <;> by_cases hc : p.checkOn = true <;> by_cases hn : j < n <;>
    simp [hu, hc, hn, hj, List.getD_eq_getElem?_getD]

theorem popLanes_unitOpen : ∀ (l : List Nat) (p : SensorPort), (l.foldl (fun q i => popLane i q) p).unitOpen = p.unitOpen
  | [], _ => rfl
  | i :: l, p => popLanes_unitOpen l (popLane i p)

@[simp] theorem popWhere_unitOpen (l : List Nat) (f : Nat → Bool) (p : SensorPort) :
    (popWhere l f p).unitOpen = p.unitOpen := popLanes_unitOpen _ p

/-- What a turn of data words makes of the unit in hand of a TEST readout (R34, R48): it grows, it is a header, or it is
judged. -/
theorem growTest_cases (l : List Nat) (ws : List Word16) (p : SensorPort) (hu : p.unitOpen = true) :
    let q := { popWhere l (fun _ => true) p with assembly := p.assembly ++ ws }
    (q.assembly.length < 8 ∧ growTest l ws p = q)
    ∨ (8 ≤ q.assembly.length ∧ isHeader q.assembly = true
      ∧ growTest l ws p = { q with items := q.items ++ [.unit q.assembly], unitOpen := false, assembly := [] })
    ∨ (8 ≤ q.assembly.length ∧ isHeader q.assembly = false ∧ growTest l ws p = judgeUnit l.length q) := by
  unfold growTest
  dsimp only
  split_ifs with hlen hheader
  · exact .inl ⟨hlen, rfl⟩
  · exact .inr (.inl ⟨by omega, hheader, by simp [emitUnit, hu]⟩)
  · exact .inr (.inr ⟨by omega, by simpa using hheader, rfl⟩)

/-- A step of reassembly changes the sensor port alone. -/
theorem stepPump_sensor {t : State} (ht : stepPump s = some t) : ∃ p, t = { s with sp := p } := by
  unfold stepPump stepTest stepResync stepIdle stepNormal at ht
  dsimp only at ht
  split_ifs at ht
  all_goals (repeat' split at ht) <;> cases ht <;> exact ⟨_, rfl⟩

theorem pumpFor_keeps : ∀ {n : Nat} {s : State}, Keeps a s → Keeps a (pumpFor n s)
  | 0, _, h => h
  | n + 1, s, h => by
    unfold pumpFor
    split
    · rename_i t ht
      obtain ⟨p, rfl⟩ := stepPump_sensor ht
      exact pumpFor_keeps (h.upd {})
    · exact h


theorem pump_keeps (h : Keeps a s) : Keeps a (pump s) := by
  unfold pump
  split
  · exact pumpFor_keeps h
  · exact h

theorem substitute_keeps {k : Planes} {y : Nat} (h : Keeps a s) : Keeps a (substitute k y s) := by
  unfold substitute
  exact modEntry_keeps (h.bytes (writeExtent_wf _ _ _ _))

theorem substituteRange_keeps {k : Planes} {x y : Nat} (h : Keeps a s) : Keeps a (substituteRange k x y s) :=
  foldl_keeps _ (fun _ _ => substitute_keeps) _ h


theorem setReadout_keeps {r : Readout} (h : Keeps a s) : Keeps a (setReadout r s) := by
  unfold setReadout
  repeat' first
    | exact h
    | exact h.upd {}
    | with_reducible refine modSensor_keeps ?_

theorem placeImage_keeps {r : Readout} {i : Nat} {good : Option (List Byte)} (h : Keeps a s) :
    Keeps a (placeImage r i good s) := by
  unfold placeImage
  split
  · exact orderError_keeps h
  · dsimp only
    refine setReadout_keeps ?_
    split
    · exact (substituteRange_keeps h).bytes (writeExtent_wf _ _ _ _)
    · exact substitute_keeps (substituteRange_keeps h)


theorem takeBlack_keeps {r : Readout} {b : Nat} {good : Option Nat}
    (h : Keeps a s) : Keeps a (takeBlack r b good s) := by
  unfold takeBlack
  try dsimp only
  repeat' first
    | exact h
    | exact h.upd {}
    | with_reducible refine modSensor_keeps ?_
    | with_reducible refine orderError_keeps ?_
    | with_reducible refine setReadout_keeps ?_
    | refine Keeps.upd (s := modSensor _ _) ?_ {}
    | refine Keeps.upd (s := orderError _) ?_ {}
    | refine Keeps.upd (s := setReadout _ _) ?_ {}
    | split

theorem takePhase_keeps {r : Readout} {row : Nat} {good : Option (List Word16)} (h : Keeps a s) :
    Keeps a (takePhase r row good s) := by
  unfold takePhase
  split
  · exact orderError_keeps (setReadout_keeps h)
  · rename_i hr
    exact handRow_keeps (by simp only [not_or, not_lt] at hr; exact hr.1) (setReadout_keeps h)


theorem judgeLine_keeps {cut : Bool} {r : Readout} {ws : List Word16}
    (h : Keeps a s) : Keeps a (judgeLine cut r ws s) := by
  unfold judgeLine
  try dsimp only
  repeat' first
    | exact h
    | exact h.upd {}
    | with_reducible refine allError_keeps ?_
    | with_reducible refine setReadout_keeps ?_
    | with_reducible refine placeImage_keeps ?_
    | with_reducible refine takeBlack_keeps ?_
    | with_reducible refine takePhase_keeps ?_
    | refine Keeps.upd (s := allError _) ?_ {}
    | refine Keeps.upd (s := setReadout _ _) ?_ {}
    | refine Keeps.upd (s := placeImage _ _ _ _) ?_ {}
    | refine Keeps.upd (s := takeBlack _ _ _ _) ?_ {}
    | refine Keeps.upd (s := takePhase _ _ _ _) ?_ {}
    | split

/-- A row below 11, handed as damaged, for each of a list. -/
theorem foldl_handRow_keeps : ∀ (l : List Nat) {s : State}, (∀ k ∈ l, k ≤ 10) → Keeps a s →
    Keeps a (l.foldl (fun u k => handRow k none u) s)
  | [], _, _, h => h
  | k :: l, _, hl, h =>
    foldl_handRow_keeps l (fun x hx => hl x (List.mem_cons_of_mem _ hx)) (handRow_keeps (hl k (List.mem_cons_self ..)) h)

theorem handMissing_keeps {r : Readout} (h : Keeps a s) : Keeps a (handMissing r s) := by
  unfold handMissing
  split
  · exact h
  · refine foldl_handRow_keeps _ (fun k hk => ?_) h
    have := List.mem_range.1 (List.mem_filter.1 hk).1
    omega


theorem closeReadout_keeps {r : Readout} (h : Keeps a s) : Keeps a (closeReadout r s) := by
  unfold closeReadout
  try dsimp only
  repeat' first
    | exact h
    | exact h.upd {}
    | with_reducible refine closeFrame_keeps ?_
    | with_reducible refine landShot_keeps ?_
    | with_reducible refine modSensor_keeps ?_
    | with_reducible refine substituteRange_keeps ?_
    | with_reducible refine handMissing_keeps ?_
    | refine Keeps.upd (s := closeFrame _ _) ?_ {}
    | refine Keeps.upd (s := landShot _ _) ?_ {}
    | refine Keeps.upd (s := modSensor _ _) ?_ {}
    | refine Keeps.upd (s := substituteRange _ _ _ _) ?_ {}
    | refine Keeps.upd (s := handMissing _ _) ?_ {}
    | split

theorem discardReadout_keeps (h : Keeps a s) : Keeps a (discardReadout s) := by
  unfold discardReadout
  repeat' first
    | exact h
    | exact h.upd {}
    | with_reducible refine modSensor_keeps ?_

theorem unexpectedReadout_keeps (h : Keeps a s) : Keeps a (unexpectedReadout s) := by
  unfold unexpectedReadout
  repeat' first
    | exact h
    | exact h.upd {}
    | with_reducible refine modSensor_keeps ?_
    | with_reducible refine discardReadout_keeps ?_

theorem badHeader_keeps (h : Keeps a s) : Keeps a (badHeader s) := by
  unfold badHeader
  repeat' first
    | exact h
    | exact h.upd {}
    | with_reducible refine modSensor_keeps ?_
    | with_reducible refine discardReadout_keeps ?_

theorem openReading_keeps {k : ReadoutKind} {w : Nat → Nat} (h : Keeps a s) : Keeps a (openReading k w s) := by
  unfold openReading
  repeat' first
    | exact h
    | exact h.upd {}
    | with_reducible refine setReadout_keeps ?_

theorem shotHeader_keeps {w : Nat → Nat} {t : Shot} (h : Keeps a s) : Keeps a (shotHeader w t s) := by
  unfold shotHeader
  dsimp only
  split
  · exact closeFrame_keeps (voidShot_keeps (discardReadout_keeps h))
  · exact openReadout_keeps (openReading_keeps (modSensor_keeps (Keeps.upd (modEntry_keeps h) {})))

theorem judgeHeader_keeps {ws : List Word16} (h : Keeps a s) : Keeps a (judgeHeader ws s) := by
  unfold judgeHeader
  dsimp only
  repeat' first
    | exact unexpectedReadout_keeps h
    | exact shotHeader_keeps h
    | exact badHeader_keeps h
    | exact badHeader_keeps (allError_keeps h)
    | exact openReadout_keeps (openReading_keeps h)
    | exact modSensor_keeps (openReading_keeps h)
    | split


theorem dropItem_keeps (h : Keeps a s) : Keeps a (dropItem s) := by
  unfold dropItem
  repeat' first
    | exact h
    | exact h.upd {}
    | with_reducible refine modSensor_keeps ?_

theorem takeHeader_keeps {ws : List Word16} (h : Keeps a s) : Keeps a (takeHeader ws s) := by
  unfold takeHeader
  refine pump_keeps (dropItem_keeps (judgeHeader_keeps ?_))
  split
  · exact closeReadout_keeps h
  · exact h

theorem takeLine_keeps {l : Bool × List Word16} (h : Keeps a s) : Keeps a (takeLine l s) := by
  unfold takeLine
  refine pump_keeps (dropItem_keeps ?_)
  repeat' first
    | exact h
    | exact judgeLine_keeps h
    | split

theorem takeStop_keeps (h : Keeps a s) : Keeps a (takeStop s) := by
  unfold takeStop
  refine pump_keeps (dropItem_keeps ?_)
  split
  · exact closeReadout_keeps h
  · exact modSensor_keeps h

theorem closeSilent_keeps (h : Keeps a s) : Keeps a (closeSilent s) := by
  unfold closeSilent
  dsimp only
  have h1 {f : SensorPort → SensorPort} : Keeps a (modSensor f s) := modSensor_keeps h
  repeat' first
    | exact h1
    | exact modSensor_keeps h1
    | exact judgeHeader_keeps (closeReadout_keeps h1)
    | refine closeReadout_keeps ?_
    | refine judgeLine_keeps ?_
    | split


theorem driftLanes_keeps (h : Keeps a s) : Keeps a (driftLanes s) := by
  unfold driftLanes emptyLanes
  dsimp only
  split
  · exact modSensor_keeps (modSensor_keeps h)
  · have h2 {f g : SensorPort → SensorPort} : Keeps a (modSensor g (modSensor f s)) := modSensor_keeps (modSensor_keeps h)
    repeat' first
      | exact h2
      | refine retest_keeps ?_
      | refine raiseRetrain_keeps ?_
      | refine allError_keeps ?_
      | split

theorem noteEmpty_keeps {wt : Nat} (h : Keeps a s) : Keeps a (noteEmpty wt s) := by
  unfold noteEmpty
  try dsimp only
  repeat' first
    | exact h
    | exact h.upd {}
    | with_reducible refine modSensor_keeps ?_

theorem pushWord_keeps {i wt : Nat} {w : LaneWord} (h : Keeps a s) : Keeps a (pushWord i wt w s) := by
  unfold pushWord
  dsimp only
  split
  · exact driftLanes_keeps (modSensor_keeps (noteEmpty_keeps h))
  · exact noteEmpty_keeps (pump_keeps (noteEmpty_keeps (modSensor_keeps (modSensor_keeps (noteEmpty_keeps h)))))

theorem trainWord_keeps {i : Nat} {w : LaneWord} (h : Keeps a s) : Keeps a (trainWord i w s) := by
  unfold trainWord
  try dsimp only
  repeat' first
    | exact h
    | exact h.upd {}
    | with_reducible refine modSensor_keeps ?_
    | refine Keeps.upd (s := modSensor _ _) ?_ {}
    | split

theorem takeSymbol_keeps {i wt : Nat} {y : Symbol} (h : Keeps a s) : Keeps a (takeSymbol i wt y s) := by
  delta takeSymbol
  generalize s.sp.link = l
  cases l <;> cases y <;> dsimp only
  all_goals first
    | with_reducible exact h
    | with_reducible exact trainWord_keeps h
    | with_reducible exact takeMark_keeps h
    | with_reducible exact pushWord_keeps h
    | with_reducible exact pushWord_keeps (laneError_keeps h)

end Sys2Proof.Machine
end

