-- ==== Sys2Proof/Laws/PortKeeps.lean ====
section
/-! SUPPORT. What the power states and the command port keep (`Machine/PowerOps.lean`, `Machine/HostPort.lean`), and that
the resets leave a sound state. -/

namespace Sys2Proof.Machine

-- One theorem at a time: the package as one text has more of them than the checker has threads.
set_option Elab.async false

open Sys2Proof

variable {a s : State}

theorem focusSleep_keeps (h : Keeps a s) : Keeps a (focusSleep s) := by
  unfold focusSleep
  try dsimp only
  repeat' first
    | exact h
    | exact h.upd {}
    | with_reducible refine quitServo_keeps ?_
    | refine Keeps.upd (s := quitServo _) ?_ {}
    | split

/-- SLEEP changes the power state and the standby kind; the blocks' closing keeps the rest (R207). -/
theorem sleepPart_keeps (s : State) :
    Keeps { s with cp := { s.cp with power := .closing, heldKind := s.cfg.store.hold } } (sleepPart s) := by
  unfold sleepPart
  exact lensSleep_keeps (cardSleep_keeps (memoSleep_keeps (developSleep_keeps (focusSleep_keeps (tetherSleep_keeps
    (sensorSleep_keeps (Keeps.refl _)))))))

theorem sleepPart_safe (h : Safe a s) : Safe a (sleepPart s) :=
  h.trans ((port_safe s.cp.slot s.cp.marker .closing s.cfg.store.hold).trans (sleepPart_keeps s).safe)

theorem closePart_safe (h : Safe a s) : Safe a (closePart s) := by
  unfold closePart
  refine h.trans ((raise_keeps (k := .slept) (sub := .num 0) (v := [.word (kindName s.cp.heldKind), .u64 s.time])
    (Keeps.refl s)).safe.trans ?_)
  exact port_safe _ _ .closed _

theorem sampleLines_keeps (h : Keeps a s) : Keeps a (sampleLines s) := by
  unfold sampleLines
  repeat' first
    | exact h
    | exact h.upd {}
    | with_reducible refine detectStep_keeps ?_
    | with_reducible refine filterStart_keeps ?_
    | with_reducible refine linkUpStep_keeps ?_
    | with_reducible refine presentStep_keeps ?_

theorem applyNumbering_keeps (h : Keeps a s) : Keeps a (applyNumbering s) := by
  unfold applyNumbering
  repeat' first
    | exact h
    | exact h.upd {}
    | with_reducible refine applyWaiting_keeps ?_

theorem focusWake_keeps (h : Keeps a s) : Keeps a (focusWake s) := by
  unfold focusWake
  exact h.areas fun _ => by simp

/-- The shot table after reset has its 256 entries (R2, R25). -/
theorem storeReset_table : Store.reset.table.length = Config.entries := by
  unfold Store.reset
  exact List.length_replicate

theorem storePlain_keeps (h : Keeps a s) : Keeps a (storePlain s) :=
  h.trans
    { pending := rfl
      time := rfl
      slot := rfl
      marker := rfl
      power := rfl
      kind := rfl
      lost := id
      sound := fun x => ⟨x.memory, x.notices, storeReset_table, x.credits, x.auxQueue,
        x.auxHistory, x.counter, x.index, x.areas, x.recipes, x.sends⟩ }

/-- A wake makes the power state ACTIVE; the blocks' wake keeps the rest (R210). -/
theorem wakePart_keeps (s : State) : Keeps { s with cp := { s.cp with power := .active } } (wakePart s) := by
  unfold wakePart
  have h1 := applyNumbering_keeps (Keeps.refl { s with cp := { s.cp with power := .active } })
  generalize applyNumbering { s with cp := { s.cp with power := .active } } = s1 at h1
  dsimp only
  refine filterStart_keeps (linkUpStep_keeps (lensWake_keeps ?_))
  have h2 : Keeps { s with cp := { s.cp with power := .active } } { s1 with rtu := {}, sp := {} } := h1.upd {}
  have h3 := cardWake_keeps (held := s.cp.heldKind) (focusWake_keeps (tetherWake_keeps (developWake_keeps (memoWake_keeps
    (iteInduction (motive := Keeps _) (c := s.cp.heldKind = true) (fun _ => storeHeld_keeps h2) (fun _ => storePlain_keeps h2))))))
  exact iteInduction (motive := Keeps _) (fun _ => handBack_keeps h3) (fun _ => h3)

theorem wakePart_safe (h : Safe a s) : Safe a (wakePart s) :=
  h.trans ((port_safe s.cp.slot s.cp.marker .active s.cp.heldKind).trans (wakePart_keeps s).safe)

/-- The part right after reset is sound. -/
theorem sound_reset : State.reset.Sound where
  memory := rfl
  notices := NoticesRight.nil
  table := storeReset_table
  credits := Nat.zero_le _
  auxQueue := Nat.zero_le _
  auxHistory := Nat.zero_le _
  counter := by constructor <;> decide
  index := by constructor <;> decide
  areas := List.length_replicate
  recipes := List.length_replicate
  sends := ⟨List.Pairwise.nil, fun _ h => nomatch h⟩

/-- The lines sampled after a reset leave a sound state. -/
theorem resetPart_sound (h : s.Sound) : (resetPart s).Sound := by
  unfold resetPart
  refine (sampleLines_keeps (Keeps.refl _)).sound ?_
  have hr := sound_reset
  exact ⟨h.memory, hr.notices, hr.table, hr.credits, hr.auxQueue, hr.auxHistory, hr.counter,
    ((applyNumbering_keeps (Keeps.refl s)).sound h).index, hr.areas, hr.recipes, hr.sends⟩

theorem powerUpPart_sound : (powerUpPart s).Sound := by
  unfold powerUpPart
  refine (sampleLines_keeps (Keeps.refl _)).sound ?_
  have hr := sound_reset
  exact ⟨hr.memory, hr.notices, hr.table, hr.credits, hr.auxQueue, hr.auxHistory, hr.counter, hr.index, hr.areas, hr.recipes,
    hr.sends⟩


/-- A reply placed in the slot (R199). -/
theorem placeReply_safe {tag : Byte} {r : Bool} {x : Answer} (h : Safe a x.state) : Safe a (placeReply tag r x) :=
  h.trans (port_safe _ x.state.cp.marker x.state.cp.power x.state.cp.heldKind)

theorem setMarker_safe {tag : Byte} {st : Status} (h : Safe a s) : Safe a (setMarker tag st s) :=
  h.trans (port_safe s.cp.slot _ s.cp.power s.cp.heldKind)

theorem wakeFor_safe {quiet : Bool} (h : Safe a s) : Safe a (wakeFor quiet s) := by
  unfold wakeFor
  split
  · exact wakePart_safe h
  · exact h

theorem judgeCommand_safe {α : Type} {g : Gate} {fields : Option α} {act : α → State → Answer}
    (hact : ∀ x t, Safe a t → Safe a (act x t).state) (h : Safe a s) : Safe a (judgeCommand g fields act s).state := by
  unfold judgeCommand
  split
  · exact h
  · split
    · exact h
    · exact hact _ _ h

/-- A host command keeps what its effect keeps. -/
theorem hostCommand_safe {α : Type} {g : Gate} {r : Req α} {act : α → State → Answer}
    (hact : ∀ x t, Safe a t → Safe a (act x t).state) (h : Safe a s) : Safe a (hostCommand g r act s) := by
  unfold hostCommand
  split
  · exact setMarker_safe h
  · exact placeReply_safe (judgeCommand_safe hact (wakeFor_safe h))

theorem badHostFrame_safe {tag : Byte} {st marked : Status} (h : Safe a s) : Safe a (badHostFrame tag st marked s) := by
  unfold badHostFrame
  split
  · exact setMarker_safe h
  · exact placeReply_safe (wakeFor_safe h)

theorem raiseDefaulted_keeps {sub : Subject} {names : List String}
    (h : Keeps a s) : Keeps a (raiseDefaulted sub names s) := by
  unfold raiseDefaulted
  try dsimp only
  repeat' first
    | exact h
    | exact h.upd {}
    | with_reducible refine raise_keeps ?_
    | refine Keeps.upd (s := raise _ _ _ _) ?_ {}
    | split

theorem takeValue_keeps {f : Field} {v : CfgVal} (h : Keeps a s) : Keeps a (takeValue f v s) := by
  unfold takeValue
  split
  · exact h.config Cfg.apply_index
  · exact setWaiting_keeps h

theorem takeConfig_keeps {g : Group} {l : List (Field × CfgVal)} (h : Keeps a s) : Keeps a (takeConfig g l s) := by
  unfold takeConfig
  dsimp only
  have hk := foldl_keeps (fun t p => takeValue p.1 (takenVal s.cfg p.1 p.2) t) (fun _ _ => takeValue_keeps) l
    (raiseDefaulted_keeps (sub := .group g) (names := (s.defaulted l).map Field.name) h)
  split
  · exact lensApplied_keeps hk
  · exact hk.upd {}
  · exact hk

end Sys2Proof.Machine
end

