-- ==== Sys2Proof/Tests/Slice0.lean ====
section
/-! SUPPORT. Tests of the model: ill-formed commands refused, the spec's worked cases, and for each statement with
hypotheses a witness that meets them, clause by clause and at the bounds of its ranges. -/

namespace Sys2Proof.Tests

open Sys2Proof Sys2Proof.Machine

-- The theorems are elaborated one after the other: their kernel checks would else wait on many threads at once.
set_option Elab.async false

/-! ## Small states -/

/-- The part after reset with a store of four free blocks and these table entries. -/
def part (table : List Shot := []) : State :=
  { State.reset with ss := { free := [10, 11, 12, 13], table := table } }

/-- A HELD shot of one raw block. -/
def shot (n : Nat) : Shot :=
  { state := .held, number := n, serial := n, geom := ⟨64, 32, 8, .rggb⟩, raw := [3] }

/-- A RESERVED entry whose TRIGGER has not been sent, and one whose TRIGGER has. -/
def claimed : Shot := { state := .reserved, geom := ⟨5120, 3456, 14, .rggb⟩, raw := [4] }
def triggered : Shot := { claimed with number := 7 }
def landing : Shot := { claimed with state := .landing, number := 8 }

/-- The part with a reply in the slot, in a power state, with a link state. -/
def busy : State := { part with cp := { slot := some ⟨7, .ok, [], false⟩ } }
def powered (p : Power) : State := { part with cp := { power := p } }
def linked (l : LinkState) (table : List Shot := []) : State := { part table with sp := { link := l } }

/-- Words followed by their CRC-16. -/
def withCrc (ws : List Word16) : List Word16 := ws ++ [BitVec.ofNat 16 (crcWords ws)]

/-- A burst of the host's, and the part with it in a phase. -/
def burst : BurstRec := { number := 12, owner := .host, count := some 5, t0 := 0, latency := 0, period := 25000, tg := 0 }
def bursting (p : BurstPhase) (table : List Shot := []) : State :=
  { linked .aligned table with rtu := { phase := p, burst := some burst } }

/-! ## Well-formed commands -/

/-- Each check refuses a command whose operand its encoding cannot carry (Formats, "Payload fields on the command port"). -/
theorem test_wf_refuses :
    [Instr.shotMark ⟨0, some (.value 4294967296)⟩, .shotKeep ⟨0, some 4294967296⟩, .shotRelease ⟨0, some 4294967296⟩,
      .shotDelete ⟨0, some 4294967296⟩, .shotInfo ⟨0, some 4294967296⟩, .shotList ⟨0, some 4294967296⟩,
      .release ⟨0, some (.value 65536)⟩, .afLensCoef ⟨0, some 32768⟩, .afLensCoef ⟨0, some (-32769)⟩,
      .afArea ⟨0, some (.singleArea 256)⟩, .afArea ⟨0, some (.zone ⟨0, 0, 256, 0⟩)⟩, .afArea ⟨0, some (.track 256)⟩,
      .afGrid ⟨0, some 256⟩, .lensIris ⟨0, some 256⟩, .lensLimits ⟨0, some ⟨2147483648, 0, 0, 0⟩⟩,
      .lensLimits ⟨0, some ⟨0, -2147483649, 0, 0⟩⟩, .lensLimits ⟨0, some ⟨0, 0, 0, 256⟩⟩, .positionSet ⟨0, some 2147483648⟩,
      .recipeGet ⟨0, some 256⟩, .recipeSelect ⟨0, some 256⟩, .cardExtents ⟨0, some (some .a, [⟨4294967296, 1⟩])⟩,
      .cardExtents ⟨0, some (some .a, List.replicate 128 ⟨0, 1⟩)⟩, .cardSet ⟨0, some (some .a, 4294967296, 0)⟩,
      .cardSet ⟨0, some (some .a, 0, 65536)⟩, .captionSet ⟨0, some (0, List.replicate 193 0)⟩,
      .captionStanding ⟨0, some (.value (List.replicate 193 0))⟩, .memoLevel ⟨0, some (256, 0)⟩, .memoLevel ⟨0, some (-1, 0)⟩,
      .memoLevel ⟨0, some (0, 32768)⟩, .memoStart ⟨0, some (.value 4294967296)⟩, .laneSymbol 8 0 0, .laneMark 8 0,
      .accept 65536 0, .accept 0 4294967296, .decline 65536, .credit 256, .ack 65536 0, .ack 0 4294967296,
      .remoteRelease 256, .mark 4294967296, .pull 4294967296 none].all (fun i => !i.wf) = true := by decide +kernel

/-- Recipes and configuration values that their encoding cannot carry are refused. -/
theorem test_wf_refuses_records :
    [Instr.recipeSet ⟨0, some (256, defaultRecipe)⟩, .recipeSet ⟨0, some (0, { defaultRecipe with scale := 256 })⟩,
      .recipeSet ⟨0, some (0, { defaultRecipe with white := 65536 })⟩,
      .recipeSet ⟨0, some (0, { defaultRecipe with trimB := 32768 })⟩,
      .recipeSet ⟨0, some (0, { defaultRecipe with gainE := 65536 })⟩,
      .recipeSet ⟨0, some (0, { defaultRecipe with matrix := [] })⟩,
      .recipeSet ⟨0, some (0, { defaultRecipe with tone := [] })⟩,
      .setConfig ⟨0, some ⟨none, [(none, .num 0)]⟩⟩, .setConfig ⟨0, some ⟨some .burst, [(some .framePeriod, .num 4294967296)]⟩⟩,
      .setConfig ⟨0, some ⟨some .lens, [(some .counterMode, .word "")]⟩⟩,
      .setConfig ⟨0, some ⟨some .capture, [(some .laneMap, .nums [256])]⟩⟩,
      .setConfig ⟨0, some ⟨some .store, [(some .wheel, .words [""])]⟩⟩,
      .setConfig ⟨0, some ⟨some .plans, [(some .standingCaption, .text (some (List.replicate 193 0)))]⟩⟩].all
        (fun i => !i.wf) = true := by decide +kernel

/-- The largest values that the encodings carry are well-formed. -/
theorem test_wf_accepts :
    [Instr.shotMark ⟨255, some (.value 4294967295)⟩, .release ⟨0, some (.value 65535)⟩, .afLensCoef ⟨0, some (-32768)⟩,
      .cardExtents ⟨0, some (none, List.replicate 127 ⟨4294967295, 4294967295⟩)⟩, .captionSet ⟨0, some (0, List.replicate 192 0)⟩,
      .shotKeep ⟨0, none⟩, .laneSymbol 7 0 0, .accept 65535 4294967295, .pull 4294967295 none].all Instr.wf = true := by
  decide +kernel

/-! ## The spec's worked cases -/

/-- The example geometry: 30,965,760 bytes in 473 blocks, 138 shots in an empty store, and a RAW file of 60,481 sectors
(01_shot_store.md, "Geometry"; 07_card_writer.md, after R145). -/
theorem test_example_geometry :
    rawBytes ⟨5120, 3456, 14, .rggb⟩ = 30965760 ∧ blocksFor 30965760 = 473 ∧ 65536 / 473 = 138
      ∧ 1 + ceilDiv 30965760 512 = 60481 ∧ blocksFor (640 * 432 * 3) = 13 := by decide

/-- 04_focus_engine.md, "Worked case: one area's correlation". -/
theorem test_worked_area :
    let L := (List.range 64).map (fun k => 1000 + 100 * k)
    let R := (List.range 64).map (fun k => 770 + 100 * k)
    ([-12, 0, 1, 2, 3, 4, 12] : List Int).map (sad L R 12) = [57200, 9200, 5200, 1200, 2800, 6800, 38800]
      ∧ areaResult { threshold := 2048 } 5000 L R = ⟨.valid, 3900, 2, false, 35, 43⟩ := by decide +kernel

/-- The mirrored case: shift −2, d16 −35 and defocus −43. -/
theorem test_worked_area_mirrored :
    let L := (List.range 64).map (fun k => 1000 + 100 * k)
    let R := (List.range 64).map (fun k => 1230 + 100 * k)
    areaResult { threshold := 2048 } 5000 L R = ⟨.valid, 3900, -2, false, -35, -43⟩ := by decide +kernel

/-- The recipe of 06_development_engine.md's worked cases, with the tone entries that it names. -/
def worked : Recipe :=
  { defaultRecipe with
    scale := 1, gainR := 8192, gainG := 4096, gainB := 6144, gainE := 5120
    matrix := [6144, -1536, -512, -1024, 6144, -1024, -512, -2048, 6656]
    tone := List.replicate 26 0 ++ [80, 83] ++ List.replicate 20 90 ++ [118, 120] ++ List.replicate 51 150 ++ [170, 171]
      ++ List.replicate 154 200 }

/-- 06_development_engine.md, "Worked case: one proof pixel": means (10,400, 12,480, 7,200), black 2,048, output
(171, 118, 81), and no span raised. -/
theorem test_worked_pixel :
    worked.tone.length = 257 ∧ proofPixel worked ⟨2048, 2048, 2048, 2048⟩ ⟨10400, 12480, 7200⟩ = ⟨171, 118, 81⟩
      ∧ highMask worked ⟨2048, 2048, 2048, 2048⟩ = ⟨false, false, false⟩ := by decide +kernel

/-- 06_development_engine.md, "Worked case: limits at each stage": every channel clips and is BLACK_HIGH. -/
theorem test_worked_limits :
    proofPixel { worked with white := 2200, tone := defaultRecipe.tone } ⟨2048, 2048, 2048, 2048⟩ ⟨60000, 36000, 2400⟩
        = ⟨255, 255, 255⟩
      ∧ highMask { worked with white := 2200 } ⟨2048, 2048, 2048, 2048⟩ = ⟨true, true, true⟩
      ∧ scaled 65532 60000 2048 = 59824 ∧ gained 35048 5120 = 43810 ∧ mixed (-512) (-2048) 6656 ⟨65535, 43810, 681⟩ = 0 := by
  decide +kernel

/-- 03_release_burst_and_exposure_timing.md, "Worked sequence: a follower burst with a realignment and a full store": the
edge's error, the instant that frame 2 takes, and the first instant of a later burst. -/
theorem test_worked_grid :
    phaseError 1005000 25000 1038600 = 8600 ∧ firstInstant 1038600 25000 1050000 = 1063600
      ∧ phaseError 1063600 25000 1063600 = 0 ∧ firstInstant 1038600 25000 1205000 = 1213600 := by decide

/-- The part of 10_command_port_notices_and_settings.md's worked sequence: one FILES_WAITING of slot A is queued. -/
def waiting : State := { part with cp := { notices := [⟨.filesWaiting, .slot .a, [.u8 1], 1, 0⟩] } }

/-- The state that a command leaves. -/
def after (c : Instr) (s : State) : State := match exec c s with | .next t => t | _ => s

/-- "A command sent too soon": STATUS answers, CAPTION_SET goes to the marker, and moves into the slot once the reply is
collected; the GET_NOTICE of the same transaction goes to the marker again. -/
theorem test_worked_replies :
    let s1 := after (.captionSet ⟨21, some (1, [65])⟩) (after (.status ⟨20, some ()⟩) waiting)
    let s2 := after (.getNotice ⟨22, some ()⟩) (after .replyCollected s1)
    (s1.cp.slot.map (fun r => (r.tag, r.status)) = some (20, .ok) ∧ s1.cp.marker = some (21, .notReady))
      ∧ s2.cp.slot = some ⟨21, .notReady, [], false⟩ ∧ s2.cp.marker = some (22, .notReady)
      ∧ s2.cp.notices.length = 1 ∧ s2.attn = true := by decide +kernel

/-- A queued notice raised again is updated in place, and a 33rd is dropped with NOTICES_LOST set (R201). -/
theorem test_notices :
    (raise .filesWaiting (.slot .a) [.u8 2] waiting).cp.notices = [⟨.filesWaiting, .slot .a, [.u8 2], 2, 0⟩]
      ∧ let full := { part with cp := { notices := (List.range 32).map (fun n => ⟨.shotKept, .num n, [], 1, 0⟩) } }
        (raise .slept (.num 0) [] full).cp.notices.length = 32 ∧ (raise .slept (.num 0) [] full).cp.lost = true := by
  decide +kernel

/-- SHOT_MARK of 01_shot_store.md's worked sequence: URGENT_PROOF and URGENT_ONLY give SEND_PROOF and DEVELOP. -/
theorem test_worked_mark :
    let s := { part [shot 1] with cfg := { plans := { tether := .urgentProof, develop := .urgentOnly } } }
    ((after (.shotMark ⟨1, some (.value 1)⟩) s).held 1).map (fun t => (t.urgent, t.duties.map (fun d => (d.key, d.state))))
      = some (true, [(.send .proof, .pending), (.develop, .pending)]) := by decide +kernel

/-- Bytes written to an extent are read back across its blocks, and a byte that reads as unwritten is not listed. -/
theorem test_extent :
    let m := writeExtent [2, 1] [7, 0, 9] 65535 []
    readRange m [2, 1] 65535 3 = [7, 0, 9] ∧ m.map (·.1) = [65537, 196607] ∧ Memory.wf m = true := by decide +kernel

/-! ## Witnesses: the command port

Each theorem shows states and operands that meet the hypotheses of the statement of its name, clause by clause. -/

theorem test_witness_StepOnAnEmptyQueue :
    part.pending = [] ∧ nextInternal part = none ∧ nextInternal { part with time := 4000 } = some .releaseFilterExpiry := by
  decide +kernel

theorem test_witness_TimeAndLostStand :
    exec .wakeLine { part with cp := { lost := true } } = .next { part with cp := { lost := true } } := by rfl

/-- A sound and lawful state with a shot in its first block, and a step from it. -/
def lawful : State :=
  { State.reset with
    pending := [.wakeLine]
    ss := { free := List.range' 1 65535, table := { shot 5 with raw := [0] } :: List.replicate 255 {} } }

theorem test_witness_StepKeepsSound : lawful.Sound ∧ step lawful = .next { lawful with pending := [] } :=
  ⟨⟨by decide, ⟨by decide, by decide, by decide⟩, by decide +kernel, by decide, by decide, by decide,
    ⟨by decide, by decide⟩, ⟨by decide, by decide⟩, by decide +kernel, by decide,
    ⟨List.Pairwise.nil, fun _ h => nomatch h⟩⟩, rfl⟩

theorem test_witness_StepKeepsLawful_store : lawful.StoreLawful where
  blocks := by
    have h : lawful.allBlocks = List.range' 1 65535 ++ [0] := by
      have e : lawful.ss.table.flatMap Shot.blocks = [0] := by decide +kernel
      show lawful.ss.free ++ lawful.ss.table.flatMap Shot.blocks ++ [] = _
      rw [e, List.append_nil]; rfl
    rw [h, show Config.blocks = 65535 + 1 from rfl, List.range_eq_range', List.range'_succ]
    exact List.perm_append_singleton 0 _
  entries := fun t h => by
    have : t = { shot 5 with raw := [0] } ∨ t = {} := by
      rcases List.mem_cons.1 h with h | h
      · exact .inl h
      · exact .inr (List.eq_of_mem_replicate h)
    rcases this with rfl | rfl
    · exact ⟨by decide, by decide, by decide, by decide, by decide, by decide⟩
    · exact ⟨fun _ => rfl, by decide, by decide, by decide, by decide, by decide⟩
  oneReserved := by decide +kernel
  oneInFlight := by decide +kernel
  numbers := by unfold State.NumbersDistinct; decide +kernel
  next := by decide

theorem test_witness_StepKeepsLawful : lawful.Lawful where
  store := test_witness_StepKeepsLawful_store
  work :=
    { slots := fun sl => by cases sl <;> exact ⟨by decide, by decide, fun f h => nomatch h⟩
      developDistinct := by decide
      developQueued := by decide
      job := fun j h => nomatch h
      sendRoom := by decide
      sendDistinct := by decide
      transfer := fun x h => nomatch h
      memo := fun m h => nomatch h
      memoIdle := by decide }
  run :=
    { quiet := by decide +kernel
      landing := fun r h => nomatch h
      link := by decide
      asleep := fun h => absurd rfl h
      grid := fun b h => nomatch h
      standing := fun g h => nomatch h
      period := by decide
      first := by decide
      limits := by decide }

theorem test_witness_FramesRoundTrip :
    (Instr.shotKeep ⟨255, some 4294967295⟩).wf = true ∧ (hostBytes (.shotKeep ⟨255, some 4294967295⟩)).isSome = true
      ∧ (Instr.ack 65535 4294967295).wf = true ∧ (peerBytes (.ack 65535 4294967295)).isSome = true := by decide +kernel

theorem test_witness_FramesRoundTrip_crc :
    (Instr.status ⟨7, some ()⟩).wf = true
      ∧ ((hostBytes (.status ⟨7, some ()⟩)).bind (·.getLast?)).any (· != 0) = true := by decide +kernel

theorem test_witness_FramesAndReplies :
    busy.cp.slot.isSome = true ∧ hostTag (.notReady 9) = some 9 ∧ hostTag (.reset ⟨9, some ()⟩) = some 9
      ∧ part.awake = true ∧ part.cp.slot = none ∧ busy.cp.slot = some ⟨7, .ok, [], false⟩ := by decide +kernel

theorem test_witness_BadPayloadIsBadValue :
    hostTag (.shotKeep ⟨3, none⟩) = some 3 ∧ fieldless (.shotKeep ⟨3, none⟩) = true ∧ part.awake = true := by decide +kernel

theorem test_witness_ClosingRefusesWork :
    startsWork (.sleep ⟨3, some ()⟩) = true ∧ fieldless (.sleep ⟨3, some ()⟩) = false
      ∧ hostTag (.sleep ⟨3, some ()⟩) = some 3 ∧ (powered .closing).cp.slot = none ∧ (powered .closing).cp.power = .closing := by
  decide +kernel

theorem test_witness_FrameWakesThePart :
    (hostTag (.fileTake ⟨3, some (some .a)⟩)).isSome = true ∧ executed (.fileTake ⟨3, some (some .a)⟩) = true
      ∧ staysAsleep (.fileTake ⟨3, some (some .a)⟩) = false ∧ (powered .standby).cp.power = .standby
      ∧ (powered .closed).cp.power = .closed ∧ (powered .closed).cp.slot = none := by decide +kernel

theorem test_witness_AttnAndStandby :
    ((powered .closed).cp.power = .closed ∧ (powered .closed).attn = false)
      ∧ part.cp.power ≠ .closed ∧ busy.attn = true ∧ waiting.attn = true := by decide +kernel

theorem test_witness_NoticeRaising :
    let many := fun k => { part with cp := { notices := (List.range k).map (fun n => ⟨.shotKept, .num n, [], 1, 0⟩) } }
    (∃ n ∈ waiting.cp.notices, n.key = (.filesWaiting, .slot .a))
      ∧ (∀ n ∈ (many 31).cp.notices, n.key ≠ (.slept, .num 0)) ∧ (many 31).cp.notices.length = 31
      ∧ (∀ n ∈ (many 32).cp.notices, n.key ≠ (.slept, .num 0)) ∧ (many 32).cp.notices.length = 32
      ∧ NoticesRight waiting.cp.notices :=
  ⟨by decide +kernel, by decide +kernel, by decide +kernel, by decide +kernel, by decide +kernel,
    ⟨by decide, by decide, by decide⟩⟩

theorem test_witness_NoticeAndStatusReplies :
    part.cp.slot = none ∧ part.cp.power ≠ .standby ∧ part.cp.notices = [] ∧ waiting.cp.slot = none
      ∧ waiting.cp.notices = ⟨.filesWaiting, .slot .a, [.u8 1], 1, 0⟩ :: [] := by decide +kernel

theorem test_witness_SetConfigRefused :
    part.awake = true ∧ (some Field.wheel).map Field.group ≠ some Group.burst ∧ (none : Option Field).map Field.group ≠ some Group.burst
      ∧ some Field.framePeriod ∈ [some Field.framePeriod].map id ++ [] := by decide +kernel

theorem test_witness_SetConfigTakesValues :
    part.awake = true ∧ Field.group .searchRange = .focus ∧ Field.group .ackTimeout = .tether
      ∧ Field.group .startMode = .memo ∧ (Field.group .hold = .store ∧ Field.hold ≠ .wheel) ∧ Field.group .depth = .capture
      ∧ Field.group .cardPlan = .plans ∧ Field.group .firstShotNumber = .numbering ∧ Field.group .framePeriod = .burst
      ∧ part.rtu.phase = .idle ∧ (bursting .waiting).awake = true ∧ (bursting .waiting).rtu.phase ≠ .idle
      ∧ ({ burst := { syncMode := .every } } : Cfg).apply .syncMode (.word "OFF") ≠ { burst := { syncMode := .every } }
      ∧ ({ part with rtu := { armed := true, standing := some ⟨0, 0, 25000⟩ } } : State).rtu.standing = some ⟨0, 0, 25000⟩
      ∧ (part.cfg.apply .framePeriod (.num 25000)).burst.syncMode = part.cfg.burst.syncMode
      ∧ Field.group .counterMode = .lens
      ∧ part.cfg.apply .counterMode (takenVal part.cfg .counterMode (.word "UP_ONLY")) ≠ part.cfg
      ∧ (part.cfg.put .depth (.num 16)).isSome = true ∧ Field.width ≠ .depth := by decide +kernel

theorem test_witness_GetConfigReply : part.awake = true := by decide +kernel

/-! ## Witnesses: the shot store -/

/-- A kept shot with a PENDING duty, and one whose duties are settled. -/
def owing : Shot := { shot 5 with keep := true, duties := [{ key := .send .proof }] }
def settled : Shot := { shot 5 with keep := true, duties := [{ key := .develop, state := .done }] }

theorem test_witness_ShotMark :
    let s := { part [owing, shot 6] with cfg := { plans := { tether := .urgentBoth, develop := .all } } }
    s.awake = true ∧ s.usable 4 = none ∧ s.usable 5 = some owing ∧ s.cfg.plans.tether = .urgentBoth
      ∧ s.cfg.plans.develop ≠ .never ∧ owing.dutyState .develop = none
      ∧ (DutyKey.card .raw .a ∉ [DutyKey.send .raw, .send .proof])
      ∧ (part [triggered]).ss.table.find? isTriggered = some triggered
      ∧ ((part [landing]).ss.table.find? isTriggered = none ∧ (part [landing]).ss.table.find? isLanding = some landing)
      ∧ (part.ss.table.find? isLanding = none ∧ part.ss.lastLanded = none)
      ∧ ({ part [shot 5] with ss := { (part [shot 5]).ss with lastLanded := some 5 } } : State).ss.lastLanded = some 5 := by
  decide +kernel

/-- After the mark the shot has a proof duty PENDING with no proof. -/
theorem test_witness_ShotMark_needsProof :
    (((after (.shotMark ⟨1, some (.value 5)⟩) (part [owing])).held 5).any (fun u =>
      u.duties.any (fun d => d.key.needsProof && d.state == .pending) && u.proof.isNone)) = true := by decide +kernel

theorem test_witness_ShotKeepAndRelease :
    (part [owing]).awake = true ∧ (part [owing]).usable 6 = none
      ∧ ((part [owing]).usable 5 = some owing ∧ owing.keep = true ∧ owing.duties.any Duty.owed = true)
      ∧ ((part [shot 5]).usable 5 = some (shot 5) ∧ (shot 5).keep = false)
      ∧ ((part [settled]).usable 5 = some settled ∧ settled.duties.any Duty.owed = false ∧ settled.pins = []
        ∧ (part [settled]).recordsInto 5 = false ∧ (part [settled]).mi.phase ≠ .armed) := by decide +kernel

theorem test_witness_ShotDelete :
    (part [owing, shot 6]).awake = true ∧ (part [owing, shot 6]).usable 4 = none
      ∧ (part [owing, shot 6]).usable 5 = some owing ∧ ((part [owing, shot 6]).heldShots.map (·.number)).Nodup
      ∧ owing.dutyState (.send .proof) = some .pending ∧ (part [owing, shot 6]).held 6 = some (shot 6)
      ∧ (part [owing, shot 6]).cw.a.final = false
      ∧ ((∀ d ∈ (shot 6).duties, d.state ≠ .active) ∧ (shot 6).pins = []) := by decide +kernel

/-- A shot with a file, a development job or a transfer under way, pinned, with its proof, and a memo recording into it:
its file, in a STARVED slot, is abandoned by the delete. -/
theorem test_witness_ShotDelete_work :
    let h := { shot 5 with
      proof := some ⟨[7], 48, 8, 2⟩, pins := [⟨.a, .raw⟩]
      duties := [{ key := .card .raw .a, state := .active }, { key := .develop, state := .active },
        { key := .send .raw, state := .active }] }
    let s := { part [h] with
      cw := { a := { state := .starved, file := some { shot := 5, kind := .raw, header := [], payload := 2048, sectors := 5 } } }
      de := { phase := .developing, job := some ⟨5, 0, defaultRecipe, ⟨64, 32, 8, .rggb⟩, {}, 8, 2, 48, 1, 0, 0, 0⟩ }
      tp := { phase := .offering, transfer := some {
        shot := 5, kind := .raw, urgent := false, id := 1, total := 2048, resume := 0, expires := 9 } }
      mi := { phase := .recording, current := some { shot := 5, onVoice := true, blocks := [9], start := 0 } } }
    s.usable 5 = some h ∧ (s.heldShots.map (·.number)).Nodup ∧ s.de.phase = .developing ∧ (s.de.job.map (·.shot)) = some 5
      ∧ (s.cw.a.file.map (·.shot)) = some 5 ∧ (s.tp.transfer.map (·.shot)) = some 5 ∧ (s.mi.current.map (·.shot)) = some 5
      ∧ h.dutyState (.card .raw .a) = some .active ∧ (after (.shotDelete ⟨1, some 5⟩) s).held 5 = none := by decide +kernel

/-- The part with a reservation waiting for a shot of so many lines of 65,536 bytes. -/
def asking (lines : Nat) (table : List Shot) : State :=
  { part with ss := { free := [10, 11, 12, 13], table := table, request := some ⟨1, 0, 0, 0, ⟨65536, lines, 8, .rggb⟩⟩ } }

theorem test_witness_ReservationGrant :
    part.ss.request = none
      ∧ ((asking 4 []).ss.request.isSome = true ∧ ∀ e ∈ (asking 4 []).ss.table, e.state ≠ .free)
      ∧ (∃ e ∈ (asking 4 [{}, claimed]).ss.table, e.state = .reserved)
      ∧ (asking 5 [{}]).ss.free.length < blocksFor (rawBytes ⟨65536, 5, 8, .rggb⟩)
      ∧ (∃ e ∈ (asking 4 [{}]).ss.table, e.state = .free) ∧ (∀ e ∈ (asking 4 [{}]).ss.table, e.state ≠ .reserved)
      ∧ blocksFor (rawBytes ⟨65536, 4, 8, .rggb⟩) = (asking 4 [{}]).ss.free.length := by decide +kernel

/-- A file that wants its next bytes, and the part with it in slots. -/
def file : CardFile := { shot := 5, kind := .raw, header := [], payload := 2048, sectors := 5 }
def writing : CardSlot := { state := .writing, file := some file, extents := [⟨100, 50⟩] }
def transfer : Transfer := { shot := 5, kind := .raw, urgent := false, id := 1, total := 2048, resume := 0, expires := 9 }

theorem test_witness_WheelSlot :
    let at_ := fun (k : Nat) (c : CardWriter) => { part with cw := c, ss := { part.ss with wheelPos := k } }
    (powered .standby).cp.power = .standby ∧ part.cp.power ≠ .standby
      ∧ (∀ r, (at_ 1 {}).readerWaits r = false)
      ∧ (part.ss.wheelPos = 0 ∧ { part with waiting := [(.wheel, .words (List.replicate 16 "D"))] }.ss.wheelPos = 0)
      ∧ ((at_ 1 {}).cfg.store.wheel.getD 1 .a = .b ∧ (at_ 1 { b := writing }).readerWaits .b = true
        ∧ [Reader.b, .d, .t, .a] = [] ++ .b :: [.d, .t, .a])
      ∧ (let s := at_ 15 { a := writing }
        s.readerWaits .t = false ∧ s.readerWaits .a = true
          ∧ [Reader.t, .a, .b, .d] = [.t] ++ .a :: [.b, .d])
      ∧ (let s := { at_ 1 { a := writing } with tp := { phase := .sending, transfer := some transfer } }
        s.readerWaits .b = false ∧ s.readerWaits .d = false ∧ s.readerWaits .t = true
          ∧ [Reader.b, .d, .t, .a] = [.b, .d] ++ .t :: [.a])
      ∧ (at_ 1 { a := writing }).cw.a.file = some file ∧ (at_ 1 { b := writing }).cw.b.file = some file
      ∧ ({ part with tp := { transfer := some transfer } } : State).tp.transfer = some transfer := by
  refine ⟨by decide +kernel, by decide +kernel, fun r => ?_, ?_⟩
  · cases r <;> decide +kernel
  · decide +kernel

/-- A job before and at its last read. -/
theorem test_witness_WheelSlot_job :
    let j : Job := ⟨5, 0, defaultRecipe, ⟨64, 32, 8, .rggb⟩, {}, 8, 4, 96, 1, 0, 0, 0⟩
    let s := { part [owing] with de := { phase := .developing, job := some j } }
    let all := 2 * j.recipe.scale * j.height * lineBytes j.geom
    s.de.job = some j ∧ all = 2048 ∧ all ≤ min 4096 all ∧ (s.heldShots.map (·.number)).Nodup
      ∧ ((grantRead .d s).held 5).isSome = true ∧ 4096 < 2 * j.recipe.scale * 64 * lineBytes j.geom := by decide +kernel

/-- An IMAGE line is written in the landing shot's block 4; what lies elsewhere is not; a command that stores nothing. -/
theorem test_witness_StoredBytes :
    let s := { part [landing] with
      cfg := { capture := { width := 32 } }
      sp := { link := .aligned, items := [.unit (withCrc ([BitVec.ofNat 16 (3 + 256 * lineCheck 3 0), 0]
          ++ List.replicate 28 0xABCD))]
              reading := .active ⟨.shot, 1, 0, 0, 3456, 0, false, [], [], 0, {}⟩ } }
    Memory.wf s.mem = true ∧ storesBytes .line = true ∧ s.storedBlocks .line = [4] ∧ (5 * 65536) / 65536 ∉ s.storedBlocks .line
      ∧ memRead (after .line s).mem (4 * 65536) ≠ memRead s.mem (4 * 65536)
      ∧ storesBytes .wakeLine = false ∧ Instr.wakeLine ≠ .powerUpReset ∧ exec .wakeLine s = .next s :=
  ⟨by decide +kernel, by decide, by decide +kernel, by decide +kernel, by decide +kernel, by decide, by decide, rfl⟩

theorem test_witness_FloorKept :
    allocates .developJobStart = true ∧ part.cp.power = .active ∧ (powered .closing).cp.power = .closing
      ∧ exec .developJobStart part = .next part := ⟨by decide, rfl, rfl, rfl⟩

theorem test_witness_ReportsAndTheShotList :
    part.awake = true ∧ (shot 5) ∈ (part [shot 5]).heldShots
      ∧ shot 5 ∉ (part [shot 5]).listedShots 6 ∧ shot 5 ∈ (part [shot 5]).listedShots 5
      ∧ (let s := part ((List.range 65).map (fun n => shot (n + 1)))
        shot 65 ∈ s.heldShots ∧ shot 65 ∉ s.listedShots 1 ∧ (s.listedShots 1).length = 64) := by decide +kernel

/-! ## Witnesses: the sensor port -/

/-- A pending capture value waits. -/
theorem test_witness_LinkCommands :
    ((linked .training).taking = true ∧ (linked .training).sp.link = .training)
      ∧ ((linked .failed).taking = true ∧ (linked .failed).sp.link = .failed) ∧ part.sp.link = .down
      ∧ ((linked .aligned).awake = true ∧ (linked .aligned).sp.link ≠ .down ∧ (linked .aligned).rtu.phase = .idle)
      ∧ ((bursting .exposing [triggered]).awake = true ∧ (bursting .exposing [triggered]).sp.link ≠ .down
        ∧ (bursting .exposing [triggered]).rtu.phase ≠ .idle)
      ∧ ((bursting .waiting).taking = true ∧ (bursting .waiting).rtu.phase ≠ .idle)
      ∧ (part.rtu.phase = .idle ∧ part.sp.link ≠ .aligned)
      ∧ ((linked .aligned).rtu.phase = .idle ∧ (linked .aligned).sp.retrain = none ∧ (linked .aligned).sp.checkOn = false)
      ∧ ({ part with sp := { link := .aligned, checkOn := true } } : State).sp.checkOn = true := by decide +kernel

/-- A part in training with these facts of the sensor port. -/
def train (f : SensorPort → SensorPort) : State :=
  { part with sp := f { link := .training, trainReq := true }, time := 5000 }

/-- The FIFOs after a link parameters header on four lanes. -/
def paramFifos (ws : List Word16) : List (List LaneWord) :=
  [[.data (ws.getD 0 0), .data (ws.getD 4 0)], [.data (ws.getD 1 0)], [.data (ws.getD 2 0)], [.data (ws.getD 3 0)], [], [], [], []]

theorem test_witness_Training_fails :
    (let s := train (fun p => { p with windowFrom := some 3 })
     s.sp.link = .training ∧ s.sp.trainReq = true ∧ s.sp.windowFrom ≠ none ∧ s.allMarked = false ∧ s.sp.attempts + 1 < 4)
    ∧ (let s := train (fun p => { p with markBy := some 5000, attempts := 3 })
      s.sp.markBy = some 5000 ∧ 5000 ≤ s.time ∧ 4 ≤ s.sp.attempts + 1 ∧ s.rtu.phase = .idle
        ∧ ({ s with rtu := { phase := .waiting, burst := some burst } } : State).rtu.phase ≠ .idle)
    ∧ (let s := train (fun p => { p with marked := List.replicate 8 true, fifos := paramFifos [1, 4, 14, 5120, 0] })
      s.paramsReady = true ∧ (s.paramWords.any (fun ws => !paramsMatch s.cfg.capture ws)) = true) := by decide +kernel

theorem test_witness_Training_goesOn :
    part.sp.link ≠ .training ∧ (train id).logicalLane 8 = none ∧ (train id).logicalLane 3 = some 3
      ∧ (let s := train (fun p => { p with marked := [false, false, false, true, false, false, false, false], windowFrom := some 3 })
        s.sp.marked.getD 3 false = true ∧ s.sp.marked.getD 0 false = false ∧ s.sp.windowFrom.getD 16 + 12 < 16
          ∧ 15 ≤ s.sp.windowFrom.getD 15 + 12)
      ∧ (train id).sp.windowFrom = none ∧ (train id).paramsReady = false
      ∧ (let s := train (fun p => { p with marked := List.replicate 8 true, fifos := paramFifos (withCrc [1, 4, 14, 5120]) })
        s.paramsReady = true ∧ s.paramWords = some (withCrc [1, 4, 14, 5120])
          ∧ paramsMatch s.cfg.capture (withCrc [1, 4, 14, 5120]) = true)
      ∧ (let s := train (fun p => { p with reassertAt := some 5000 }); s.sp.reassertAt = some 5000 ∧ 5000 ≤ s.time) := by
  decide +kernel

/-- A part ALIGNED with a full lane. -/
def full (check : Bool) : State :=
  { part with sp := { link := .aligned, fifos := [List.replicate 16 .line], checkOn := check } }

/-- No FIFO has been empty long, and none is full. -/
def calm (s : State) (wt : Nat) : Bool :=
  (List.range 8).all (fun j => decide ((s.sp.fifos.getD j []).length < 16 ∧ wt ≤ s.sp.emptyFrom.getD j 0 + 12))

/-- A part ALIGNED with a unit in hand on four lanes. -/
def reassembling (f : SensorPort → SensorPort) : State :=
  { part with sp := f { link := .aligned, unitOpen := true, assembly := [1, 2, 3], turn := 3 } }

theorem test_witness_SymbolsDriftAndRetrain :
    ((∀ j < 4, part.cfg.capture.laneMap.getD j 8 ≠ 4) ∧ part.cfg.capture.laneMap.getD 3 8 = 3
        ∧ ∀ j < 3, part.cfg.capture.laneMap.getD j 8 ≠ 3)
      ∧ (decodeSymbol 0x20001 = .idle ∧ decodeSymbol 0x1FFFF = .data 0xFFFF ∧ decodeSymbol 0x20002 = .mark
        ∧ decodeSymbol 0x20004 = .line ∧ decodeSymbol 0x20008 = .stop ∧ decodeSymbol 0x30000 = .error)
      ∧ (let s := train (fun p => { p with marked := List.replicate 8 true })
        s.sp.trainReq = true ∧ s.sp.marked.getD 3 false = true ∧ (s.sp.fifos.getD 3 []).length < 16)
      ∧ (let s := { full false with sp := { (full false).sp with unitOpen := true, reading := .active ⟨.shot, 1, 0, 0, 1, 0, false, [], [], 0, {}⟩ } }
        s.lineInHand = true ∧ (full false).lineInHand = false)
      ∧ (16 ≤ ((full true).sp.fifos.getD 0 []).length ∧ (full true).sp.checkOn = true ∧ (full false).sp.checkOn = false)
      ∧ ((linked .aligned).sp.retrain = none ∧ calm (linked .aligned) 12 = true)
      ∧ (let s := { part with sp := { link := .aligned, retrain := some .drift } }
        s.sp.retrain ≠ none ∧ s.sp.reading = .between ∧ s.expectsReadout = false ∧ s.sp.checkOn = false) := by decide +kernel

/-- A lane empty for 12 word times is no drift, and for 13 it is; a lane that an error takes to the threshold, and one that
it does not. -/
theorem test_witness_SymbolsDriftAndRetrain_errors :
    (let s := reassembling (fun p => { p with fifos := [[.line], [], [], [], [], [], [], []] })
     calm s 12 = true ∧ s.sp.fifos.getD 0 [] ≠ [] ∧ s.sp.fifos.getD 3 [] = [] ∧ 12 < 13 - s.sp.emptyFrom.getD 3 0)
    ∧ (let e := [3, 0, 0, 15, 0, 0, 0, 0].set 3 (min ([3, 0, 0, 15, 0, 0, 0, 0].getD 3 0 + 1) 255)
      16 ≤ e.getD 3 0 ∧ ∀ j < 3, e.getD j 0 < 16) ∧ (linked .aligned).cfg.capture.errThreshold = 16
    ∧ (List.replicate 8 0).getD 3 0 + 1 < 16 := by decide +kernel

/-- A word that waits for its turn; one that is taken with the word that waits on the next lane; the eighth word of a header
between readouts and within one; the last LINE and the last END word; a word that is dropped; a TEST readout's turn. -/
theorem test_witness_SymbolsDriftAndRetrain_reassembly :
    (let s := reassembling id
     calm s 0 = true ∧ s.sp.resync = false ∧ s.sp.items = [] ∧ s.sp.fifos.length = 8 ∧ s.sp.reading = .between
        ∧ s.sp.unitOpen = true ∧ 2 ≠ s.sp.turn ∧ s.sp.turn < s.cfg.capture.lanes ∧ s.sp.fifos.getD 3 [] = [])
    ∧ (let s := reassembling (fun p => { p with fifos := [[.data 5], [], [], [], [], [], [], []] })
      (s.sp.fifos.getD ((3 + 1) % 4) []).head? = some (.data 5) ∧ s.sp.fifos.getD ((3 + 1 + 1) % 4) [] = [])
    ∧ ((withCrc [2, 0, 0, 0, 3456, 5120, 14]).length = 8 ∧ isHeader (withCrc [2, 0, 0, 0, 3456, 5120, 14]) = true
      ∧ lineIdentified (withCrc [2, 0, 0, 0, 3456, 5120, 14]) = false)
    ∧ (let s := reassembling (fun p => { p with fifos := [[.line], [.line], [.line], [], [], [], [], []] })
      ∀ j < 4, j ≠ 3 → s.sp.fifos.getD j [] = [.line])
    ∧ (let s := reassembling (fun p => { p with fifos := [[.stop], [.stop], [.stop], [], [], [], [], []] })
      ∀ j < 4, j ≠ 3 → s.sp.fifos.getD j [] = [.stop])
    ∧ ((linked .aligned).sp.unitOpen = false ∧ ∀ j < 4, ((linked .aligned).sp.fifos.getD j []).head? = none)
    ∧ (let s := reassembling (fun p => { p with
        unitOpen := false, assembly := [], reading := .active ⟨.test, 1, 0, 0, 1, 0, false, [], [], 0, {}⟩
        fifos := [[.data 1], [.stop], [.line], [], [], [], [], []] })
      s.sp.checkers.length = 8 ∧ (∀ j < 4, j ≠ 3 → s.sp.fifos.getD j [] = [[LaneWord.data 1, .stop, .line].getD j .line])
        ∧ [LaneWord.data 1, .stop, .line].getD 0 .line ≠ .stop) := by decide +kernel

/-- The part with one lane, a locked checker on it, and these words in hand of a TEST readout. -/
def inTestReadout (ws : List Word16) : State :=
  { part with
    cfg := { capture := { lanes := 1 } }
    sp := { link := .aligned, checkOn := true, checkers := { locked := true, state := some 1 } :: List.replicate 7 {}
            reading := .active ⟨.test, 1, 0, 0, 1, 0, false, [], [], 0, {}⟩, unitOpen := true, assembly := ws } }

/-- A TEST readout's LINE word, its END word, a word that joins a unit in hand, the eighth word of a header, and the eighth of
words that are none; and drift with words in hand. -/
theorem test_witness_SymbolsDriftAndRetrain_test :
    let ws := [2, 0, 0, 0, 3456, 5120, 14]
    let s := inTestReadout ws
    (calm s 0 = true ∧ s.sp.resync = false ∧ s.sp.items = [] ∧ s.sp.fifos.length = 8 ∧ s.sp.checkers.length = 8
        ∧ s.cfg.capture.lanes = 1 ∧ s.sp.fifos.getD 0 [] = [] ∧ s.sp.unitOpen = true)
      ∧ ((ws.take 6 ++ [14]).length < 8 ∧ isHeader (withCrc ws) = true ∧ isHeader (ws ++ [0]) = false)
      ∧ (let u := { s with sp := { s.sp with fifos := List.replicate 16 (.data 0) :: List.replicate 7 [] } }
        u.testing = true ∧ 16 ≤ (u.sp.fifos.getD 0 []).length ∧ u.sp.checkOn = true) := by decide +kernel

/-- R34, R37: a header whose eighth word comes within a TEST readout closes it and is judged, here as unexpected, since a
pattern check is on and the header is a WATCH readout's. -/
theorem test_test_readout_closed_by_header :
    let h := withCrc [2, 9, 0, 0, 3456, 5120, 14]
    let s := after (.laneSymbol 0 (0x10000 ||| (h.getD 7 0).setWidth 18) 0) (inTestReadout (h.take 7))
    s.headerReady = some h ∧ (s.sp.checkers.map (·.compared)).sum = 0
      ∧ (after .readoutHeader s).sp.reading = .discarded ∧ (after .readoutHeader s).sp.unexpected = 1 := by decide +kernel

/-- R48: a LINE word and seven words after it whose eighth shows them to be no header are nine words of the pattern. -/
theorem test_test_readout_words_judged :
    let s := after (.laneSymbol 0 0x10000 0) (inTestReadout [1, 2, 3, 4, 5, 6, 7])
    s.sp.unitOpen = false ∧ s.sp.items = [] ∧ (s.sp.checkers.getD 0 {}).compared = 9 := by decide +kernel

/-- The part ALIGNED with this unit ready, in a readout or between, and with this table. -/
def ready (i : Assembled) (r : Reading) (table : List Shot) : State :=
  { part table with sp := { link := .aligned, items := [i], reading := r } }

/-- A SHOT header for the applied geometry, with no BLACK and no PHASE rows. -/
def shotHeader (height : Word16) : List Word16 := withCrc [1, 300, 0, 0, height, 5120, 14]

/-- The SHOT readout in progress. -/
def readout (next : Nat) : Readout := ⟨.shot, 1, 0, 0, 3456, 0, false, [], [], next, {}⟩

/-- An entry whose geometry is the applied one. -/
def expected : Shot := { triggered with geom := ⟨5120, 3456, 14, .rggb⟩ }

theorem test_witness_ReadoutHeaders :
    part.headerReady = none
      ∧ (let s := ready (.unit [1, 2, 3, 4, 5, 6, 7, 8]) .between []
        s.headerReady = some [1, 2, 3, 4, 5, 6, 7, 8] ∧ s.sp.reading = .between ∧ isHeader [1, 2, 3, 4, 5, 6, 7, 8] = false
          ∧ s.sp.link = .aligned ∧ s.sp.checkOn = false ∧ s.sp.retrain = none
          ∧ (∀ i < s.cfg.capture.lanes, ((s.sp.errs.take s.cfg.capture.lanes).map (fun n => min (n + 1) 255)
            ++ s.sp.errs.drop s.cfg.capture.lanes).getD i 0 < s.cfg.capture.errThreshold)
          ∧ (let u := { s with cfg := { capture := { errThreshold := 1 } } }
            ∃ i < u.cfg.capture.lanes, 1 ≤ ((u.sp.errs.take u.cfg.capture.lanes).map (fun n => min (n + 1) 255)
              ++ u.sp.errs.drop u.cfg.capture.lanes).getD i 0))
      ∧ (isHeader (shotHeader 3456) = true ∧ ((shotHeader 3456).getD 0 0).toNat = 1)
      ∧ (ready (.unit (shotHeader 3456)) .between []).expectsReadout = false
      ∧ (let s := ready (.unit (shotHeader 3456)) .between [expected]
        s.headerReady = some (shotHeader 3456) ∧ s.ss.table.find? isTriggered = some expected ∧ s.sp.checkOn = false
          ∧ s.cfg.capture.width = 5120 ∧ s.cfg.capture.depth = 14 ∧ s.cfg.capture.height = 3456
          ∧ ((shotHeader 3456).getD 4 0).toNat = 3456 ∧ ((shotHeader 3455).getD 4 0).toNat ≠ 3456) := by decide +kernel

/-- A WATCH and a TEST header, each fitting or not, under a pattern check or not; a kind that is none of the three; a header
that arrives within a readout; and the watcher on, at LOW and at FULL rate. -/
theorem test_witness_ReadoutHeaders_kinds :
    let h := fun (kind np : Word16) => withCrc [kind, 300, 16, np, 3456, 5120, 14]
    let s := fun (check : Bool) (r : Reading) (kind np : Word16) =>
      { part with sp := { link := .aligned, items := [.unit (h kind np)], reading := r, checkOn := check } }
    (isHeader (h 2 11) = true ∧ isHeader (h 3 0) = true ∧ isHeader (h 4 0) = true)
      ∧ (s false .between 2 11).headerReady = some (h 2 11) ∧ (s true .between 2 11).sp.checkOn = true
      ∧ ((h 2 11).getD 3 0).toNat ≤ 11 ∧ ¬ ((h 2 12).getD 3 0).toNat ≤ 11
      ∧ (s true .between 3 0).headerReady = some (h 3 0) ∧ (s false .between 4 0).headerReady = some (h 4 0)
      ∧ ((s true .between 3 0).sp.items = [.unit (h 3 0)] ∧ 1 ≤ (s true .between 3 0).cfg.capture.lanes
        ∧ ∀ i < (s true .between 3 0).cfg.capture.lanes, (s true .between 3 0).sp.fifos.getD i [] = [])
      ∧ (s false (.active (readout 0)) 2 11).headerReady = some (h 2 11)
      ∧ ({ part with fe := { watcher := { enabled := true } } } : State).watching = true
      ∧ ({ part with fe := { watcher := { enabled := true, full := true } } } : State).fe.watcher.full = true
      ∧ (s false .between 2 11).watching = false := by decide +kernel

/-- A line of a kind with its index and payload. -/
def lineOf (kind : Nat) (index : Word16) (payload : List Word16) : List Word16 :=
  withCrc ([BitVec.ofNat 16 (kind + 256 * lineCheck kind index), index] ++ payload)

/-- A good IMAGE line of the smallest width for the line index, for a part of that width. -/
def imageLine (index : Word16) : List Word16 := lineOf 3 index (List.replicate 28 0xABCD)

/-- A part whose applied lines are 64 pixels of 14 bits, in the SHOT readout. -/
def narrow (i : Assembled) (next : Nat) : State :=
  { ready i (.active (readout next)) [landing] with cfg := { capture := { width := 32 } } }

theorem test_witness_ReadoutLines :
    part.lineReady = none
      ∧ (part.cfg.capture.depth ≤ 16 ∧ part.cfg.capture.width * part.cfg.capture.depth % 8 = 0 ∧ 0 < part.cfg.capture.width)
      ∧ ((ready (.unit [1, 2]) .discarded []).lineReady = some (false, [1, 2])
        ∧ (∀ r, (ready (.unit [1, 2]) .discarded []).sp.reading ≠ .active r))
      ∧ (let s := ready (.unit [1, 2]) (.active { readout 0 with kind := .test }) []
        s.lineReady = some (false, [1, 2]))
      ∧ (let s := narrow (.unit (imageLine 3455)) 3455
        s.lineReady = some (false, imageLine 3455) ∧ lineIdentified (imageLine 3455) = true
          ∧ ((imageLine 3455).getD 0 0).toNat % 256 = 3 ∧ s.lineGood (imageLine 3455) = true
          ∧ ((imageLine 3455).getD 1 0).toNat = (readout 3455).nextImage ∧ (readout 3455).nextImage < s.cfg.capture.height)
      ∧ ((imageLine 3456).getD 1 0).toNat ≥ part.cfg.capture.height ∧ ((imageLine 0).getD 1 0).toNat < (readout 1).nextImage
      ∧ (narrow (.unit (imageLine 0)) 0).lineGood ((imageLine 0).dropLast ++ [0]) = false
      ∧ (narrow (.cut (imageLine 0)) 0).lineReady = some (true, imageLine 0)
      ∧ part.stopReady = false ∧ (ready .stop .discarded []).stopReady = true
      ∧ part.silent = false
      ∧ ({ part with time := 200000, sp := { link := .aligned, reading := .discarded } } : State).silent = true := by
  refine ⟨by decide +kernel, by decide +kernel, ⟨by decide +kernel, fun r h => nomatch h⟩, ?_⟩
  decide +kernel

set_option maxRecDepth 100000 in
/-- BLACK and PHASE lines in and out of their order, an unidentified line, and a silence with a line in hand, with eight
words of a header in hand, and with none. -/
theorem test_witness_ReadoutLines_sections :
    let black := lineOf 1 15 (List.replicate 28 0x8000)
    let phase := lineOf 2 10 (List.replicate 1408 0)
    let r : Readout := { readout 0 with nb := 16, np := 11, blackOpen := true }
    let s := narrow (.unit black) 0
    let quiet := fun (ws : List Word16) =>
      { s with time := 200000, sp := { link := .aligned, reading := .active r, unitOpen := true, assembly := ws } }
    (lineIdentified black = true ∧ (black.getD 0 0).toNat % 256 = 1 ∧ s.lineGood black = true)
      ∧ ((black.getD 1 0).toNat < r.nb ∧ (black.getD 1 0).toNat ∉ r.blackSeen ∧ (black.getD 1 0).toNat ∈ [15] ∧ 16 ≤ 16)
      ∧ (lineIdentified phase = true ∧ (phase.getD 0 0).toNat % 256 = 2 ∧ s.lineGood phase = true)
      ∧ ((phase.getD 1 0).toNat ≤ 10 ∧ r.phaseSeen.length < r.np ∧ 10 < ((lineOf 2 11 []).getD 1 0).toNat)
      ∧ lineIdentified [0, 0, 0] = false
      ∧ ((quiet black).silent = true ∧ isHeader (quiet black).sp.assembly = false)
      ∧ (let u := { inTestReadout [1, 2] with time := 200000 }
        u.silent = true ∧ u.sp.unitOpen = true ∧ ((after .readoutSilence u).sp.checkers.getD 0 {}).compared = 3)
      ∧ ({ r with kind := .watch } : Readout).np ≠ 0
      ∧ ((quiet (shotHeader 3456)).silent = true ∧ isHeader (quiet (shotHeader 3456)).sp.assembly = true) := by decide +kernel

theorem test_witness_ShotLands :
    let s := ready .stop (.active (readout 3456)) [landing, shot 5]
    let quiet := { s with time := 200000, sp := { link := .aligned, reading := .active { readout 3455 with np := 11 } } }
    s.stopReady = true ∧ (readout 3456).kind = .shot ∧ (readout 3456).nextImage = s.cfg.capture.height ∧ (readout 3456).np = 0
      ∧ s.ss.table.find? isLanding = some landing ∧ (∀ x ∈ s.ss.table, x.state = .held → x.number ≠ landing.number)
      ∧ (quiet.silent = true ∧ quiet.sp.unitOpen = false)
      ∧ ((after .readoutEnd { s with cfg := { plans := { tether := .allProof } } }).held 8).isSome = true
      ∧ (let u := after .readoutEnd { s with cfg := { plans := { card := .off, tether := .none, develop := .never } } }
        (u.cfg.plans.card = .off ∧ u.cfg.plans.tether = .none ∧ u.cfg.plans.develop = .never) ∧ landing.keep = false
          ∧ landing.pins = [] ∧ s.mi.phase ≠ .recording ∧ landing.proof = none ∧ landing.memo = none) := by decide +kernel

/-! ## Witnesses: the release and timing unit -/

theorem test_witness_ReleaseCommands :
    (bursting .waiting).taking = true ∧ (bursting .stopping).rtu.phase ≠ .idle
      ∧ (part.rtu.phase = .idle ∧ part.sp.link = .down)
      ∧ ((linked .aligned).taking = true ∧ (linked .aligned).rtu.phase = .idle ∧ (linked .aligned).sp.link = .aligned)
      ∧ part.ownedBy .host = false ∧ (bursting .waiting).ownedBy .host = true
      ∧ (let s := { bursting .reading [landing] with sp := { link := .aligned, reading := .active (readout 0) } }
        s.awake = true ∧ s.rtu.phase ≠ .idle ∧ s.sp.reading = .active (readout 0) ∧ (readout 0).kind = .shot
          ∧ (bursting .exposing).sp.reading = .between)
      ∧ (bursting .exposing).ownedBy .host = true ∧ (bursting .reading).ownedBy .host = true
      ∧ (bursting .stopping).ownedBy .host = true ∧ (after (.release ⟨1, some (.value 999)⟩) (linked .aligned)).rtu.standing = none := by
  decide +kernel

theorem test_witness_SyncArmLatencyAndLine :
    part.cfg.burst.syncMode ≠ .once ∧ ({ part with cfg := { burst := { syncMode := .once } } } : State).awake = true
      ∧ part.lines.releasePressed = false ∧ (powered .closed).cp.power = .closed
      ∧ ({ part with rtu := { level := some true } } : State).rtu.level = some true
      ∧ (part.rtu.level ≠ some true ∧ part.cfg.burst.filterMs ≠ 0)
      ∧ ({ part with cfg := { burst := { filterMs := 0 } } } : State).cfg.burst.filterMs = 0
      ∧ (part.rtu.filterAt = some 4000 ∧ part.time < 4000)
      ∧ (let s := { linked .aligned with
            time := 4000, lines := { releasePressed := true }, rtu := { filterAt := some 4000, level := some false } }
        s.rtu.filterAt = some 4000 ∧ 4000 ≤ s.time ∧ s.rtu.level = some false ∧ s.lines.releasePressed = true
          ∧ s.cp.power = .active ∧ s.rtu.phase = .idle ∧ s.sp.link = .aligned)
      ∧ (let s := { part with time := 4000, rtu := { filterAt := some 4000, level := some true } }
        s.rtu.level = some true ∧ s.lines.releasePressed = false ∧ s.ownedBy .line = false) := by decide +kernel

theorem test_witness_FrameFiresAndNumbers :
    (part.rtu.phase ≠ .waiting)
      ∧ (let s := bursting .waiting [claimed]
        s.rtu.burst = some burst ∧ s.rtu.phase = .waiting ∧ (claimed ∈ s.ss.table ∧ claimed.state = .reserved ∧ claimed.number = 0)
          ∧ (s.sp.link = .aligned ∧ s.sp.retrain = none ∧ s.sp.checkOn = false) ∧ s.fe.servo = .idle
          ∧ burst.tg + ((burst.triggered : Int) - burst.kg) * burst.period ≤ (s.time : Int)
          ∧ s.ss.table.length ≤ 256 ∧ (∀ e ∈ s.ss.table, e.state ≠ .free → e.number ≠ s.ss.next) ∧ s.NumbersDistinct) :=
  ⟨by decide +kernel, by decide +kernel, by decide +kernel, by decide +kernel, by decide +kernel, by decide +kernel,
    by decide +kernel, by decide +kernel, by decide +kernel, by unfold State.NumbersDistinct; decide +kernel⟩

/-- A frame that fires by its expired focus wait, 100,000 µs late, with its ready moment known; its burst's first late frame
and a later one. -/
theorem test_witness_FrameFiresAndNumbers_byWait :
    let s := { bursting .waiting [claimed] with
      time := 100000, cfg := { burst := { focusPriority := true } }, fe := { servo := .seeking, servoMode := some .single }
      rtu := { phase := .waiting, burst := some burst, waitExpired := true, ready := some (9, .focus) } }
    s.cfg.burst.focusPriority = true ∧ s.fe.servoMode = some .single ∧ s.fe.servo ≠ .idle ∧ s.fe.servo ≠ .locked
      ∧ s.rtu.waitExpired = true ∧ s.rtu.ready = some (9, .focus) ∧ burst.late = 0
      ∧ (s.cfg.burst.latenessLimit : Int) < s.time - (burst.tg + ((burst.triggered : Int) - burst.kg) * burst.period)
      ∧ { burst with late := 1 }.late ≠ 0 ∧ ¬ ∃ x ∈ s.cp.notices, x.key = (.lateFrames, .num 12) := by decide +kernel

theorem test_witness_WaitAndReadoutTimeouts :
    let timed := fun (p : BurstPhase) => { bursting p [triggered, claimed] with
      time := 9, rtu := { phase := p, burst := some burst, readoutAt := some 9 } }
    part.rtu.phase ≠ .waiting ∧ part.ss.table.find? isTriggered = none
      ∧ (let s := { bursting .waiting with time := 9, rtu := { phase := .waiting, waitAt := some 9 } }
        s.rtu.phase = .waiting ∧ s.rtu.waitAt = some 9 ∧ 9 ≤ s.time)
      ∧ (claimed ∈ (bursting .waiting [claimed]).ss.table ∧ claimed.number = 0 ∧ (bursting .waiting).ss.table = [])
      ∧ (let s := timed .exposing
        s.ss.table.find? isTriggered = some triggered ∧ s.rtu.readoutAt = some 9 ∧ 9 ≤ s.time ∧ s.rtu.phase = .exposing)
      ∧ (timed .reading).rtu.phase = .reading
      ∧ ((timed .stopping).rtu.phase = .stopping ∧ (timed .stopping).ss.table.find? isClaimed = some claimed) := by
  decide +kernel

/-- The part at 700 µs in a sync mode with a standing grid of period 25,000 from 0. -/
def synced (m : SyncMode) (r : Rtu) : State :=
  { linked .aligned with time := 700, cfg := { burst := { syncMode := m } }, rtu := r }

theorem test_witness_SyncEdgesAndGrids :
    (powered .standby).cp.power = .standby ∧ (synced .off {}).cp.power = .active
      ∧ (synced .watch {}).rtu.standing = none
      ∧ (let s := synced .watch { standing := some ⟨0, 0, 25000⟩ }
        s.rtu.phase = .idle ∧ s.cfg.burst.window < (phaseError 0 25000 (s.time + s.cfg.burst.latency)).natAbs)
      ∧ ((synced .once { armed := true }).rtu.armed = true ∧ (synced .once {}).rtu.aligned = false
        ∧ (synced .once { aligned := true }).rtu.armed = false ∧ (synced .once { aligned := true }).rtu.aligned = true)
      ∧ ((synced .every {}).cfg.burst.syncMode = .every ∧ (synced .every {}).rtu.standing = none)
      ∧ (let s := synced .every { standing := some ⟨0, 700, 25000⟩ }
        (phaseError 700 25000 (s.time + s.cfg.burst.latency)).natAbs ≤ s.cfg.burst.window)
      ∧ (let s := synced .every { phase := .waiting, burst := some burst }
        s.rtu.phase ≠ .idle ∧ 0 < burst.period
          ∧ s.cfg.burst.window < (phaseError burst.tg burst.period (s.time + s.cfg.burst.latency)).natAbs)
      ∧ ((synced .follow {}).cfg.burst.syncMode = .follow ∧ (synced .follow {}).rtu.phase = .idle
        ∧ (synced .follow {}).sp.link = .aligned ∧ (synced .follow { phase := .waiting }).rtu.phase ≠ .idle)
      ∧ (let u := fun l => after .syncEdge { synced .follow {} with sp := { link := l } }
        (u .training).rtu.phase = .waiting ∧ (u .failed).rtu.phase = .idle
          ∧ (u .failed).cp.notices.any (·.key.1 == .burstEnd) = true)
      ∧ (powered .closing).cp.power = .closing ∧ 0 < 1 := by decide +kernel

/-! ## Witnesses: the focus engine and the lens port -/

/-- The part with the lens in a phase, at a slot of its frame. -/
def lens (f : Lens → Lens) : State := { part with lp := f { phase := .running } }

theorem test_witness_FocusCommands :
    part.awake = true ∧ part.taking = true ∧ part.fe.servo = .idle ∧ (120 < 121) ∧ part.fe.settle = none
      ∧ (lens id).lp.stage = none ∧ (lens (fun l => { l with stage := some .home })).lp.stage = some .home
      ∧ ((lens (fun l => { l with referenced := true })).lp.phase = .running)
      ∧ ({ part with time := 9, fe := { settle := some { due := 9 } } } : State).fe.settle = some { due := 9 }
      ∧ (let s := { part with fe := { servo := .seeking, watcher := { enabled := true, full := true } } }
        s.fe.servo ≠ .idle ∧ s.fe.watcher.enabled = true ∧ (after (.afStop ⟨1, some ()⟩) s).fe.watcher = { enabled := true })
      ∧ (after (.afStart ⟨1, some (some .single)⟩) part).fe.servo ≠ part.fe.servo := by
  decide +kernel

/-- The servo's results: discarded in each of the three ways, in the window, none, at the limit, and with a drive. -/
theorem test_witness_FocusCommands_servo :
    let r : LastResult := { outcome := .target, defocus := 11, target := some 11, start := 7 }
    let s := fun (f : Focus) => { lens (fun l => { l with referenced := true }) with fe := f }
    let ih := fun (x : State) => (openReadout .watch 0 x).fe.inHand
    (s { last := { r with moving := true }, servoMode := some .single, servo := .seeking }).fe.settleTimedOut = false
      ∧ (s { settle := some { due := 9 } }).fe.settle ≠ none
      ∧ ((s { settledAt := some 8 }).fe.settledAt = some 8 ∧ r.start < 8)
      ∧ ((ih part).any (fun i => decide (10 ≤ i.cfg.window ∧ i.cfg.window < r.defocus.natAbs)) = true)
      ∧ (r.atLimit = false ∧ r.target = some 11)
      ∧ ((s { servo := .seeking, fails := 14 }).fe.fails + 1 < 16 ∧ 16 ≤ (s { servo := .seeking, fails := 15 }).fe.fails + 1)
      ∧ ((s { servo := .following, servoMode := some .continuous }).lp.phase = .running ∧ (s {}).lp.referenced = true)
      ∧ ((s { servoMode := some .monitor }).fe.servoMode = some .monitor ∧ (s {}).fe.servoMode = none)
      ∧ ((lens id).lp.referenced = false ∧ (s { servo := .suspended, servoMode := some .single }).fe.servo = .suspended) := by
  decide +kernel

set_option maxRecDepth 100000 in
/-- A LINE whose PHASE row is a readout's last one leaves a new DRIVE_TO staged. -/
theorem test_witness_FocusCommands_staged :
    let L := (List.range 64).map (fun k => BitVec.ofNat 16 (1000 + 100 * k))
    let R := (List.range 64).map (fun k => BitVec.ofNat 16 (770 + 100 * k))
    let row := (List.range 11).flatMap (fun _ => L ++ R)
    let s0 := { lens (fun l => { l with referenced := true }) with
      fe := { mode := .single 60, coef := 5000, servoMode := some .continuous, servo := .following } }
    let s1 := openReadout .watch 0 s0
    let s := { s1 with
      fe := { s1.fe with inHand := s1.fe.inHand.map (fun i => { i with rows := [0, 1, 2, 3, 4, 6, 7, 8, 9, 10] }) }
      sp := { link := .aligned, items := [.unit (lineOf 2 5 row)]
              reading := .active { readout 0 with kind := .watch, np := 11 } } }
    s.lp.far ≤ s.lp.near ∧ s.lp.stage = none ∧ (after .line s).lp.stage = some (.driveTo 43 5) := by decide +kernel

/-- The watcher's sample: void, first, following and waking. -/
theorem test_witness_FocusCommands_watcher :
    let areas := List.replicate 121 (⟨.flat, 64, 0, false, 0, 0⟩ : AreaResult)
    let s := fun (ref : Option Nat) => { part with fe :=
      { areas := areas, watchZone := ⟨0, 0, 0, 0⟩, watcher := { enabled := true, reference := ref } } }
    ((s none).fe.watcher.enabled = true ∧ (s none).fe.servo = .idle ∧ (s none).fe.watcher.reference = none)
      ∧ (∃ a ∈ rectAreas part.fe.watchZone, (areaOf part.fe.areas a).kind = .noData)
      ∧ ¬ (∃ a ∈ rectAreas (s none).fe.watchZone, (areaOf (s none).fe.areas a).kind = .noData)
      ∧ ((s (some 64)).fe.watcher.reference = some 64 ∧ ((64 : Int) - 64).natAbs * 64 ≤ 64 * 8)
      ∧ (57 - 1) * 8 < ((64 : Int) - (57 - 1 : Nat)).natAbs * 64 := by decide +kernel

theorem test_witness_AreaCorrelation :
    (List.replicate 64 65535).length = 64 ∧ (∀ x ∈ List.replicate 64 65535 ++ List.replicate 64 0, x ≤ 65535) ∧ 1 ≤ 24
      ∧ sad (List.replicate 64 65535) (List.replicate 64 0) 1 (-1) = 62 * 65535 := by decide +kernel

theorem test_witness_AreaResultsRight : 1 ≤ ({} : FocusCfg).range := by decide

/-- A row handed: skipped, not the last, and the last of a readout whose track then is lost. -/
theorem test_witness_AreaResultsRight_rows :
    let s := fun (rows : List Nat) (skipped : Bool) =>
      let u := openReadout .watch 0 { part with fe := { mode := .track, track := ⟨false, 60, none, 7⟩ } }
      { u with fe := { u.fe with inHand := u.fe.inHand.map (fun i => { i with rows := rows, skipped := skipped }) } }
    ((s [] true).fe.inHand.map (·.skipped) = some true ∧ (s [] true).fe.areas.length = 121)
      ∧ (s [0] false).fe.inHand.map (·.rows) = some [0]
      ∧ ((s (List.range 10) false).fe.inHand.any (fun i => !i.complete
          && (List.range 11).all (fun k => k == 10 || i.rows.contains k)) = true)
      ∧ (handRow 10 none (s (List.range 10) false)).fe.track.lost = true := by decide +kernel

theorem test_witness_ZoneAndTarget :
    let valid : AreaResult := ⟨.valid, 9, 1, false, 16, 3⟩
    (-5 : Int) ≤ -5 ∧ (chooseZone (List.replicate 121 valid) {} wholeGrid).outcome = .target
      ∧ (chooseZone (List.replicate 121 ⟨.edge, 9, 1, true, 0, 0⟩) {} wholeGrid).outcome = .search
      ∧ (chooseZone [] {} wholeGrid).outcome = .none
      ∧ (({} : Track).lost = false ∧ ({} : Track).target = none ∧ ({} : Track).current = 60)
      ∧ ((List.replicate 121 valid).getD 60 {}).kind = .valid ∧ (([] : List AreaResult).getD 60 {}).kind ≠ .valid
      ∧ (⟨true, 0, none, 8⟩ : Track).lost = true ∧ (⟨false, 120, some 5, 0⟩ : Track).target = some 5
      ∧ (chooseTrack (List.replicate 121 valid) ⟨false, 120, some 5, 0⟩ 2).area = some 120
      ∧ (chooseArea (.single 120) (List.replicate 121 valid) {} 0).outcome = .target := by decide +kernel

theorem test_witness_LensCommands :
    part.taking = true ∧ part.lp.phase = .stopped ∧ part.lines.lensDetect = false ∧ part.fe.servo = .idle
      ∧ ({ part with lines := { lensDetect := true } } : State).lines.lensDetect = true ∧ part.lp.phase ≠ .running
      ∧ (let s := { lens (fun l => { l with referenced := true }) with cfg := { lens := { indexMode := true } } }
        s.awake = true ∧ s.lp.phase = .running ∧ s.cfg.lens.indexMode = true ∧ s.lp.referenced = true)
      ∧ (lens id).lp.referenced = false
      ∧ ((-8388608 : Int) ≤ -8388608 ∧ (8388607 : Int) ≤ 8388607 ∧ 255 ≤ 255) := by decide +kernel

/-- A good STATUS word with its sequence. -/
def good (n : Nat) : Word32 := StatusWord.bits ⟨false, false, false, false, false, 3, n⟩

theorem test_witness_StatusSlot :
    part.lp.phase = .stopped ∧ ((lens id).lp.phase ≠ .stopped ∧ (lens id).lp.slot = 0)
      ∧ parityRight 1 = false ∧ (parityRight 0 = true ∧ (0 : Word32).getLsbD 0 = false)
      ∧ (parityRight (good 7) = true ∧ (good 7).getLsbD 0 = true ∧ (statusWord (good 7)).sequence = 7)
      ∧ (lens (fun l => { l with lastSeq := some 7 })).lp.lastSeq = some (statusWord (good 7)).sequence
      ∧ (lens (fun l => { l with lastSeq := some 7 })).lp.lastSeq ≠ some (statusWord (good 8)).sequence
      ∧ ((lens (fun l => { l with failRun := 1 })).lp.failRun + 1 < 3 ∧ 3 ≤ (lens (fun l => { l with failRun := 2 })).lp.failRun + 1)
      ∧ ((lens (fun l => { l with phase := .lost, goodRun := 1 })).lp.goodRun + 1 < 3
        ∧ 3 ≤ (lens (fun l => { l with phase := .lost, goodRun := 2 })).lp.goodRun + 1)
      ∧ (lens (fun l => { l with phase := .waiting })).lp.phase = .waiting := by decide +kernel

/-- Words of the recorded type with the fault bit and without, moving and at rest; a word of another type; a running servo
with a settle wait whose word has been sent. -/
theorem test_witness_StatusSlot_compared :
    let s := { lens (fun l => { l with lensType := some 3 }) with fe := { servo := .seeking, settle := some ⟨900, true, true⟩ } }
    (s.lp.lensType = some (statusWord (good 7)).lensType ∧ (statusWord (good 7)).fault = s.lp.fault
        ∧ (statusWord (good 7)).moving = false)
      ∧ (statusWord (StatusWord.bits ⟨true, false, false, false, true, 3, 7⟩)).fault ≠ s.lp.fault
      ∧ (statusWord (StatusWord.bits ⟨true, false, false, false, true, 3, 7⟩)).moving = true
      ∧ s.lp.lensType ≠ some (statusWord (StatusWord.bits ⟨false, false, false, false, false, 4, 7⟩)).lensType
      ∧ s.cfg.lens.indexMode = true ∧ s.lp.homing = false ∧ s.lp.referenced = false ∧ s.fe.servo = .seeking
      ∧ s.fe.settle = some ⟨900, true, true⟩ := by decide +kernel

theorem test_witness_LensFrame :
    part.lp.phase = .stopped ∧ ((lens (fun l => { l with slot := 1 })).lp.slot = 1 ∧ (lens id).lp.stage = none)
      ∧ (lens (fun l => { l with stage := some (.driveTo 5 7) })).lp.stage = some (.driveTo 5 7)
      ∧ (0x10000 : Word32).getLsbD 16 = true ∧ (0 : Word32).getLsbD 16 = false
      ∧ (let s := { lens (fun l => { l with slot := 4 }) with time := 1000 }
        s.lp.slot = 4 ∧ s.lp.frameFrom + s.lp.framePeriod ≤ s.time ∧ s.lp.stopping = none)
      ∧ (lens (fun l => { l with stopping := some .sleep })).lp.stopping ≠ none := by decide +kernel

theorem test_witness_LensEvents :
    part.lines.lensDetect = false ∧ part.takesDetect = true ∧ part.lp.enable = true ∧ (powered .closed).takesDetect = false
      ∧ ({ part with lines := { lensDetect := true } } : State).takesDetect = true
      ∧ ((lens id).cfg.lens.upOnly = false ∧ quadStep false false true false = some 1 ∧ quadStep false false true true = none
        ∧ quadStep true false true false = some 0)
      ∧ ((lens (fun l => { l with counter := 8388607 })).lp.counter + 1 > 8388607
        ∧ (lens (fun l => { l with counter := 8388606 })).lp.counter + 1 ≤ 8388607)
      ∧ ({ part with cfg := { lens := { upOnly := true } } } : State).lines.encA = false
      ∧ (let s := { lens (fun l => { l with homing := true, homeAt := some 9 }) with
            time := 9, cfg := { lens := { indexMode := true } } }
        s.lp.homing = true ∧ s.lp.homeAt = some 9 ∧ 9 ≤ s.time ∧ s.cfg.lens.indexMode = true ∧ s.lp.referenced = false) := by
  decide +kernel

/-! ## Witnesses: development, cards, tether -/

theorem test_witness_RecipeCommands :
    part.awake = true ∧ (let s := part [{ settled with duties := [{ key := .develop }], recipe := 3 }]
      (∃ t ∈ s.ss.table, t.state = .held ∧ t.recipe = 3) ∧ s.recipeOwed 3 = true ∧ s.recipeOwed 2 = false) := by decide +kernel

/-- A part with floor 0 and shot 5 in the develop queue. -/
def developing (d : Develop) : State := { part [owing] with cfg := { store := { floor := 0 } }, de := d }

/-- A job of shot 5 with two rows. -/
def job (blocks rows : Nat) : Job := ⟨5, 0, defaultRecipe, ⟨64, 32, 8, .rggb⟩, {}, 8, 2, 48, blocks, 0, 0, rows⟩

theorem test_witness_DevelopmentSteps :
    (part.de.phase = .idle ∧ part.de.queue = [])
      ∧ (let s := developing { queue := [⟨5, 5, false⟩] }
        s.de.queue = ⟨5, 5, false⟩ :: [] ∧ s.held 5 = some owing ∧ s.mayReserve = false
          ∧ (64 / 8 * (32 / 8) * 3 + 65535) / 65536 + s.cfg.store.floor ≤ s.ss.free.length)
      ∧ (part.ss.free.length < 1 + part.cfg.store.floor)
      ∧ (let s := developing { phase := .stalled, job := some (job 4 0) }
        s.de.phase = .stalled ∧ s.de.job = some (job 4 0) ∧ (job 4 0).blocks + s.cfg.store.floor ≤ s.ss.free.length)
      ∧ (developing { phase := .stalled, job := some (job 5 0) }).ss.free.length < 5
      ∧ (let s := developing { phase := .developing, job := some { job 1 1 with bytesRead := 1024 } }
        s.de.phase = .developing ∧ 2 * defaultRecipe.scale * 2 * lineBytes (job 1 1).geom = 1024
          ∧ s.de.job = some { job 1 1 with bytesRead := 1024 } ∧ ((after .developComplete s).held 5).isSome = true)
      ∧ (job 1 1).bytesRead < 2 * defaultRecipe.scale * (job 1 1).height * lineBytes (job 1 1).geom
      ∧ ((part [owing]).heldShots.map (·.number)).Nodup := by decide +kernel

theorem test_witness_ProofArithmetic :
    (∀ v ∈ defaultRecipe.tone, v ≤ 255) ∧ 65535 * (1 * 1) ≤ 65535 * (1 * 1) ∧ 256 + 1944 ≤ 2200 ∧ scaled 2200 2200 1944 = 65535
      ∧ scaled 2200 1944 1944 = 0 := by decide +kernel

/-- The part with slot A so. -/
def slotA (c : CardSlot) : State := { part [owing] with cw := { a := c } }

theorem test_witness_CardExtentsAndCommands :
    part.awake = true ∧ part.cw.a.state = .absent
      ∧ (let c := (slotA { writing with file := none }).slot .a
        ¬ (c.state = .absent ∨ (c.state = .ready ∧ c.hold = .ejected) ∨ c.final = true)
          ∧ selfOverlap [⟨1, 2⟩, ⟨2, 1⟩] = true ∧ (∃ r ∈ [(⟨4294967295, 2⟩ : Run)], r.count = 0 ∨ 4294967296 < r.start + r.count)
          ∧ (∃ x ∈ c.extents, runsOverlap ⟨149, 1⟩ x = true) ∧ runsOverlap ⟨150, 1⟩ ⟨100, 50⟩ = false)
      ∧ (let s := slotA { state := .ready, extents := [⟨0, 1⟩] }
        64 < (s.slot .a).extents.length + (List.replicate 64 (⟨5, 1⟩ : Run)).length)
      ∧ (slotA { writing with state := .starved }).cw.a.file.isSome = true
      ∧ (slotA { state := .faulted }).cw.a.state = .faulted ∧ (slotA { state := .ejecting }).cw.a.state = .ejecting
      ∧ (slotA { writing with returns := [⟨5, .raw, none, 9, 1, []⟩] }).cw.a.returns = ⟨5, .raw, none, 9, 1, []⟩ :: []
      ∧ (10 ≤ 10 ∧ 10000 ≤ 10000) := by decide +kernel

/-- Slot A STARVED under OVERFLOW with a file, a job that may move and one that may not; and a READY slot's record. -/
theorem test_witness_CardExtentsAndCommands_move :
    let h := { shot 5 with duties := [{ key := .card .raw .a, state := .active }, { key := .card .memo .a },
      { key := .card .caption .a }, { key := .card .caption .b }, { key := .card .proof .a }] }
    let c : CardSlot := { state := .starved, file := some { file with fragments := [⟨1, 2⟩] }, queue := [⟨5, .memo⟩, ⟨5, .caption⟩] }
    let s := { part [h] with cfg := { plans := { card := .overflow } }, cw := { a := c } }
    let jobs : List FileJob := [⟨5, .raw⟩, ⟨5, .memo⟩, ⟨5, .caption⟩]
    let t := after (.cardFinal ⟨1, some (some .a)⟩) s
    (s.cw.a.state = .starved ∧ s.cfg.plans.card = .overflow ∧ s.cw.overflow = false ∧ (s.heldShots.map (·.number)).Nodup
        ∧ jobs.Nodup)
      ∧ (∀ j ∈ c.queue, s.dutyOf j.shot (.card j.kind .a) = some .pending) ∧ s.dutyOf 5 (.card .raw .a) = some .active
      ∧ ((s.dutyOf 5 (.card .raw .b)).isNone = true ∧ (s.dutyOf 5 (.card .caption .b)).isNone = false)
      ∧ (h ∈ s.heldShots ∧ h.dutyState (.card .proof .a) = some .pending ∧ ⟨5, .proof⟩ ∉ jobs
        ∧ h.dutyState (.card .proof .b) = none)
      ∧ (t.cw.overflow = true ∧ t.cw.a.queue = [⟨5, .caption⟩] ∧ t.cw.b.queue = [⟨5, .raw⟩, ⟨5, .memo⟩])
      ∧ (let u := (slotA { state := .ready, hold := .returnFull, returns := [⟨5, .raw, none, 9, 1, []⟩] }).slot .a
        u.file = none ∧ u.state = .ready ∧ u.hold = .returnFull ∧ ([] : List FileRecord).length < 64)
      ∧ (let u := (slotA { state := .faulted }).slot .a
        u.file = none ∧ u.queue = [] ∧ (slotA { state := .faulted }).cw.closing = false) := by decide +kernel

theorem test_witness_CardsAndFiles :
    part.cardLine .a = false ∧ part.cw.a.state = .absent ∧ (powered .standby).cp.power = .standby
      ∧ ({ slotA { state := .ready } with lines := { cardA := true } } : State).cardLine .a = true
      ∧ part.mayStartFile .a = false
      ∧ (let s := slotA { state := .ready, extents := [⟨100, 50⟩], queue := [⟨5, .raw⟩] }
        s.cw.a.file = none ∧ s.cw.a.hold = .none ∧ s.cw.a.queue = ⟨5, .raw⟩ :: [] ∧ s.cw.a.extents ≠ []
          ∧ s.cw.a.returns.length < 64 ∧ s.cw.closing = false ∧ s.held 5 = some owing) := by decide +kernel

/-- A card that goes while its file has consumed sectors. -/
theorem test_witness_CardsAndFiles_removed :
    let s := { slotA { writing with file := some { file with fragments := [⟨1, 2⟩] } } with lines := { cardA := true } }
    s.cardLine .a = true ∧ s.cp.power ≠ .standby ∧ (s.slot .a).state ≠ .absent
      ∧ (∀ c ∈ owing.caption, c.length ≤ 192) ∧ s.cw.a.file = some { file with fragments := [⟨1, 2⟩] }
      ∧ (let u := { s with ss := { s.ss with table := [{ shot 5 with duties := [{ key := .card .raw .a, state := .active }] }] } }
        u.dutyOf 5 (.card .raw .a) ≠ none)
      ∧ (after (.cardPresentChange .a false) s).cw.a.returns = [⟨5, .raw, some .removed, 2560, 2, [⟨1, 2⟩]⟩] := by decide +kernel

/-- A write of two sectors in flight, and the file with it. -/
def flight (retry : Bool) : CardWrite := ⟨100, 2, [1], retry, 9, 0⟩
def flying (retry : Bool) (sectors : Nat) : CardFile := { file with sectors := sectors, issued := 2, flight := some (flight retry) }

theorem test_witness_CardWrites :
    (part.cw.a.wouldFragment = false ∧ part.cw.a.mayWrite = false)
      ∧ (let f := { file with inHand := 2048 }
        let c := { writing with file := some f }
        c.wouldFragment = false ∧ f.flight = none ∧ f.again = none ∧ c.extents = ⟨100, 50⟩ :: [] ∧ f.issued < f.sectors
          ∧ f.payloadIn (f.issued + min 2048 (min (f.sectors - f.issued) 50)) ≤ f.inHand ∧ min 2048 (min 5 50) ≠ 50)
      ∧ (let f := { file with issued := 2, again := some (flight false), inHand := 512 }
        f.payloadIn f.issued ≤ f.inHand)
      ∧ part.cw.a.answered 0 = none ∧ part.expiredWrite .a = none
      ∧ (slotA { writing with file := some (flying false 5) }).cw.a.answered 0 = some (flying false 5, flight false)
      ∧ ((flying false 5).written + 2 ≠ 5 ∧ (flying false 2).written + 2 = 2)
      ∧ ({ slotA { writing with file := some (flying true 5) } with time := 9 } : State).expiredWrite .a
          = some (flying true 5, flight true) := by decide +kernel

/-- The fragment limit, a write that joins the last fragment, a duty whose failure keeps the shot, and the law of the card
over a write. -/
theorem test_witness_CardWrites_limits :
    let h := { shot 5 with duties := [{ key := .card .raw .a, state := .active }] }
    let full := { writing with file := some { file with fragments := List.replicate 64 ⟨1, 1⟩ } }
    let s := { part [h] with cw := { a := full } }
    (file.flight = none ∧ file.again = none ∧ file.sameRun = false ∧ 64 ≤ (List.replicate 64 (⟨1, 1⟩ : Run)).length
        ∧ (⟨5, .raw⟩ : FileJob) ∉ full.queue)
      ∧ (s.held 5 = some h ∧ h.dutyState (.card .raw .a) ≠ none ∧ h.dutyState (.card .raw .b) ≠ some .done)
      ∧ ((after (.cardWriteIssue .a) s).held 5).map (·.keep) = some true
      ∧ (let f := { file with fragments := [⟨90, 10⟩], sameRun := true, inHand := 2048 }
        f.sameRun = true ∧ f.fragments = [] ++ [(⟨90, 10⟩ : Run)] ∧ min 2048 (min (f.sectors - f.issued) 50) ≠ 50)
      ∧ (s.cp.power = .active ∧ Instr.cardWriteIssue .a ≠ .powerUpReset)
      ∧ (let c := { writing with file := some { file with inHand := 2048 }, extents := [⟨100, 2⟩] }
        c.wouldFragment = false ∧ c.extents = [⟨100, 2⟩] ∧ 2 ≤ 2048 ∧ file.issued + 2 < file.sectors
          ∧ ({ file with inHand := 2048 } : CardFile).payloadIn (file.issued + 2) ≤ 2048 ∧ c.state ≠ .ejecting ∧ c.hold = .none
          ∧ c.final = false ∧ s.cw.closing = false ∧ ({ closing := true } : CardWriter).closing = true)
      ∧ ((s.heldShots.map (·.number)).Nodup ∧ ({ h with duties := [{ key := .card .memo .a }] } : Shot).dutyState (.card .memo .a)
        = some .pending) := by decide +kernel

/-- The tether port in a phase with the transfer. -/
def tether (p : PortState) (x : Option Transfer) : State := { part [owing] with tp := { phase := p, transfer := x, credits := 1 } }

theorem test_witness_Transfers :
    (part.lines.linkUp = false ∧ part.cp.power = .active ∧ part.tp.phase = .down)
      ∧ ({ tether .sending (some transfer) with lines := { linkUp := true } } : State).lines.linkUp = true
      ∧ part.tp.queue = []
      ∧ (let s := { tether .idle none with tp := { phase := .idle, queue := [⟨5, .proof, true, 0⟩, ⟨5, .raw, false, 1⟩] } }
        s.tp.phase = .idle ∧ s.tp.queue = [⟨5, .proof, true, 0⟩] ++ ⟨5, .raw, false, 1⟩ :: [] ∧ s.held 5 = some owing
          ∧ s.dutyOf 5 .develop ≠ some .done)
      ∧ part.maySend = false
      ∧ (let x := { transfer with readTo := 2048 }
        (tether .sending (some x)).tp.phase = .sending ∧ x.sent < x.total ∧ 1 ≤ (tether .sending (some x)).tp.credits
          ∧ x.inFlight < 8 ∧ x.sent + min 16384 (x.total - x.sent) ≤ x.readTo ∧ x.captionDue = false)
      ∧ (tether .sending (some transfer)).time < transfer.expires
      ∧ (let s := { tether .offering (some { transfer with timeouts := 2 }) with time := 9 }
        transfer.expires ≤ s.time ∧ 2 + 1 < 4 ∧ s.tp.phase = .offering)
      ∧ 4 ≤ ({ transfer with timeouts := 3 } : Transfer).timeouts + 1
      ∧ ({ transfer with captionDue := true } : Transfer).captionDue = true := by decide +kernel

/-- A transfer lost with its link, one that fails for an URGENT shot, and a queue with no deferred duty. -/
theorem test_witness_Transfers_ends :
    let h := { shot 5 with urgent := true, duties := [{ key := .send .raw, state := .active }] }
    let s := { part [h] with lines := { linkUp := true }, time := 9
                             tp := { phase := .sending, transfer := some { transfer with timeouts := 3 } } }
    (s.lines.linkUp = true ∧ s.cp.power = .active ∧ s.tp.phase ≠ .down ∧ s.sendDuty 5 .raw = some { key := .send .raw, state := .active })
      ∧ (s.tp.queue.length < 256 ∧ ∀ y ∈ s.tp.queue, y.shot = 5 → y.kind ≠ .raw)
      ∧ (∀ x ∈ s.heldShots, ∀ d ∈ x.duties, d.deferred = false)
      ∧ (transfer.expires ≤ s.time ∧ 4 ≤ 3 + 1 ∧ s.held 5 = some h ∧ h.dutyState (.send .raw) ≠ none ∧ h.urgent = true)
      ∧ ((after .ackTimerExpiry s).held 5).map (·.keep) = some true := by decide +kernel

/-- The entries of 256 sends, two of them URGENT. -/
def manySends : List Entry := (List.range 256).map (fun n => ⟨n + 100, .raw, decide (n < 2), n⟩)

/-- The part with a full queue, whose first entry is eligible, and one deferred duty. -/
def deferring : State :=
  { part [{ shot 5 with duties := [{ key := .send .raw, urgent := true, deferred := true }] }] with
    tp := { phase := .idle, queue := manySends, nextOrder := 256, deferred := 1 } }

theorem test_witness_Transfers_deferred :
    (deferring.cp.power = .active ∧ deferring.tp.phase = .idle ∧ manySends.length = 256
        ∧ manySends = [] ++ ⟨100, .raw, true, 0⟩ :: manySends.tail)
      ∧ (manySends.map (fun y => (y.shot, y.kind))).Nodup ∧ (deferring.heldShots.map (·.number)).Nodup
      ∧ manySends.Pairwise (fun x y => (x.urgent = true ∧ y.urgent = false) ∨ (x.urgent = y.urgent ∧ x.order ≤ y.order))
      ∧ (∃ h ∈ deferring.heldShots, h.number = 5 ∧ (h.duty (.send .raw)).any (fun d => d.state == .pending && d.deferred) = true)
      ∧ ((5, FileKind.raw) ∉ manySends.map (fun y => (y.shot, y.kind)))
      ∧ (after .transferStart deferring).tp.queue.length = 256 := by decide +kernel

theorem test_witness_PeerAnswers :
    part.tp.phase = .down ∧ (tether .idle none).tp.phase ≠ .down ∧ (tether .idle none).tp.phase = .idle
      ∧ ((tether .offering (some transfer)).tp.transfer = some transfer ∧ transfer.id ≠ 2 ∧ transfer.id = 1)
      ∧ (transfer.total < 2049 ∧ 1 % 16384 ≠ 0 ∧ 1 ≠ transfer.total) ∧ (0 < transfer.total ∧ 0 % 16384 = 0)
      ∧ (let x := { transfer with total := 20000, sent := 20000 }
        x.sent < 20001 ∧ 0 ≤ x.acked ∧ x.acked < 16384 ∧ 16384 ≠ x.total ∧ 16384 % 16384 = 0 ∧ 20000 ≤ x.sent)
      ∧ (let s := tether .offering (some transfer)
        s.held 5 = some owing ∧ owing.keep = true ∧ (s.heldShots.map (·.number)).Nodup) := by decide +kernel

/-- The part with all the peer's requests allowed. -/
def peered (s : State) : State :=
  { s with tp := { phase := .idle }, cfg := { tether := { peerRelease := true, peerMark := true, peerPull := true } } }

/-- The part with none of them allowed. -/
def shut : State :=
  { part with tp := { phase := .idle }, cfg := { tether := { peerRelease := false, peerMark := false, peerPull := false } } }

theorem test_witness_PeerRequests :
    part.tp.phase = .down ∧ shut.tp.phase ≠ .down ∧ shut.cfg.tether.peerRelease = false
      ∧ shut.cfg.tether.peerMark = false ∧ shut.cfg.tether.peerPull = false
      ∧ ((peered part).tp.phase ≠ .down ∧ (peered part).cfg.tether.peerRelease = true)
      ∧ (peered (bursting .waiting)).rtu.phase ≠ .idle
      ∧ ((peered (linked .aligned)).rtu.phase = .idle ∧ (peered (linked .aligned)).sp.link = .aligned)
      ∧ (peered part).ownedBy .peer = false
      ∧ (peered { part with rtu := { phase := .waiting, burst := some { burst with owner := .peer } } }).ownedBy .peer = true
      ∧ (peered part).usable 5 = none ∧ (peered (part [owing])).usable 5 = some owing ∧ owing.memo = none
      ∧ (peered (part [owing])).recordsInto 5 = false ∧ owing.dutyState (.send .proof) ≠ some .done
      ∧ ({ owing with duties := [{ key := .send .raw, state := .done }] } : Shot).dutyState (.send .raw) = some .done
      ∧ (let s := peered (part [owing])
        owing.dutyState (.send .proof) = some .pending ∧ owing.dutyState (.send .raw) = none ∧ s.cp.power = .active
          ∧ s.tp.queue.length < 256 ∧ ∀ y ∈ s.tp.queue, y.shot = 5 → y.kind ≠ .raw)
      ∧ (256 ≤ manySends.length ∧ ∀ y ∈ manySends, y.shot = 5 → y.kind ≠ .raw) := by decide +kernel

/-! ## Witnesses: captions, memos, power -/

/-- The memo input in a phase with a memo of shot 5 and some samples in hand, with a store floor of 0. -/
def memo (p : MemoPhase) (m : Option MemoRec) (samples : List Int) : State :=
  { part [owing] with cfg := { store := { floor := 0 } }, mi := { phase := p, current := m, samples := samples } }

/-- The memo record. -/
def memoRec (samples : Nat) : MemoRec := { shot := 5, onVoice := true, samples := samples, blocks := [9], start := 0 }

theorem test_witness_CaptionAndMemoCommands :
    (part [owing]).awake = true ∧ (List.replicate 193 (0 : Byte)).length > 192 ∧ (List.replicate 192 (0 : Byte)).length ≤ 192
      ∧ (part [owing]).usable 6 = none ∧ (part [owing]).usable 5 = some owing ∧ owing.caption ≠ some [65]
      ∧ ({ owing with caption := some [65] } : Shot).caption = some [65]
      ∧ (memo .armed (some (memoRec 0)) []).cp.power = .active ∧ (memo .armed (some (memoRec 0)) []).mi.phase ≠ .idle
      ∧ ((part [owing]).mi.phase = .idle ∧ (part [owing]).mi.latest = none)
      ∧ ({ part [owing] with mi := { latest := some 5 } } : State).mi.latest = some 5
      ∧ (memo .idle none []).cfg.memo.onVoice = false ∧ 1 + (memo .idle none []).cfg.store.floor ≤ (memo .idle none []).ss.free.length
      ∧ part.ss.free.length < 1 + part.cfg.store.floor ∧ (memo .recording (some (memoRec 1)) []).mi.current ≠ none := by
  decide +kernel

/-- Late captions: a slot with a file of the shot whose CAPTION duty is absent, PENDING, ACTIVE or DONE, the overflow switch
set, and a send duty DONE with room in the queue and without. -/
theorem test_witness_CaptionAndMemoCommands_late :
    let h := fun (l : List Duty) => { shot 5 with duties := { key := .card .raw .a, state := .done } :: l }
    let s := fun (l : List Duty) => part [h l]
    let sent : Duty := { key := .send .raw, state := .done }
    ((s []).usable 5 = some (h []) ∧ (h []).caption ≠ some [65] ∧ (s []).cw.overflow = false ∧ (s []).cfg.plans.card ≠ .overflow)
      ∧ ((h []).dutyState (.card .raw .a) = some .done ∧ (h []).duty (.card .caption .a) = none ∧ (h []).dutyState (.card .raw .b) = none)
      ∧ (h [{ key := .card .caption .a }]).dutyState (.card .caption .a) = some .pending
      ∧ (h [{ key := .card .caption .a, state := .active }]).dutyState (.card .caption .a) = some .active
      ∧ (h [{ key := .card .caption .a, state := .done }]).dutyState (.card .caption .a) = some .done
      ∧ ((after (.captionSet ⟨1, some (5, [65])⟩) { s [] with cw := { overflow := true } }).cw.b.queue = [⟨5, .caption⟩])
      ∧ ((h [sent]).dutyState (.send .raw) = some .done ∧ (h [sent]).duty (.send .caption) = none)
      ∧ ((s [sent]).cp.power = .active ∧ (∀ e ∈ (s [sent]).tp.queue, e.shot = 5 → e.kind ≠ .caption)
        ∧ (s [sent]).tp.queue.length < 256 ∧ 256 ≤ (List.replicate 256 (⟨6, .raw, false, 0⟩ : Entry)).length)
      ∧ (tether .offering (some transfer)).tp.transfer = some transfer ∧ (tether .sending (some transfer)).tp.phase = .sending := by
  decide +kernel

theorem test_witness_MemoEvents :
    part.mi.phase = .idle ∧ ([] : List Int).length < 320 ∧ 0 < ((Decimator.run 192 0 0 {}).comb).2.discard
      ∧ ((Decimator.run 192 0 0 { discard := 0 }).comb).2.discard = 0
      ∧ (memo .armed (some (memoRec 0)) []).mi.phase = .armed
      ∧ ((memo .recording (some (memoRec 0)) []).mi.current = some (memoRec 0) ∧ 0 < 32768 * (memoRec 0).blocks.length)
      ∧ (let m := { memoRec 959999 with blocks := List.range 30 }
        m.samples < 32768 * m.blocks.length ∧ 960000 ≤ m.samples + 1)
      ∧ (let m := { memoRec 32768 with blocks := [9] }
        32768 * m.blocks.length ≤ m.samples ∧ m.samples + 1 < 960000)
      ∧ (let s := { memo .recording (some (memoRec 0)) [] with cfg := { store := { floor := 4 } } }
        s.ss.free.length < 1 + s.cfg.store.floor)
      ∧ (List.replicate 320 (1 : Int)).length = 320
      ∧ (judgeFrame {} (List.replicate 320 5000)).voiced = true ∧ (judgeFrame {} (List.replicate 320 0)).voiced = false
      ∧ (memoRec 0).silence + 1 < part.cfg.memo.silence ∧ 1 + (memo .armed none []).cfg.store.floor ≤ (memo .armed none []).ss.free.length := by
  decide +kernel

/-- A recording that ends with a length above 0 for a shot with an old memo, whose file and transfer are under way. -/
theorem test_witness_MemoEvents_end :
    let h := { shot 5 with memo := some ⟨[8], 2⟩, duties := [{ key := .card .memo .a, state := .active },
      { key := .send .raw, state := .done }, { key := .send .memo, state := .done }] }
    let s := { memo .recording (some (memoRec 1)) [] with
      cfg := { plans := { card := .mirror }, store := { floor := 0 } }
      ss := { free := [10, 11, 12, 13], table := [h] }
      cw := { a := { writing with file := some { file with kind := .memo } } }
      tp := { phase := .offering, transfer := some { transfer with kind := .memo } } }
    let t := endMemo .stop (memoRec 1) s
    (s.mi.phase = .recording ∧ s.mi.current = some (memoRec 1) ∧ 0 < (memoRec 1).samples ∧ s.held 5 = some h
        ∧ (s.heldShots.map (·.number)).Nodup)
      ∧ (s.cw.overflow = false ∧ s.cfg.plans.card ≠ .overflow ∧ h.duty (.card .memo .b) = none ∧ h.duty (.send .raw) ≠ none
        ∧ h.dutyState (.send .memo) = some .done)
      ∧ (t.cw.a.file = none ∧ t.tp.transfer = none ∧ (t.held 5).bind (·.memo) = some ⟨[9], 2⟩ ∧ 8 ∈ t.ss.free)
      ∧ ((shot 6).memo = none ∧ ∀ k ∈ [FileKind.raw, .proof, .caption], (shot 6).duty (.send k) = none) := by decide +kernel

theorem test_witness_SleepAndClosing :
    part.taking = true ∧ (bursting .waiting).rtu.phase ≠ .idle ∧ part.rtu.phase = .idle ∧ part.mi.phase ≠ .recording
      ∧ part.tp.transfer = none ∧ (memo .armed (some (memoRec 0)) []).mi.current ≠ none
      ∧ (let s := { powered .closing with cw := { closing := true } }
        s.cp.power = .closing ∧ s.cw.closing = true ∧ s.cw.a.file = none ∧ s.cw.b.file = none ∧ s.lp.phase = .stopped)
      ∧ part.cw.closing = false := by decide +kernel

/-- At SLEEP: a slot with no file, ABSENT, READY and held EJECTED; one with a file that has its sectors; and one whose file
wants sectors, STARVED or EJECTING. -/
theorem test_witness_SleepAndClosing_slots :
    part.taking = true ∧ part.cw.a.state ≠ .starved ∧ (part.cw.b.file = none ∧ part.cw.b.state = .absent)
      ∧ ((slotA { state := .ready }).cw.a.file = none ∧ (slotA { state := .ready, hold := .ejected }).cw.a.hold = .ejected
        ∧ (slotA { state := .ready }).cw.a.hold ≠ .ejected)
      ∧ (slotA writing).cw.a.extents ≠ []
      ∧ (let s := slotA { writing with state := .starved, extents := [], file := some { file with fragments := [⟨1, 2⟩] } }
        s.taking = true ∧ s.cw.a.state = .starved ∧ s.cfg.plans.card ≠ .overflow ∧ s.cw.a.hold = .none ∧ file.issued < file.sectors
          ∧ (after (.sleep ⟨1, some ()⟩) s).cw.a.hold = .closed)
      ∧ (let s := { slotA { writing with state := .starved, extents := [] } with
          ss := { (slotA {}).ss with table := [{ shot 5 with duties := [{ key := .card .raw .a, state := .active }] }] } }
        s.dutyOf 5 (.card .raw .a) = some .active) := by decide +kernel

/-- A held wake with duties PENDING on a card, in development and to the tether. -/
theorem test_witness_WakeLeaves_queues :
    let h := { shot 5 with duties := [{ key := .card .raw .a }, { key := .develop }, { key := .send .raw, resume := 16384 }] }
    let s := { part [h, { shot 6 with duties := [{ key := .send .proof, urgent := true }] }] with
      cp := { power := .standby, heldKind := true }, lines := { linkUp := true } }
    let t := after .wakeLine s
    s.cp.heldKind = true ∧ (s.heldShots.map (·.number)).Nodup ∧ h ∈ s.heldShots ∧ h.dutyState (.card .raw .a) = some .pending
      ∧ t.cw.a.queue = [⟨5, .raw⟩] ∧ t.de.queue.map (·.shot) = [5]
      ∧ t.tp.queue.map (fun e => (e.shot, e.kind)) = [(6, .proof), (5, .raw)] := by decide +kernel

theorem test_witness_WakeLeaves :
    part.cp.power = .active ∧ (powered .closed).cp.power = .closed ∧ (powered .closed).cp.heldKind = false
      ∧ ({ part with cp := { power := .standby, heldKind := true } } : State).cp.heldKind = true
      ∧ (let s := { powered .standby with lines := { lensDetect := true, linkUp := true, cardA := true } }
        s.lines.lensDetect = true ∧ s.lp.enable = true ∧ s.cardLine .a = true ∧ s.cardLine .b = false
          ∧ (after .wakeLine s).cp.notices.map (·.key.1) = [.cardState, .lensState, .tetherState]) := by decide +kernel

theorem test_witness_ResetsLeave :
    part.awake = true ∧ part.resetReply = false
      ∧ ({ part with cp := { slot := some ⟨1, .ok, [], true⟩ } } : State).resetReply = true := by decide +kernel

/-! ## Witnesses: queues and notices -/

/-- The kinds of the notices that a command leaves in the queue, oldest first. -/
def told (c : Instr) (s : State) : List NoticeKind := (after c s).cp.notices.map (·.key.1)

/-- A bad frame and an unknown name find the part in STANDBY and in CLOSED with the slot empty. -/
theorem test_witness_FrameWakesThePart_bad :
    ((powered .standby).cp.slot = none ∧ (powered .standby).cp.power = .standby ∧ (powered .closed).cp.power = .closed)
      ∧ (after .badFrame (powered .standby)).cp.power = .active ∧ (after .badFrame (powered .closed)).cp.power = .closed := by
  decide +kernel

/-- A mark that adds SEND_RAW and DEVELOP, with room in the transfer queue and without. -/
theorem test_witness_ShotMark_queues :
    let s := { part [owing] with cfg := { plans := { tether := .urgentBoth, develop := .all } } }
    let full := { s with tp := { queue := manySends, nextOrder := 256 } }
    let mark := Instr.shotMark ⟨1, some (.value 5)⟩
    (s.cp.power = .active ∧ owing.dutyState (.send .raw) = none ∧ (∀ e ∈ s.tp.queue, e.shot = 5 → e.kind ≠ .raw)
        ∧ s.tp.queue.length + 1 ≤ 256 ∧ s.de.phase ≠ .halted)
      ∧ ((after mark s).tp.queue = [⟨5, .raw, true, s.tp.nextOrder⟩] ∧ (after mark s).de.queue = [⟨5, 5, true⟩])
      ∧ ((∀ e ∈ full.tp.queue, e.shot = 5 → e.kind ≠ .raw) ∧ 256 ≤ full.tp.queue.length ∧ (after mark full).tp.deferred = 1)
      ∧ (settled.dutyState .develop = some .done ∧ settled.dutyState (.send .raw) = none) := by decide +kernel

/-- The free count passes the low threshold 2 with a grant of four blocks of four. -/
theorem test_witness_ReservationGrant_low :
    let s := { asking 4 [{}] with cfg := { store := { low := 2 } } }
    (s.cfg.store.low ≤ s.ss.free.length ∧ s.ss.free.length - 4 < s.cfg.store.low)
      ∧ told .reservationGrant s = [.storeLow] := by decide +kernel

/-- A landing that hands over a RAW job, a SEND_PROOF entry and a DEVELOP entry, and one behind a full transfer queue. -/
theorem test_witness_ShotLands_queues :
    let s := { ready .stop (.active (readout 3456)) [landing] with cfg := { plans := { card := .mirror, tether := .allProof } } }
    let t := after .readoutEnd s
    ((∀ y ∈ s.tp.queue, y.shot ≠ 8) ∧ (∀ y ∈ s.de.queue, y.shot ≠ 8) ∧ s.cp.power = .active ∧ s.de.phase ≠ .halted
        ∧ t.cw.overflow = false ∧ ∀ j ∈ s.cw.b.queue, j.shot ≠ 8)
      ∧ (t.cw.a.queue = [⟨8, .raw⟩] ∧ t.cw.b.queue = [⟨8, .raw⟩] ∧ t.tp.queue.map (·.kind) = [.proof] ∧ t.de.queue.length = 1)
      ∧ (let full := { s with tp := { queue := manySends } }
        256 ≤ full.tp.queue.length ∧ (after .readoutEnd full).tp.deferred = 1) := by decide +kernel

/-- A standing grid is held at a release; the line's own burst; and the release with the link FAILED. -/
theorem test_witness_ReleaseCommands_grid :
    let s := { linked .aligned with cfg := { burst := { syncMode := .follow } }, rtu := { standing := some ⟨3, 0, 25000⟩ } }
    (after (.release ⟨1, some (.value 2)⟩) s).rtu.standing = some ⟨3, 0, 25000⟩
      ∧ (linked .failed).sp.link = .failed
      ∧ (let u := { part with rtu := { phase := .waiting, burst := some { burst with owner := .line } } }
        u.ownedBy .line = true ∧ u.rtu.phase ≠ .stopping) := by decide +kernel

theorem test_witness_RecipeCommands_replaced :
    let rc := { defaultRecipe with gainR := 0 }
    (if rc.gainR = 0 then ["white-balance gain r"] else []) ≠ []
      ∧ told (.recipeSet ⟨1, some (2, rc)⟩) part = [.configDefaulted] := by decide +kernel

/-- A completed job whose shot owes a card proof, one that owes nothing but is kept, and one that is freed. -/
theorem test_witness_DevelopmentSteps_release :
    let h := fun (k : Bool) (l : List Duty) =>
      { shot 5 with keep := k, proof := some ⟨[7], 48, 8, 2⟩, duties := { key := .develop, state := .active } :: l }
    let s := fun (k : Bool) (l : List Duty) => { part [h k l] with
      de := { phase := .developing, job := some { job 1 2 with bytesRead := 1024 } } }
    ((h false []).duty .develop ≠ none ∧ ((s false []).heldShots.map (·.number)).Nodup)
      ∧ ((after .developComplete (s false [{ key := .card .proof .a }])).cw.a.queue = [⟨5, .proof⟩])
      ∧ (((after .developComplete (s true [])).held 5).map (·.proof) = some none
        ∧ (after .developComplete (s true [])).ss.free = [10, 11, 12, 13, 7])
      ∧ ((after .developComplete (s false [])).held 5 = none
        ∧ (after .developComplete (s false [])).ss.free = [10, 11, 12, 13, 7, 3]) := by decide +kernel

/-- CARD_EXTENTS on a STARVED slot with a file, and without one and with 64 records; CARD_CLEAR with a job and no run. -/
theorem test_witness_CardExtentsAndCommands_told :
    let more := Instr.cardExtents ⟨1, some (some .a, [⟨0, 1⟩])⟩
    told more (slotA { writing with state := .starved }) = [.cardState]
      ∧ (let s := slotA { state := .starved, returns := List.replicate 64 ⟨5, .raw, none, 9, 1, []⟩ }
        s.cw.a.file = none ∧ 64 ≤ s.cw.a.returns.length ∧ (after more s).cw.a.hold = .returnFull)
      ∧ (let s := slotA { state := .faulted, queue := [⟨5, .raw⟩] }
        s.cw.a.file = none ∧ s.cw.a.hold = .none ∧ s.cw.a.queue ≠ [] ∧ s.cw.a.extents = [] ∧ s.cw.closing = false
          ∧ s.cw.a.final = false ∧ (after (.cardClear ⟨1, some (some .a)⟩) s).cw.a.state = .starved) := by decide +kernel

/-- A card appears in a slot with no job, and in one with a job. -/
theorem test_witness_CardsAndFiles_inserted :
    (part.cw.a.state = .absent ∧ part.cw.a.queue = [] ∧ part.cw.a.file = none ∧ part.cw.closing = false)
      ∧ told (.cardPresentChange .a true) part = [.cardState]
      ∧ (slotA { queue := [⟨5, .raw⟩] }).cw.a.queue ≠ [] := by decide +kernel

/-- A write that passes the low mark; the 64th record; a file complete while EJECTING; and a stale CAPTION complete. -/
theorem test_witness_CardWrites_told :
    let low := slotA { writing with lowMark := 50, file := some { file with inHand := 2048 } }
    let last := { writing with file := some (flying false 2) }
    let full := slotA { last with returns := List.replicate 63 ⟨5, .raw, none, 9, 1, []⟩ }
    let ejecting := slotA { last with state := .ejecting }
    let h := { shot 5 with duties := [{ key := .card .caption .a, state := .active, stale := true }] }
    let stale := { part [h] with cw := { a := { last with file := some { flying false 2 with kind := .caption } } } }
    (low.cw.a.lowArmed = true ∧ low.cw.a.final = false ∧ told (.cardWriteIssue .a) low = [.extentsLow])
      ∧ (full.cw.a.state = .writing ∧ full.cw.a.hold = .none ∧ 63 ≤ full.cw.a.returns.length
        ∧ (after (.cardWriteDone .a 0) full).cw.a.hold = .returnFull)
      ∧ (ejecting.cw.a.state = .ejecting ∧ (after (.cardWriteDone .a 0) ejecting).cw.a.hold = .ejected)
      ∧ (stale.held 5 = some h ∧ stale.cw.overflow = false ∧ (⟨5, .caption⟩ : FileJob) ∉ stale.cw.a.queue
        ∧ (after (.cardWriteDone .a 0) stale).cw.a.queue = [⟨5, .caption⟩]) := by decide +kernel

theorem test_witness_Transfers_told :
    let up := { tether .idle none with lines := { linkUp := true } }
    told (.tetherLinkChange true) part = [.tetherState]
      ∧ (up.lines.linkUp = true ∧ up.tp.phase ≠ .down ∧ up.tp.transfer = none)
      ∧ told (.tetherLinkChange false) up = [.tetherState] := by decide +kernel

/-- A PULL of PROOF that re-opens a DONE DEVELOP, and one that adds it; with the engine at work. -/
theorem test_witness_PeerRequests_proof :
    let pull := Instr.pull 5 (some .proof)
    let done := peered (part [{ shot 5 with duties := [{ key := .develop, state := .done }] }])
    (done.usable 5).isSome = true ∧ done.de.phase ≠ .halted ∧ done.cp.power = .active
      ∧ ((after pull done).held 5).map (·.dutyState .develop) = some (some .pending)
      ∧ (after pull done).de.queue = [⟨5, 5, true⟩]
      ∧ ((after pull (peered (part [shot 5]))).held 5).map (·.dutyState .develop) = some (some .pending) := by decide +kernel

/-- Under the plan OVERFLOW: a memo that ends with the switch clear, with it set, and one whose duty brings the move. -/
theorem test_witness_MemoEvents_overflow :
    let s := { memo .recording (some (memoRec 1)) [] with cfg := { plans := { card := .overflow }, store := { floor := 0 } } }
    let moving := { s with cw := { a := { state := .starved, final := true } } }
    (s.cfg.plans.card = .overflow ∧ s.cw.overflow = false ∧ owing.duty (.card .memo .a) = none ∧ owing.duty (.card .memo .b) = none)
      ∧ ((endMemo .stop (memoRec 1) s).cw.overflow = false ∧ (endMemo .stop (memoRec 1) s).cw.a.queue = [⟨5, .memo⟩])
      ∧ ((endMemo .stop (memoRec 1) { s with cw := { overflow := true } }).cw.b.queue = [⟨5, .memo⟩])
      ∧ (moving.cw.overflow = false ∧ (endMemo .stop (memoRec 1) moving).cw.overflow = true
        ∧ (endMemo .stop (memoRec 1) moving).cw.b.queue = [⟨5, .memo⟩]) := by decide +kernel

/-- SLEEP with the link ALIGNED, a job DEVELOPING and a transfer SENDING. -/
theorem test_witness_SleepAndClosing_work :
    let h := { shot 5 with
      proof := some ⟨[7], 48, 8, 2⟩, pins := [⟨.d, .raw⟩]
      duties := [{ key := .develop, state := .active }, { key := .send .raw, state := .active }] }
    let s := { linked .aligned [h] with
      de := { phase := .developing, job := some (job 1 1) }
      tp := { phase := .sending, transfer := some { transfer with acked := 1024 } } }
    let t := after (.sleep ⟨1, some ()⟩) s
    (s.sp.link ≠ .down ∧ s.tp.phase ≠ .down ∧ s.sendDuty 5 .raw = some { key := .send .raw, state := .active }
        ∧ s.de.job = some (job 1 1) ∧ s.held 5 = some h ∧ h.duty .develop ≠ none ∧ (s.heldShots.map (·.number)).Nodup)
      ∧ ((t.sendDuty 5 .raw).map (fun d => (d.state, d.resume)) = some (.pending, 1024) ∧ t.de.abandons = 1)
      ∧ (part.tp.transfer = none ∧ part.cw.a.file = none ∧ part.cw.b.file = none ∧ part.de.job = none)
      ∧ ({ part with fe := { servo := .seeking } } : State).fe.servo ≠ .idle := by decide +kernel

/-- The command reset with every line active: card slots READY, the tether port IDLE and the lens port WAITING. -/
theorem test_witness_ResetsLeave_lines :
    let s := { part with
      cp := { slot := some ⟨1, .ok, [], true⟩ }, lines := { cardA := true, cardB := true, linkUp := true, lensDetect := true } }
    let t := after .commandReset s
    s.resetReply = true ∧ t.cw.a.state = .ready ∧ t.tp.phase = .idle ∧ t.lp.phase = .waiting
      ∧ t.cp.notices.any (·.key.1 == .tetherState) = true := by decide +kernel

end Sys2Proof.Tests
end

section
/-! Every step keeps a sound state sound: what each command's own effect keeps, then what the frame around it, the
events and the part's own steps keep. -/

namespace Sys2Proof.Machine

set_option Elab.async false

open Sys2Proof

variable {a s : State}

/-! ## What the host commands' effects keep -/

theorem deny_keeps {st : Status} (h : Keeps a s) : Keeps a (deny st s).state := h

theorem ok_keeps {l : List Wire} (h : Keeps a s) : Keeps a (ok l s).state := h

theorem accepted_keeps {l : List Wire} (h : Keeps a s) : Keeps a (accepted l s).state := h

theorem ite_keeps {c : Prop} [Decidable c] {t u : State} (ht : Keeps a t) (hu : Keeps a u) : Keeps a (if c then t else u) :=
  iteInduction (motive := Keeps a) (fun _ => ht) (fun _ => hu)

theorem actShotMark_keeps (x : OrNamed Nat) (s : State) : Keeps s (actShotMark x s).state := by
  cases x with
  | value n =>
    simp only [actShotMark]
    split
    · exact markNumber_keeps ‹_› (Keeps.refl s)
    · exact Keeps.refl s
  | named =>
    simp only [actShotMark]
    split
    · exact markCurrent_keeps ‹_› (Keeps.refl s)
    · exact Keeps.refl s

theorem actShotKeep_keeps (n : Nat) (s : State) : Keeps s (actShotKeep n s).state := by
  unfold actShotKeep
  split
  · exact ok_keeps (modHeld_keeps (Keeps.refl s))
  · exact Keeps.refl s

theorem actShotRelease_keeps (n : Nat) (s : State) : Keeps s (actShotRelease n s).state := by
  unfold actShotRelease
  split
  · refine ok_keeps ?_
    split
    · exact freeTest_keeps (modHeld_keeps (Keeps.refl s))
    · exact Keeps.refl s
  · exact Keeps.refl s

theorem actShotDelete_keeps (n : Nat) (s : State) : Keeps s (actShotDelete n s).state := by
  unfold actShotDelete
  split
  · exact ok_keeps (deleteShot_keeps (Keeps.refl s))
  · exact Keeps.refl s

theorem actShotInfo_keeps (n : Nat) (s : State) : Keeps s (actShotInfo n s).state := by
  unfold actShotInfo
  split <;> exact Keeps.refl s

theorem actLinkStart_keeps (x : Unit) (s : State) : Keeps s (actLinkStart x s).state := by
  unfold actLinkStart
  split
  · exact Keeps.refl s
  · exact accepted_keeps (startLink_keeps (Keeps.refl s))

theorem actLinkStop_keeps (x : Unit) (s : State) : Keeps s (actLinkStop x s).state := by
  unfold actLinkStop
  split
  · exact Keeps.refl s
  · exact ok_keeps (stopLink_keeps (Keeps.refl s))

theorem actLaneTestStart_keeps (x : Unit) (s : State) : Keeps s (actLaneTestStart x s).state := by
  unfold actLaneTestStart
  split
  · exact Keeps.refl s
  · split
    · exact Keeps.refl s
    · exact ok_keeps (retest_keeps (modSensor_keeps (Keeps.refl s)))

theorem actLaneTestStop_keeps (x : Unit) (s : State) : Keeps s (actLaneTestStop x s).state := by
  unfold actLaneTestStop
  split
  · exact ok_keeps (retest_keeps (modSensor_keeps (Keeps.refl s)))
  · exact Keeps.refl s

theorem actRelease_keeps (x : OrNamed Nat) (s : State) : Keeps s (actRelease x s).state := by
  unfold actRelease
  split
  · exact Keeps.refl s
  · split
    · exact accepted_keeps (startBurst_keeps (Keeps.refl s))
    · exact deny_keeps (takeRelease_keeps (Keeps.refl s))

theorem actReleaseEnd_keeps (x : Unit) (s : State) : Keeps s (actReleaseEnd x s).state := by
  unfold actReleaseEnd
  split
  · exact ok_keeps (takeOwnerEnd_keeps (Keeps.refl s))
  · exact Keeps.refl s

theorem dropShotReadout_keeps (h : Keeps a s) : Keeps a (dropShotReadout s) := by
  unfold dropShotReadout
  split
  · exact ite_keeps (unexpectedReadout_keeps h) h
  · exact h

theorem actBurstAbort_keeps (x : Unit) (s : State) : Keeps s (actBurstAbort x s).state := by
  unfold actBurstAbort
  split
  · exact Keeps.refl s
  · exact ok_keeps (cutBurst_keeps (dropShotReadout_keeps (Keeps.refl s)))

theorem actSyncArm_keeps (x : Unit) (s : State) : Keeps s (actSyncArm x s).state := by
  unfold actSyncArm
  split
  · exact ok_keeps ((Keeps.refl s).upd {})
  · exact Keeps.refl s

theorem actLatencyClear_keeps (x : Unit) (s : State) : Keeps s (actLatencyClear x s).state := by
  unfold actLatencyClear
  exact ok_keeps ((Keeps.refl s).upd {})

theorem actAfLensCoef_keeps (k : Int) (s : State) : Keeps s (actAfLensCoef k s).state := by
  unfold actAfLensCoef
  split
  · exact Keeps.refl s
  · exact ok_keeps ((Keeps.refl s).upd {})

theorem actAfArea_keeps (x : AreaArg) (s : State) : Keeps s (actAfArea x s).state := by
  cases x with
  | singleArea n =>
    simp only [actAfArea]
    split
    · exact Keeps.refl s
    · exact ok_keeps ((Keeps.refl s).upd {})
  | zone r =>
    simp only [actAfArea]
    split
    · exact ok_keeps ((Keeps.refl s).upd {})
    · exact Keeps.refl s
  | track n =>
    simp only [actAfArea]
    split
    · exact Keeps.refl s
    · exact ok_keeps ((Keeps.refl s).upd {})

theorem actAfStart_keeps (x : Option ServoMode) (s : State) : Keeps s (actAfStart x s).state := by
  cases x with
  | some m => exact ok_keeps (startServo_keeps (Keeps.refl s))
  | none => exact Keeps.refl s

theorem startWatcher_keeps (h : Keeps a s) : Keeps a (startWatcher s) := by
  unfold startWatcher
  exact h.upd {}

theorem enableWatcher_keeps {b : Bool} (h : Keeps a s) : Keeps a (enableWatcher b s) := by
  unfold enableWatcher
  exact h.upd {}

theorem actAfStop_keeps (x : Unit) (s : State) : Keeps s (actAfStop x s).state :=
  ite_keeps (startWatcher_keeps (stopServo_keeps (Keeps.refl s))) (stopServo_keeps (Keeps.refl s))

theorem actWatchSet_keeps (b : Bool) (s : State) : Keeps s (actWatchSet b s).state :=
  ite_keeps (startWatcher_keeps (enableWatcher_keeps (Keeps.refl s))) (enableWatcher_keeps (Keeps.refl s))

theorem actWatchReset_keeps (x : Unit) (s : State) : Keeps s (actWatchReset x s).state := startWatcher_keeps (Keeps.refl s)

theorem actAfGrid_keeps (row : Nat) (s : State) : Keeps s (actAfGrid row s).state := by
  unfold actAfGrid
  split <;> exact Keeps.refl s

theorem actLensStart_keeps (x : Unit) (s : State) : Keeps s (actLensStart x s).state := by
  have h : Keeps s { s with lp := { s.lp with enable := true, stopping := none } } := (Keeps.refl s).upd {}
  exact ite_keeps (lensWaiting_keeps h) h

theorem actLensStop_keeps (x : Unit) (s : State) : Keeps s (actLensStop x s).state := by
  unfold actLensStop
  exact ok_keeps ((Keeps.refl s).upd {})

theorem actLensHome_keeps (x : Unit) (s : State) : Keeps s (actLensHome x s).state := by
  unfold actLensHome
  split
  · exact Keeps.refl s
  · split
    · exact Keeps.refl s
    · exact ok_keeps (homingTest_keeps (clearHoming_keeps (Keeps.refl s)))

theorem actLensIris_keeps (v : Nat) (s : State) : Keeps s (actLensIris v s).state := by
  unfold actLensIris
  split
  · exact Keeps.refl s
  · exact ok_keeps ((Keeps.refl s).upd {})

/-- The limits and the iris word staged for them leave the AUX words and the counter (R109). -/
theorem reclampIris_eq (l : Lens) : ∃ st, reclampIris l = { l with irisStage := st } := by
  unfold reclampIris
  dsimp only
  split
  · exact ⟨l.irisStage, rfl⟩
  · exact ⟨_, rfl⟩

theorem actLensLimits_keeps (x : LimitsArg) (s : State) : Keeps s (actLensLimits x s).state := by
  unfold actLensLimits
  split
  · obtain ⟨st, e⟩ := reclampIris_eq (setLimits x s.lp)
    rw [e]
    unfold setLimits
    exact ok_keeps ((Keeps.refl s).upd {})
  · exact Keeps.refl s

/-- A word joins the AUX queue only where the queue has room (R110). -/
theorem actLensAux_keeps (w : Word16) (s : State) : Keeps s (actLensAux w s).state := by
  unfold actLensAux
  split
  · exact Keeps.refl s
  · split
    · exact Keeps.refl s
    · rename_i room
      have hroom : (s.lp.auxQueue ++ [w]).length ≤ Config.auxRoom := by
        rw [List.length_append, List.length_singleton]
        omega
      exact ⟨rfl, rfl, rfl, rfl, rfl, rfl, id, fun x => { x with auxQueue := hroom }⟩

/-- POSITION_SET takes only a value of the counter's range (R113). -/
theorem actPositionSet_keeps (v : Int) (s : State) : Keeps s (actPositionSet v s).state := by
  unfold actPositionSet
  split
  · rename_i hv
    have h : Keeps s { s with lp := { s.lp with counter := v, overrun := false } } :=
      ⟨rfl, rfl, rfl, rfl, rfl, rfl, id, fun x => { x with counter := hv }⟩
    exact ok_keeps (reference_keeps h)
  · exact Keeps.refl s

/-- Changing a place of a list leaves its length. -/
theorem modAt_length {α : Type} (f : α → α) : ∀ (i : Nat) (l : List α), (modAt i f l).length = l.length
  | _, [] => by simp [modAt]
  | 0, _ :: _ => by simp [modAt]
  | i + 1, _ :: l => by simp [modAt, modAt_length f i l]

theorem putRecipe_keeps {n : Nat} {r : Recipe} (h : Keeps a s) : Keeps a (putRecipe n r s) := by
  unfold putRecipe
  exact h.upd { recipes := modAt_length (fun _ => r) n s.de.recipes }

theorem actRecipeSet_keeps (x : Nat × Recipe) (s : State) : Keeps s (actRecipeSet x s).state := by
  unfold actRecipeSet
  split
  · exact Keeps.refl s
  · split
    · exact Keeps.refl s
    · exact ok_keeps (raiseDefaulted_keeps (putRecipe_keeps (Keeps.refl s)))

theorem actRecipeGet_keeps (n : Nat) (s : State) : Keeps s (actRecipeGet n s).state := by
  unfold actRecipeGet
  split <;> exact Keeps.refl s

theorem actRecipeSelect_keeps (n : Nat) (s : State) : Keeps s (actRecipeSelect n s).state := by
  unfold actRecipeSelect
  split
  · exact Keeps.refl s
  · exact ok_keeps ((Keeps.refl s).upd {})

theorem onSlot_keeps {act : Slot → State → Answer} (hact : ∀ sl, Keeps s (act sl s).state) (o : Option Slot) :
    Keeps s (onSlot o act s).state := by
  cases o with
  | some sl => exact hact sl
  | none => exact Keeps.refl s

theorem extentsOn_keeps (l : List Run) (sl : Slot) (s : State) : Keeps s (extentsOn l sl s).state := by
  unfold extentsOn
  dsimp only
  repeat' split
  all_goals first | exact Keeps.refl s | exact ok_keeps (resumeSlot_keeps (modSlot_keeps (Keeps.refl s)))

theorem finalOn_keeps (sl : Slot) (s : State) : Keeps s (finalOn sl s).state := by
  unfold finalOn
  split
  · exact Keeps.refl s
  · exact ite_keeps (overflowTest_keeps (modSlot_keeps (Keeps.refl s))) (modSlot_keeps (Keeps.refl s))

theorem clearOn_keeps (sl : Slot) (s : State) : Keeps s (clearOn sl s).state := by
  unfold clearOn
  split
  · exact ok_keeps (slotSettle_keeps (raiseCard_keeps (modSlot_keeps (Keeps.refl s))))
  · exact Keeps.refl s

theorem takeOn_keeps (sl : Slot) (s : State) : Keeps s (takeOn sl s).state := by
  unfold takeOn
  split
  · exact Keeps.refl s
  · exact ok_keeps (slotSettle_keeps (modSlot_keeps (Keeps.refl s)))

theorem ejectOn_keeps (sl : Slot) (s : State) : Keeps s (ejectOn sl s).state := by
  unfold ejectOn
  dsimp only
  split
  · exact Keeps.refl s
  · exact Keeps.refl s
  · exact Keeps.refl s
  · split <;> exact ok_keeps (raiseCard_keeps (modSlot_keeps (Keeps.refl s)))

theorem settingsOn_keeps (low ms : Nat) (sl : Slot) (s : State) : Keeps s (settingsOn low ms sl s).state := by
  unfold settingsOn
  split
  · exact ok_keeps (modSlot_keeps (Keeps.refl s))
  · exact Keeps.refl s

theorem actCardExtents_keeps (x : Option Slot × List Run) (s : State) : Keeps s (actCardExtents x s).state :=
  onSlot_keeps (fun sl => extentsOn_keeps x.2 sl s) x.1

theorem actCardSet_keeps (x : Option Slot × Nat × Nat) (s : State) : Keeps s (actCardSet x s).state :=
  onSlot_keeps (fun sl => settingsOn_keeps x.2.1 x.2.2 sl s) x.1

theorem actCaptionSet_keeps (x : Nat × List Byte) (s : State) : Keeps s (actCaptionSet x s).state := by
  unfold actCaptionSet
  split
  · exact Keeps.refl s
  · split
    · exact Keeps.refl s
    · split
      · exact Keeps.refl s
      · exact ok_keeps (setCaption_keeps (Keeps.refl s))

theorem actCaptionStanding_keeps (x : OrNamed (List Byte)) (s : State) : Keeps s (actCaptionStanding x s).state := by
  cases x with
  | value c =>
    simp only [actCaptionStanding]
    split
    · exact ok_keeps (setWaiting_keeps (Keeps.refl s))
    · exact Keeps.refl s
  | named => exact ok_keeps (setWaiting_keeps (Keeps.refl s))

theorem actMemoLevel_keeps (x : Int × Int) (s : State) : Keeps s (actMemoLevel x s).state := by
  unfold actMemoLevel
  split
  · exact ok_keeps ((Keeps.refl s).upd {})
  · exact Keeps.refl s

theorem actMemoStart_keeps (x : OrNamed Nat) (s : State) : Keeps s (actMemoStart x s).state := by
  unfold actMemoStart
  split
  · exact Keeps.refl s
  · split
    · exact accepted_keeps (startMemo_keeps (Keeps.refl s))
    · exact Keeps.refl s

theorem actMemoStop_keeps (x : Unit) (s : State) : Keeps s (actMemoStop x s).state := by
  unfold actMemoStop
  split
  · exact ok_keeps (cancelMemo_keeps (Keeps.refl s))
  · exact ok_keeps (endMemo_keeps (Keeps.refl s))
  · exact Keeps.refl s

theorem actGetNotice_keeps (x : Unit) (s : State) : Keeps s (actGetNotice x s).state := by
  unfold actGetNotice
  split
  · exact Keeps.refl s
  · rename_i n l e
    exact ⟨rfl, rfl, rfl, rfl, rfl, rfl, id, fun x => { x with notices := (e ▸ x.notices).tail }⟩

/-- STATUS clears NOTICES_LOST (R203); a sound state stays sound. -/
theorem actStatus_sound (x : Unit) (h : s.Sound) : (actStatus x s).state.Sound := { h with }

theorem actSetConfig_keeps (x : ConfigArg) (s : State) : Keeps s (actSetConfig x s).state := by
  unfold actSetConfig
  split
  · exact Keeps.refl s
  · split
    · exact ok_keeps (takeConfig_keeps (Keeps.refl s))
    · exact Keeps.refl s

theorem actGetConfig_keeps (x : Option Group) (s : State) : Keeps s (actGetConfig x s).state := by
  cases x <;> exact Keeps.refl s

theorem actSleep_safe (x : Unit) (s : State) : Safe s (actSleep x s).state := by
  unfold actSleep
  split
  · exact Safe.refl s
  · exact sleepPart_safe (Safe.refl s)

/-- A host command keeps what its effect keeps of every state. -/
theorem hostCommand_of_keeps {α : Type} {act : α → State → Answer} (hact : ∀ x t, Keeps t (act x t).state) (g : Gate)
    (r : Req α) (s : State) : Safe s (hostCommand g r act s) :=
  hostCommand_safe (fun x t h => h.trans (hact x t).safe) (Safe.refl s)

/-- A host command leaves a sound state where its effect does. -/
theorem hostCommand_sound {α : Type} {g : Gate} {r : Req α} {act : α → State → Answer}
    (hact : ∀ x t, t.Sound → (act x t).state.Sound) (h : s.Sound) : (hostCommand g r act s).Sound := by
  unfold hostCommand
  split
  · exact (setMarker_safe (Safe.refl s)).sound h
  · have hw : (wakeFor (g == .quiet) s).Sound := (wakeFor_safe (Safe.refl s)).sound h
    refine (placeReply_safe (Safe.refl _)).sound ?_
    unfold judgeCommand
    split
    · exact hw
    · split
      · exact hw
      · exact hact _ _ hw

/-! ## What the events and the part's own steps keep -/

/-- An outcome with a state that is safe. -/
theorem safe_of_next {u t : State} (hu : Safe s u) (e : (.next u : Host.Outcome State Fault Refusal) = .next t) : Safe s t := by
  cases e
  exact hu

theorem keeps_of_next {u t : State} (hu : Keeps s u) (e : (.next u : Host.Outcome State Fault Refusal) = .next t) : Safe s t :=
  safe_of_next hu.safe e

theorem collectReply_sound (h : s.Sound) : (collectReply s).Sound := by
  unfold collectReply
  split
  · exact h
  · split
    · exact resetPart_sound h
    · exact (port_safe _ none s.cp.power s.cp.heldKind).sound h

theorem enterStandby_safe (s : State) : Safe s { s with cp := { s.cp with power := .standby } } :=
  port_safe s.cp.slot s.cp.marker .standby s.cp.heldKind

theorem settleExpired_keeps (s : State) :
    Keeps s { s with fe := { s.fe with settle := none, settledAt := some s.time, settleTimedOut := true } } :=
  (Keeps.refl s).upd {}

theorem performRetrain_keeps (h : Keeps a s) : Keeps a (performRetrain s) := enterTraining_keeps (modSensor_keeps h)

theorem lineMoves_keeps {pressed : Bool} (h : Keeps a s) : Keeps a (lineMoves pressed s) := by
  unfold lineMoves
  split
  · exact h.upd {}
  · exact filterStart_keeps h

theorem closeActivity_keeps (h : Keeps a s) : Keeps a (closeActivity s) := ite_keeps (endActivity_keeps h) h

theorem peerFrame_keeps {act : State → State} (hact : Keeps s (act s)) : Keeps s (peerFrame act s) :=
  ite_keeps (Keeps.refl s) hact

theorem judgeAccept_keeps {id start : Nat} (s : State) : Keeps s (judgeAccept id start s) := by
  unfold judgeAccept
  split
  · exact ite_keeps (acceptTransfer_keeps (Keeps.refl s)) (staleFrame_keeps (Keeps.refl s))
  · exact staleFrame_keeps (Keeps.refl s)

theorem judgeDecline_keeps {id : Nat} (s : State) : Keeps s (judgeDecline id s) := by
  unfold judgeDecline
  split
  · exact declineTransfer_keeps (Keeps.refl s)
  · exact staleFrame_keeps (Keeps.refl s)

/-- Credits are cut off at their bound (R170). -/
theorem judgeCredit_keeps {count : Nat} (s : State) : Keeps s (judgeCredit count s) := by
  unfold judgeCredit
  split
  · exact ⟨rfl, rfl, rfl, rfl, rfl, rfl, id, fun x =>
      { x with credits := Nat.min_le_right _ _, sends := x.sends.upd rfl rfl }⟩
  · exact badPeerFrame_keeps (Keeps.refl s)

theorem judgeAck_keeps {id offset : Nat} (s : State) : Keeps s (judgeAck id offset s) := by
  unfold judgeAck
  split
  · split
    · exact staleFrame_keeps (Keeps.refl s)
    · exact ite_keeps (Keeps.refl s) (ackTransfer_keeps (Keeps.refl s))
  · exact staleFrame_keeps (Keeps.refl s)

theorem judgeRelease_keeps {count : Nat} (s : State) : Keeps s (judgeRelease count s) := by
  unfold judgeRelease
  split
  · exact refusePeer_keeps (Keeps.refl s)
  · split
    · exact refusePeer_keeps (Keeps.refl s)
    · split
      · exact raisePeer_keeps (startBurst_keeps (Keeps.refl s))
      · exact refusePeer_keeps (takeRelease_keeps (Keeps.refl s))

theorem judgeRemoteEnd_keeps (s : State) : Keeps s (judgeRemoteEnd s) := by
  unfold judgeRemoteEnd
  split
  · exact refusePeer_keeps (Keeps.refl s)
  · split
    · exact raisePeer_keeps (takeOwnerEnd_keeps (Keeps.refl s))
    · exact refusePeer_keeps (Keeps.refl s)

theorem judgeMark_keeps {shot : Nat} (s : State) : Keeps s (judgeMark shot s) := by
  unfold judgeMark
  split
  · exact refusePeer_keeps (Keeps.refl s)
  · split
    · exact raisePeer_keeps (markNumber_keeps ‹_› (Keeps.refl s))
    · exact notAvailable_keeps (Keeps.refl s)

theorem judgePullOf_keeps {shot : Nat} {k : FileKind} (s : State) : Keeps s (judgePullOf shot k s) := by
  unfold judgePullOf
  split
  · exact notAvailable_keeps (Keeps.refl s)
  · split
    · exact notAvailable_keeps (Keeps.refl s)
    · split
      · exact notAvailable_keeps (Keeps.refl s)
      · exact raisePeer_keeps (pullShot_keeps (Keeps.refl s))

theorem judgePull_keeps {shot : Nat} {kind : Option FileKind} (s : State) : Keeps s (judgePull shot kind s) := by
  unfold judgePull
  split
  · exact refusePeer_keeps (Keeps.refl s)
  · split
    · exact judgePullOf_keeps s
    · exact refusePeer_keeps (Keeps.refl s)

/-- A line of the part takes a level, and a block acts on it. -/
theorem line_keeps {l : Lines} {c : Prop} [Decidable c] {f : State → State}
    (hf : ∀ {u : State}, Keeps s u → Keeps s (f u)) :
    Keeps s (if c then f { s with lines := l } else { s with lines := l }) := by
  have h : Keeps s { s with lines := l } := (Keeps.refl s).upd {}
  exact ite_keeps (hf h) h

/-- What an operation keeps, its being taken under a condition keeps. -/
theorem when_keeps {c : Prop} [Decidable c] {t : State} (h : Keeps s t) : Keeps s (if c then t else s) :=
  ite_keeps h (Keeps.refl s)

theorem when_safe {c : Prop} [Decidable c] {t : State} (h : Safe s t) : Safe s (if c then t else s) :=
  iteInduction (motive := Safe s) (fun _ => h) (fun _ => Safe.refl s)

theorem focusWaitExpired_keeps (s : State) :
    Keeps s (retest .focus { s with rtu := { s.rtu with waitAt := none, waitExpired := true } }) :=
  retest_keeps ((Keeps.refl s).upd {})

theorem readoutTimedOut_keeps (s : State) :
    Keeps s (closeFrame false (voidShot isTriggered .timeout { s with rtu := { s.rtu with readoutAt := none } })) :=
  closeFrame_keeps (voidShot_keeps ((Keeps.refl s).upd {}))

/-! ## Every command -/

/-- The commands that clear what others leave: STATUS, which clears NOTICES_LOST, and the resets. -/
def restarts : Instr → Bool
  | .status _ | .replyCollected | .powerUpReset | .commandReset => true
  | _ => false

/-- A host command, but for STATUS, keeps what every command keeps. -/
theorem exec_safe {c : Instr} {t : State} (hc : restarts c = false) (e : exec c s = .next t) : Safe s t := by
  cases c with
  | status r => cases hc
  | replyCollected => cases hc
  | powerUpReset => cases hc
  | commandReset => cases hc
  | shotMark r => exact safe_of_next (hostCommand_of_keeps actShotMark_keeps _ r s) e
  | shotKeep r => exact safe_of_next (hostCommand_of_keeps actShotKeep_keeps _ r s) e
  | shotRelease r => exact safe_of_next (hostCommand_of_keeps actShotRelease_keeps _ r s) e
  | shotDelete r => exact safe_of_next (hostCommand_of_keeps actShotDelete_keeps _ r s) e
  | shotInfo r => exact safe_of_next (hostCommand_of_keeps actShotInfo_keeps _ r s) e
  | shotList r => exact safe_of_next (hostCommand_of_keeps (fun _ t => Keeps.refl t) _ r s) e
  | linkStart r => exact safe_of_next (hostCommand_of_keeps actLinkStart_keeps _ r s) e
  | linkStop r => exact safe_of_next (hostCommand_of_keeps actLinkStop_keeps _ r s) e
  | laneTestStart r => exact safe_of_next (hostCommand_of_keeps actLaneTestStart_keeps _ r s) e
  | laneTestRead r => exact safe_of_next (hostCommand_of_keeps (fun _ t => Keeps.refl t) _ r s) e
  | laneTestStop r => exact safe_of_next (hostCommand_of_keeps actLaneTestStop_keeps _ r s) e
  | linkStats r => exact safe_of_next (hostCommand_of_keeps (fun _ t => Keeps.refl t) _ r s) e
  | release r => exact safe_of_next (hostCommand_of_keeps actRelease_keeps _ r s) e
  | releaseEnd r => exact safe_of_next (hostCommand_of_keeps actReleaseEnd_keeps _ r s) e
  | burstState r => exact safe_of_next (hostCommand_of_keeps (fun _ t => Keeps.refl t) _ r s) e
  | burstAbort r => exact safe_of_next (hostCommand_of_keeps actBurstAbort_keeps _ r s) e
  | syncArm r => exact safe_of_next (hostCommand_of_keeps actSyncArm_keeps _ r s) e
  | syncState r => exact safe_of_next (hostCommand_of_keeps (fun _ t => Keeps.refl t) _ r s) e
  | latencyStats r => exact safe_of_next (hostCommand_of_keeps (fun _ t => Keeps.refl t) _ r s) e
  | latencyClear r => exact safe_of_next (hostCommand_of_keeps actLatencyClear_keeps _ r s) e
  | afLensCoef r => exact safe_of_next (hostCommand_of_keeps actAfLensCoef_keeps _ r s) e
  | afArea r => exact safe_of_next (hostCommand_of_keeps actAfArea_keeps _ r s) e
  | afStart r => exact safe_of_next (hostCommand_of_keeps actAfStart_keeps _ r s) e
  | afStop r => exact safe_of_next (hostCommand_of_keeps actAfStop_keeps _ r s) e
  | watchSet r => exact safe_of_next (hostCommand_of_keeps actWatchSet_keeps _ r s) e
  | watchReset r => exact safe_of_next (hostCommand_of_keeps actWatchReset_keeps _ r s) e
  | afState r => exact safe_of_next (hostCommand_of_keeps (fun _ t => Keeps.refl t) _ r s) e
  | afGrid r => exact safe_of_next (hostCommand_of_keeps actAfGrid_keeps _ r s) e
  | lensStart r => exact safe_of_next (hostCommand_of_keeps actLensStart_keeps _ r s) e
  | lensStop r => exact safe_of_next (hostCommand_of_keeps actLensStop_keeps _ r s) e
  | lensHome r => exact safe_of_next (hostCommand_of_keeps actLensHome_keeps _ r s) e
  | lensIris r => exact safe_of_next (hostCommand_of_keeps actLensIris_keeps _ r s) e
  | lensLimits r => exact safe_of_next (hostCommand_of_keeps actLensLimits_keeps _ r s) e
  | lensAux r => exact safe_of_next (hostCommand_of_keeps actLensAux_keeps _ r s) e
  | positionSet r => exact safe_of_next (hostCommand_of_keeps actPositionSet_keeps _ r s) e
  | lensState r => exact safe_of_next (hostCommand_of_keeps (fun _ t => Keeps.refl t) _ r s) e
  | recipeSet r => exact safe_of_next (hostCommand_of_keeps actRecipeSet_keeps _ r s) e
  | recipeGet r => exact safe_of_next (hostCommand_of_keeps actRecipeGet_keeps _ r s) e
  | recipeSelect r => exact safe_of_next (hostCommand_of_keeps actRecipeSelect_keeps _ r s) e
  | developState r => exact safe_of_next (hostCommand_of_keeps (fun _ t => Keeps.refl t) _ r s) e
  | cardExtents r => exact safe_of_next (hostCommand_of_keeps actCardExtents_keeps _ r s) e
  | cardFinal r => exact safe_of_next (hostCommand_of_keeps (fun x t => onSlot_keeps (fun sl => finalOn_keeps sl t) x) _ r s) e
  | cardClear r => exact safe_of_next (hostCommand_of_keeps (fun x t => onSlot_keeps (fun sl => clearOn_keeps sl t) x) _ r s) e
  | fileTake r => exact safe_of_next (hostCommand_of_keeps (fun x t => onSlot_keeps (fun sl => takeOn_keeps sl t) x) _ r s) e
  | cardEject r => exact safe_of_next (hostCommand_of_keeps (fun x t => onSlot_keeps (fun sl => ejectOn_keeps sl t) x) _ r s) e
  | cardState r => exact safe_of_next (hostCommand_of_keeps (fun x t => onSlot_keeps (fun _ => Keeps.refl t) x) _ r s) e
  | cardSet r => exact safe_of_next (hostCommand_of_keeps actCardSet_keeps _ r s) e
  | tetherState r => exact safe_of_next (hostCommand_of_keeps (fun _ t => Keeps.refl t) _ r s) e
  | captionSet r => exact safe_of_next (hostCommand_of_keeps actCaptionSet_keeps _ r s) e
  | captionStanding r => exact safe_of_next (hostCommand_of_keeps actCaptionStanding_keeps _ r s) e
  | memoLevel r => exact safe_of_next (hostCommand_of_keeps actMemoLevel_keeps _ r s) e
  | memoStart r => exact safe_of_next (hostCommand_of_keeps actMemoStart_keeps _ r s) e
  | memoStop r => exact safe_of_next (hostCommand_of_keeps actMemoStop_keeps _ r s) e
  | memoState r => exact safe_of_next (hostCommand_of_keeps (fun _ t => Keeps.refl t) _ r s) e
  | getNotice r => exact safe_of_next (hostCommand_of_keeps actGetNotice_keeps _ r s) e
  | setConfig r => exact safe_of_next (hostCommand_of_keeps actSetConfig_keeps _ r s) e
  | getConfig r => exact safe_of_next (hostCommand_of_keeps actGetConfig_keeps _ r s) e
  | sleep r => exact safe_of_next (hostCommand_safe (fun x t h => h.trans (actSleep_safe x t)) (Safe.refl s)) e
  | reset r => exact safe_of_next (hostCommand_of_keeps (fun _ t => Keeps.refl t) _ r s) e
  | badFrame => exact safe_of_next (badHostFrame_safe (Safe.refl s)) e
  | unknown tag => exact safe_of_next (badHostFrame_safe (Safe.refl s)) e
  | notReady tag => exact safe_of_next (when_safe (setMarker_safe (Safe.refl s))) e
  | closingComplete => exact safe_of_next (when_safe (closePart_safe (Safe.refl s))) e
  | enterStandby => exact safe_of_next (when_safe (enterStandby_safe s)) e
  | wakeLine => exact safe_of_next (when_safe (wakePart_safe (Safe.refl s))) e
  | alignmentWindowExpiry => exact keeps_of_next (when_keeps (failAttempt_keeps (Keeps.refl s))) e
  | noMarkTimeout => exact keeps_of_next (when_keeps (failAttempt_keeps (Keeps.refl s))) e
  | linkParametersHeader => exact keeps_of_next (when_keeps (judgeParams_keeps (Keeps.refl s))) e
  | trainingReassert => exact keeps_of_next (when_keeps (assertTraining_keeps (Keeps.refl s))) e
  | laneDrift wt => exact keeps_of_next (when_keeps (driftLanes_keeps (Keeps.refl s))) e
  | readoutEnd => exact keeps_of_next (when_keeps (takeStop_keeps (Keeps.refl s))) e
  | readoutSilence => exact keeps_of_next (when_keeps (closeSilent_keeps (Keeps.refl s))) e
  | retrainPerformed => exact keeps_of_next (when_keeps (performRetrain_keeps (Keeps.refl s))) e
  | wheelSlot => exact keeps_of_next (ite_keeps (Keeps.refl s) (visitSlot_keeps (Keeps.refl s))) e
  | releaseFilterExpiry => exact keeps_of_next (when_keeps (filterTake_keeps (Keeps.refl s))) e
  | focusWaitExpiry => exact keeps_of_next (when_keeps (focusWaitExpired_keeps s)) e
  | readoutTimeout => exact keeps_of_next (when_keeps (readoutTimedOut_keeps s)) e
  | syncEdge => exact keeps_of_next (ite_keeps (Keeps.refl s) (syncEdgeAt_keeps (Keeps.refl s))) e
  | settleTimeout => exact keeps_of_next (when_keeps (settleExpired_keeps s)) e
  | lensDetectChange active => exact keeps_of_next (line_keeps detectStep_keeps) e
  | statusSlot w => exact keeps_of_next (when_keeps (takeStatus_keeps (Keeps.refl s))) e
  | driveSlot => exact keeps_of_next (when_keeps (sendDrive_keeps (Keeps.refl s))) e
  | irisSlot => exact keeps_of_next (when_keeps (sendIris_keeps (Keeps.refl s))) e
  | auxSlot w => exact keeps_of_next (when_keeps (sendAux_keeps (Keeps.refl s))) e
  | lensFrameEnd => exact keeps_of_next (when_keeps (endFrame_keeps (Keeps.refl s))) e
  | homeTimeout => exact keeps_of_next (when_keeps (raiseLens_keeps (clearHoming_keeps (Keeps.refl s)))) e
  | encoderEdge x y => exact keeps_of_next (encoderStep_keeps (Keeps.refl s)) e
  | indexEvent => exact keeps_of_next (indexStep_keeps (Keeps.refl s)) e
  | developJobStart => exact keeps_of_next (when_keeps (startJob_keeps (Keeps.refl s))) e
  | cardPresentChange sl active => exact keeps_of_next (line_keeps presentStep_keeps) e
  | fileStart sl => exact keeps_of_next (when_keeps (startFile_keeps (Keeps.refl s))) e
  | cardWriteIssue sl => exact keeps_of_next (issueWrite_keeps (Keeps.refl s)) e
  | tetherLinkChange up => exact keeps_of_next (line_keeps linkUpStep_keeps) e
  | peerBadFrame => exact keeps_of_next (peerFrame_keeps (badPeerFrame_keeps (Keeps.refl s))) e
  | transferStart => exact keeps_of_next (when_keeps (startTransfer_keeps (Keeps.refl s))) e
  | accept id start => exact keeps_of_next (peerFrame_keeps (judgeAccept_keeps s)) e
  | decline id => exact keeps_of_next (peerFrame_keeps (judgeDecline_keeps s)) e
  | credit count => exact keeps_of_next (peerFrame_keeps (judgeCredit_keeps s)) e
  | ack id offset => exact keeps_of_next (peerFrame_keeps (judgeAck_keeps s)) e
  | remoteRelease count => exact keeps_of_next (peerFrame_keeps (judgeRelease_keeps s)) e
  | remoteEnd => exact keeps_of_next (peerFrame_keeps (judgeRemoteEnd_keeps s)) e
  | mark shot => exact keeps_of_next (peerFrame_keeps (judgeMark_keeps s)) e
  | pull shot kind => exact keeps_of_next (peerFrame_keeps (judgePull_keeps s)) e
  | memoSample bits => exact keeps_of_next (pdmWord_keeps (closeActivity_keeps (Keeps.refl s))) e
  | activityFrameEnd => exact keeps_of_next (closeActivity_keeps (Keeps.refl s)) e
  | laneSymbol lane sym wt =>
    simp only [exec, execLaneSymbol] at e
    split at e
    · exact keeps_of_next (takeSymbol_keeps (Keeps.refl s)) e
    · exact keeps_of_next (Keeps.refl s) e
  | laneMark lane wt =>
    simp only [exec, execLaneMark] at e
    split at e
    · exact keeps_of_next (takeMark_keeps (Keeps.refl s)) e
    · exact keeps_of_next (Keeps.refl s) e
  | readoutHeader =>
    simp only [exec, execReadoutHeader] at e
    split at e
    · exact keeps_of_next (takeHeader_keeps (Keeps.refl s)) e
    · exact keeps_of_next (Keeps.refl s) e
  | line =>
    simp only [exec, execLine] at e
    split at e
    · exact keeps_of_next (takeLine_keeps (Keeps.refl s)) e
    · exact keeps_of_next (Keeps.refl s) e
  | reservationGrant =>
    simp only [exec, execReservationGrant] at e
    split at e
    · exact keeps_of_next (when_keeps (grantReservation_keeps (Keeps.refl s))) e
    · exact keeps_of_next (Keeps.refl s) e
  | frameFire =>
    simp only [exec, execFrameFire] at e
    split at e
    · exact keeps_of_next (when_keeps (fireFrame_keeps (Keeps.refl s))) e
    · exact keeps_of_next (Keeps.refl s) e
  | allocationGrant =>
    simp only [exec, execAllocationGrant] at e
    split at e
    · exact keeps_of_next (when_keeps (grantJob_keeps (Keeps.refl s))) e
    · exact keeps_of_next (Keeps.refl s) e
  | developComplete =>
    simp only [exec, execDevelopComplete] at e
    split at e
    · exact keeps_of_next (when_keeps (completeJob_keeps (Keeps.refl s))) e
    · exact keeps_of_next (Keeps.refl s) e
  | cardWriteDone sl write =>
    simp only [exec, execCardWriteDone] at e
    split at e
    · exact keeps_of_next (writeDone_keeps (Keeps.refl s)) e
    · exact keeps_of_next (Keeps.refl s) e
  | cardWriteError sl write =>
    simp only [exec, execCardWriteError] at e
    split at e
    · exact keeps_of_next (writeFailed_keeps (Keeps.refl s)) e
    · exact keeps_of_next (Keeps.refl s) e
  | writeTimeout sl =>
    simp only [exec, execWriteTimeout] at e
    split at e
    · exact keeps_of_next (writeFailed_keeps (Keeps.refl s)) e
    · exact keeps_of_next (Keeps.refl s) e
  | segSend =>
    simp only [exec, execSegSend] at e
    split at e
    · exact keeps_of_next (when_keeps (sendSegment_keeps (Keeps.refl s))) e
    · exact keeps_of_next (Keeps.refl s) e
  | ackTimerExpiry =>
    simp only [exec, execAckTimerExpiry] at e
    split at e
    · exact keeps_of_next (when_keeps (ackExpired_keeps (Keeps.refl s))) e
    · exact keeps_of_next (Keeps.refl s) e
  | captionUpdate =>
    simp only [exec, execCaptionUpdate] at e
    split at e
    · exact keeps_of_next (when_keeps (sendCaption_keeps (Keeps.refl s))) e
    · exact keeps_of_next (Keeps.refl s) e
  | releaseLineChange pressed =>
    have h : Keeps s { s with lines := { s.lines with releasePressed := pressed } } := (Keeps.refl s).upd {}
    exact keeps_of_next (ite_keeps h (lineMoves_keeps h)) e

/-- STATUS and the resets leave a sound state. -/
theorem exec_restarts_sound {c : Instr} {t : State} (hc : restarts c = true) (h : s.Sound) (e : exec c s = .next t) : t.Sound := by
  cases c with
  | status r =>
    cases e
    exact hostCommand_sound (fun x _ ht => actStatus_sound x ht) h
  | replyCollected => cases e; exact collectReply_sound h
  | powerUpReset => cases e; exact powerUpPart_sound
  | commandReset =>
    cases e
    exact iteInduction (motive := State.Sound) (fun _ => resetPart_sound h) (fun _ => h)
  | _ => cases hc

theorem exec_sound {c : Instr} {t : State} (h : s.Sound) (e : exec c s = .next t) : t.Sound := by
  cases hc : restarts c with
  | true => exact exec_restarts_sound hc h e
  | false => exact (exec_safe hc e).sound h

/-- Soundness does not rest on the queue of waiting commands. -/
theorem sound_pending (h : s.Sound) (l : List Instr) : ({ s with pending := l } : State).Sound := { h with }

/-- Settles O6. -/
theorem stepKeepsSound : Obligations.StepKeepsSound := by
  intro s t h e
  unfold step at e
  split at e
  · exact exec_sound (sound_pending h _) e
  · split at e
    · exact exec_sound h e
    · cases e
      exact { h with }

end Sys2Proof.Machine
end

section
/-! The part after reset is lawful, and the fixed frames and tables of the Formats chapter. -/

namespace Sys2Proof.Machine

set_option Elab.async false

open Sys2Proof

/-- Settles O9: each entry is a closed fact of the model's tables and decoders. -/
theorem tablesAndFramesWrittenOut : Obligations.TablesAndFramesWrittenOut := by
  refine ⟨⟨?_, ?_, ?_, ?_, ?_, ?_, ?_, ?_, ?_⟩, ⟨?_, ?_, ?_, ?_, ?_, ?_, ?_, ?_⟩⟩ <;> decide +kernel

/-! ## The empty store -/

theorem cleared_lawful : ({} : Shot).Lawful where
  free _ := rfl
  early h := by simp at h
  numbered h := by simp at h
  duties := List.nodup_nil
  pins := List.nodup_nil
  proof h := by simp at h

section
variable {s : State} (ht : s.ss.table = Store.reset.table)
include ht

/-- An entry of the empty store is the cleared record. -/
theorem eq_cleared_of_mem {t : Shot} (h : t ∈ s.ss.table) : t = {} := by
  rw [ht] at h
  exact List.eq_of_mem_replicate h

/-- A test that the cleared record fails picks no entry of the empty store. -/
theorem filter_empty {p : Shot → Bool} (h : p {} = false) : s.ss.table.filter p = [] := by
  rw [List.filter_eq_nil_iff]
  intro t hm
  simp [eq_cleared_of_mem ht hm, h]

theorem held_empty (n : Nat) : s.held n = none := by
  rw [State.held, List.find?_eq_none]
  intro t hm
  rw [eq_cleared_of_mem ht hm]
  exact Bool.false_ne_true

theorem inFlight_empty : s.inFlight = 0 := by
  unfold State.inFlight
  rw [filter_empty ht rfl, List.length_nil]

/-- In the empty store every block is in the free list, and no entry holds one. -/
theorem allBlocks_empty (hf : s.ss.free = Store.reset.free) (hm : s.mi.current = none) :
    s.allBlocks = List.range Config.blocks := by
  have hnone : s.ss.table.flatMap Shot.blocks = [] := by
    rw [List.flatMap_eq_nil_iff]
    intro t hmem
    rw [eq_cleared_of_mem ht hmem]
    rfl
  have hfree : s.ss.free = List.range Config.blocks := hf.trans List.range_eq_range'.symm
  simp [State.allBlocks, State.recordingExtent, hnone, hfree, hm]

theorem storeLawful_empty (hf : s.ss.free = Store.reset.free) (hm : s.mi.current = none)
    (hn : 1 ≤ s.ss.next ∧ s.ss.next ≤ Config.maxNumber) : s.StoreLawful where
  blocks := by rw [allBlocks_empty ht hf hm]
  entries t hmem := by
    rw [eq_cleared_of_mem ht hmem]
    exact cleared_lawful
  oneReserved := by
    rw [List.countP_eq_length_filter, filter_empty ht rfl]
    exact Nat.zero_le _
  oneInFlight := by
    rw [inFlight_empty ht]
    exact Nat.zero_le _
  numbers := by
    unfold State.NumbersDistinct State.usedNumbers
    rw [filter_empty ht rfl]
    exact List.nodup_nil
  next := hn

end

/-! ## The part after reset -/

theorem workLawful_reset : State.reset.WorkLawful where
  slots sl := by
    cases sl <;> exact ⟨List.nodup_nil, (fun _ h => nomatch h), (fun _ h => nomatch h)⟩
  developDistinct := List.nodup_nil
  developQueued _ h := nomatch h
  job _ h := nomatch h
  sendRoom := Nat.zero_le _
  sendDistinct := List.nodup_nil
  transfer _ h := nomatch h
  memo _ h := nomatch h
  memoIdle := ⟨fun _ => rfl, fun _ => rfl⟩

theorem runLawful_reset : State.reset.RunLawful where
  quiet _ := inFlight_empty rfl
  landing _ h := nomatch h
  link _ := ⟨rfl, rfl⟩
  asleep h := absurd rfl h
  grid _ h := nomatch h
  standing _ h := nomatch h
  period := by decide
  first := by decide
  limits := by decide

/-- Settles O5. -/
theorem soundAtReset : Obligations.SoundAtReset :=
  ⟨sound_reset, storeLawful_empty rfl rfl rfl (by decide), workLawful_reset, runLawful_reset⟩

end Sys2Proof.Machine
end

section
/-! The free list, the table and the freeing test as equations: the layer that the statements about the store rest on. -/

namespace Sys2Proof.Machine

set_option Elab.async false

open Sys2Proof

variable {s : State}

/-! ## The free list -/

/-- When STORE_LOW is raised: the count falls from the threshold or above to below it (R22). -/
theorem lowFall_iff (s t : State) : (s.lowArmed && !t.lowArmed) = true
    ↔ s.cfg.store.low ≤ s.freeCount ∧ t.freeCount < t.cfg.store.low := by
  simp [State.lowArmed]

/-- Blocks that come back never raise STORE_LOW: the free count only grows (R22). -/
theorem giveBlocks_eq (l : List Nat) (s : State) : giveBlocks l s = { s with ss := { s.ss with free := s.ss.free ++ l } } := by
  unfold giveBlocks setFree
  dsimp only
  rw [if_neg]
  simp only [lowFall_iff, State.freeCount, List.length_append]
  omega

/-- Blocks that leave the list's head raise STORE_LOW just where the count so passes the low threshold (R22). -/
theorem takeBlocks_eq (n : Nat) (s : State) :
    takeBlocks n s = (s.ss.free.take n, { s with ss := { s.ss with free := s.ss.free.drop n }, cp := s.tellsLow n }) := by
  unfold takeBlocks setFree
  dsimp only
  split <;> rename_i h <;> simp only [lowFall_iff, State.freeCount, List.length_drop] at h
  · simp only [State.tellsLow, raise, if_pos h]
    simp only [State.freeCount, State.shotsFit, State.shotBlocks, List.length_drop]
  · simp only [State.tellsLow, if_neg h]

/-! ## The table -/

/-- Only the entry found matters to a change of it. -/
theorem updateFirst_found {p : Shot → Bool} {l : List Shot} {x : Shot} (h : l.find? p = some x) (f : Shot → Shot) :
    updateFirst p f l = updateFirst p (fun _ => f x) l := by
  obtain ⟨l1, l2, -, -, -, h2⟩ := updateFirst_some h
  rw [h2, h2]

/-- A change that gives the entry back leaves the table. -/
theorem updateFirst_same {p : Shot → Bool} {l : List Shot} {x : Shot} (h : l.find? p = some x) :
    updateFirst p (fun _ => x) l = l := by
  obtain ⟨l1, l2, rfl, -, -, h2⟩ := updateFirst_some h
  rw [h2]

/-- The first entry found after it was changed and still meets the test. -/
theorem find_updateFirst {p : Shot → Bool} {l : List Shot} {x : Shot} (h : l.find? p = some x) {f : Shot → Shot}
    (hp : p (f x) = true) : (updateFirst p f l).find? p = some (f x) := by
  obtain ⟨l1, l2, -, h1, -, h2⟩ := updateFirst_some h
  rw [h2, List.find?_append, List.find?_eq_none.2 (fun y hy => by simp [h1 y hy])]
  simp [hp]

/-- Two changes of the first entry that meets a test, the first leaving it meet the test, are one. -/
theorem updateFirst_twice {p : Shot → Bool} {l : List Shot} {x : Shot} (h : l.find? p = some x) {f g : Shot → Shot}
    (hp : p (f x) = true) : updateFirst p g (updateFirst p f l) = updateFirst p (fun _ => g (f x)) l := by
  obtain ⟨l1, l2, -, h1, -, h2⟩ := updateFirst_some h
  rw [h2 f, h2]
  clear h2 h
  induction l1 with
  | nil => simp [updateFirst, hp]
  | cons y l1 ih =>
    have hy := h1 y (List.mem_cons_self ..)
    simp only [List.cons_append, updateFirst, hy, Bool.false_eq_true, if_false]
    rw [ih (fun z hz => h1 z (List.mem_cons_of_mem _ hz))]

theorem usable_held {n : Nat} {h : Shot} (hu : s.usable n = some h) : s.held n = some h ∧ h.deleting = false := by
  simpa [State.usable, Option.filter_eq_some_iff] using hu

/-- A HELD shot's record changed. -/
theorem modHeld_eq {n : Nat} {h : Shot} (hh : s.held n = some h) (f : Shot → Shot) :
    modHeld n f s = { s with ss := { s.ss with table := updateFirst (isHeld n) (fun _ => f h) s.ss.table } } := by
  simp only [modHeld, modEntry]
  rw [updateFirst_found hh]

/-- A HELD shot found after a change that leaves it HELD under its number. -/
theorem held_modHeld {n : Nat} {h : Shot} (hh : s.held n = some h) {f : Shot → Shot} (hf : isHeld n (f h) = true) :
    (modHeld n f s).held n = some (f h) := find_updateFirst hh hf

/-! ## The re-test of the release conditions -/

/-- A re-test changes only the moment at which the conditions came to hold. -/
theorem retest_eq (c : Limit) (s : State) : ∃ rd, retest c s = { s with rtu := { s.rtu with ready := rd } } := by
  unfold retest
  split
  · split <;> exact ⟨_, rfl⟩
  · exact ⟨s.rtu.ready, rfl⟩

/-! ## The freeing test -/

/-- A shot that the test does not free stands. -/
theorem freeTest_stands {n : Nat} {h : Shot} (hh : s.held n = some h) (hf : h.freeable = false ∨ s.recordsInto n = true) :
    freeTest n s = s := by
  unfold freeTest
  rw [hh]
  dsimp only
  rw [if_neg]
  rcases hf with hf | hf <;> simp [hf]

/-- Nothing but the memo input and the notices changes when an ARMED memo of a shot ends. -/
theorem abortArmed_eq (n : Nat) (s : State) : ∃ m c, abortArmed n s = { s with mi := m, cp := c } := by
  unfold abortArmed
  split
  · split <;> exact ⟨_, _, rfl⟩
  · exact ⟨_, _, rfl⟩

theorem abortArmed_of_not_armed (n : Nat) (h : s.mi.phase ≠ .armed) : abortArmed n s = s := by
  unfold abortArmed
  split
  · rw [if_neg (fun c => h c.1)]
  · rfl

/-- The store after a HELD shot is freed: its entry is FREE and its blocks are at the free list's tail (R18). -/
def State.freed (n : Nat) (h : Shot) (s : State) : State :=
  { s with ss := { s.ss with
    free := s.ss.free ++ h.blocks, table := updateFirst (isHeld n) (fun _ => {}) s.ss.table } }

/-- A shot that the test frees: its entry is FREE and its blocks are at the free list's tail (R18). -/
theorem freeTest_frees {n : Nat} {h : Shot} (hh : s.held n = some h) (hf : h.freeable = true) (hr : s.recordsInto n = false) :
    freeTest n s = abortArmed n (s.freed n h) := by
  unfold freeTest
  rw [hh]
  dsimp only
  rw [if_pos (by simp [hf, hr]), giveBlocks_eq]
  rfl

end Sys2Proof.Machine
end

section
/-! SHOT_KEEP, SHOT_RELEASE and the grant of a reservation. -/

namespace Sys2Proof.Machine

set_option Elab.async false

open Sys2Proof

variable {s : State}

/-- A host command that CLOSING takes too, in its answered form. -/
theorem exec_plain {α : Type} {act : α → State → Answer} (tag : Byte) (x : α) (h : s.awake = true) :
    (.next (hostCommand .plain ⟨tag, some x⟩ act s) : Host.Outcome State Fault Refusal)
      = answered tag (act x s).status (act x s).result (act x s).state := by
  rw [hostCommand_plain tag x h (fun e => by cases e) (fun e => by cases e), next_placeReply]

/-! ## SHOT_KEEP and SHOT_RELEASE -/

/-- KEEP alone set or cleared in a HELD shot's record. -/
theorem modHeld_keep {n : Nat} {h : Shot} (hh : s.held n = some h) (b : Bool) :
    modHeld n (fun t => { t with keep := b }) s
      = { s with ss := { s.ss with table := updateFirst (isHeld n) (fun _ => { h with keep := b }) s.ss.table } } :=
  modHeld_eq hh _

/-- Writing the KEEP that stands changes nothing. -/
theorem modHeld_keep_same {n : Nat} {h : Shot} (hh : s.held n = some h) {b : Bool} (hb : h.keep = b) :
    modHeld n (fun t => { t with keep := b }) s = s := by
  have e : { h with keep := b } = h := by rw [← hb]
  rw [modHeld_keep hh, e, updateFirst_same hh]

theorem held_modHeld_keep {n : Nat} {h : Shot} (hh : s.held n = some h) (b : Bool) :
    (modHeld n (fun t => { t with keep := b }) s).held n = some { h with keep := b } :=
  held_modHeld hh (isHeld_iff.2 (held_mem hh).2)

theorem any_owed_iff (h : Shot) : h.duties.all (fun d => !d.owed) = !h.duties.any Duty.owed := by
  rw [← List.not_any_eq_all_not]

/-- SHOT_RELEASE of a shot that stays: KEEP alone changes. -/
theorem shotRelease_stays {n : Nat} {h : Shot} (hh : s.held n = some h)
    (hf : h.duties.any Duty.owed = true ∨ h.pins ≠ [] ∨ s.recordsInto n = true) :
    freeTest n (modHeld n (fun t => { t with keep := false }) s)
      = { s with ss := { s.ss with table := updateFirst (isHeld n) (fun _ => { h with keep := false }) s.ss.table } } := by
  rw [freeTest_stands (held_modHeld_keep hh false), modHeld_keep hh]
  rcases hf with hf | hf | hf
  · left
    simp [Shot.freeable, any_owed_iff, hf]
  · left
    simp [Shot.freeable, hf]
  · exact .inr hf

/-- SHOT_RELEASE of a shot that the freeing test frees. -/
theorem shotRelease_frees {n : Nat} {h : Shot} (hh : s.held n = some h) (hd : h.duties.any Duty.owed = false)
    (hp : h.pins = []) (hr : s.recordsInto n = false) :
    freeTest n (modHeld n (fun t => { t with keep := false }) s)
      = abortArmed n (s.freed n h) := by
  have hf : Shot.freeable { h with keep := false } = true := by simp [Shot.freeable, any_owed_iff, hd, hp]
  have hstill : isHeld n { h with keep := false } = true := isHeld_iff.2 (held_mem hh).2
  have htwice := updateFirst_twice (f := fun _ => { h with keep := false }) (g := fun _ => {}) hh hstill
  rw [freeTest_frees (held_modHeld_keep hh false) hf hr, modHeld_keep hh]
  simp only [State.freed, htwice]
  rfl

/-- Settles O21. -/
theorem shotKeepAndRelease : Obligations.ShotKeepAndRelease := by
  intro tag n s ha
  have hkeep := exec_plain (act := actShotKeep) tag n ha
  have hrel := exec_plain (act := actShotRelease) tag n ha
  refine ⟨fun hu => ?_, fun h hu => ?_⟩
  · constructor
    · refine hkeep.trans ?_
      simp [actShotKeep, hu, deny]
    · refine hrel.trans ?_
      simp [actShotRelease, hu, deny]
  · obtain ⟨hh, -⟩ := usable_held hu
    have keepAct : actShotKeep n s = ok [] (modHeld n (fun t => { t with keep := true }) s) := by simp [actShotKeep, hu]
    have relAct : actShotRelease n s
        = ok [] (if h.keep then freeTest n (modHeld n (fun t => { t with keep := false }) s) else s) := by
      simp [actShotRelease, hu]
    rw [keepAct] at hkeep
    rw [relAct] at hrel
    refine ⟨?_, fun hk => ?_, fun hk => ?_, fun hk hf => ?_, fun hk hd hp hr => ?_⟩
    · rw [modHeld_keep hh] at hkeep
      exact hkeep
    · rw [modHeld_keep_same hh hk] at hkeep
      exact hkeep
    · rw [hk] at hrel
      exact hrel
    · rw [hk, if_pos rfl, shotRelease_stays hh hf] at hrel
      exact hrel
    · rw [hk, if_pos rfl, shotRelease_frees hh hd hp hr] at hrel
      obtain ⟨m, c, e⟩ := abortArmed_eq n (s.freed n h)
      refine ⟨_, hrel, ?_, ?_, fun harm => ?_⟩
      · simp only [ok, e]
        rfl
      · simp only [ok, e]
        simp only [State.freed, Shot.blocks, List.append_assoc]
      · rw [ok, abortArmed_of_not_armed n (s := s.freed n h) harm]
        exact ⟨rfl, rfl⟩

/-! ## RESERVATION_GRANT -/

/-- When the waiting request may be granted (R6). -/
theorem mayReserve_iff {r : ResReq} (h : s.ss.request = some r) : s.mayReserve = true ↔
    (∃ e ∈ s.ss.table, e.state = .free) ∧ (∀ e ∈ s.ss.table, e.state ≠ .reserved)
      ∧ blocksFor (rawBytes r.geom) ≤ s.ss.free.length := by
  simp [State.mayReserve, h, and_assoc]
  simp [State.freeCount]

/-- The granted request's state: only the moment of readiness is left to the re-test. -/
theorem grantReservation_eq (r : ResReq) (s : State) : ∃ rd, grantReservation r s = { s with
    ss := { s.ss with
      request := none, free := s.ss.free.drop (blocksFor (rawBytes r.geom))
      table := updateFirst (fun e => e.state == .free) (fun _ =>
        { state := .reserved, burst := r.burst, frame := r.frame, released := r.released, scheduled := r.scheduled
          geom := r.geom, raw := s.ss.free.take (blocksFor (rawBytes r.geom)) }) s.ss.table }
    rtu := { s.rtu with ready := rd }, cp := s.tellsLow (blocksFor (rawBytes r.geom)) } := by
  unfold grantReservation
  rw [takeBlocks_eq]
  exact retest_eq _ _

/-- Settles O23. -/
theorem reservationGrant : Obligations.ReservationGrant := by
  intro s
  refine ⟨fun h => ?_, fun r h => ⟨fun hno => ?_, fun hfree hres hroom => ?_⟩⟩
  · simp [exec, execReservationGrant, h]
  · have hm : ¬ s.mayReserve = true := by
      rw [mayReserve_iff h]
      rintro ⟨⟨e, he, hs⟩, hr, hn⟩
      rcases hno with hno | ⟨e', he', hs'⟩ | hno
      · exact hno e he hs
      · exact hr e' he' hs'
      · exact absurd hn (Nat.not_le.2 hno)
    simp only [exec, execReservationGrant, h, if_neg hm]
  · have hm : s.mayReserve = true := (mayReserve_iff h).2 ⟨hfree, hres, hroom⟩
    obtain ⟨rd, e⟩ := grantReservation_eq r s
    refine ⟨grantReservation r s, by simp only [exec, execReservationGrant, h, if_pos hm], ?_⟩
    rw [e]

end Sys2Proof.Machine
end

section
/-! What is told, and what the operations of the release and timing unit do to a state: voids, returns, a burst's end, the
entry into WAITING, a burst's start and the owner's end. -/

namespace Sys2Proof.Machine

set_option Elab.async false

open Sys2Proof

variable {s t : State}

/-! ## What is told -/

theorem State.Tells.of_cp {k : NoticeKind} {sub : Subject} {v : List Wire} (h : s.Tells k sub v) (e : t.cp = s.cp) :
    t.Tells k sub v := by
  unfold State.Tells
  rw [e]
  exact h

/-- A notice raised waits with its values, or was lost (R201). -/
theorem raise_tells (k : NoticeKind) (sub : Subject) (v : List Wire) (s : State) : (raise k sub v s).Tells k sub v := by
  unfold State.Tells
  rw [raise_cp]
  unfold raiseIn
  split
  · rename_i h
    obtain ⟨n, hn, hk⟩ := List.any_eq_true.1 h
    refine .inl ⟨bumpNotice s.time v n, List.mem_map.2 ⟨n, hn, if_pos hk⟩, ?_, rfl⟩
    exact (sameNotice_iff k sub n).1 hk
  · split
    · exact .inl ⟨⟨k, sub, v, 1, s.time⟩, List.mem_append_right _ (List.mem_singleton_self _), rfl, rfl⟩
    · exact .inr rfl

/-- What is told stays told when another notice is raised, or the same one with the same values. -/
theorem State.Tells.raise {k k' : NoticeKind} {sub sub' : Subject} {v v' : List Wire} (h : s.Tells k sub v)
    (hv : (k', sub') = (k, sub) → v' = v) : (Machine.raise k' sub' v' s).Tells k sub v := by
  rcases h with ⟨n, hn, hkey, hval⟩ | hl
  · unfold State.Tells
    rw [raise_cp]
    unfold raiseIn
    split
    · by_cases hs : sameNotice k' sub' n = true
      · have hkk : (k', sub') = (k, sub) := ((sameNotice_iff k' sub' n).1 hs).symm.trans hkey
        exact .inl ⟨bumpNotice s.time v' n, List.mem_map.2 ⟨n, hn, if_pos hs⟩, hkey, hv hkk⟩
      · exact .inl ⟨n, List.mem_map.2 ⟨n, hn, if_neg hs⟩, hkey, hval⟩
    · split
      · exact .inl ⟨n, List.mem_append_left _ hn, hkey, hval⟩
      · exact .inr rfl
  · exact .inr (raiseIn_lost _ _ _ _ _ hl)

/-! ## Entries cleared -/

/-- The blocks of the first entry that meets a test. -/
def State.rawOf (s : State) (p : Shot → Bool) : List Nat := ((s.ss.table.find? p).map (·.raw)).getD []

/-- The first entry that meets a test FREE and its blocks at the free list's tail, if there is one. -/
theorem clearEntry_eq (p : Shot → Bool) (s : State) : clearEntry p s = { s with ss := { s.ss with
    free := s.ss.free ++ s.rawOf p, table := updateFirst p (fun _ => {}) s.ss.table } } := by
  unfold clearEntry State.rawOf
  cases h : s.ss.table.find? p with
  | none => simp [updateFirst_none h]
  | some e => simp [giveBlocks_eq, modEntry]

theorem voidShot_none {p : Shot → Bool} (h : s.ss.table.find? p = none) (r : VoidReason) : voidShot p r s = s := by
  simp [voidShot, h]

theorem voidShot_some {p : Shot → Bool} {e : Shot} (h : s.ss.table.find? p = some e) (r : VoidReason) :
    voidShot p r s = raise .shotVoid (.num e.number) [.word r.name] (clearEntry p s) := by
  simp [voidShot, h]

/-- A void changes the entry, the free list and the notices alone. -/
theorem voidShot_eq (p : Shot → Bool) (r : VoidReason) (s : State) : ∃ c, voidShot p r s = { clearEntry p s with cp := c } := by
  cases h : s.ss.table.find? p with
  | none => exact ⟨s.cp, by rw [voidShot_none h, clearEntry, h]⟩
  | some e => exact ⟨_, voidShot_some h r⟩

/-- The entry that meets one test is found after another entry was cleared, if no entry meets both tests. -/
theorem find_clear_other {p q : Shot → Bool} (l : List Shot) (hpq : ∀ x, p x = true → q x = false) (hq : q {} = false) :
    (updateFirst p (fun _ => ({} : Shot)) l).find? q = l.find? q := by
  cases h : l.find? p with
  | none => rw [updateFirst_none h]
  | some x =>
    obtain ⟨l1, l2, rfl, -, hx, h2⟩ := updateFirst_some h
    rw [h2]
    simp [List.find?_append, hq, hpq x hx]

theorem landing_not_triggered (x : Shot) (h : isTriggered x = true) : isLanding x = false := by
  simp only [isTriggered, Bool.and_eq_true, beq_iff_eq] at h
  simp [isLanding, h.1]

theorem claimed_not_triggered (x : Shot) (h : isTriggered x = true) : isClaimed x = false := by
  simp only [isTriggered, Bool.and_eq_true, bne_iff_ne] at h
  simp [isClaimed, h.2]

theorem claimed_not_landing (x : Shot) (h : isLanding x = true) : isClaimed x = false := by
  simp only [isLanding, beq_iff_eq] at h
  simp [isClaimed, h]

theorem landing_clear_triggered (l : List Shot) :
    (updateFirst isTriggered (fun _ => ({} : Shot)) l).find? isLanding = l.find? isLanding :=
  find_clear_other l landing_not_triggered rfl

theorem claimed_clear_triggered (l : List Shot) :
    (updateFirst isTriggered (fun _ => ({} : Shot)) l).find? isClaimed = l.find? isClaimed :=
  find_clear_other l claimed_not_triggered rfl

theorem claimed_clear_landing (l : List Shot) :
    (updateFirst isLanding (fun _ => ({} : Shot)) l).find? isClaimed = l.find? isClaimed :=
  find_clear_other l claimed_not_landing rfl

/-! ## The end of a burst -/

/-- The unit and the store as a burst ends: the reservation returned, the request withdrawn, the unit IDLE (R64, R67). -/
def State.burstOver (s : State) : State :=
  { s with
    ss := { s.ss with
      request := none, free := s.ss.free ++ s.rawOf isClaimed, table := updateFirst isClaimed (fun _ => {}) s.ss.table }
    rtu := { s.rtu with phase := .idle, readoutAt := none, waitAt := none, waitExpired := false, ready := none } }

/-- A burst's end changes the unit, the store and the notices, in which BURST_END tells its counts and reason. -/
theorem finishBurst_eq (r : EndReason) (s : State) : ∃ c, finishBurst r s = { s.burstOver with cp := c }
    ∧ (∀ b, s.rtu.burst = some b → (finishBurst r s).TellsEnd b r.name)
    ∧ ∀ k sub v, k ≠ .burstEnd → s.Tells k sub v → (finishBurst r s).Tells k sub v := by
  have hover : ({ withdrawRequest (returnReservation s) with rtu := { (withdrawRequest (returnReservation s)).rtu with
      phase := .idle, readoutAt := none, waitAt := none, waitExpired := false, ready := none } } : State) = s.burstOver := by
    unfold returnReservation
    rw [clearEntry_eq]
    rfl
  unfold finishBurst
  dsimp only
  rw [hover]
  have hb : (withdrawRequest (returnReservation s)).rtu.burst = s.rtu.burst := congrArg (·.rtu.burst) hover
  rw [hb]
  cases h : s.rtu.burst with
  | none => exact ⟨s.cp, rfl, fun b e => (by cases e), fun k sub v _ ht => ht.of_cp rfl⟩
  | some b =>
    refine ⟨_, rfl, fun b' e => ?_, fun k sub v hk ht => ?_⟩
    · cases e
      exact raise_tells _ _ _ _
    · exact (ht.of_cp rfl).raise (fun e => absurd (congrArg Prod.fst e).symm hk)

/-- Shots in flight voided, the request withdrawn, the reservation returned, and the burst over (R65, R66). -/
theorem cutBurst_cuts (r : EndReason) (v : VoidReason) (h : s.rtu.phase ≠ .idle) :
    cutBurst r v s = { s with rtu := (cutBurst r v s).rtu, ss := (cutBurst r v s).ss, cp := (cutBurst r v s).cp }
    ∧ s.CutShort v.name r.name (cutBurst r v s) := by
  obtain ⟨c1, e1⟩ := voidShot_eq isTriggered v s
  obtain ⟨c2, e2⟩ := voidShot_eq isLanding v (voidShot isTriggered v s)
  have hvoid : ∀ e, s.ss.table.find? isTriggered = some e ∨ s.ss.table.find? isLanding = some e →
      (voidShot isLanding v (voidShot isTriggered v s)).Tells .shotVoid (.num e.number) [.word v.name] := by
    have hl : (voidShot isTriggered v s).ss.table.find? isLanding = s.ss.table.find? isLanding := by
      rw [e1, clearEntry_eq]
      exact landing_clear_triggered _
    rintro e (he | he)
    · have ht : (voidShot isTriggered v s).Tells .shotVoid (.num e.number) [.word v.name] := by
        rw [voidShot_some he]
        exact raise_tells _ _ _ _
      cases hx : s.ss.table.find? isLanding with
      | none => rwa [voidShot_none (hl.trans hx)]
      | some x =>
        rw [voidShot_some (hl.trans hx)]
        refine State.Tells.raise (ht.of_cp ?_) (fun _ => rfl)
        rw [clearEntry_eq]
    · rw [voidShot_some (hl.trans he)]
      exact raise_tells _ _ _ _
  have hcut : cutBurst r v s = finishBurst r (modBurst (fun b => { b with voided := b.voided + s.inFlight })
      (voidShot isLanding v (voidShot isTriggered v s))) := by
    unfold cutBurst
    rw [if_neg h]
  obtain ⟨c, e, hend, hkeep⟩ := finishBurst_eq r (modBurst (fun b => { b with voided := b.voided + s.inFlight })
      (voidShot isLanding v (voidShot isTriggered v s)))
  have hvoid' := fun x hx => hkeep _ _ _ (by simp) ((hvoid x hx).of_cp (t := modBurst (fun b => { b with
      voided := b.voided + s.inFlight }) (voidShot isLanding v (voidShot isTriggered v s))) rfl)
  rw [← hcut] at e hend hvoid'
  have hstate : voidShot isLanding v (voidShot isTriggered v s) = { s with
      ss := { s.ss with
        free := s.ss.free ++ s.rawOf isTriggered ++ s.rawOf isLanding
        table := updateFirst isLanding (fun _ => {}) (updateFirst isTriggered (fun _ => {}) s.ss.table) }
      cp := c2 } := by
    rw [e2, e1, clearEntry_eq, clearEntry_eq]
    simp only [State.rawOf, landing_clear_triggered]
  have hclaim : (updateFirst isLanding (fun _ => ({} : Shot)) (updateFirst isTriggered (fun _ => {}) s.ss.table)).find? isClaimed
      = s.ss.table.find? isClaimed := by rw [claimed_clear_landing, claimed_clear_triggered]
  rw [hstate] at e hend
  have hss : (cutBurst r v s).ss = { s.ss with
      request := none, free := s.ss.free ++ s.rawOf isTriggered ++ s.rawOf isLanding ++ s.rawOf isClaimed
      table := updateFirst isClaimed (fun _ => {}) (updateFirst isLanding (fun _ => {})
        (updateFirst isTriggered (fun _ => {}) s.ss.table)) } := by
    rw [e]
    simp only [State.burstOver, modBurst, State.rawOf, hclaim]
  have hburst : (cutBurst r v s).rtu.burst = s.rtu.burst.map (fun b => { b with voided := b.voided + s.inFlight }) := by
    rw [e]
    rfl
  refine ⟨?_, ?_, hss, hvoid', hburst, fun b hb => hend b (hburst.symm.trans hb)⟩
  · rw [e]
    rfl
  · rw [e]
    rfl

/-! ## Waiting -/

/-- The unit as it enters WAITING: readiness and focus wait start now; only the moment of readiness is left open (R60, R71). -/
theorem enterWaiting_eq (s : State) : enterWaiting s = { s with rtu := { s.rtu with
    phase := .waiting, readyFrom := s.time, waitExpired := false, readoutAt := none
    waitAt := if s.cfg.burst.focusWaitMs = 0 then none else some (s.time + s.cfg.burst.focusWaitMs * 1000)
    ready := if (s.ss.table.any isClaimed && s.linkReady && (s.focusReady || false)) = true then some (s.time, .none) else none } } := by
  unfold enterWaiting
  set u : State := { s with rtu := { s.rtu with
    phase := .waiting, readyFrom := s.time, waitExpired := false, readoutAt := none, ready := none
    waitAt := if s.cfg.burst.focusWaitMs = 0 then none else some (s.time + s.cfg.burst.focusWaitMs * 1000) } }
  change (if (s.ss.table.any isClaimed && s.linkReady && (s.focusReady || false)) = true
    then ({ u with rtu := { u.rtu with ready := some (s.time, .none) } } : State) else u) = _
  split
  · rfl
  · rfl

/-! ## The owner's end -/

/-- An owner's end of a burst that runs (R55, R64). -/
theorem takeOwnerEnd_ends (h : s.rtu.phase ≠ .idle) : s.EndsByOwner (takeOwnerEnd s) := by
  unfold takeOwnerEnd
  cases hp : s.rtu.phase with
  | idle => exact absurd hp h
  | waiting =>
    obtain ⟨c, e, hend, -⟩ := finishBurst_eq .ownerEnd s
    refine ⟨fun _ => ?_, fun _ => ?_, fun h2 => ?_, fun h2 => ?_⟩
    · simp only [e]
      exact ⟨rfl, rfl⟩
    · refine ⟨?_, ?_, fun b hb => hend b hb⟩ <;> simp only [e] <;> rfl
    · rcases h2 with h2 | h2 <;> cases hp.symm.trans h2
    · cases hp.symm.trans h2
  | exposing | reading =>
    unfold returnReservation
    rw [clearEntry_eq]
    refine ⟨fun _ => ⟨rfl, rfl⟩, fun h2 => ?_, fun _ => ⟨rfl, rfl, rfl⟩, fun h2 => ?_⟩
    · cases hp.symm.trans h2
    · cases hp.symm.trans h2
  | stopping =>
    refine ⟨fun h2 => absurd hp h2, fun h2 => ?_, fun h2 => ?_, fun _ => rfl⟩
    · cases hp.symm.trans h2
    · rcases h2 with h2 | h2 <;> cases hp.symm.trans h2

/-! ## Grids -/

/-- The first instant of a grid at or after a moment (R57, R69). -/
theorem firstInstant_bounds (anchor x : Int) {p : Nat} (hp : 0 < p) :
    x ≤ firstInstant anchor p x ∧ firstInstant anchor p x < x + p
      ∧ firstInstant anchor p x = anchor + ceilDivInt (x - anchor) p * p := by
  have h := ceilDivInt_bounds (x - anchor) hp
  unfold firstInstant
  refine ⟨by omega, by omega, rfl⟩

/-! ## A burst's start -/

/-- The burst group's pending values applied: the settings, and their effect on the sync state (R70, R73). -/
theorem applyBurst_eq (s : State) : ∃ u, s.rtu.TakesSync s.cfg.burst (applyBurst s).cfg.burst s.time u
    ∧ applyBurst s = { s with
        cfg := (s.waiting.filter (fun w => w.1.group == .burst)).foldl (fun c w => c.apply w.1 w.2) s.cfg
        waiting := s.waiting.filter (fun w => w.1.group != .burst), rtu := u } :=
  ⟨_, syncApplied_takes _ _ _ _, rfl⟩

/-- The unit with a new burst's record, before it waits or ends (R54). -/
def State.started (owner : Owner) (count : Option Nat) (s : State) : State :=
  { s with rtu := { s.rtu with burst := some (newBurst owner count s), nextBurst := nextNumber s.rtu.nextBurst } }

/-- A grid that starts with frame 0 gives frame 0 its start. -/
theorem scheduled_zero {b : BurstRec} (h : b.kg = 0) : b.scheduled 0 = b.tg := by
  simp [BurstRec.scheduled, h]

theorem newBurst_kg (owner : Owner) (count : Option Nat) (s : State) : (newBurst owner count s).kg = 0 := rfl

/-- A start: the burst is over at once where the link is DOWN or FAILED, and WAITING for frame 0 otherwise (R54, R57, R66). -/
theorem startBurst_begins (owner : Owner) (count : Option Nat) (s : State) :
    s.BurstBegins owner count (startBurst owner count s) := by
  obtain ⟨u, hu, e⟩ := applyBurst_eq s
  have hnum : u.nextBurst = s.rtu.nextBurst := by rw [hu.1]
  unfold startBurst
  dsimp only
  generalize applyBurst s = s1 at hu e ⊢
  have htg0 : ∀ c, u.standing = none → (newBurst owner c s1).tg = s.time + s1.cfg.burst.latency := by
    intro c h
    simp [newBurst, e, h]
  have htg : ∀ c g, u.standing = some g → 0 < g.period → s.time + s1.cfg.burst.latency ≤ (newBurst owner c s1).tg
      ∧ (newBurst owner c s1).tg < s.time + s1.cfg.burst.latency + g.period
      ∧ ∃ j : Int, (newBurst owner c s1).tg = g.anchor + j * g.period := by
    intro c g h hg
    have hb := firstInstant_bounds g.anchor (s.time + s1.cfg.burst.latency) hg
    have hn : (newBurst owner c s1).tg = firstInstant g.anchor g.period (s.time + s1.cfg.burst.latency) := by
      simp [newBurst, e, h]
    rw [hn]
    exact ⟨hb.1, hb.2.1, _, hb.2.2⟩
  subst e
  by_cases hl : s.sp.link = .down ∨ s.sp.link = .failed
  · rw [if_pos hl]
    obtain ⟨c, e, hend, -⟩ := finishBurst_eq .link (State.started owner count _)
    rw [State.started] at e hend
    have hend' := hend _ rfl
    rw [e] at hend' ⊢
    refine ⟨_, u, hu, rfl, rfl, hnum, rfl, rfl, rfl, rfl, rfl, rfl, rfl, rfl, rfl, rfl, rfl, rfl, rfl, htg0 count, htg count,
      fun _ => ⟨?_, rfl, hend', rfl⟩, fun h => ?_⟩
    · rw [← hnum]
      rfl
    · rcases hl with hl | hl <;> rcases h with h | h <;> cases hl.symm.trans h
  · rw [if_neg hl, enterWaiting_eq]
    refine ⟨_, u, hu, rfl, rfl, hnum, rfl, rfl, rfl, rfl, rfl, rfl, rfl, rfl, rfl, rfl, rfl, rfl, rfl, htg0 count, htg count,
      fun h => absurd h hl, fun _ => ⟨?_, ?_, rfl⟩⟩
    · rw [← hnum]
      rfl
    · simp only [requestFrame, scheduled_zero (newBurst_kg ..)]
      rfl

end Sys2Proof.Machine
end

section
/-! RELEASE, RELEASE_END and BURST_ABORT; the focus wait and the readout timeout. -/

namespace Sys2Proof.Machine

set_option Elab.async false

open Sys2Proof

variable {s : State}

/-- A host command that starts work, in its answered form. -/
theorem exec_active {α : Type} {act : α → State → Answer} (tag : Byte) (x : α) (h : s.taking = true) :
    (.next (hostCommand .active ⟨tag, some x⟩ act s) : Host.Outcome State Fault Refusal)
      = answered tag (act x s).status (act x s).result (act x s).state := by
  rw [hostCommand_taking tag x h, next_placeReply]

/-! ## RELEASE -/

/-- The counts that RELEASE takes (R52). -/
theorem releaseCount_of_carried {x : OrNamed Nat} {count : Option Nat}
    (h : (x = .named ∧ count = none) ∨ ∃ n, x = .value n ∧ 1 ≤ n ∧ n ≤ 999 ∧ count = some n) : releaseCount x = some count := by
  rcases h with ⟨rfl, rfl⟩ | ⟨n, rfl, h1, h2, rfl⟩
  · rfl
  · simp [releaseCount, h1, Config.maxFrames, h2]

theorem releaseCount_refused {n : Nat} (h : n = 0 ∨ 999 < n) : releaseCount (.value n) = none := by
  have hn : ¬ (1 ≤ n ∧ n ≤ Config.maxFrames) := by unfold Config.maxFrames; omega
  exact if_neg hn

theorem takeRelease_ignored (owner : Owner) (count : Option Nat) (h : s.rtu.phase ≠ .idle) : takeRelease owner count s
    = { s with rtu := { s.rtu with burst := s.rtu.burst.map (fun b => { b with ignored := min (b.ignored + 1) 4294967295 }) } } := by
  unfold takeRelease
  rw [if_neg h]
  rfl

/-! ## BURST_ABORT -/

/-- A SHOT readout still arriving is dropped; nothing else changes (R65). -/
theorem dropShotReadout_eq (s : State) : dropShotReadout s = { s with sp := (dropShotReadout s).sp }
    ∧ ((∃ r, s.sp.reading = .active r ∧ r.kind = .shot) → (dropShotReadout s).sp = { s.sp with
        reading := .discarded, unexpected := min (s.sp.unexpected + 1) 4294967295 })
    ∧ ((∀ r, s.sp.reading = .active r → r.kind ≠ .shot) → (dropShotReadout s).sp = s.sp) := by
  unfold dropShotReadout
  cases h : s.sp.reading with
  | between => exact ⟨rfl, fun ⟨r, e, _⟩ => (by cases e), fun _ => rfl⟩
  | discarded => exact ⟨rfl, fun ⟨r, e, _⟩ => (by cases e), fun _ => rfl⟩
  | active r =>
    dsimp only
    by_cases hk : r.kind = .shot
    · rw [if_pos hk]
      exact ⟨rfl, fun _ => rfl, fun c => absurd hk (c r rfl)⟩
    · rw [if_neg hk]
      refine ⟨rfl, fun ⟨r', e, hk'⟩ => ?_, fun _ => rfl⟩
      cases e
      exact absurd hk' hk

/-- A burst cut short behind an update of the sensor port. -/
theorem State.CutShort.of_sensor {void reason : String} {p : SensorPort} {t : State}
    (h : ({ s with sp := p } : State).CutShort void reason t) : s.CutShort void reason t := h

/-- Settles O34. -/
theorem releaseCommands : Obligations.ReleaseCommands := by
  intro tag x s
  refine ⟨fun ht => ⟨fun n hn => ?_, fun count hc => ⟨fun hp => ?_, fun hp => ?_⟩⟩, fun ha => ⟨fun ho => ?_, fun ho => ?_,
    fun hp => ?_, fun hp => ?_⟩⟩
  · refine (exec_active tag _ ht).trans ?_
    simp only [actRelease, releaseCount_refused hn]
    rfl
  · refine (exec_active tag _ ht).trans ?_
    simp only [actRelease, releaseCount_of_carried hc, if_neg hp, takeRelease_ignored .host count hp]
    rfl
  · refine ⟨startBurst .host count s, (exec_active tag _ ht).trans ?_, startBurst_begins .host count s⟩
    simp only [actRelease, releaseCount_of_carried hc, if_pos hp]
    rfl
  · refine (exec_plain tag _ ha).trans ?_
    simp only [actReleaseEnd, ho]
    rfl
  · have hp : s.rtu.phase ≠ .idle := by
      intro e
      simp [State.ownedBy, e] at ho
    refine ⟨takeOwnerEnd s, (exec_plain tag _ ha).trans ?_, takeOwnerEnd_ends hp⟩
    simp only [actReleaseEnd, ho]
    rfl
  · refine (exec_plain tag _ ha).trans ?_
    simp only [actBurstAbort, if_pos hp]
    rfl
  · obtain ⟨hd, hshot, hother⟩ := dropShotReadout_eq s
    have hcut := cutBurst_cuts .command .abort (s := { s with sp := (dropShotReadout s).sp }) hp
    rw [← hd] at hcut
    have hsp : (cutBurst .command .abort (dropShotReadout s)).sp = (dropShotReadout s).sp := by rw [hcut.1]
    refine ⟨cutBurst .command .abort (dropShotReadout s), (exec_plain tag _ ha).trans ?_, ?_, ?_, ?_, ?_⟩
    · simp only [actBurstAbort, if_neg hp]
      rfl
    · rw [hsp]
      refine hcut.1.trans ?_
      rw [hd]
    · have := hcut.2
      rw [hd] at this ⊢
      exact this.of_sensor
    · rw [hsp]
      exact hshot
    · rw [hsp]
      exact hother

/-! ## The focus wait -/

theorem due_iff {d : Option Nat} : s.due d = true ↔ ∃ m, d = some m ∧ m ≤ s.time := by
  cases d <;> simp [State.due]

theorem not_due_iff {d : Option Nat} : ¬ s.due d = true ↔ ∀ m, d = some m → s.time < m := by
  cases d <;> simp [State.due]

/-- A reservation is granted just where an entry is RESERVED without a number. -/
theorem any_claimed_iff : s.ss.table.any isClaimed = true ↔ ∃ e ∈ s.ss.table, e.state = .reserved ∧ e.number = 0 := by
  simp [isClaimed]

theorem linkReady_iff : s.linkReady = true ↔ s.sp.link = .aligned ∧ s.sp.retrain = none ∧ s.sp.checkOn = false := by
  simp [State.linkReady, and_assoc]

/-- The conditions of R59 with the focus wait expired. -/
theorem conditions_expired (h : s.rtu.waitExpired = true) : s.conditions = true ↔
    (∃ e ∈ s.ss.table, e.state = .reserved ∧ e.number = 0)
      ∧ s.sp.link = .aligned ∧ s.sp.retrain = none ∧ s.sp.checkOn = false := by
  rw [← any_claimed_iff, ← linkReady_iff]
  simp [State.conditions, h]

/-- A re-test in WAITING: the frame is ready from the moment kept, or from now, where the conditions hold (R59, R71). -/
theorem retest_ready (c : Limit) (hp : s.rtu.phase = .waiting) : (retest c s).rtu.ready
    = if s.conditions then some (s.rtu.ready.getD (s.time, c)) else none := by
  unfold retest
  rw [if_pos hp]
  cases s.conditions <;> cases h : s.rtu.ready <;> simp [h]

/-- The focus wait runs out (R60). -/
theorem focusWait_expires (hp : s.rtu.phase = .waiting) :
    let t := retest .focus { s with rtu := { s.rtu with waitAt := none, waitExpired := true } }
    t = { s with rtu := { s.rtu with waitAt := none, waitExpired := true, ready := t.rtu.ready } }
    ∧ (let others := (∃ e ∈ s.ss.table, e.state = .reserved ∧ e.number = 0)
        ∧ s.sp.link = .aligned ∧ s.sp.retrain = none ∧ s.sp.checkOn = false
      (others → t.rtu.ready = some (s.rtu.ready.getD (s.time, .focus))) ∧ (¬ others → t.rtu.ready = none)) := by
  intro t
  have hc := conditions_expired (s := { s with rtu := { s.rtu with waitAt := none, waitExpired := true } }) rfl
  have hr : t.rtu.ready = _ := retest_ready .focus (s := { s with rtu := { s.rtu with waitAt := none, waitExpired := true } }) hp
  obtain ⟨rd, e⟩ := retest_eq .focus { s with rtu := { s.rtu with waitAt := none, waitExpired := true } }
  refine ⟨?_, fun ho => ?_, fun ho => ?_⟩
  · have hrd : t.rtu.ready = rd := by rw [show t = _ from e]
    rw [hrd]
    exact e
  · rw [hr, if_pos (hc.2 ho)]
  · rw [hr, if_neg (fun c => ho (hc.1 c))]

/-! ## The readout timeout -/

theorem expectsReadout_iff : s.expectsReadout = true ↔ ∃ e, s.ss.table.find? isTriggered = some e := by
  unfold State.expectsReadout
  rw [← Option.isSome_iff_exists, List.find?_isSome, List.any_eq_true]

/-- One more frame voided in the running burst. -/
def State.oneVoided (s : State) : State := modBurst (fun b => { b with voided := b.voided + 1 }) s

/-- A triggered shot is voided, and its frame closes by the unit's state (R20, R63, R64). -/
theorem triggered_voided {e : Shot} (r : VoidReason) (he : s.ss.table.find? isTriggered = some e) :
    let t := closeFrame false (voidShot isTriggered r s)
    t.Tells .shotVoid (.num e.number) [.word r.name]
    ∧ t.sp = s.sp ∧ t.rtu.burst = s.rtu.burst.map (fun b => { b with voided := b.voided + 1 })
    ∧ (s.rtu.phase = .exposing ∨ s.rtu.phase = .reading → t.rtu.phase = .waiting ∧ t.ss.free = s.ss.free ++ e.raw
      ∧ t.ss.table = updateFirst isTriggered (fun _ => {}) s.ss.table)
    ∧ (s.rtu.phase = .stopping → t.rtu.phase = .idle ∧ t.ss.request = none
      ∧ (∀ b, t.rtu.burst = some b → t.TellsEnd b (b.ending.getD .count).name)
      ∧ t.ss.free = s.ss.free ++ e.raw ++ ((s.ss.table.find? isClaimed).map (·.raw)).getD []
      ∧ t.ss.table = updateFirst isClaimed (fun _ => {}) (updateFirst isTriggered (fun _ => {}) s.ss.table)) := by
  have htold : (voidShot isTriggered r s).Tells .shotVoid (.num e.number)
      [.word r.name] := by
    rw [voidShot_some he]
    exact raise_tells _ _ _ _
  obtain ⟨c, hv⟩ := voidShot_eq isTriggered r s
  rw [clearEntry_eq] at hv
  have hraw : State.rawOf s isTriggered = e.raw := by simp [State.rawOf, he]
  rw [hraw] at hv
  generalize voidShot isTriggered r s = v at htold hv
  have hclose : closeFrame false v = (match s.rtu.phase with
      | .exposing | .reading => enterWaiting v.oneVoided
      | .stopping => finishBurst ((v.oneVoided.rtu.burst.bind (·.ending)).getD .count) v.oneVoided
      | _ => v.oneVoided) := by
    have hp : v.rtu.phase = s.rtu.phase := by rw [hv]
    rw [← hp]
    rfl
  have hone : v.oneVoided.Tells .shotVoid (.num e.number) [.word r.name] := htold.of_cp rfl
  have hburst : v.oneVoided.rtu.burst = s.rtu.burst.map (fun b => { b with voided := b.voided + 1 }) := by rw [hv]; rfl
  have hss : v.oneVoided.ss = { s.ss with
      free := s.ss.free ++ e.raw, table := updateFirst isTriggered (fun _ => {}) s.ss.table } := by rw [hv]; rfl
  have hsp : v.oneVoided.sp = s.sp := by rw [hv]; rfl
  intro t
  change (closeFrame false v).Tells _ _ _ ∧ (closeFrame false v).sp = _ ∧ (closeFrame false v).rtu.burst = _ ∧ (_ → (closeFrame false v).rtu.phase = _ ∧
    (closeFrame false v).ss.free = _ ∧ (closeFrame false v).ss.table = _) ∧ (_ → (closeFrame false v).rtu.phase = _ ∧
    (closeFrame false v).ss.request = _ ∧ (∀ b, (closeFrame false v).rtu.burst = some b → (closeFrame false v).TellsEnd b _)
    ∧ (closeFrame false v).ss.free = _ ∧ (closeFrame false v).ss.table = _)
  rw [hclose]
  cases hp : s.rtu.phase with
  | idle | waiting =>
    refine ⟨hone, hsp, hburst, fun h => ?_, fun h => by cases h⟩
    rcases h with h | h <;> cases h
  | exposing | reading =>
    dsimp only
    rw [enterWaiting_eq]
    refine ⟨hone.of_cp rfl, hsp, hburst, fun _ => ⟨rfl, ?_, ?_⟩, fun h => by cases h⟩
    · exact congrArg Store.free hss
    · exact congrArg Store.table hss
  | stopping =>
    dsimp only
    obtain ⟨c', ef, hend, hkeep⟩ := finishBurst_eq ((v.oneVoided.rtu.burst.bind (·.ending)).getD .count) v.oneVoided
    have hover : (finishBurst ((v.oneVoided.rtu.burst.bind (·.ending)).getD .count) v.oneVoided).rtu.burst
        = v.oneVoided.rtu.burst := by rw [ef]; rfl
    refine ⟨hkeep _ _ _ (by simp) hone, by rw [ef]; exact hsp, hover.trans hburst, fun h => ?_, fun _ => ⟨by rw [ef]; rfl, by rw [ef]; rfl, fun b hb => ?_,
      ?_, ?_⟩⟩
    · rcases h with h | h <;> cases h
    · have hb' := hover.symm.trans hb
      have hreason : (v.oneVoided.rtu.burst.bind (·.ending)).getD .count = b.ending.getD .count := by rw [hb', Option.bind_some]
      have htells := hend b hb'
      rw [hreason] at htells ⊢
      exact htells
    · rw [ef]
      simp only [State.burstOver, State.rawOf, hss, claimed_clear_triggered]
    · rw [ef]
      simp only [State.burstOver, hss]

/-- Settles O37. -/
theorem waitAndReadoutTimeouts : Obligations.WaitAndReadoutTimeouts := by
  intro s
  refine ⟨fun h => ?_, fun hp hw => ?_, fun h => ?_, fun e m he hm hle => ?_⟩
  · have hno : ¬ (s.rtu.phase = .waiting ∧ s.due s.rtu.waitAt) := by
      rintro ⟨hp, hd⟩
      exact h.elim (fun c => c hp) (fun c => not_due_iff.2 c hd)
    simp only [exec, execFocusWaitExpiry, if_neg hno]
  · refine ⟨_, ?_, focusWait_expires hp⟩
    simp only [exec, execFocusWaitExpiry, if_pos (And.intro hp (due_iff.2 hw))]
  · have hno : ¬ (s.expectsReadout ∧ s.due s.rtu.readoutAt) := by
      rintro ⟨hx, hd⟩
      rcases h with h | h
      · obtain ⟨e, he⟩ := expectsReadout_iff.1 hx
        cases h.symm.trans he
      · exact not_due_iff.2 h hd
    simp only [exec, execReadoutTimeout, if_neg hno]
  · have hyes : s.expectsReadout ∧ s.due s.rtu.readoutAt := ⟨expectsReadout_iff.2 ⟨e, he⟩, due_iff.2 ⟨m, hm, hle⟩⟩
    refine ⟨closeFrame false (voidShot isTriggered .timeout { s with rtu := { s.rtu with readoutAt := none } }), ?_, ?_⟩
    · simp only [exec, execReadoutTimeout, if_pos hyes]
    · obtain ⟨hvoid, -, hburst, hwait, hstop⟩ := triggered_voided (s := { s with rtu := { s.rtu with readoutAt := none } }) .timeout he
      refine ⟨hvoid, hburst, hwait, fun hp => ?_⟩
      obtain ⟨hidle, hreq, hend, hfree, htable⟩ := hstop hp
      refine ⟨hidle, hreq, fun b hb => ?_, hfree, htable⟩
      have := hend b hb
      cases h : b.ending <;> rw [h] at this <;> exact this

end Sys2Proof.Machine
end

section
/-! A frame fires: the number it takes, the record it leaves, and the distinctness of the numbers in use (R3, R59 to R62). -/

namespace Sys2Proof.Machine

set_option Elab.async false

open Sys2Proof

variable {s : State}

/-! ## The next number that no shot in use has -/

/-- The search gives the number some steps on from where it starts, and stops where a number is not in use. -/
theorem passUsed_iterate (s : State) : ∀ k n, ∃ i ≤ k, passUsed s k n = nextNumber^[i] n
    ∧ (s.numberUsed (passUsed s k n) = true → ∀ j < k, s.numberUsed (nextNumber^[j] n) = true)
  | 0, n => ⟨0, Nat.le_refl 0, rfl, fun _ j hj => absurd hj (Nat.not_lt_zero j)⟩
  | k + 1, n => by
    unfold passUsed
    split
    · rename_i hu
      obtain ⟨i, hi, e, hall⟩ := passUsed_iterate s k (nextNumber n)
      refine ⟨i + 1, Nat.succ_le_succ hi, by rw [e, Function.iterate_succ_apply], fun h j hj => ?_⟩
      cases j with
      | zero => exact hu
      | succ j =>
        rw [Function.iterate_succ_apply]
        exact hall h j (by omega)
    · rename_i hu
      exact ⟨0, Nat.zero_le _, rfl, fun h => absurd h hu⟩

/-- The numbers that a search of the whole table passes, in closed form: the count wraps to 1 behind its end. -/
theorem iterate_nextNumber (n : Nat) : ∀ i ≤ 257, nextNumber^[i] n
    = if Config.maxNumber < n then n + i else if n + i ≤ Config.maxNumber then n + i else n + i - Config.maxNumber
  | 0, _ => by
    simp only [Function.iterate_zero, id_eq, Nat.add_zero]
    split
    · rfl
    · rw [if_pos (by omega)]
  | i + 1, hi => by
    rw [Function.iterate_succ_apply', iterate_nextNumber n i (by omega)]
    unfold nextNumber Config.maxNumber
    split_ifs <;> omega

/-- A search of a table of 256 entries passes 257 different numbers. -/
theorem nextNumber_nodup (n : Nat) : ((List.range 257).map (fun i => nextNumber^[i] n)).Nodup := by
  refine List.Nodup.map_on (fun i hi j hj e => ?_) List.nodup_range
  rw [List.mem_range] at hi hj
  rw [iterate_nextNumber n i (by omega), iterate_nextNumber n j (by omega)] at e
  unfold Config.maxNumber at e
  split_ifs at e <;> omega

theorem numberUsed_iff {n : Nat} : s.numberUsed n = true ↔ ∃ e ∈ s.ss.table, e.state ≠ .free ∧ e.number = n := by
  simp [State.numberUsed]

/-- The number that a firing frame takes is held by no entry in use: the table has fewer entries than the search has steps. -/
theorem passUsed_fresh (h : s.ss.table.length ≤ 256) (n : Nat) : s.numberUsed (passUsed s (Config.entries + 1) n) = false := by
  obtain ⟨-, -, -, hall⟩ := passUsed_iterate s (Config.entries + 1) n
  by_contra hc
  rw [Bool.not_eq_false] at hc
  have hsub : (List.range 257).map (fun i => nextNumber^[i] n) ⊆ s.ss.table.map (·.number) := by
    intro x hx
    obtain ⟨i, hi, rfl⟩ := List.mem_map.1 hx
    obtain ⟨e, he, -, hn⟩ := numberUsed_iff.1 (hall hc i (List.mem_range.1 hi))
    exact List.mem_map.2 ⟨e, he, hn⟩
  have hlen := ((nextNumber_nodup n).subperm hsub).length_le
  rw [List.length_map, List.length_map, List.length_range] at hlen
  omega

theorem passUsed_unused {n : Nat} (h : s.numberUsed n = false) (k : Nat) : passUsed s k n = n := by
  cases k with
  | zero => rfl
  | succ k => simp [passUsed, h]

/-- Only the table matters to the search. -/
theorem passUsed_congr {t : State} (h : t.ss.table = s.ss.table) : ∀ k n, passUsed t k n = passUsed s k n
  | 0, _ => rfl
  | k + 1, n => by
    unfold passUsed
    rw [passUsed_congr h k, show t.numberUsed n = s.numberUsed n by unfold State.numberUsed; rw [h]]

/-- The number that a frame firing now takes. -/
def State.nextFree (s : State) : Nat := passUsed s (Config.entries + 1) s.ss.next

theorem nextFree_congr {t : State} (h : t.ss = s.ss) : t.nextFree = s.nextFree := by
  unfold State.nextFree
  rw [passUsed_congr (congrArg Store.table h), h]

theorem nextFree_fresh (h : s.ss.table.length ≤ 256) : s.numberUsed s.nextFree = false := passUsed_fresh h s.ss.next

theorem nextFree_unused (h : s.numberUsed s.ss.next = false) : s.nextFree = s.ss.next := passUsed_unused h _

/-! ## When a frame fires -/

theorem focusReady_iff : s.focusReady = true ↔
    s.cfg.burst.focusPriority = false ∨ s.fe.servoMode ≠ some .single ∨ s.fe.servo = .idle ∨ s.fe.servo = .locked := by
  simp [State.focusReady, or_assoc]

theorem conditions_iff : s.conditions = true ↔ (∃ e ∈ s.ss.table, e.state = .reserved ∧ e.number = 0)
    ∧ (s.sp.link = .aligned ∧ s.sp.retrain = none ∧ s.sp.checkOn = false)
    ∧ (s.focusReady = true ∨ s.rtu.waitExpired = true) := by
  rw [← any_claimed_iff, ← linkReady_iff]
  simp [State.conditions, and_assoc]

theorem mayFire_iff {b : BurstRec} (hb : s.rtu.burst = some b) : s.mayFire = true ↔
    s.rtu.phase = .waiting ∧ s.conditions = true ∧ b.scheduled b.triggered ≤ s.time := by
  simp [State.mayFire, hb, and_assoc]

/-! ## What firing does -/

/-- The sample of the ready delay goes to one of the two sets; nothing else changes. -/
theorem sampleDelay_eq (k : Nat) (s : State) : sampleDelay k s = { s with rtu := { s.rtu with
    first := (sampleDelay k s).rtu.first, nexts := (sampleDelay k s).rtu.nexts } } := by
  unfold sampleDelay
  dsimp only
  split <;> rfl

theorem sampleDelay_sets {m : Nat} {l : Limit} (h : s.rtu.ready = some (m, l)) (k : Nat) :
    (sampleDelay k s).rtu.first = (if k = 0 then s.rtu.first.sample (m - s.rtu.readyFrom) l else s.rtu.first)
    ∧ (sampleDelay k s).rtu.nexts = if k = 0 then s.rtu.nexts else s.rtu.nexts.sample (m - s.rtu.readyFrom) l := by
  unfold sampleDelay
  rw [h]
  by_cases hk : k = 0
  · simp [hk]
  · simp [hk]

/-- The stamped record of a frame that fires (R3, R61). -/
def State.stamp (s : State) (b : BurstRec) (n : Nat) (t : Shot) : Shot :=
  { t with
    number := n, serial := s.ss.serial, exposed := s.time, lateness := s.time - b.scheduled b.triggered
    phase := (s.rtu.lastError.map (·.1)).getD 0, snapshot := s.snapshot }

theorem stampShot_eq (b : BurstRec) (s : State) : stampShot b s = { s with ss := { s.ss with
    next := nextNumber s.nextFree, serial := s.ss.serial + 1
    table := updateFirst isClaimed (s.stamp b s.nextFree) s.ss.table } } := rfl

/-- A late frame is counted, and told where it is the burst's first or the notice waits (R62). -/
theorem noteLate_eq (b : BurstRec) (late : Int) (s : State) : ∃ c, noteLate b late s = { s with
      rtu := { s.rtu with burst := s.rtu.burst.map (fun x => { x with
        late := if (s.cfg.burst.latenessLimit : Int) < late then x.late + 1 else x.late }) }, cp := c }
    ∧ (¬ (s.cfg.burst.latenessLimit : Int) < late ∨ (b.late ≠ 0 ∧ ¬ ∃ x ∈ s.cp.notices, x.key = (.lateFrames, .num b.number)) →
      c = s.cp)
    ∧ ((s.cfg.burst.latenessLimit : Int) < late → b.late = 0 ∨ (∃ x ∈ s.cp.notices, x.key = (.lateFrames, .num b.number)) →
      (noteLate b late s).Tells .lateFrames (.num b.number) [.u16 b.triggered, .i64 late]) := by
  have hq : s.cp.notices.any (sameNotice .lateFrames (.num b.number)) = true
      ↔ ∃ x ∈ s.cp.notices, x.key = (.lateFrames, .num b.number) := by
    simp only [List.any_eq_true, sameNotice_iff]
  unfold noteLate
  by_cases hl : (s.cfg.burst.latenessLimit : Int) < late
  · rw [if_neg (Int.not_le.2 hl)]
    simp only [hl, if_true, not_true, false_or, hq, forall_const]
    by_cases ht : b.late = 0 ∨ ∃ x ∈ s.cp.notices, x.key = (.lateFrames, .num b.number)
    · rw [if_pos ht]
      refine ⟨_, rfl, fun h => absurd ht ?_, fun _ => raise_tells _ _ _ _⟩
      rintro (c | c)
      · exact h.1 c
      · exact h.2 c
    · rw [if_neg ht]
      exact ⟨_, rfl, fun _ => rfl, fun h => absurd h ht⟩
  · rw [if_pos (Int.not_lt.1 hl)]
    refine ⟨s.cp, ?_, fun _ => rfl, fun h => absurd h hl⟩
    have hid : s.rtu.burst.map (fun x : BurstRec => { x with late := x.late }) = s.rtu.burst := by simp
    simp only [if_neg hl, hid]

/-- The store after a frame fired: its number taken, its shot stamped, the next frame asked for unless it was the last. -/
def State.firedStore (s : State) (b : BurstRec) : Store :=
  { s.ss with
    next := nextNumber s.nextFree, serial := s.ss.serial + 1
    table := updateFirst isClaimed (s.stamp b s.nextFree) s.ss.table
    request := if decide (b.triggered + 1 ≥ b.limit) then s.ss.request
      else some ⟨b.number, b.triggered + 1, b.t0, (b.scheduled (b.triggered + 1)).toNat, s.cfg.geometry⟩ }

/-- The release unit after a frame fired, its ready delay in one of the two sets. -/
def State.firedUnit (s : State) (b : BurstRec) : Rtu :=
  let last := decide (b.triggered + 1 ≥ b.limit)
  { s.rtu with
    phase := if last then .stopping else .exposing
    waitExpired := false, waitAt := none, ready := none
    triggerAt := some s.time, readoutAt := some (s.time + s.cfg.burst.readoutMs * 1000)
    syncOutAt := if s.cfg.burst.syncOut then some s.time else s.rtu.syncOutAt
    first := (sampleDelay b.triggered s).rtu.first, nexts := (sampleDelay b.triggered s).rtu.nexts
    burst := some { b with
      triggered := b.triggered + 1, byWait := if !s.focusReady then b.byWait + 1 else b.byWait
      late := if (s.cfg.burst.latenessLimit : Int) < s.time - b.scheduled b.triggered then b.late + 1 else b.late
      ending := if last then some .count else b.ending } }

/-- What firing a frame does: the store and the unit as above, and LATE_FRAMES for a late frame that is told. -/
theorem fireFrame_fires {b : BurstRec} (hb : s.rtu.burst = some b) :
    fireFrame b s = { s with
      ss := s.firedStore b, rtu := s.firedUnit b
      cp := (noteLate b (s.time - b.scheduled b.triggered) (stampShot b (sampleDelay b.triggered s))).cp } := by
  obtain ⟨c, e, -, -⟩ := noteLate_eq b (s.time - b.scheduled b.triggered) (stampShot b (sampleDelay b.triggered s))
  have hs : (sampleDelay b.triggered s).ss = s.ss := by rw [sampleDelay_eq]
  have hn : (sampleDelay b.triggered s).nextFree = s.nextFree := nextFree_congr hs
  have hd := sampleDelay_eq b.triggered s
  unfold fireFrame State.firedStore State.firedUnit
  dsimp only
  rw [e, stampShot_eq, hn, hs]
  generalize sampleDelay b.triggered s = d at hd
  generalize d.rtu.first = f at hd
  generalize d.rtu.nexts = g at hd
  subst hd
  unfold modBurst requestFrame
  by_cases hl : decide (b.triggered + 1 ≥ b.limit) = true
  · simp only [hl, hb, if_true, Option.map_some]
    rfl
  · rw [Bool.not_eq_true] at hl
    simp only [hl, hb, Bool.false_eq_true, if_false, Option.map_some]
    rfl

/-! ## The numbers in use -/

/-- The numbers that the entries in use of a list have, apart from 0. -/
def givenNumbers (l : List Shot) : List Nat := ((l.filter (fun t => t.state != .free)).map (·.number)).filter (· != 0)

theorem numbersDistinct_iff : s.NumbersDistinct ↔ (givenNumbers s.ss.table).Nodup := Iff.rfl

theorem givenNumbers_append (l1 l2 : List Shot) : givenNumbers (l1 ++ l2) = givenNumbers l1 ++ givenNumbers l2 := by
  simp [givenNumbers]

theorem mem_givenNumbers {l : List Shot} {n : Nat} : n ∈ givenNumbers l ↔ n ≠ 0 ∧ ∃ y ∈ l, y.state ≠ .free ∧ y.number = n := by
  simp [givenNumbers, and_comm, and_assoc]

theorem givenNumbers_cons (e : Shot) (l : List Shot) : givenNumbers (e :: l)
    = (if e.state ≠ .free ∧ e.number ≠ 0 then [e.number] else []) ++ givenNumbers l := by
  by_cases h1 : e.state = .free <;> by_cases h2 : e.number = 0 <;> simp [givenNumbers, h1, h2]

/-- A number that nobody holds, given to the claimed entry, keeps the numbers in use distinct (R3). -/
theorem stamped_numbersDistinct {t : State} {f : Shot → Shot} {n : Nat} (h : s.NumbersDistinct) (hn : s.numberUsed n = false)
    (hf : ∀ x, (f x).number = n ∧ (f x).state = x.state) (ht : t.ss.table = updateFirst isClaimed f s.ss.table) :
    t.NumbersDistinct := by
  have hfree : n ∉ givenNumbers s.ss.table := fun hc => by
    obtain ⟨-, y, hy, hs, e⟩ := mem_givenNumbers.1 hc
    exact absurd (numberUsed_iff.2 ⟨y, hy, hs, e⟩) (by simp [hn])
  rw [numbersDistinct_iff] at h ⊢
  rw [ht]
  cases he : s.ss.table.find? isClaimed with
  | none => rwa [updateFirst_none he]
  | some e =>
    obtain ⟨l1, l2, hl, -, hp, h2⟩ := updateFirst_some he
    have hc : e.state = .reserved ∧ e.number = 0 := by simpa [isClaimed] using hp
    rw [hl, givenNumbers_append, givenNumbers_cons, if_neg (fun c => c.2 hc.2), List.nil_append] at h hfree
    rw [h2, givenNumbers_append, givenNumbers_cons]
    split
    · rw [(hf e).1, List.singleton_append]
      exact List.nodup_middle.2 (List.nodup_cons.2 ⟨hfree, h⟩)
    · exact h

/-- A frame that fires keeps the numbers in use distinct, with a table of 256 entries (R3). -/
theorem fireFrame_numbersDistinct {b : BurstRec} (hb : s.rtu.burst = some b) (hl : s.ss.table.length ≤ 256)
    (h : s.NumbersDistinct) : (fireFrame b s).NumbersDistinct := by
  rw [fireFrame_fires hb]
  exact stamped_numbersDistinct (f := s.stamp b s.nextFree) h (nextFree_fresh hl) (fun _ => ⟨rfl, rfl⟩) rfl

theorem exec_frameFire {b : BurstRec} (hb : s.rtu.burst = some b) :
    exec .frameFire s = .next (if s.mayFire then fireFrame b s else s) := by
  show execFrameFire s = _
  unfold execFrameFire
  rw [hb]

theorem exec_frameFire_none (hb : s.rtu.burst = none) : exec .frameFire s = .next s := by
  show execFrameFire s = _
  unfold execFrameFire
  rw [hb]

/-- A frame fires when the conditions of its rule hold, and not before (R60, R61). -/
theorem mayFire_of {b : BurstRec} (hb : s.rtu.burst = some b) : s.mayFire = true ↔ s.rtu.phase = .waiting
    ∧ (∃ e ∈ s.ss.table, e.state = .reserved ∧ e.number = 0)
    ∧ (s.sp.link = .aligned ∧ s.sp.retrain = none ∧ s.sp.checkOn = false)
    ∧ ((s.cfg.burst.focusPriority = false ∨ s.fe.servoMode ≠ some .single ∨ s.fe.servo = .idle ∨ s.fe.servo = .locked)
      ∨ s.rtu.waitExpired = true)
    ∧ b.scheduled b.triggered ≤ s.time := by
  rw [mayFire_iff hb, conditions_iff, focusReady_iff]
  tauto

/-- A frame on its grid never fires before the release time plus the latency (R61). -/
theorem scheduled_after_release {b : BurstRec} {m : Nat} (hk : b.kg ≤ b.triggered) (hg : ((b.t0 + b.latency : Nat) : Int) ≤ b.tg)
    (hm : b.scheduled b.triggered ≤ m) : b.t0 + b.latency ≤ m := by
  have hp : 0 ≤ ((b.triggered : Int) - b.kg) * b.period := Int.mul_nonneg (by omega) (Int.natCast_nonneg _)
  unfold BurstRec.scheduled at hm
  omega

/-- The snapshot of a firing frame in the words of its rule (R93). -/
theorem snapshot_eq (s : State) : s.snapshot =
    { mode := s.fe.servoMode, state := s.fe.servo, area := s.fe.last.area, defocus := s.fe.last.defocus
      counter := s.lp.counter, moving := (s.lp.latest.map (·.moving)).getD false
      confirmed := decide (s.fe.servo = .locked ∨ (s.fe.servo = .following ∧ s.fe.last.outcome = .target
        ∧ s.fe.last.defocus.natAbs ≤ s.cfg.focus.window)) } := by
  have hc : ∀ p q r w : Prop, ∀ [Decidable p] [Decidable q] [Decidable r] [Decidable w],
      (decide p || (decide q && decide r && decide w)) = decide (p ∨ (q ∧ r ∧ w)) := by
    intro p q r w _ _ _ _
    simp [Bool.and_assoc]
  unfold State.snapshot
  rw [← hc]
  rfl

/-- Settles O36: the firing frame as one change of the store, the unit and the notices; the number taken is the first that
the search of the table leaves. -/
theorem frameFiresAndNumbers : Obligations.FrameFiresAndNumbers := by
  unfold Obligations.FrameFiresAndNumbers
  refine ⟨fun s => ⟨fun hno => ?_, fun b hb hw hg hl hf hs hlen => ?_⟩, fun s t hlen hd e => ?_⟩
  · cases hb : s.rtu.burst with
    | none => exact exec_frameFire_none hb
    | some b =>
      rw [exec_frameFire hb, if_neg]
      rw [mayFire_of hb]
      rintro ⟨hw, hg, hl, hf, hs⟩
      rcases hno b hb with h | h | h | ⟨h1, h2⟩ | h
      · exact h hw
      · exact h hg
      · exact h hl
      · rcases hf with hf | hf
        · exact h1 hf
        · exact absurd hf (by simp [h2])
      · exact absurd hs (Int.not_le.2 h)
  · obtain ⟨c, e, hquiet, htell⟩ :=
      noteLate_eq b (s.time - b.scheduled b.triggered) (stampShot b (sampleDelay b.triggered s))
    have hcp : (stampShot b (sampleDelay b.triggered s)).cp = s.cp := by rw [stampShot_eq, sampleDelay_eq]
    have hcfg : (stampShot b (sampleDelay b.triggered s)).cfg = s.cfg := by rw [stampShot_eq, sampleDelay_eq]
    rw [hcp, hcfg] at hquiet
    rw [hcp, hcfg] at htell
    have hfresh := nextFree_fresh hlen
    have hnum : ∀ k, s.numberUsed k = false ↔ ∀ e ∈ s.ss.table, e.state ≠ .free → e.number ≠ k := fun k => by
      rw [← Bool.not_eq_true, numberUsed_iff]
      push Not
      rfl
    have hbyWait : (if !s.focusReady then b.byWait + 1 else b.byWait)
        = if s.cfg.burst.focusPriority = false ∨ s.fe.servoMode ≠ some .single ∨ s.fe.servo = .idle ∨ s.fe.servo = .locked
          then b.byWait else b.byWait + 1 := by
      simp only [← focusReady_iff]
      cases s.focusReady <;> rfl
    refine ⟨fireFrame b s, s.nextFree, ?_, ?_, (hnum _).1 hfresh, fun h => nextFree_unused ((hnum _).2 h), ?_, ?_, ?_, ?_, ?_,
      fun hk h0 => scheduled_after_release hk h0 hs, ?_⟩
    · rw [exec_frameFire hb, if_pos ((mayFire_of hb).2 ⟨hw, hg, hl, hf, hs⟩)]
    · rw [fireFrame_fires hb]
    · rw [fireFrame_fires hb]
      unfold State.firedStore State.stamp nextNumber Config.maxNumber
      rw [snapshot_eq]
      rfl
    · rw [fireFrame_fires hb]
      unfold State.firedUnit
      dsimp only
      rw [hbyWait]
      rfl
    · intro m l hr
      rw [fireFrame_fires hb]
      exact sampleDelay_sets hr b.triggered
    · intro h
      rw [fireFrame_fires hb, e]
      exact hquiet h
    · intro h1 h2
      rw [fireFrame_fires hb]
      exact htell h1 h2
    · rw [fireFrame_fires hb]
      rfl
  · cases hb : s.rtu.burst with
    | none =>
      rw [exec_frameFire_none hb] at e
      cases e
      exact hd
    | some b =>
      rw [exec_frameFire hb] at e
      cases e
      split
      · exact fireFrame_numbersDistinct hb hlen hd
      · exact hd

end Sys2Proof.Machine
end

section
/-! What the store's consumers do, taken apart into the few kinds of change that they make. A frame that each kind of change
keeps is kept by every operation of the card writer and, in the wider form, of the engine, the tether port and the memo input. -/

namespace Sys2Proof.Machine

set_option Elab.async false

open Sys2Proof

variable {w : Bool} {a s : State}

/-- What becomes of a duty in the card writer's hand: it stands, or is a card duty of its kind still. -/
def Duty.Carded (d e : Duty) : Prop := e = d ∨ ∃ k sl sl', d.key = .card k sl ∧ e.key = .card k sl'

/-- What a consumer may change of a HELD shot's record; in the narrow form, what the card writer may. -/
structure Shot.Served (w : Bool) (x y : Shot) : Prop where
  eq : y = { x with
    duties := y.duties, pins := y.pins, keep := y.keep, urgent := y.urgent, deleting := y.deleting
    proof := y.proof, memo := y.memo, caption := y.caption, develop := y.develop } := by rfl
  narrow : w = false → y = { x with duties := y.duties, pins := y.pins, keep := y.keep, proof := y.proof } := by nofun
  duties : w = false → List.Forall₂ Duty.Carded x.duties y.duties := by nofun

theorem Duty.Carded.refl (d : Duty) : Duty.Carded d d := .inl rfl

/-- A change of a shot's pins, KEEP and proof extent. -/
theorem Shot.served_held {w : Bool} {x y : Shot}
    (h : y = { x with pins := y.pins, keep := y.keep, proof := y.proof } := by rfl) : Shot.Served w x y where
  eq := by rw [h]
  narrow _ := by rw [h]
  duties _ := by
    rw [h]
    exact List.forall₂_same.2 (fun d _ => .refl d)

/-- A change of a shot's card duty that leaves it a card duty of its kind. -/
theorem Shot.served_card {w : Bool} {k : FileKind} {sl : Slot} {f : Duty → Duty}
    (hf : ∀ d, d.key = .card k sl → ∃ sl', (f d).key = .card k sl') (x : Shot) : Shot.Served w x (x.setDuty (.card k sl) f) where
  duties _ := by
    refine List.forall₂_map_right_iff.2 (List.forall₂_same.2 (fun d _ => ?_))
    split
    · rename_i hd
      obtain ⟨sl', h⟩ := hf d (eq_of_beq hd)
      exact .inr ⟨k, sl, sl', eq_of_beq hd, h⟩
    · exact .refl d
  narrow _ := rfl

/-- A card duty in a new state is a card duty of its kind. -/
theorem into_onCard {k : FileKind} {sl : Slot} (st : DutyState) (d : Duty) (h : d.key = .card k sl) :
    ∃ sl', (d.into st).key = .card k sl' := ⟨sl, (into_key st d).trans h⟩

/-- The states that a consumer's changes lead to: a notice, blocks given back, a HELD shot's record changed or cleared, the
card writer's and the memo input's own state (the memo in hand left or dropped), and for `w` also the engine's and the tether port's. -/
inductive Serves (w : Bool) (a : State) : State → Prop
  | refl : Serves w a a
  | raise {s : State} {k : NoticeKind} {sub : Subject} {v : List Wire} (h : Serves w a s) : Serves w a (raise k sub v s)
  | give {s : State} {l : List Nat} (h : Serves w a s) : Serves w a (giveBlocks l s)
  | entry {s : State} {n : Nat} {f : Shot → Shot} (h : Serves w a s) (hf : ∀ x, Shot.Served w x (f x)) : Serves w a (modHeld n f s)
  | clear {s : State} {n : Nat} (h : Serves w a s) : Serves w a (modHeld n (fun _ => {}) s)
  | cards {s : State} {c : CardWriter} (h : Serves w a s) : Serves w a { s with cw := c }
  | input {s : State} {m : Memo} (hm : m.phase = .idle ∧ m.current = none ∨ m.phase = s.mi.phase ∧ m.current = s.mi.current)
      (h : Serves w a s) : Serves w a { s with mi := m }
  | engine {s : State} {d : Develop} (hw : w = true) (h : Serves w a s) : Serves w a { s with de := d }
  | port {s : State} {p : Tether} (hw : w = true) (h : Serves w a s) : Serves w a { s with tp := p }

/-! ## The store -/

theorem setDuty_serves {n : Nat} {k : DutyKey} {f : Duty → Duty} (h : Serves true a s) : Serves true a (setDuty n k f s) :=
  h.entry (fun _ => {})

theorem setCard_serves {n : Nat} {k : FileKind} {sl : Slot} {f : Duty → Duty}
    (hf : ∀ d, d.key = .card k sl → ∃ sl', (f d).key = .card k sl') (h : Serves w a s) : Serves w a (setDuty n (.card k sl) f s) :=
  h.entry (Shot.served_card hf)

theorem intoCard_serves {n : Nat} {k : FileKind} {sl : Slot} {st : DutyState} (h : Serves w a s) :
    Serves w a (setDuty n (.card k sl) (Duty.into st) s) := setCard_serves (into_onCard st) h

theorem addPin_serves {n : Nat} {r : Reader} {k : FileKind} (h : Serves w a s) : Serves w a (addPin n r k s) :=
  h.entry (fun x => Shot.served_held (by split <;> rfl))

theorem dropPin_serves {n : Nat} {r : Reader} (h : Serves w a s) : Serves w a (dropPin n r s) :=
  h.entry (fun _ => Shot.served_held)

theorem dropProof_serves {n : Nat} (h : Serves w a s) : Serves w a (dropProof n s) := by
  unfold dropProof
  split
  · exact (h.entry (fun _ => Shot.served_held)).give
  · exact h

theorem proofTest_serves {n : Nat} (h : Serves w a s) : Serves w a (proofTest n s) := by
  unfold proofTest
  split
  · split
    · exact dropProof_serves h
    · exact h
  · exact h

theorem abortArmed_serves {n : Nat} (h : Serves w a s) : Serves w a (abortArmed n s) := by
  unfold abortArmed
  split
  · split
    · exact (h.input (.inl ⟨rfl, rfl⟩)).raise
    · exact h
  · exact h

theorem freeTest_serves {n : Nat} (h : Serves w a s) : Serves w a (freeTest n s) := by
  unfold freeTest
  split
  · split
    · exact abortArmed_serves h.clear.give
    · exact h
  · exact h

theorem shotTests_serves {n : Nat} (h : Serves w a s) : Serves w a (shotTests n s) := freeTest_serves (proofTest_serves h)

/-- What follows once a failed duty is set FAILED (R13). -/
theorem afterFail_serves {n : Nat} {x : Shot} {k : DutyKey} (h : Serves w a s) :
    Serves w a (shotTests n (if x.keepsOnFail k then
      raise .shotKept (.num n) [.word k.kindName, .word k.targetName] (modHeld n (fun t => { t with keep := true }) s) else s)) := by
  refine shotTests_serves ?_
  split
  · exact (h.entry (fun _ => Shot.served_held)).raise
  · exact h

theorem failCard_serves {n : Nat} {k : FileKind} {sl : Slot} (h : Serves w a s) : Serves w a (failDuty n (.card k sl) s) := by
  unfold failDuty
  split
  · exact h
  · exact afterFail_serves (intoCard_serves h)

theorem failDuty_serves {n : Nat} {k : DutyKey} (h : Serves true a s) : Serves true a (failDuty n k s) := by
  unfold failDuty
  split
  · exact h
  · exact afterFail_serves (setDuty_serves h)

/-! ## The card writer -/

theorem modSlot_serves {sl : Slot} {f : CardSlot → CardSlot} (h : Serves w a s) : Serves w a (modSlot sl f s) := by
  cases sl
  · exact h.cards
  · exact h.cards

theorem raiseCard_serves {sl : Slot} {reason : String} {extra : List Wire} (h : Serves w a s) :
    Serves w a (raiseCard sl reason extra s) := h.raise

theorem lowTest_serves {sl : Slot} (h : Serves w a s) : Serves w a (lowTest sl s) := by
  unfold lowTest
  dsimp only
  split
  · exact (modSlot_serves h).raise
  · exact h

theorem holdFull_serves {sl : Slot} (h : Serves w a s) : Serves w a (holdFull sl s) := raiseCard_serves (modSlot_serves h)

theorem starve_serves {sl : Slot} (h : Serves w a s) : Serves w a (starve sl s) := raiseCard_serves (modSlot_serves h)

theorem addRecord_serves {sl : Slot} {r : FileRecord} (h : Serves w a s) : Serves w a (addRecord sl r s) := by
  unfold addRecord
  dsimp only
  split
  · exact holdFull_serves (modSlot_serves h).raise
  · exact (modSlot_serves h).raise

theorem slotRest_serves {sl : Slot} (h : Serves w a s) : Serves w a (slotRest sl s) := by
  unfold slotRest
  dsimp only
  repeat' split
  all_goals first
    | exact h
    | exact modSlot_serves h
    | exact starve_serves h
    | exact holdFull_serves h
    | exact raiseCard_serves (modSlot_serves h)

theorem abandonDuty_serves {sl : Slot} {c : Cause} {f : CardFile} (h : Serves w a s) : Serves w a (abandonDuty sl c f s) := by
  unfold abandonDuty
  dsimp only
  split
  · exact shotTests_serves (dropPin_serves (intoCard_serves h))
  · exact shotTests_serves (dropPin_serves (failCard_serves h))
  · exact shotTests_serves (dropPin_serves (failCard_serves h))
  · exact shotTests_serves (dropPin_serves (intoCard_serves (modSlot_serves h)))

theorem abandon_serves {sl : Slot} {c : Cause} (h : Serves w a s) : Serves w a (abandon sl c s) := by
  unfold abandon
  split
  · exact h
  · refine abandonDuty_serves ?_
    split
    · exact modSlot_serves h
    · exact addRecord_serves (modSlot_serves h)

theorem retarget_serves {j : FileJob} (h : Serves w a s) : Serves w a (retarget j s) :=
  setCard_serves (fun _ _ => ⟨.b, rfl⟩) h

theorem foldl_serves {α : Type} (f : State → α → State) (hf : ∀ t x, Serves w a t → Serves w a (f t x)) :
    ∀ (l : List α) {s : State}, Serves w a s → Serves w a (l.foldl f s)
  | [], _, h => h
  | x :: l, _, h => foldl_serves f hf l (hf _ x h)

theorem moveJob_serves {j : FileJob} (h : Serves w a s) : Serves w a (moveJob s j) := by
  unfold moveJob
  split
  · exact modSlot_serves (modSlot_serves (retarget_serves h))
  · exact h

theorem moveWaiting_serves {j : FileJob} (h : Serves w a s) : Serves w a (moveWaiting s j) := by
  unfold moveWaiting
  split
  · exact retarget_serves h
  · exact h

theorem overflowMove_serves (h : Serves w a s) : Serves w a (overflowMove s) := by
  unfold overflowMove
  dsimp only
  refine slotRest_serves (raiseCard_serves (Serves.cards (modSlot_serves ?_)))
  exact foldl_serves _ (fun _ _ => moveWaiting_serves) _ (foldl_serves _ (fun _ _ => moveJob_serves) _ (abandon_serves h))

theorem overflowTest_serves (h : Serves w a s) : Serves w a (overflowTest s) := by
  unfold overflowTest
  split
  · exact overflowMove_serves h
  · exact h

theorem slotSettle_serves {sl : Slot} (h : Serves w a s) : Serves w a (slotSettle sl s) := overflowTest_serves (slotRest_serves h)

theorem handCard_serves {n : Nat} {k : FileKind} {sl : Slot} (h : Serves w a s) : Serves w a (handCard n k sl s) := by
  unfold handCard
  dsimp only
  split
  · exact h
  · refine slotSettle_serves (modSlot_serves ?_)
    split
    · exact retarget_serves h
    · exact h

theorem startFile_serves {sl : Slot} (h : Serves w a s) : Serves w a (startFile sl s) := by
  unfold startFile
  split
  · exact h
  · split
    · exact modSlot_serves h
    · exact intoCard_serves (modSlot_serves h)

theorem cardRead_serves {sl : Slot} (h : Serves w a s) : Serves w a (cardRead sl s) := by
  unfold cardRead
  split
  · exact h
  · exact addPin_serves (modSlot_serves h)

theorem starveActive_serves {sl : Slot} (h : Serves w a s) : Serves w a (starveActive sl s) := by
  unfold starveActive
  split
  · split
    · exact slotSettle_serves (abandon_serves h)
    · exact h
  · split
    · exact slotSettle_serves (abandon_serves (starve_serves h))
    · exact overflowTest_serves (starve_serves h)

theorem issueFresh_serves {sl : Slot} {f : CardFile} {r : Run} {rest : List Run} (h : Serves w a s) :
    Serves w a (issueFresh sl f r rest s) := by
  unfold issueFresh
  extract_lets n data s1 s2
  have h2 : Serves w a s2 := lowTest_serves (modSlot_serves h)
  clear_value s2
  split
  · exact starveActive_serves h2
  · exact h2

theorem issueAgain_serves {sl : Slot} {f : CardFile} {x : CardWrite} (h : Serves w a s) : Serves w a (issueAgain sl f x s) := by
  unfold issueAgain
  extract_lets data
  exact modSlot_serves h

theorem issueWrite_serves {sl : Slot} (h : Serves w a s) : Serves w a (issueWrite sl s) := by
  unfold issueWrite
  dsimp only
  split
  · exact slotSettle_serves (abandon_serves h)
  · split
    · exact h
    · split
      · split
        · exact issueAgain_serves h
        · exact issueFresh_serves h
        · exact h
      · exact h

theorem completeFile_serves {sl : Slot} {f : CardFile} (h : Serves w a s) : Serves w a (completeFile sl f s) := by
  unfold completeFile
  dsimp only
  have h4 := modSlot_serves (sl := sl) (f := fun x => { x with written := sat32 x.written }) (dropPin_serves (n := f.shot)
    (r := slotReader sl) (intoCard_serves (n := f.shot) (k := f.kind) (sl := sl) (st := .done)
      (addRecord_serves (sl := sl) (r := ⟨f.shot, f.kind, none, Config.sectorBytes + f.payload, f.sectors, f.fragments⟩)
        (modSlot_serves (sl := sl) (f := fun x => { x with file := none }) h))))
  refine slotSettle_serves (shotTests_serves ?_)
  unfold reopenStale
  split
  · exact handCard_serves (intoCard_serves h4)
  · exact h4

theorem writeDone_serves {sl : Slot} {f : CardFile} {x : CardWrite} (h : Serves w a s) : Serves w a (writeDone sl f x s) := by
  unfold writeDone
  dsimp only
  split
  · exact completeFile_serves (modSlot_serves h)
  · exact modSlot_serves h

theorem failAll_serves {sl : Slot} : ∀ (l : List (Nat × DutyKey)) {s : State}, (∀ p ∈ l, ∃ k, p.2 = .card k sl) → Serves w a s →
    Serves w a (l.foldl (fun t p => failDuty p.1 p.2 t) s)
  | [], _, _, h => h
  | (n, key) :: l, _, hl, h => by
    obtain ⟨k, rfl⟩ := hl (n, key) (List.mem_cons_self ..)
    exact failAll_serves l (fun p hp => hl p (List.mem_cons_of_mem _ hp)) (failCard_serves h)

theorem faultSlot_serves {sl : Slot} (h : Serves w a s) : Serves w a (faultSlot sl s) := by
  unfold faultSlot
  dsimp only
  exact raiseCard_serves (failAll_serves _ (fun _ => pendingOn_card) (modSlot_serves (abandon_serves (modSlot_serves h))))

theorem writeFailed_serves {sl : Slot} {f : CardFile} {x : CardWrite} (h : Serves w a s) : Serves w a (writeFailed sl f x s) := by
  unfold writeFailed
  dsimp only
  split
  · exact faultSlot_serves (modSlot_serves h)
  · exact modSlot_serves h

theorem insertCard_serves {sl : Slot} (h : Serves w a s) : Serves w a (insertCard sl s) := by
  unfold insertCard
  dsimp only
  refine slotSettle_serves (raiseCard_serves ?_)
  split
  · exact (modSlot_serves h).cards
  · exact modSlot_serves h

theorem removeCard_serves {sl : Slot} (h : Serves w a s) : Serves w a (removeCard sl s) :=
  raiseCard_serves (modSlot_serves (abandon_serves (modSlot_serves h)))

theorem presentStep_serves {sl : Slot} (h : Serves w a s) : Serves w a (presentStep sl s) := by
  unfold presentStep
  split
  · split
    · exact insertCard_serves h
    · exact h
  · split
    · exact h
    · exact removeCard_serves h

theorem resumeSlot_serves {sl : Slot} (h : Serves w a s) : Serves w a (resumeSlot sl s) := by
  unfold resumeSlot
  dsimp only
  split
  · exact slotSettle_serves h
  · split
    · exact holdFull_serves h
    · exact raiseCard_serves (modSlot_serves h)

theorem closeSlot_serves {sl : Slot} (h : Serves w a s) : Serves w a (closeSlot sl s) := by
  unfold closeSlot
  dsimp only
  split
  · exact slotSettle_serves (abandon_serves h)
  · exact slotSettle_serves h

theorem cardSleep_serves (h : Serves w a s) : Serves w a (cardSleep s) := closeSlot_serves (closeSlot_serves h.cards)

theorem cardWake_serves {held : Bool} (h : Serves w a s) : Serves w a (cardWake held s) :=
  presentStep_serves (presentStep_serves h.cards)

end Sys2Proof.Machine
end

section
/-! The same for the engine, the tether port, the duties and the memo input, and the frames that all these changes keep. -/

namespace Sys2Proof.Machine

set_option Elab.async false

open Sys2Proof

variable {w : Bool} {a s t : State}

/-! ## The tether port -/

theorem joinTether_serves {atHead : Bool} {n : Nat} {k : FileKind} (h : Serves true a s) :
    Serves true a (joinTether atHead n k s) := by
  unfold joinTether
  dsimp only
  split
  · exact h
  · split
    · exact h
    · split
      · exact (setDuty_serves h).port rfl
      · exact h.port rfl

theorem queueDeferred_serves {p : Nat × FileKind} (h : Serves true a s) : Serves true a (queueDeferred s p) :=
  joinTether_serves ((setDuty_serves h).port rfl)

theorem refill_serves (h : Serves true a s) : Serves true a (refill s) := foldl_serves _ (fun _ _ => queueDeferred_serves) _ h

theorem hastenSends_serves {p : FileKind → Bool} {n : Nat} (h : Serves true a s) : Serves true a (hastenSends p n s) := by
  unfold hastenSends
  extract_lets isSend s1
  exact Serves.port rfl (h.entry (fun _ => {}))

theorem startTransfer_serves (h : Serves true a s) : Serves true a (startTransfer s) := by
  unfold startTransfer
  split
  · exact h
  · exact refill_serves (((setDuty_serves h).port rfl).port rfl)

theorem endTransfer_serves {x : Transfer} (h : Serves true a s) : Serves true a (endTransfer x s) :=
  (dropPin_serves h).port rfl

theorem deliver_serves {x : Transfer} (h : Serves true a s) : Serves true a (deliver x s) :=
  shotTests_serves ((endTransfer_serves (setDuty_serves h)).port rfl)

theorem declineTransfer_serves {x : Transfer} (h : Serves true a s) : Serves true a (declineTransfer x s) :=
  shotTests_serves ((endTransfer_serves (setDuty_serves h)).port rfl)

theorem failTransfer_serves {x : Transfer} (h : Serves true a s) : Serves true a (failTransfer x s) :=
  shotTests_serves (failDuty_serves ((endTransfer_serves (h.port rfl)).port rfl).raise)

theorem abortTransfer_serves {x : Transfer} {r : AbortReason} (h : Serves true a s) : Serves true a (abortTransfer x r s) :=
  (endTransfer_serves (h.port rfl)).port rfl

theorem deleteTransfer_serves {n : Nat} (h : Serves true a s) : Serves true a (deleteTransfer n s) := by
  unfold deleteTransfer
  split
  · split
    · exact setDuty_serves (abortTransfer_serves h)
    · exact h
  · exact h

theorem replaceTransfer_serves {n : Nat} (h : Serves true a s) : Serves true a (replaceTransfer n s) := by
  unfold replaceTransfer
  split
  · split
    · exact joinTether_serves (setDuty_serves (abortTransfer_serves h))
    · exact h
  · exact h

theorem suspendTransfer_serves {x : Transfer} (h : Serves true a s) : Serves true a (suspendTransfer x s) :=
  shotTests_serves (endTransfer_serves (setDuty_serves h))

theorem tetherDown_serves {reason : String} (h : Serves true a s) : Serves true a (tetherDown reason s) := (h.port rfl).raise

theorem tetherLost_serves (h : Serves true a s) : Serves true a (tetherLost s) := by
  unfold tetherLost
  split
  · exact h
  · split
    · exact tetherDown_serves (joinTether_serves (suspendTransfer_serves h))
    · exact tetherDown_serves h

theorem linkUpStep_serves (h : Serves true a s) : Serves true a (linkUpStep s) := by
  unfold linkUpStep
  split
  · split
    · exact (h.port rfl).raise
    · exact h
  · exact tetherLost_serves h

theorem acceptTransfer_serves {x : Transfer} {start : Nat} (h : Serves true a s) :
    Serves true a (acceptTransfer x start s) := by
  unfold acceptTransfer
  dsimp only
  split
  · exact deliver_serves (h.port rfl)
  · exact h.port rfl

theorem ackTransfer_serves {x : Transfer} {offset : Nat} (h : Serves true a s) : Serves true a (ackTransfer x offset s) := by
  unfold ackTransfer
  dsimp only
  split
  · exact deliver_serves (h.port rfl)
  · exact h.port rfl

theorem sendSegment_serves {x : Transfer} (h : Serves true a s) : Serves true a (sendSegment x s) :=
  (h.port rfl).port rfl

theorem tetherRead_serves (h : Serves true a s) : Serves true a (tetherRead s) := by
  unfold tetherRead
  split
  · exact h
  · exact addPin_serves (h.port rfl)

theorem ackExpired_serves {x : Transfer} (h : Serves true a s) : Serves true a (ackExpired x s) := by
  unfold ackExpired
  dsimp only
  split
  · exact failTransfer_serves h
  · split
    · exact (h.port rfl).port rfl
    · exact h.port rfl

theorem captionChanged_serves {n : Nat} (h : Serves true a s) : Serves true a (captionChanged n s) := by
  unfold captionChanged
  split
  · split
    · exact h
    · split
      · exact h.port rfl
      · split
        · exact h.port rfl
        · exact h
  · exact h

theorem sendCaption_serves {x : Transfer} (h : Serves true a s) : Serves true a (sendCaption x s) := (h.port rfl).port rfl

theorem refusePeer_serves {r : PeerRequest} {shot : Nat} {why : RefuseReason} (h : Serves true a s) :
    Serves true a (refusePeer r shot why s) := (h.port rfl).port rfl

theorem notAvailable_serves {r : PeerRequest} {shot : Nat} {k : Option FileKind} {why : MissingReason} (h : Serves true a s) :
    Serves true a (notAvailable r shot k why s) := (h.port rfl).port rfl

/-! ## The development engine -/

theorem joinDevelop_serves {n serial : Nat} {urgent : Bool} (h : Serves true a s) : Serves true a (joinDevelop n serial urgent s) := by
  unfold joinDevelop
  split
  · exact h
  · exact h.engine rfl

theorem hastenDevelop_serves {n : Nat} (h : Serves true a s) : Serves true a (hastenDevelop n s) := h.engine rfl

theorem clearJob_serves {j : Job} (h : Serves true a s) : Serves true a (clearJob j s) := by
  unfold clearJob
  extract_lets s1
  refine Serves.engine rfl ?_
  unfold s1
  split
  · exact dropProof_serves (dropPin_serves h)
  · exact h

theorem abortJob_serves {n : Nat} (h : Serves true a s) : Serves true a (abortJob n s) := by
  unfold abortJob
  split
  · split
    · exact (setDuty_serves (clearJob_serves h)).engine rfl
    · exact h
  · exact h

theorem developSleep_serves (h : Serves true a s) : Serves true a (developSleep s) := by
  unfold developSleep
  extract_lets s1
  refine Serves.engine rfl ?_
  unfold s1
  split
  · exact (setDuty_serves (clearJob_serves h)).engine rfl
  · exact h

/-! ## Duties, marks and captions -/

theorem handDuty_serves {n : Nat} {k : DutyKey} (h : Serves true a s) : Serves true a (handDuty n k s) := by
  unfold handDuty
  split
  · exact h
  · split
    · split
      · exact handCard_serves h
      · exact h
    · exact handCard_serves h
    · exact joinTether_serves h
    · exact joinDevelop_serves h

theorem appendDuty_serves {n : Nat} {k : DutyKey} {urgent : Bool} (h : Serves true a s) : Serves true a (appendDuty n k urgent s) :=
  h.entry (fun _ => {})

theorem resetDuty_serves {n : Nat} {k : DutyKey} {urgent : Bool} (h : Serves true a s) : Serves true a (resetDuty n k urgent s) :=
  setDuty_serves h

theorem putDuty_serves {back : DutyState → Bool} {n : Nat} {k : DutyKey} {urgent : Bool} (h : Serves true a s) :
    Serves true a (putDuty back n k urgent s) := by
  unfold putDuty
  split
  · exact handDuty_serves (appendDuty_serves h)
  · split
    · exact handDuty_serves (resetDuty_serves h)
    · exact h
  · exact h

theorem needProof_serves {n : Nat} (h : Serves true a s) : Serves true a (needProof n s) := by
  unfold needProof
  split
  · exact h
  · split
    · split
      · exact handDuty_serves (appendDuty_serves h)
      · exact handDuty_serves (resetDuty_serves h)
      · exact h
    · exact h

theorem markShot_serves {n : Nat} (h : Serves true a s) : Serves true a (markShot n s) := by
  unfold markShot
  extract_lets s1 sends s2 s3
  refine hastenDevelop_serves (hastenSends_serves (needProof_serves ?_))
  have h2 : Serves true a s2 := foldl_serves _ (fun _ _ => putDuty_serves) _ (h.entry (fun _ => {}))
  unfold s3
  split
  · exact putDuty_serves h2
  · exact h2

theorem pullShot_serves {n : Nat} {k : FileKind} (h : Serves true a s) : Serves true a (pullShot n k s) := by
  unfold pullShot
  extract_lets s1
  have h1 : Serves true a s1 := by
    unfold s1
    split
    · exact putDuty_serves h
    · exact putDuty_serves h
    · exact hastenSends_serves h
  split
  · exact needProof_serves h1
  · exact h1

theorem captionCard_serves {n : Nat} {sl : Slot} (h : Serves true a s) : Serves true a (captionCard n sl s) := by
  unfold captionCard
  split
  · exact h
  · split
    · exact h
    · split
      · exact setDuty_serves h
      · exact putDuty_serves h

theorem captionSend_serves {n : Nat} (h : Serves true a s) : Serves true a (captionSend n s) := by
  unfold captionSend
  split
  · exact h
  · split
    · exact putDuty_serves h
    · exact h

theorem setCaption_serves {n : Nat} {c : List Byte} (h : Serves true a s) : Serves true a (setCaption n c s) :=
  captionSend_serves (captionChanged_serves (captionCard_serves (captionCard_serves (h.entry (fun _ => {})))))

/-! ## The memo input -/

theorem memoIdle_serves (h : Serves w a s) : Serves w a (memoIdle s) := h.input (.inl ⟨rfl, rfl⟩)

theorem replaceFile_serves {n : Nat} {sl : Slot} (h : Serves w a s) : Serves w a (replaceFile n sl s) := by
  unfold replaceFile
  split
  · exact abandon_serves h
  · exact h

theorem replaceMemo_serves {n : Nat} (h : Serves true a s) : Serves true a (replaceMemo n s) := by
  unfold replaceMemo
  split
  · exact h
  · exact Serves.give (Serves.entry (replaceTransfer_serves (replaceFile_serves (replaceFile_serves h))) (fun _ => {}))

theorem memoDuties_serves {n : Nat} (h : Serves true a s) : Serves true a (memoDuties n s) := by
  unfold memoDuties
  extract_lets s1
  have h1 : Serves true a s1 := foldl_serves _ (fun _ _ => putDuty_serves) _ h
  clear_value s1
  split
  · split
    · exact putDuty_serves h1
    · exact h1
  · exact h1

theorem attachMemo_serves {m : MemoRec} (h : Serves true a s) : Serves true a (attachMemo m s) :=
  Serves.input (.inr ⟨rfl, rfl⟩) (memoDuties_serves (Serves.entry (replaceMemo_serves h) (fun _ => {})))

theorem endMemo_serves {r : MemoReason} {m : MemoRec} (h : Serves true a s) : Serves true a (endMemo r m s) := by
  unfold endMemo
  extract_lets replaced s1 mi s2 s3
  have h1 : Serves true a s1 := by
    unfold s1
    split
    · exact attachMemo_serves h
    · exact h.give
  refine slotSettle_serves (slotSettle_serves (shotTests_serves (memoIdle_serves (Serves.raise ?_))))
  unfold s2
  split
  · exact h1.input (.inr ⟨rfl, rfl⟩)
  · exact h1

theorem cancelMemo_serves {m : MemoRec} (h : Serves w a s) : Serves w a (cancelMemo m s) := 
  memoIdle_serves (h.input (m := { s.mi with cancelled := sat32 s.mi.cancelled }) (.inr ⟨rfl, rfl⟩)).raise

theorem abortMemo_serves {n : Nat} (h : Serves w a s) : Serves w a (abortMemo n s) := by
  unfold abortMemo
  split
  · split
    · exact h
    · extract_lets s1
      refine memoIdle_serves (Serves.raise (Serves.input (.inr ⟨rfl, rfl⟩) ?_))
      unfold s1
      split
      · exact h.give
      · exact h
  · exact h

theorem memoSleep_serves (h : Serves w a s) : Serves w a (memoSleep s) := by
  unfold memoSleep
  split
  · split
    · exact cancelMemo_serves h
    · exact h
  · exact h

/-! ## Delete and wake -/

theorem deleteFile_serves {n : Nat} {sl : Slot} (h : Serves w a s) : Serves w a (deleteFile n sl s) := by
  unfold deleteFile
  split
  · exact slotSettle_serves (abandon_serves h)
  · exact h

theorem dropEntries_serves {n : Nat} (h : Serves true a s) : Serves true a (dropEntries n s) := by
  have h1 : Serves true a { s with cw := { s.cw with a := s.cw.a.without n, b := s.cw.b.without n } } := h.cards
  exact (h1.port rfl).engine rfl

theorem deleteShot_serves {n : Nat} (h : Serves true a s) : Serves true a (deleteShot n s) := by
  unfold deleteShot
  extract_lets s1 s2 s3
  have h1 : Serves true a s1 := proofTest_serves ((dropEntries_serves h).entry (fun _ => {}))
  have h3 : Serves true a s3 := refill_serves (slotSettle_serves (slotSettle_serves (deleteFile_serves (deleteFile_serves h1))))
  exact shotTests_serves (abortMemo_serves (proofTest_serves (deleteTransfer_serves (abortJob_serves h3))))

theorem handBack_serves (h : Serves true a s) : Serves true a (handBack s) := by
  unfold handBack
  extract_lets shots s1 s2
  have hd : ∀ (sl : Slot) (x : Shot) {u : State}, Serves true a u → Serves true a (handCardDuties sl x u) := fun sl x u hu => by
    refine foldl_serves _ (fun v k hv => ?_) _ hu
    split
    · exact handDuty_serves hv
    · exact hv
  have h1 : Serves true a s1 := foldl_serves _ (fun u x hu => hd .b x (hd .a x hu)) _ h
  have h2 : Serves true a s2 := foldl_serves _ (fun u x hu => by
    split
    · split
      · exact joinDevelop_serves hu
      · exact hu
    · exact hu) _ h1
  exact foldl_serves _ (fun _ _ => joinTether_serves) _ h2

/-! ## Frames -/

theorem modHeld_free (n : Nat) (f : Shot → Shot) (s : State) : (modHeld n f s).ss.free = s.ss.free := rfl

/-- The store's bytes stand. -/
theorem Serves.mem (h : Serves w a s) : s.mem = a.mem := by
  induction h with
  | refl => rfl
  | give _ ih => rw [giveBlocks_eq]; exact ih
  | _ => assumption

/-- The free list only grows, at its tail. -/
theorem Serves.free (h : Serves w a s) : ∃ l, s.ss.free = a.ss.free ++ l := by
  induction h with
  | refl => exact ⟨[], (List.append_nil _).symm⟩
  | give _ ih =>
    obtain ⟨l, e⟩ := ih
    rw [giveBlocks_eq]
    exact ⟨l ++ _, by rw [← List.append_assoc, ← e]⟩
  | _ => assumption

theorem Serves.freeCount (h : Serves w a s) : a.freeCount ≤ s.freeCount := by
  obtain ⟨l, e⟩ := h.free
  unfold State.freeCount
  rw [e, List.length_append]
  omega

/-- The store's other lists and counts stand. -/
theorem Serves.store (h : Serves w a s) : s.ss = { a.ss with free := s.ss.free, table := s.ss.table } := by
  induction h with
  | refl => rfl
  | give _ ih => rw [giveBlocks_eq]; dsimp only; rw [ih]
  | entry _ _ ih => dsimp only [modHeld, modEntry]; rw [ih]
  | clear _ ih => dsimp only [modHeld, modEntry]; rw [ih]
  | _ => assumption

/-- A memo input at rest stays at rest. -/
theorem Serves.atRest (h : Serves w a s) (ha : a.mi.phase = .idle ∧ a.mi.current = none) :
    s.mi.phase = .idle ∧ s.mi.current = none := by
  induction h with
  | refl => exact ha
  | give _ ih => rw [giveBlocks_eq]; exact ih
  | input hm _ ih =>
    rcases hm with hm | ⟨hp, hc⟩
    · exact hm
    · exact ⟨hp.trans ih.1, hc.trans ih.2⟩
  | _ => assumption

/-! ## The entries -/

theorem Duty.Carded.trans {d e g : Duty} (h1 : Duty.Carded d e) (h2 : Duty.Carded e g) : Duty.Carded d g := by
  rcases h1 with rfl | ⟨k, sl, sl', hd, he⟩
  · exact h2
  · rcases h2 with rfl | ⟨k2, sl2, sl3, he2, hg⟩
    · exact .inr ⟨k, sl, sl', hd, he⟩
    · obtain ⟨rfl, rfl⟩ : k = k2 ∧ sl' = sl2 := by
        rw [he] at he2
        cases he2
        exact ⟨rfl, rfl⟩
      exact .inr ⟨k, sl, sl3, hd, hg⟩

/-- What two steps relate entry by entry, they relate together. -/
theorem forall₂_trans {α : Type} {R : α → α → Prop} (hR : ∀ x y z, R x y → R y z → R x z) :
    ∀ {l m n : List α}, List.Forall₂ R l m → List.Forall₂ R m n → List.Forall₂ R l n
  | _, _, _, .nil, .nil => .nil
  | _, _, _, .cons h1 t1, .cons h2 t2 => .cons (hR _ _ _ h1 h2) (forall₂_trans hR t1 t2)

theorem updateFirst_forall₂ {R : Shot → Shot → Prop} (hr : ∀ x, R x x) {p : Shot → Bool} {f : Shot → Shot}
    (hf : ∀ x, p x = true → R x (f x)) : ∀ l, List.Forall₂ R l (updateFirst p f l)
  | [] => .nil
  | x :: l => by
    unfold updateFirst
    split
    · exact .cons (hf x ‹_›) (List.forall₂_same.2 (fun y _ => hr y))
    · exact .cons (hr x) (updateFirst_forall₂ hr hf l)

theorem Shot.Served.refl (x : Shot) : Shot.Served w x x := Shot.served_held

theorem Shot.Served.trans {x y z : Shot} (h1 : Shot.Served w x y) (h2 : Shot.Served w y z) : Shot.Served w x z where
  eq := by rw [h2.eq, h1.eq]
  narrow hw := by rw [h2.narrow hw, h1.narrow hw]
  duties hw := forall₂_trans (fun _ _ _ hd he => hd.trans he) (h1.duties hw) (h2.duties hw)

/-- What becomes of an entry in the consumers' hands: it stands, or is a HELD shot served, or one freed. -/
def Shot.Kept (w : Bool) (x y : Shot) : Prop := y = x ∨ x.state = .held ∧ (Shot.Served w x y ∨ y = {})

theorem Shot.Kept.refl (x : Shot) : Shot.Kept w x x := .inl rfl

theorem Shot.Kept.trans {x y z : Shot} (h1 : Shot.Kept w x y) (h2 : Shot.Kept w y z) : Shot.Kept w x z := by
  rcases h1 with rfl | ⟨hx, h1⟩
  · exact h2
  · rcases h2 with rfl | ⟨hy, h2⟩
    · exact .inr ⟨hx, h1⟩
    · rcases h1 with h1 | rfl
      · exact .inr ⟨hx, h2.imp_left (h1.trans)⟩
      · cases hy

/-- Entry by entry, the table stands but for HELD shots served or freed. -/
theorem Serves.entries (h : Serves w a s) : List.Forall₂ (Shot.Kept w) a.ss.table s.ss.table := by
  have held : ∀ {n x}, isHeld n x = true → x.state = .held := fun h => (isHeld_iff.1 h).1
  induction h with
  | refl => exact List.forall₂_same.2 (fun x _ => .refl x)
  | give _ ih => rw [giveBlocks_eq]; exact ih
  | entry _ hf ih =>
    exact forall₂_trans (fun _ _ _ => .trans) ih (updateFirst_forall₂ .refl (fun x hx => .inr ⟨held hx, .inl (hf x)⟩) _)
  | clear _ ih =>
    exact forall₂_trans (fun _ _ _ => .trans) ih (updateFirst_forall₂ .refl (fun x hx => .inr ⟨held hx, .inr rfl⟩) _)
  | _ => assumption

theorem Shot.Served.same {x y : Shot} (h : Shot.Served w x y) : y.state = x.state ∧ y.number = x.number := by
  rw [h.eq]
  exact ⟨rfl, rfl⟩

/-- The HELD shots' numbers only become fewer. -/
theorem Serves.heldNumbers (h : Serves w a s) : (s.heldShots.map (·.number)).Sublist (a.heldShots.map (·.number)) := by
  have he := h.entries
  unfold State.heldShots
  generalize a.ss.table = l, s.ss.table = m at he ⊢
  induction he with
  | nil => exact .slnil
  | @cons x y l m hk _ ih =>
    rw [List.filter_cons, List.filter_cons]
    rcases hk with rfl | ⟨hx, hy | rfl⟩
    · split
      · exact ih.cons_cons _
      · exact ih
    · obtain ⟨hst, hn⟩ := hy.same
      have hys : y.state = .held := hst.trans hx
      rw [if_pos (by simp [hys]), if_pos (by simp [hx]), List.map_cons, List.map_cons, hn]
      exact ih.cons_cons _
    · rw [if_neg (by simp), if_pos (by simp [hx])]
      exact ih.cons _

theorem Serves.nodup (h : Serves w a s) (hn : (a.heldShots.map (·.number)).Nodup) : (s.heldShots.map (·.number)).Nodup :=
  hn.sublist h.heldNumbers

/-- Where no two HELD shots share a number, a HELD shot in the table is the one found. -/
theorem held_of_mem {x : Shot} (hn : (s.heldShots.map (·.number)).Nodup) (hx : x ∈ s.ss.table) (hs : x.state = .held) :
    s.held x.number = some x := by
  unfold State.heldShots at hn
  unfold State.held
  generalize s.ss.table = l at hn hx
  induction l with
  | nil => cases hx
  | cons y l ih =>
    rw [List.find?_cons]
    by_cases hy : isHeld x.number y = true
    · obtain ⟨hys, hyn⟩ := isHeld_iff.1 hy
      rw [hy]
      rcases List.mem_cons.1 hx with rfl | hx
      · rfl
      · rw [List.filter_cons_of_pos (by simp [hys]), List.map_cons, List.nodup_cons] at hn
        exact absurd (List.mem_map.2 ⟨x, List.mem_filter.2 ⟨hx, by simp [hs]⟩, hyn.symm⟩) hn.1
    · rw [eq_false_of_ne_true hy]
      rcases List.mem_cons.1 hx with rfl | hx
      · exact absurd (isHeld_iff.2 ⟨hs, rfl⟩) hy
      · exact ih (hn.sublist (((List.sublist_cons_self y l).filter _).map _)) hx

theorem forall₂_mem_right {α : Type} {R : α → α → Prop} {y : α} : ∀ {l m : List α}, List.Forall₂ R l m → y ∈ m → ∃ x ∈ l, R x y
  | _, _, .cons h t, hy => by
    rcases List.mem_cons.1 hy with rfl | hy
    · exact ⟨_, List.mem_cons_self .., h⟩
    · obtain ⟨x, hx, hr⟩ := forall₂_mem_right t hy
      exact ⟨x, List.mem_cons_of_mem _ hx, hr⟩

/-- A HELD shot that is still there was there, served since. -/
theorem Serves.held_of (h : Serves w a s) (hn : (a.heldShots.map (·.number)).Nodup) {n : Nat} {u : Shot}
    (hu : s.held n = some u) : ∃ x, a.held n = some x ∧ Shot.Served w x u := by
  obtain ⟨hmem, hst, hnum⟩ := held_mem hu
  obtain ⟨x, hx, hk⟩ := forall₂_mem_right h.entries hmem
  rcases hk with rfl | ⟨hxs, hs | rfl⟩
  · exact ⟨u, hnum ▸ held_of_mem hn hx hst, .refl u⟩
  · refine ⟨x, ?_, hs⟩
    rw [← hnum, hs.same.2]
    exact held_of_mem hn hx hxs
  · cases hst

/-- The narrow changes leave the tether port and the engine. -/
theorem Serves.port_engine (h : Serves false a s) : s.tp = a.tp ∧ s.de = a.de := by
  induction h with
  | refl => exact ⟨rfl, rfl⟩
  | give _ ih => rw [giveBlocks_eq]; exact ih
  | engine hw => cases hw
  | port hw => cases hw
  | _ => assumption

end Sys2Proof.Machine
end

section
/-! A lawful state may have a transfer in hand while the tether port is DOWN: no law forbids it. In CLOSING, where the port
must be DOWN, SHOT_DELETE of that transfer's shot aborts the transfer and leaves the port IDLE, so the result is not lawful. -/

namespace Sys2Proof.Machine

set_option Elab.async false

open Sys2Proof

variable {s t : State}

/-! ## The tether port through SHOT_DELETE -/

/-- Joining the queue leaves the transfer in hand. -/
theorem joinTether_transfer (atHead : Bool) (n : Nat) (k : FileKind) (s : State) :
    (joinTether atHead n k s).tp.transfer = s.tp.transfer := by
  unfold joinTether
  dsimp only
  split
  · rfl
  · split
    · rfl
    · split <;> rfl

theorem refill_transfer (s : State) : (refill s).tp.transfer = s.tp.transfer := by
  have hf : ∀ (l : List (Nat × FileKind)) (u : State), (l.foldl queueDeferred u).tp.transfer = u.tp.transfer := by
    intro l
    induction l with
    | nil => exact fun _ => rfl
    | cons p l ih => exact fun u => (ih _).trans (joinTether_transfer ..)
  exact hf _ s

theorem proofTest_tp (n : Nat) (s : State) : (proofTest n s).tp = s.tp :=
  (proofTest_serves (w := false) .refl).port_engine.1

theorem shotTests_tp (n : Nat) (s : State) : (shotTests n s).tp = s.tp :=
  (shotTests_serves (w := false) .refl).port_engine.1

theorem abortMemo_tp (n : Nat) (s : State) : (abortMemo n s).tp = s.tp :=
  (abortMemo_serves (w := false) .refl).port_engine.1

theorem deleteFile_tp (n : Nat) (sl : Slot) (s : State) : (deleteFile n sl s).tp = s.tp :=
  (deleteFile_serves (w := false) .refl).port_engine.1

theorem slotSettle_tp (sl : Slot) (s : State) : (slotSettle sl s).tp = s.tp :=
  (slotSettle_serves (w := false) .refl).port_engine.1

theorem clearJob_tp (j : Job) (s : State) : (clearJob j s).tp = s.tp := by
  have h : ∀ u : State, (dropProof j.shot u).tp = u.tp := fun u => (dropProof_serves (w := false) .refl).port_engine.1
  unfold clearJob
  dsimp only
  split
  · exact h _
  · rfl

theorem abortJob_tp (n : Nat) (s : State) : (abortJob n s).tp = s.tp := by
  unfold abortJob
  split
  · split
    · exact clearJob_tp ..
    · rfl
  · rfl

/-- An aborted transfer leaves the port IDLE (R176). -/
theorem deleteTransfer_phase {n : Nat} {x : Transfer} (h : s.tp.transfer = some x) (hn : x.shot = n) :
    (deleteTransfer n s).tp.phase = .idle := by
  unfold deleteTransfer
  rw [h]
  dsimp only
  rw [if_pos hn]
  rfl

/-- SHOT_DELETE of the shot being transferred leaves the port IDLE, whatever its state was. -/
theorem deleteShot_phase {n : Nat} {x : Transfer} (h : s.tp.transfer = some x) (hn : x.shot = n) :
    (deleteShot n s).tp.phase = .idle := by
  unfold deleteShot
  dsimp only
  rw [shotTests_tp, abortMemo_tp, proofTest_tp]
  refine deleteTransfer_phase (x := x) ?_ hn
  rw [abortJob_tp, refill_transfer, slotSettle_tp, slotSettle_tp, deleteFile_tp, deleteFile_tp, proofTest_tp]
  exact h

theorem exec_shotDelete {n : Nat} {h : Shot} (tag : Byte) (ha : s.awake = true) (hu : s.usable n = some h) :
    exec (.shotDelete ⟨tag, some n⟩) s = answered tag .ok [] (deleteShot n s) := by
  have hact : actShotDelete n s = ok [] (deleteShot n s) := by simp [actShotDelete, hu]
  refine (exec_plain (act := actShotDelete) tag n ha).trans ?_
  rw [hact]
  simp only [ok]

/-! ## The state -/

/-- A HELD shot that holds nothing. -/
def bareShot : Shot := { state := .held, number := 1 }

/-- The part in CLOSING with one HELD shot, the tether port DOWN with a transfer of that shot, and SHOT_DELETE of it waiting. -/
def downWithTransfer : State :=
  { State.reset with
    pending := [.shotDelete ⟨0, some 1⟩]
    cp := { State.reset.cp with power := .closing }
    ss := { Store.reset with table := bareShot :: List.replicate 255 {} }
    tp := { State.reset.tp with transfer := some { shot := 1, kind := .raw, urgent := false, id := 1, total := 0, resume := 0, expires := 0 } } }

theorem bareShot_lawful : bareShot.Lawful where
  free h := by simp [bareShot] at h
  early h := by simp [bareShot] at h
  numbered _ := by decide
  duties := List.nodup_nil
  pins := List.nodup_nil
  proof h := by simp [bareShot] at h

theorem downWithTransfer_table : downWithTransfer.ss.table = bareShot :: List.replicate 255 {} := rfl

theorem downWithTransfer_sound : downWithTransfer.Sound :=
  { sound_reset with
    table := by rw [downWithTransfer_table, List.length_cons, List.length_replicate]; rfl
    sends := sound_reset.sends.upd rfl rfl }

theorem downWithTransfer_inFlight : downWithTransfer.inFlight = 0 := by
  unfold State.inFlight
  rw [downWithTransfer_table, List.filter_cons_of_neg (by decide), List.filter_replicate_of_neg (by decide)]
  rfl

theorem downWithTransfer_store : downWithTransfer.StoreLawful where
  blocks := by
    have hnone : downWithTransfer.ss.table.flatMap Shot.blocks = [] := by
      rw [downWithTransfer_table, List.flatMap_eq_nil_iff]
      intro x hx
      rcases List.mem_cons.1 hx with rfl | hx
      · rfl
      · rw [List.eq_of_mem_replicate hx]
        rfl
    have hfree : downWithTransfer.ss.free = List.range Config.blocks := List.range_eq_range'.symm
    have hrec : downWithTransfer.recordingExtent = [] := rfl
    unfold State.allBlocks
    rw [hnone, hfree, hrec, List.append_nil, List.append_nil]
  entries x hx := by
    rcases List.mem_cons.1 hx with rfl | hx
    · exact bareShot_lawful
    · rw [List.eq_of_mem_replicate hx]
      exact cleared_lawful
  oneReserved := by
    rw [downWithTransfer_table, List.countP_cons_of_neg (by decide), List.countP_replicate, if_neg (by decide)]
    exact Nat.zero_le _
  oneInFlight := by rw [downWithTransfer_inFlight]; exact Nat.zero_le _
  numbers := by
    have hu : downWithTransfer.usedNumbers = [1] := by
      unfold State.usedNumbers
      rw [downWithTransfer_table, List.filter_cons_of_pos (by decide), List.filter_replicate_of_neg (by decide)]
      rfl
    unfold State.NumbersDistinct
    rw [hu]
    decide
  next := by decide

theorem downWithTransfer_lawful : downWithTransfer.Lawful where
  store := downWithTransfer_store
  work := { workLawful_reset with
    slots := fun sl => by cases sl <;> exact ⟨List.nodup_nil, (fun _ h => nomatch h), (fun _ h => nomatch h)⟩
    developQueued := fun _ h => nomatch h
    job := fun _ h => nomatch h
    transfer := fun x h => by cases h; decide
    memo := fun _ h => nomatch h }
  run := { runLawful_reset with
    quiet := fun _ => downWithTransfer_inFlight
    landing := fun _ h => nomatch h
    link := fun _ => ⟨rfl, rfl⟩
    asleep := fun _ => ⟨rfl, rfl, rfl⟩ }

/-- Refutes O8: in CLOSING a lawful part has its tether port DOWN; a transfer that is in hand all the same is aborted with its
shot by SHOT_DELETE, and the port is IDLE then. -/
theorem not_stepKeepsLawful : ¬ Obligations.StepKeepsLawful := by
  rintro ⟨h, -⟩
  have hu : ({ downWithTransfer with pending := [] } : State).usable 1 = some bareShot := by
    unfold State.usable State.held
    show Option.filter _ ((bareShot :: List.replicate 255 {}).find? _) = _
    rw [List.find?_cons_of_pos rfl]
    rfl
  have e : step downWithTransfer = answered 0 .ok [] (deleteShot 1 { downWithTransfer with pending := [] }) :=
    exec_shotDelete 0 rfl hu
  have hl := h _ _ downWithTransfer_sound downWithTransfer_lawful e
  have hp := (deleteShot_keeps (n := 1) (Keeps.refl { downWithTransfer with pending := [] })).power
  have ht := deleteShot_phase (s := { downWithTransfer with pending := [] }) (n := 1) rfl rfl
  generalize deleteShot 1 { downWithTransfer with pending := [] } = u at hl hp ht
  have hd : u.tp.phase = .down := (hl.run.asleep (fun c => absurd (hp.symm.trans c) (by decide))).2.1
  rw [ht] at hd
  cases hd

end Sys2Proof.Machine
end

section
/-! What the focus engine's and the lens port's operations touch: their own state, the notices, and the moment at which the
release conditions came to hold. Everything else stands. -/

namespace Sys2Proof.Machine

set_option Elab.async false

open Sys2Proof

variable {a s t : State}

/-- `t` differs from `s` in the focus engine, the lens port, the command port and the unit's ready moment alone. -/
structure Aside (s t : State) : Prop where
  eq : t = { s with fe := t.fe, lp := t.lp, cp := t.cp, rtu := { s.rtu with ready := t.rtu.ready } } := by rfl

theorem Aside.refl (s : State) : Aside s s := {}

theorem Aside.trans (h1 : Aside a s) (h2 : Aside s t) : Aside a t := ⟨by rw [h2.eq, h1.eq]⟩

theorem Aside.focus (h : Aside a s) {f : Focus} : Aside a { s with fe := f } := h.trans {}

theorem Aside.lens (h : Aside a s) {l : Lens} : Aside a { s with lp := l } := h.trans {}

theorem raise_aside {k : NoticeKind} {sub : Subject} {v : List Wire} (h : Aside a s) : Aside a (raise k sub v s) := h.trans {}

theorem retest_aside {c : Limit} (h : Aside a s) : Aside a (retest c s) := by
  obtain ⟨rd, e⟩ := retest_eq c s
  rw [e]
  exact h.trans {}

/-! ## The focus engine -/

theorem enterServo_aside {st : ServoState} {reason : String} (h : Aside a s) : Aside a (enterServo st reason s) :=
  retest_aside (raise_aside h.focus)

theorem emptyDrive_aside (h : Aside a s) : Aside a (emptyDrive s) := by
  unfold emptyDrive
  split
  · exact h.lens
  · exact h

theorem startServo_aside {m : ServoMode} {reason : String} (h : Aside a s) : Aside a (startServo m reason s) := by
  unfold startServo
  extract_lets st f s1
  have h1 : Aside a s1 := Aside.focus (emptyDrive_aside h.focus)
  split
  · exact retest_aside h1
  · exact enterServo_aside h1

theorem quitServo_aside (h : Aside a s) : Aside a (quitServo s) := by
  unfold quitServo
  extract_lets f s1
  have h1 : Aside a s1 := h.focus.focus
  split
  · exact retest_aside h1
  · exact enterServo_aside h1

theorem stopServo_aside (h : Aside a s) : Aside a (stopServo s) := quitServo_aside (emptyDrive_aside h)

theorem lensCheck_aside (h : Aside a s) : Aside a (lensCheck s) := by
  unfold lensCheck
  split
  · exact enterServo_aside (emptyDrive_aside h).focus
  · split
    · split
      · exact enterServo_aside h.focus
      · exact h
    · exact h

theorem settleReport_aside {moving : Bool} (h : Aside a s) : Aside a (settleReport moving s) := by
  unfold settleReport
  split
  · split
    · exact h
    · split
      · exact h.focus
      · split
        · exact h.focus
        · exact h
  · exact h

theorem stageDrive_aside {ih : InHand} {r : LastResult} (h : Aside a s) : Aside a (stageDrive ih r s) := by
  unfold stageDrive
  split
  · split
    · exact h.trans {}
    · exact h
  · exact h

theorem seek_aside {ih : InHand} {r : LastResult} (h : Aside a s) : Aside a (seek ih r s) := by
  unfold seek
  split
  · exact enterServo_aside (emptyDrive_aside h.focus)
  · split
    · dsimp only
      split
      · exact enterServo_aside h.focus
      · exact h.focus
    · exact (stageDrive_aside h.focus).focus

theorem follow_aside {ih : InHand} {r : LastResult} (h : Aside a s) : Aside a (follow ih r s) := by
  unfold follow
  split
  · exact h
  · exact stageDrive_aside h

theorem servoAct_aside {ih : InHand} (h : Aside a s) : Aside a (servoAct ih s) := by
  unfold servoAct
  dsimp only
  split
  · split
    · exact h.focus
    · split
      · exact seek_aside h
      · exact h
  · split
    · exact follow_aside h
    · exact h
  · exact h

theorem wakeWatcher_aside {ih : InHand} {e ref : Nat} (h : Aside a s) : Aside a (wakeWatcher ih e ref s) := by
  unfold wakeWatcher
  dsimp only
  split
  · exact startServo_aside (raise_aside h.focus)
  · exact raise_aside h.focus

theorem watchSample_aside {ih : InHand} (h : Aside a s) : Aside a (watchSample ih s) := by
  unfold watchSample
  split
  · exact h
  · split
    · exact h
    · split
      · exact h.focus
      · split
        · exact wakeWatcher_aside h
        · exact h.focus

theorem openReadout_aside {k : ReadoutKind} {start : Nat} (h : Aside a s) : Aside a (openReadout k start s) := h.focus

theorem completeReadout_aside {ih : InHand} (h : Aside a s) : Aside a (completeReadout ih s) := by
  unfold completeReadout
  dsimp only
  refine watchSample_aside (servoAct_aside ?_)
  split
  · exact raise_aside h.focus
  · exact h.focus

theorem handRow_aside {r : Nat} {payload : Option (List Word16)} (h : Aside a s) : Aside a (handRow r payload s) := by
  unfold handRow
  split
  · exact h
  · dsimp only
    split
    · exact h.focus
    · split
      · exact completeReadout_aside h.focus
      · exact h.focus

/-! ## The lens port -/

theorem homingTest_aside (h : Aside a s) : Aside a (homingTest s) := by
  unfold homingTest
  split
  · exact raise_aside h.lens
  · exact h

theorem dropReference_aside (h : Aside a s) : Aside a (dropReference s) := by
  unfold dropReference
  split
  · exact raise_aside h.lens
  · exact h

theorem unreference_aside (h : Aside a s) : Aside a (unreference s) := by
  unfold unreference
  split
  · exact lensCheck_aside (homingTest_aside (dropReference_aside h))
  · exact h

theorem reference_aside (h : Aside a s) : Aside a (reference s) := by
  unfold reference
  split
  · exact h
  · refine lensCheck_aside ?_
    split
    · exact raise_aside (raise_aside h.lens).lens
    · exact raise_aside h.lens

theorem lensWaiting_aside {reason : String} (h : Aside a s) : Aside a (lensWaiting reason s) :=
  lensCheck_aside (raise_aside h.lens)

theorem lensStopped_aside {reason : String} (h : Aside a s) : Aside a (lensStopped reason s) := by
  unfold lensStopped
  split
  · exact h
  · exact lensCheck_aside (raise_aside (dropReference_aside h.lens))

theorem lensLost_aside {why : SlotFailure} (h : Aside a s) : Aside a (lensLost why s) :=
  lensCheck_aside (raise_aside (dropReference_aside h.lens))

theorem compareWord_aside {w : StatusWord} (h : Aside a s) : Aside a (compareWord w s) := by
  unfold compareWord
  extract_lets s1 s2
  have h2 : Aside a s2 := by
    unfold s2
    split
    · exact h.lens
    · split
      · exact raise_aside h.lens
      · exact raise_aside h.lens
  split
  · exact h2
  · exact lensCheck_aside (homingTest_aside (raise_aside (dropReference_aside h2)))

theorem goodWord_aside {w : StatusWord} (h : Aside a s) : Aside a (goodWord w s) := by
  unfold goodWord
  split
  · exact homingTest_aside (lensCheck_aside (raise_aside (Aside.lens h.lens)))
  · exact compareWord_aside h.lens
  · split
    · exact homingTest_aside (lensCheck_aside (compareWord_aside (raise_aside h.lens)))
    · exact h.lens
  · exact h

theorem failingSlot_aside {why : SlotFailure} (h : Aside a s) : Aside a (failingSlot why s) := by
  unfold failingSlot
  split
  · split
    · exact lensLost_aside h
    · exact h.lens
  · exact h.lens
  · exact h

theorem takeStatus_aside {w : Option Word32} (h : Aside a s) : Aside a (takeStatus w s) := by
  unfold takeStatus
  dsimp only
  split
  · exact failingSlot_aside h.lens
  · exact goodWord_aside (settleReport_aside h.lens)
  · exact h.lens

theorem sendDrive_aside (h : Aside a s) : Aside a (sendDrive s) := by
  unfold sendDrive
  split
  · exact h.lens
  · dsimp only
    split
    · exact h.lens.focus
    · exact h.lens

theorem endFrame_aside (h : Aside a s) : Aside a (endFrame s) := by
  unfold endFrame
  dsimp only
  split
  · exact lensStopped_aside h.lens
  · exact h.lens

theorem countStep_aside {delta : Int} (h : Aside a s) : Aside a (countStep delta s) := by
  unfold countStep
  dsimp only
  split
  · exact h.lens
  · split
    · exact h
    · exact raise_aside h.lens

theorem encoderStep_aside (x y : Bool) (s : State) :
    Aside { s with lines := { s.lines with encA := x, encB := y } } (encoderStep x y s) := by
  unfold encoderStep
  extract_lets l s1
  have h : Aside { s with lines := { s.lines with encA := x, encB := y } } s1 := Aside.refl _
  split
  · exact h
  · split
    · split
      · exact countStep_aside h
      · exact h
    · split
      · exact h
      · exact countStep_aside h
      · exact unreference_aside h.lens

theorem indexStep_aside (h : Aside a s) : Aside a (indexStep s) := by
  unfold indexStep
  split
  · exact reference_aside h.lens
  · exact h

theorem detectStep_aside (h : Aside a s) : Aside a (detectStep s) := by
  unfold detectStep
  split
  · split
    · exact lensWaiting_aside h
    · exact h
  · exact lensStopped_aside h

theorem lensApplied_aside {old : LensCfg} (h : Aside a s) : Aside a (lensApplied old s) := by
  unfold lensApplied
  extract_lets new s1 s2
  have h1 : Aside a s1 := by
    unfold s1
    split
    · exact h.lens
    · exact h
  have h2 : Aside a s2 := by
    unfold s2
    split
    · exact unreference_aside h1
    · exact h1
  split
  · exact homingTest_aside h2
  · exact h2

theorem lensSleep_aside (h : Aside a s) : Aside a (lensSleep s) := by
  unfold lensSleep
  split
  · exact h
  · exact h.lens

theorem lensWake_aside (h : Aside a s) : Aside a (lensWake s) := detectStep_aside h.lens

/-! ## What stands -/

theorem Aside.mem (h : Aside s t) : t.mem = s.mem := by rw [h.eq]
theorem Aside.ss (h : Aside s t) : t.ss = s.ss := by rw [h.eq]
theorem Aside.sp (h : Aside s t) : t.sp = s.sp := by rw [h.eq]
theorem Aside.cfg (h : Aside s t) : t.cfg = s.cfg := by rw [h.eq]

end Sys2Proof.Machine
end

section
/-! What the front of the part touches: the operations of the sensor port, of the release and timing unit and of the settings
leave the store's bytes and the store's consumers as they are. -/

namespace Sys2Proof.Machine

set_option Elab.async false

open Sys2Proof

variable {a s t : State}

/-- `t` differs from `s` in the settings, the store's lists, the front blocks and the command port alone: the bytes, the input
lines, the time, the card writer, the engine, the tether port and the memo input stand. -/
structure Fore (s t : State) : Prop where
  eq : t = { s with
    cfg := t.cfg, waiting := t.waiting, ss := t.ss, sp := t.sp, rtu := t.rtu, fe := t.fe, lp := t.lp, cp := t.cp } := by rfl

theorem Fore.refl (s : State) : Fore s s := {}

theorem Fore.trans (h1 : Fore a s) (h2 : Fore s t) : Fore a t := ⟨by rw [h2.eq, h1.eq]⟩

theorem Fore.unit (h : Fore a s) {r : Rtu} : Fore a { s with rtu := r } := h.trans {}
theorem Fore.store (h : Fore a s) {x : Store} : Fore a { s with ss := x } := h.trans {}
theorem Fore.sensor (h : Fore a s) {p : SensorPort} : Fore a { s with sp := p } := h.trans {}

theorem raise_fore {k : NoticeKind} {sub : Subject} {v : List Wire} (h : Fore a s) : Fore a (raise k sub v s) := h.trans {}

theorem Aside.fore (h : Aside s t) : Fore s t := ⟨by rw [h.eq]⟩

theorem Fore.aside (h : Fore a s) (e : Aside s t) : Fore a t := h.trans e.fore

theorem retest_fore {c : Limit} (h : Fore a s) : Fore a (retest c s) := h.aside (retest_aside (.refl s))

theorem ite_fore {c : Prop} [Decidable c] {t u : State} (ht : Fore a t) (hu : Fore a u) : Fore a (if c then t else u) :=
  iteInduction (motive := Fore a) (fun _ => ht) (fun _ => hu)

theorem giveBlocks_fore {l : List Nat} (h : Fore a s) : Fore a (giveBlocks l s) := by
  rw [giveBlocks_eq]
  exact h.store

theorem applyWaiting_fore {p : Field → Bool} (h : Fore a s) : Fore a (applyWaiting p s) := h.trans {}

theorem setWaiting_fore {f : Field} {v : CfgVal} (h : Fore a s) : Fore a (setWaiting f v s) := h.trans {}

/-! ## Release and timing -/

theorem modBurst_fore {f : BurstRec → BurstRec} (h : Fore a s) : Fore a (modBurst f s) := h.unit

theorem clearEntry_fore {p : Shot → Bool} (h : Fore a s) : Fore a (clearEntry p s) := by
  rw [clearEntry_eq]
  exact h.store

theorem voidShot_fore {p : Shot → Bool} {r : VoidReason} (h : Fore a s) : Fore a (voidShot p r s) := by
  unfold voidShot
  split
  · exact raise_fore (clearEntry_fore h)
  · exact h

theorem finishBurst_fore {r : EndReason} (h : Fore a s) : Fore a (finishBurst r s) := by
  unfold finishBurst
  extract_lets s1 u s2
  have h2 : Fore a s2 := Fore.unit (Fore.store (clearEntry_fore h))
  split
  · exact raise_fore h2
  · exact h2

theorem cutBurst_fore {r : EndReason} {v : VoidReason} (h : Fore a s) : Fore a (cutBurst r v s) := by
  unfold cutBurst
  split
  · exact h
  · exact finishBurst_fore (modBurst_fore (voidShot_fore (voidShot_fore h)))

theorem linkLost_fore {byStop : Bool} (h : Fore a s) : Fore a (linkLost byStop s) := by
  unfold linkLost
  split <;> exact cutBurst_fore h

theorem enterWaiting_fore (h : Fore a s) : Fore a (enterWaiting s) := by
  rw [enterWaiting_eq]
  exact h.unit

theorem startBurst_fore {owner : Owner} {count : Option Nat} (h : Fore a s) : Fore a (startBurst owner count s) := by
  unfold startBurst
  extract_lets s1 b r s2
  have h2 : Fore a s2 := Fore.unit (Fore.unit (applyWaiting_fore h))
  split
  · exact finishBurst_fore h2
  · exact Fore.store (enterWaiting_fore h2)

theorem takeRelease_fore {owner : Owner} {count : Option Nat} (h : Fore a s) : Fore a (takeRelease owner count s) :=
  ite_fore (startBurst_fore h) (modBurst_fore h)

theorem takeOwnerEnd_fore (h : Fore a s) : Fore a (takeOwnerEnd s) := by
  unfold takeOwnerEnd
  split
  · exact finishBurst_fore h
  · exact modBurst_fore (Fore.unit (Fore.store (clearEntry_fore h)))
  · exact modBurst_fore (Fore.unit (Fore.store (clearEntry_fore h)))
  · exact h

theorem closeFrame_fore {landed : Bool} (h : Fore a s) : Fore a (closeFrame landed s) := by
  unfold closeFrame
  extract_lets s1
  have h1 : Fore a s1 := modBurst_fore h
  split
  · exact enterWaiting_fore h1
  · exact enterWaiting_fore h1
  · exact finishBurst_fore h1
  · exact h1

theorem fireFrame_fore {b : BurstRec} (hb : s.rtu.burst = some b) (h : Fore a s) : Fore a (fireFrame b s) := by
  rw [fireFrame_fires hb]
  exact h.trans {}

theorem moveGrid_fore {place : Int} (h : Fore a s) : Fore a (moveGrid place s) := by
  unfold moveGrid
  split
  · exact Fore.store (Fore.store h.unit)
  · exact h

theorem realign_fore (h : Fore a s) : Fore a (realign s) := by
  unfold realign
  dsimp only
  split
  · exact h.unit
  · exact moveGrid_fore h.unit

theorem noteWindow_fore {e : Int} (h : Fore a s) : Fore a (noteWindow e s) := by
  unfold noteWindow
  split
  · exact h
  · exact raise_fore h.unit

theorem syncAct_fore {err : Option Int} {live : Bool} (h : Fore a s) : Fore a (syncAct err live s) := by
  have hnote : Fore a (match err with | some e => noteWindow e s | none => s) := by
    split
    · exact noteWindow_fore h
    · exact h
  unfold syncAct
  split
  · exact h
  · split
    · exact noteWindow_fore h
    · exact h
  · split
    · exact Fore.unit (realign_fore h)
    · split
      · split
        · exact noteWindow_fore h
        · exact h
      · exact h
  · split
    · split
      · exact h
      · exact realign_fore h
    · exact realign_fore h
  · split
    · exact takeRelease_fore h
    · exact h

theorem syncEdgeAt_fore {live : Bool} (h : Fore a s) : Fore a (syncEdgeAt live s) := syncAct_fore h.unit

theorem filterTake_fore {live : Bool} (h : Fore a s) : Fore a (filterTake live s) := by
  unfold filterTake
  dsimp only
  split
  · exact h.unit
  · split
    · exact h.unit
    · split
      · split
        · exact takeRelease_fore h.unit
        · exact h.unit
      · split
        · exact takeOwnerEnd_fore h.unit
        · exact h.unit

theorem filterStart_fore {live : Bool} (h : Fore a s) : Fore a (filterStart live s) :=
  ite_fore (filterTake_fore h) h.unit

theorem grantReservation_fore {r : ResReq} (h : Fore a s) : Fore a (grantReservation r s) := by
  obtain ⟨rd, e⟩ := grantReservation_eq r s
  rw [e]
  exact h.trans {}

/-! ## The sensor port -/

theorem errorTest_fore (h : Fore a s) : Fore a (errorTest s) := by
  unfold errorTest
  split
  · exact h
  · split
    · exact retest_fore (raise_fore h.sensor)
    · exact h

theorem laneError_fore {i : Nat} (h : Fore a s) : Fore a (laneError i s) := by
  unfold laneError
  split
  · exact errorTest_fore h.sensor
  · exact h

theorem allError_fore (h : Fore a s) : Fore a (allError s) := by
  unfold allError
  split
  · exact errorTest_fore h.sensor
  · exact h

theorem enterTraining_fore {reason : String} (h : Fore a s) : Fore a (enterTraining reason s) :=
  retest_fore (raise_fore h.sensor.sensor.sensor)

theorem linkDown_fore (h : Fore a s) : Fore a (linkDown s) := retest_fore (raise_fore h.sensor.sensor.sensor)

theorem trainingDone_fore (h : Fore a s) : Fore a (trainingDone s) := retest_fore (raise_fore h.sensor.sensor)

theorem failAttempt_fore {r : FailReason} (h : Fore a s) : Fore a (failAttempt r s) := by
  unfold failAttempt
  dsimp only
  split
  · exact h.sensor.sensor.sensor
  · exact linkLost_fore (raise_fore h.sensor.sensor.sensor)

theorem takeMark_fore {i wt : Nat} (h : Fore a s) : Fore a (takeMark i wt s) := by
  unfold takeMark
  dsimp only
  repeat' split
  all_goals first
    | exact h
    | exact failAttempt_fore h
    | exact h.sensor.sensor

theorem judgeParams_fore (h : Fore a s) : Fore a (judgeParams s) := by
  unfold judgeParams
  split
  · split
    · exact trainingDone_fore h
    · exact failAttempt_fore h
  · exact failAttempt_fore h

theorem pumpFor_fore : ∀ {n : Nat} {s : State}, Fore a s → Fore a (pumpFor n s)
  | 0, _, h => h
  | n + 1, s, h => by
    unfold pumpFor
    split
    · rename_i t ht
      obtain ⟨p, rfl⟩ := stepPump_sensor ht
      exact pumpFor_fore h.sensor
    · exact h

theorem pump_fore (h : Fore a s) : Fore a (pump s) := by
  unfold pump
  split
  · exact pumpFor_fore h
  · exact h

theorem driftLanes_fore (h : Fore a s) : Fore a (driftLanes s) := by
  unfold driftLanes
  extract_lets s1 s2 s3
  have h3 : Fore a s3 := by
    refine allError_fore ?_
    split
    · exact allError_fore h.sensor.sensor
    · exact h.sensor.sensor
  split
  · exact h.sensor.sensor
  · split
    · exact retest_fore (raise_fore h3)
    · exact h3

theorem pushWord_fore {i wt : Nat} {w : LaneWord} (h : Fore a s) : Fore a (pushWord i wt w s) := by
  unfold pushWord
  extract_lets s0
  have h0 : Fore a s0 := h.sensor.sensor
  split
  · exact driftLanes_fore h0
  · exact Fore.sensor (pump_fore h0.sensor.sensor)

theorem trainWord_fore {i : Nat} {w : LaneWord} (h : Fore a s) : Fore a (trainWord i w s) := by
  unfold trainWord
  split
  · exact h.sensor
  · exact h

theorem takeSymbol_fore {i wt : Nat} {y : Symbol} (h : Fore a s) : Fore a (takeSymbol i wt y s) := by
  delta takeSymbol
  generalize s.sp.link = l
  cases l <;> cases y <;> dsimp only
  all_goals first
    | with_reducible exact h
    | with_reducible exact trainWord_fore h
    | with_reducible exact takeMark_fore h
    | with_reducible exact pushWord_fore h
    | with_reducible exact pushWord_fore (laneError_fore h)

theorem openReading_fore {k : ReadoutKind} {w : Nat → Nat} (h : Fore a s) : Fore a (openReading k w s) := h.sensor

theorem shotHeader_fore {w : Nat → Nat} {x : Shot} (h : Fore a s) : Fore a (shotHeader w x s) := by
  unfold shotHeader
  extract_lets c right s1 r s2 s3
  have h3 : Fore a s3 := Fore.sensor (Fore.unit h.store)
  clear_value s3 right
  refine ite_fore ?_ ?_
  · exact closeFrame_fore (voidShot_fore h.sensor)
  · exact (openReading_fore h3).aside (openReadout_aside (.refl _))

theorem badHeader_fore (h : Fore a s) : Fore a (badHeader s) := h.sensor.sensor

theorem unexpectedReadout_fore (h : Fore a s) : Fore a (unexpectedReadout s) := h.sensor.sensor

theorem judgeHeader_fore {ws : List Word16} (h : Fore a s) : Fore a (judgeHeader ws s) := by
  unfold judgeHeader
  dsimp only
  split
  · exact badHeader_fore (allError_fore h)
  · split
    · split
      · split
        · exact unexpectedReadout_fore h
        · exact shotHeader_fore h
      · exact unexpectedReadout_fore h
    · split
      · split
        · exact unexpectedReadout_fore h
        · split
          · exact Fore.aside (openReading_fore h) (openReadout_aside (.refl _))
          · exact badHeader_fore h
      · split
        · split
          · exact Fore.sensor (openReading_fore h)
          · exact unexpectedReadout_fore h
        · exact badHeader_fore h

theorem handMissing_aside {r : Readout} (h : Aside a s) : Aside a (handMissing r s) := by
  have hf : ∀ (l : List Nat) {u : State}, Aside a u → Aside a (l.foldl (fun v k => handRow k none v) u) := by
    intro l
    induction l with
    | nil => exact fun hu => hu
    | cons k l ih => exact fun hu => ih (handRow_aside hu)
  unfold handMissing
  split
  · exact h
  · exact hf _ h

/-! ## Settings -/

theorem raiseDefaulted_fore {sub : Subject} {l : List String} (h : Fore a s) : Fore a (raiseDefaulted sub l s) :=
  ite_fore h (raise_fore h)

theorem takeValue_fore {f : Field} {v : CfgVal} (h : Fore a s) : Fore a (takeValue f v s) :=
  ite_fore (h.trans {}) (setWaiting_fore h)

theorem takeConfig_fore {g : Group} {l : List (Field × CfgVal)} (h : Fore a s) : Fore a (takeConfig g l s) := by
  have hf : ∀ (c : Cfg) (l : List (Field × CfgVal)) {u : State}, Fore a u →
      Fore a (l.foldl (fun t p => takeValue p.1 (takenVal c p.1 p.2) t) u) := by
    intro c l
    induction l with
    | nil => exact fun hu => hu
    | cons p l ih => exact fun hu => ih (takeValue_fore hu)
  unfold takeConfig
  dsimp only
  split
  · exact Fore.aside (hf _ _ (raiseDefaulted_fore h)) (lensApplied_aside (.refl _))
  · exact Fore.unit (hf _ _ (raiseDefaulted_fore h))
  · exact hf _ _ (raiseDefaulted_fore h)

/-! ## What stands -/

theorem Fore.mem (h : Fore s t) : t.mem = s.mem := by rw [h.eq]
theorem Fore.mi (h : Fore s t) : t.mi = s.mi := by rw [h.eq]
theorem Fore.de (h : Fore s t) : t.de = s.de := by rw [h.eq]

end Sys2Proof.Machine
end

section
/-! Where the store's bytes may change (R5): a write into an extent changes bytes of the extent's blocks alone; the operations
that write are those of a SHOT readout, of the development engine and of the memo input. -/

namespace Sys2Proof.Machine

set_option Elab.async false

open Sys2Proof

variable {a s t : State}

/-! ## Bytes off some blocks -/

/-- From `m` to `n` no byte changes but those of the blocks of `L`. -/
structure BytesOff (L : List Nat) (m n : List Host.Cell) : Prop where
  wf : Memory.wf m = true → Memory.wf n = true
  reads : Memory.wf m = true → ∀ x, x / 65536 ∉ L → memRead n x = memRead m x

theorem BytesOff.refl (L : List Nat) (m : List Host.Cell) : BytesOff L m m := ⟨id, fun _ _ _ => rfl⟩

theorem BytesOff.trans {L : List Nat} {m n k : List Host.Cell} (h1 : BytesOff L m n) (h2 : BytesOff L n k) : BytesOff L m k :=
  ⟨fun h => h2.wf (h1.wf h), fun h x hx => (h2.reads (h1.wf h) x hx).trans (h1.reads h x hx)⟩

/-- The address of a byte of an extent lies in one of its blocks. -/
theorem extentAddr_block {blocks : List Nat} {off y : Nat} (h : extentAddr blocks off = some y) : y / 65536 ∈ blocks := by
  obtain ⟨b, hb, rfl⟩ := Option.map_eq_some_iff.1 h
  have hd : (b * Config.blockBytes + off % Config.blockBytes) / 65536 = b := by
    unfold Config.blockBytes
    omega
  rw [hd]
  exact List.mem_of_getElem? hb

theorem BytesOff.write {L : List Nat} {blocks : List Nat} (hb : ∀ b ∈ blocks, b ∈ L) (l : List Byte) (off : Nat)
    (m : List Host.Cell) : BytesOff L m (writeExtent blocks l off m) where
  wf := writeExtent_wf blocks l off m
  reads hm x hx := memRead_writeExtent_other blocks x l off m hm (fun _ _ e => hx (hb _ (extentAddr_block e)))

theorem BytesOff.rows {L proof : List Nat} (hb : ∀ b ∈ proof, b ∈ L) (raw : List Nat) (j : Job) (n : Nat) (m : List Host.Cell) :
    BytesOff L m (writeRows raw proof j n m) := by
  unfold writeRows
  generalize (List.range n).drop j.rows = l
  induction l generalizing m with
  | nil => exact .refl L m
  | cons y l ih => exact (BytesOff.write hb _ _ m).trans (ih _)

/-! ## A SHOT readout -/

/-- The LANDING shot's raw extent stands, and no byte changed but its own. -/
structure Fills (a s : State) : Prop where
  bytes : BytesOff a.landingRaw a.mem s.mem
  raw : s.landingRaw = a.landingRaw

theorem Fills.refl (s : State) : Fills s s := ⟨.refl _ _, rfl⟩

theorem landingRaw_congr (h : t.ss.table = s.ss.table) : t.landingRaw = s.landingRaw := by
  unfold State.landingRaw
  rw [h]

/-- A step that leaves the bytes and the table. -/
theorem Fills.upd (h : Fills a s) (hm : t.mem = s.mem) (ht : t.ss.table = s.ss.table) : Fills a t :=
  ⟨by rw [hm]; exact h.bytes, (landingRaw_congr ht).trans h.raw⟩

theorem Fills.write (h : Fills a s) (l : List Byte) (off : Nat) :
    Fills a { s with mem := writeExtent s.landingRaw l off s.mem } :=
  ⟨h.bytes.trans (.write (fun _ hb => h.raw ▸ hb) l off s.mem), h.raw⟩

/-- The count of damaged lines is no part of the extent. -/
theorem Fills.damaged (h : Fills a s) : Fills a (modEntry isLanding (fun t => { t with damaged := t.damaged + 1 }) s) := by
  refine ⟨h.bytes, .trans ?_ h.raw⟩
  unfold State.landingRaw
  cases hx : s.ss.table.find? isLanding with
  | none =>
    rw [modEntry_ss, updateFirst_none hx, hx]
  | some x =>
    have hp : isLanding { x with damaged := x.damaged + 1 } = true := (find_mem hx).2
    rw [modEntry_ss, find_updateFirst hx hp]
    rfl

theorem substitute_fills {k : Planes} {y : Nat} (h : Fills a s) : Fills a (substitute k y s) := (h.write _ _).damaged

theorem substituteRange_fills {k : Planes} {x y : Nat} (h : Fills a s) : Fills a (substituteRange k x y s) := by
  unfold substituteRange
  generalize (List.range y).drop x = l
  induction l generalizing s with
  | nil => exact h
  | cons z l ih => exact ih (substitute_fills h)

theorem errorTest_ss (s : State) : (errorTest s).ss = s.ss := by
  unfold errorTest
  split
  · rfl
  · split
    · unfold requestRetrain
      rw [(retest_aside (.refl _)).ss]
      rfl
    · rfl

theorem allError_ss (s : State) : (allError s).ss = s.ss := by
  unfold allError
  split
  · exact errorTest_ss _
  · rfl

theorem allError_fills (h : Fills a s) : Fills a (allError s) :=
  h.upd (allError_fore (.refl s)).mem (by rw [allError_ss])

theorem placeImage_fills {r : Readout} {i : Nat} {good : Option (List Byte)} (h : Fills a s) : Fills a (placeImage r i good s) := by
  unfold placeImage
  split
  · exact h.upd rfl rfl
  · dsimp only
    have h1 : Fills a (substituteRange r.means r.nextImage i s) := substituteRange_fills h
    split
    · exact Fills.upd (h1.write _ _) rfl rfl
    · exact Fills.upd (substitute_fills h1) rfl rfl

theorem takeBlack_fills {r : Readout} {b : Nat} {good : Option Nat} (h : Fills a s) : Fills a (takeBlack r b good s) := by
  have h1 : Fills a (setReadout { r with blackSeen := r.blackSeen ++ [b] } s) := h.upd rfl rfl
  unfold takeBlack
  split
  · exact h.upd rfl rfl
  · dsimp only
    split
    · split
      · exact h1.upd rfl rfl
      · exact h1
    · exact h1

theorem handRow_fills {k : Nat} {p : Option (List Word16)} (h : Fills a s) : Fills a (handRow k p s) :=
  h.upd (handRow_aside (.refl s)).mem (by rw [(handRow_aside (.refl s)).ss])

theorem takePhase_fills {r : Readout} {row : Nat} {good : Option (List Word16)} (h : Fills a s) :
    Fills a (takePhase r row good s) := by
  unfold takePhase
  split
  · exact h.upd rfl rfl
  · exact handRow_fills (h.upd rfl rfl)

theorem judgeLine_fills {cut : Bool} {r : Readout} {ws : List Word16} (h : Fills a s) : Fills a (judgeLine cut r ws s) := by
  unfold judgeLine
  extract_lets counted kind index good payload s1 r1 s2
  have hc : Fills a counted := by
    unfold counted
    split
    · exact h
    · exact allError_fills h
  have h1 : Fills a s1 := by
    unfold s1
    split
    · exact h
    · exact hc
  clear_value counted s1 kind good
  split
  · exact hc.upd rfl rfl
  · split
    · exact takeBlack_fills h1
    · exact takePhase_fills h1
    · split
      · exact placeImage_fills (h1.upd rfl rfl)
      · exact h1.upd rfl rfl

/-! ## The landing -/

theorem handDuties_serves {n : Nat} {w : State} : ∀ (l : List DutyKey) {u : State}, Serves true w u →
    Serves true w (l.foldl (fun v k => handDuty n k v) u) := fun l _ h => foldl_serves _ (fun _ _ => handDuty_serves) l h

theorem landShot_mem (black : Planes) (s : State) : (landShot black s).mem = s.mem := by
  unfold landShot
  split
  · rfl
  · extract_lets s1 done s2 x m s3
    exact (shotTests_serves (handDuties_serves _ (.refl (a := s3)))).mem

theorem closeReadout_bytes (r : Readout) (s : State) : BytesOff s.landingRaw s.mem (closeReadout r s).mem := by
  unfold closeReadout
  extract_lets s0 r1 s1
  have h0 : Fills s s0 := (Fills.refl s).upd rfl rfl
  split
  · exact h0.bytes
  · rw [(handMissing_aside (.refl _)).mem]
    exact h0.bytes
  · rw [(closeFrame_fore (.refl _)).mem, landShot_mem, (handMissing_aside (.refl _)).mem]
    exact (substituteRange_fills h0).bytes

theorem takeHeader_bytes (ws : List Word16) (s : State) : BytesOff s.landingRaw s.mem (takeHeader ws s).mem := by
  unfold takeHeader
  rw [(pump_fore (.refl _)).mem]
  unfold dropItem
  rw [modSensor_mem, (judgeHeader_fore (.refl _)).mem]
  split
  · exact closeReadout_bytes _ s
  · exact .refl _ _

theorem takeLine_bytes (l : Bool × List Word16) (s : State) : BytesOff s.landingRaw s.mem (takeLine l s).mem := by
  unfold takeLine
  rw [(pump_fore (Fore.sensor (.refl _))).mem]
  split
  · split
    · exact .refl _ _
    · exact (judgeLine_fills (.refl s)).bytes
  · exact .refl _ _

theorem takeStop_bytes (s : State) : BytesOff s.landingRaw s.mem (takeStop s).mem := by
  unfold takeStop
  rw [(pump_fore (Fore.sensor (.refl _))).mem]
  split
  · exact closeReadout_bytes _ s
  · exact .refl _ _

theorem closeSilent_bytes (s : State) : BytesOff s.landingRaw s.mem (closeSilent s).mem := by
  unfold closeSilent
  extract_lets ws isOpen s1
  have h1 : Fills s s1 := (Fills.refl s).upd rfl rfl
  have close : ∀ {u : State}, Fills s u → ∀ r, BytesOff s.landingRaw s.mem (closeReadout r u).mem := fun hu r =>
    hu.bytes.trans (hu.raw ▸ closeReadout_bytes r _)
  clear_value s1
  split
  · rename_i r _
    split
    · rw [(judgeHeader_fore (.refl _)).mem]
      exact close h1 r
    · extract_lets s2
      have h2 : Fills s s2 := by
        unfold s2
        split
        · exact judgeLine_fills h1
        · exact h1
      clear_value s2
      split
      · exact close h2 _
      · exact h2.bytes
  · exact h1.bytes

/-! ## The engine -/

/-- The proof blocks of the shot being developed. -/
def State.jobProof (s : State) : List Nat := (((s.de.job.bind (fun j => s.held j.shot)).bind (·.proof)).map (·.blocks)).getD []

theorem jobExtents_proof {j : Job} (h : s.de.job = some j) : (s.jobExtents j).2 = s.jobProof := by
  unfold State.jobExtents State.jobProof
  rw [h]
  rfl

theorem developRead_bytes (s : State) : BytesOff s.jobProof s.mem (developRead s).mem := by
  unfold developRead
  split
  · exact .refl _ _
  · rename_i j hj
    extract_lets n j1 e d s1
    have h1 : BytesOff s.jobProof s.mem s1.mem := .rows (fun b hb => jobExtents_proof hj ▸ hb) _ _ _ _
    clear_value s1
    split
    · rw [(shotTests_serves (dropPin_serves (.refl (w := true)))).mem]
      exact h1
    · exact h1

theorem completeJob_bytes {j : Job} (hj : s.de.job = some j) : BytesOff s.jobProof s.mem (completeJob j s).mem := by
  unfold completeJob
  extract_lets high e s0 s1 d s2
  have h2 : BytesOff s.jobProof s.mem s2.mem := .rows (fun b hb => jobExtents_proof hj ▸ hb) _ _ _ _
  clear_value s2
  rw [(shotTests_serves (handCard_serves (handCard_serves (.refl (w := true))))).mem]
  exact h2

theorem visitSlot_bytes (s : State) : BytesOff s.jobProof s.mem (visitSlot s).mem := by
  have hread : ∀ (r : Reader) (u : State), BytesOff u.jobProof u.mem (grantRead r u).mem := by
    intro r u
    cases r with
    | a => exact (cardRead_serves (w := true) .refl).mem ▸ .refl _ _
    | b => exact (cardRead_serves (w := true) .refl).mem ▸ .refl _ _
    | d => exact developRead_bytes u
    | t => exact (tetherRead_serves .refl).mem ▸ .refl _ _
  unfold visitSlot
  extract_lets s1 named s2
  have hs1 : s1.jobProof = s.jobProof ∧ s1.mem = s.mem := by
    unfold s1
    split <;> exact ⟨rfl, rfl⟩
  have h2 : BytesOff s1.jobProof s1.mem s2.mem := by
    unfold s2
    split
    · exact hread _ _
    · exact .refl _ _
  rw [hs1.1, hs1.2] at h2
  exact h2

/-! ## The memo input -/

theorem BytesOff.mono {L L' : List Nat} {m n : List Host.Cell} (h : BytesOff L m n) (hl : ∀ b ∈ L, b ∈ L') : BytesOff L' m n :=
  ⟨h.wf, fun hm x hx => h.reads hm x (fun hb => hx (hl _ hb))⟩

/-- The blocks of the recording in hand. -/
def State.recording (s : State) : List Nat := (s.mi.current.map (·.blocks)).getD []

theorem recording_of {m : MemoRec} (h : s.mi.current = some m) : s.recording = m.blocks := by
  unfold State.recording
  rw [h]
  rfl

/-- A block granted is the free list's head, and the floor is kept (R193, R8). -/
theorem askBlock_some {m m1 : MemoRec} {s s1 : State} (h : askBlock m s = some (m1, s1)) :
    m1 = { m with blocks := m.blocks ++ s.ss.free.take 1 } ∧ s1 = (takeBlocks 1 s).2 ∧ 1 + s.cfg.store.floor ≤ s.freeCount := by
  unfold askBlock at h
  split at h
  · rename_i hm
    obtain ⟨rfl, rfl⟩ := h
    exact ⟨rfl, rfl, of_decide_eq_true hm⟩
  · cases h

/-- Room for a sample is in the blocks in hand, or in one granted (R193). -/
theorem withRoom_some {m m1 : MemoRec} {s s1 : State} (h : withRoom m s = some (m1, s1)) :
    m1 = m ∧ s1 = s ∨ m1 = { m with blocks := m.blocks ++ s.ss.free.take 1 } ∧ s1 = (takeBlocks 1 s).2
      ∧ 1 + s.cfg.store.floor ≤ s.freeCount := by
  unfold withRoom at h
  split at h
  · obtain ⟨rfl, rfl⟩ := h
    exact .inl ⟨rfl, rfl⟩
  · exact .inr (askBlock_some h)

theorem takeBlocks_mem (n : Nat) (s : State) : (takeBlocks n s).2.mem = s.mem := by rw [takeBlocks_eq]

theorem takeBlocks_free (n : Nat) (s : State) : (takeBlocks n s).2.ss.free = s.ss.free.drop n := by rw [takeBlocks_eq]

theorem recordSample_bytes (x : Int) (m : MemoRec) (s : State) :
    BytesOff (m.blocks ++ s.ss.free.take 1) s.mem (recordSample x m s).mem := by
  unfold recordSample
  split
  · rw [(endMemo_serves (.refl)).mem]
    exact .refl _ _
  · rename_i m1 s1 hr
    have hb : (∀ b ∈ m1.blocks, b ∈ m.blocks ++ s.ss.free.take 1) ∧ s1.mem = s.mem := by
      rcases withRoom_some hr with ⟨rfl, rfl⟩ | ⟨rfl, rfl, _⟩
      · exact ⟨fun b hb => List.mem_append_left _ hb, rfl⟩
      · exact ⟨fun b hb => hb, takeBlocks_mem 1 s⟩
    extract_lets m2 mi s2
    have h2 : BytesOff (m.blocks ++ s.ss.free.take 1) s.mem s2.mem := hb.2 ▸ .write hb.1 _ _ _
    clear_value s2
    split
    · rw [(endMemo_serves (.refl)).mem]
      exact h2
    · exact h2

theorem takeSample_bytes (x : Int) (s : State) : BytesOff (s.recording ++ s.ss.free.take 1) s.mem (takeSample x s).mem := by
  unfold takeSample
  split
  · exact .refl _ _
  · rename_i m _ hc
    exact recording_of hc ▸ recordSample_bytes x m s
  · exact .refl _ _

theorem pdmWord_bytes (bits : BitVec 192) (s : State) :
    BytesOff (s.recording ++ s.ss.free.take 1) s.mem (pdmWord bits s).mem := by
  have taken : ∀ x d, BytesOff (s.recording ++ s.ss.free.take 1) s.mem
      (takeSample x { s with mi := { s.mi with decimator := d } }).mem :=
    fun x d => takeSample_bytes x { s with mi := { s.mi with decimator := d } }
  unfold pdmWord
  split
  · exact .refl _ _
  · extract_lets r
    split
    · exact .refl _ _
    · exact taken _ _

/-- What the end of an activity frame leaves to the samples after it: a memo input at rest, or the recording with at most one
block more, the free list's head. -/
structure Recorded (s t : State) : Prop where
  bytes : BytesOff (s.recording ++ s.ss.free.take 1) s.mem t.mem
  rest : (t.mi.phase = .idle ∧ t.mi.current = none)
    ∨ ∃ j ≤ 1, t.recording = s.recording ++ s.ss.free.take j ∧ t.ss.free = s.ss.free.drop j

theorem Recorded.same (hm : t.mem = s.mem) (hr : t.recording = s.recording) (hf : t.ss.free = s.ss.free) : Recorded s t where
  bytes := hm ▸ .refl _ _
  rest := .inr ⟨0, Nat.zero_le 1, hr.trans (List.append_nil _).symm, hf⟩

theorem endMemo_atRest (r : MemoReason) (m : MemoRec) (s : State) :
    (endMemo r m s).mi.phase = .idle ∧ (endMemo r m s).mi.current = none := by
  unfold endMemo
  extract_lets replaced s1 mi s2 s3
  exact (slotSettle_serves (slotSettle_serves (shotTests_serves (.refl (w := true))))).atRest ⟨rfl, rfl⟩

theorem endMemo_recorded {r : MemoReason} {m : MemoRec} {u : State} (h : u.mem = s.mem) : Recorded s (endMemo r m u) where
  bytes := by
    rw [(endMemo_serves (.refl)).mem, h]
    exact .refl _ _
  rest := .inl (endMemo_atRest r m u)

theorem voiceStart_recorded {m : MemoRec} (hc : s.mi.current = some m) (l : List Int) {u : State} (hm : u.mem = s.mem)
    (hf : u.ss = s.ss) : Recorded s (voiceStart m l u) := by
  unfold voiceStart
  extract_lets mi s1
  have h1 : s1.mem = s.mem ∧ s1.ss = s.ss := ⟨hm, hf⟩
  clear_value s1
  split
  · exact endMemo_recorded h1.1
  · rename_i m1 s2 ha
    obtain ⟨rfl, rfl, _⟩ := askBlock_some ha
    rw [h1.2]
    constructor
    · show BytesOff _ s.mem (writeExtent _ _ _ (takeBlocks 1 s1).2.mem)
      rw [takeBlocks_mem, h1.1, recording_of hc]
      exact .write (fun _ hb => hb) _ _ _
    · refine .inr ⟨1, Nat.le_refl 1, ?_, ?_⟩
      · rw [recording_of hc]
        rfl
      · show (takeBlocks 1 s1).2.ss.free = _
        rw [takeBlocks_free, h1.2]

theorem endActivity_recorded (s : State) : Recorded s (endActivity s) := by
  unfold endActivity
  extract_lets l f mi s1
  split
  · rename_i m _ hc
    split
    · exact voiceStart_recorded hc _ rfl rfl
    · exact .same rfl rfl rfl
  · rename_i m _ hc
    extract_lets m1 s2
    split
    · exact endMemo_recorded rfl
    · exact .same rfl (by rw [recording_of hc]; rfl) rfl
  · exact .same rfl rfl rfl

theorem closeActivity_recorded (s : State) : Recorded s (closeActivity s) := by
  unfold closeActivity
  split
  · exact endActivity_recorded s
  · exact .same rfl rfl rfl

theorem memoSample_bytes (bits : BitVec 192) (s : State) :
    BytesOff (s.recording ++ s.ss.free.take 2) s.mem (pdmWord bits (closeActivity s)).mem := by
  have hb : ∀ j ≤ 2, ∀ b ∈ s.ss.free.take j, b ∈ s.ss.free.take 2 := fun j hj b h => List.take_subset_take_left _ hj h
  obtain ⟨bytes, rest⟩ := closeActivity_recorded s
  have h1 := bytes.mono (L' := s.recording ++ s.ss.free.take 2) (by
    intro b h
    rcases List.mem_append.1 h with h | h
    · exact List.mem_append_left _ h
    · exact List.mem_append_right _ (hb 1 (by omega) b h))
  rcases rest with ⟨hp, _⟩ | ⟨j, hj, hr, hf⟩
  · have hw : pdmWord bits (closeActivity s) = closeActivity s := if_pos hp
    rw [hw]
    exact h1
  · refine h1.trans ((pdmWord_bytes bits _).mono ?_)
    rw [hr, hf]
    intro b h
    rcases List.mem_append.1 h with h | h
    · rcases List.mem_append.1 h with h | h
      · exact List.mem_append_left _ h
      · exact List.mem_append_right _ (hb j (by omega) b h)
    · refine List.mem_append_right _ (hb (j + 1) (by omega) b ?_)
      rw [List.take_add]
      exact List.mem_append_right _ h

end Sys2Proof.Machine
end

section
/-! The commands that leave the store's bytes as they were, and with them the statement on the bytes (R5). -/

namespace Sys2Proof.Machine

set_option Elab.async false

open Sys2Proof

variable {a s t : State}

/-! ## Operations on several blocks -/

theorem startLink_fore (h : Fore a s) : Fore a (startLink s) := enterTraining_fore (Fore.sensor (applyWaiting_fore h))

theorem stopLink_fore (h : Fore a s) : Fore a (stopLink s) := linkLost_fore (linkDown_fore h)

theorem markCurrent_mem {n : Nat} {u : State} (h : markCurrent s = some (n, u)) : u.mem = s.mem := by
  unfold markCurrent at h
  split at h
  · cases h
    rfl
  · split at h
    · cases h
      rfl
    · obtain ⟨m, _, hm⟩ := Option.bind_eq_some_iff.1 h
      obtain ⟨v, hv, hu⟩ := Option.map_eq_some_iff.1 hm
      cases hu
      unfold markNumber at hv
      split at hv
      · cases hv
        exact (markShot_serves .refl).mem
      · cases hv

theorem sensorSleep_fore (h : Fore a s) : Fore a (sensorSleep s) := ite_fore h (linkDown_fore h)

theorem focusSleep_aside (h : Aside a s) : Aside a (focusSleep s) := by
  unfold focusSleep
  split
  · exact h
  · exact quitServo_aside h

theorem tetherSleep_mem (s : State) : (tetherSleep s).mem = s.mem := by
  unfold tetherSleep
  extract_lets s1 tp ss s2
  have h1 : s1.mem = s.mem := by
    unfold s1
    split
    · exact (suspendTransfer_serves .refl).mem
    · rfl
  split
  · exact h1
  · exact (tetherDown_serves (.refl (a := s2))).mem.trans h1

theorem sleepPart_mem (s : State) : (sleepPart s).mem = s.mem := by
  unfold sleepPart
  extract_lets s1
  rw [(lensSleep_aside (.refl _)).mem, (cardSleep_serves (.refl (w := true))).mem, (memoSleep_serves (.refl (w := true))).mem,
    (developSleep_serves .refl).mem, (focusSleep_aside (.refl _)).mem, tetherSleep_mem, (sensorSleep_fore (.refl _)).mem]

theorem wakePart_mem (s : State) : (wakePart s).mem = s.mem := by
  unfold wakePart
  extract_lets held cp s1 s2 s3 s4 s5
  have h3 : s3.mem = s.mem := by
    unfold s3
    split <;> rfl
  have h4 : s4.mem = s.mem := (cardWake_serves (.refl (w := true))).mem.trans h3
  have h5 : s5.mem = s.mem := by
    unfold s5
    split
    · exact (handBack_serves .refl).mem.trans h4
    · exact h4
  rw [(filterStart_fore (.refl _)).mem, (linkUpStep_serves .refl).mem, (lensWake_aside (.refl _)).mem, h5]

theorem sampleLines_mem (s : State) : (sampleLines s).mem = s.mem := by
  unfold sampleLines
  rw [(filterStart_fore (.refl _)).mem, (linkUpStep_serves .refl).mem, (detectStep_aside (.refl _)).mem,
    (presentStep_serves (presentStep_serves (.refl (w := true)))).mem]

theorem resetPart_mem (s : State) : (resetPart s).mem = s.mem := sampleLines_mem _

theorem wakeFor_mem (quiet : Bool) (s : State) : (wakeFor quiet s).mem = s.mem := by
  unfold wakeFor
  split
  · exact wakePart_mem s
  · rfl

/-! ## The host commands -/

theorem hostCommand_mem {α : Type} {act : α → State → Answer} (hact : ∀ x t, (act x t).state.mem = t.mem) (g : Gate) (r : Req α)
    (s : State) : (hostCommand g r act s).mem = s.mem := by
  unfold hostCommand
  split
  · rfl
  · refine Eq.trans ?_ (wakeFor_mem (g == .quiet) s)
    show (judgeCommand _ _ _ _).state.mem = _
    unfold judgeCommand
    split
    · rfl
    · split
      · rfl
      · exact hact _ _

theorem badHostFrame_mem (tag : Byte) (st marked : Status) (s : State) : (badHostFrame tag st marked s).mem = s.mem := by
  unfold badHostFrame
  split
  · rfl
  · exact wakeFor_mem true s

theorem actShotKeep_mem (x : Nat) (s : State) : (actShotKeep x s).state.mem = s.mem := by
  unfold actShotKeep
  split
  · rfl
  · rfl

theorem actShotMark_mem (x : OrNamed Nat) (s : State) : (actShotMark x s).state.mem = s.mem := by
  cases x with
  | value n =>
    dsimp only [actShotMark, markNumber]
    split
    · rename_i u hu
      split at hu
      · cases hu
        exact (markShot_serves .refl).mem
      · cases hu
    · rfl
  | named =>
    dsimp only [actShotMark]
    split
    · rename_i n u hu
      exact markCurrent_mem hu
    · rfl

theorem actShotRelease_mem (x : Nat) (s : State) : (actShotRelease x s).state.mem = s.mem := by
  unfold actShotRelease
  split
  · split
    · exact (freeTest_serves (w := true) (.entry .refl (fun _ => {}))).mem
    · rfl
  · rfl

theorem actShotDelete_mem (x : Nat) (s : State) : (actShotDelete x s).state.mem = s.mem := by
  unfold actShotDelete
  split
  · exact (deleteShot_serves (n := x) (.refl (a := s))).mem
  · rfl

theorem actShotInfo_mem (x : Nat) (s : State) : (actShotInfo x s).state.mem = s.mem := by
  unfold actShotInfo
  split
  · rfl
  · rfl

theorem actLinkStart_mem (x : Unit) (s : State) : (actLinkStart x s).state.mem = s.mem := by
  unfold actLinkStart
  split
  · rfl
  · exact (startLink_fore (.refl s)).mem

theorem actLinkStop_mem (x : Unit) (s : State) : (actLinkStop x s).state.mem = s.mem := by
  unfold actLinkStop
  split
  · rfl
  · exact (stopLink_fore (.refl s)).mem

theorem actLaneTestStart_mem (x : Unit) (s : State) : (actLaneTestStart x s).state.mem = s.mem := by
  unfold actLaneTestStart
  split
  · rfl
  · split
    · rfl
    · exact (retest_fore (Fore.sensor (.refl s))).mem

theorem actLaneTestStop_mem (x : Unit) (s : State) : (actLaneTestStop x s).state.mem = s.mem := by
  unfold actLaneTestStop
  split
  · exact (retest_fore (Fore.sensor (.refl s))).mem
  · rfl

theorem actRelease_mem (x : OrNamed Nat) (s : State) : (actRelease x s).state.mem = s.mem := by
  unfold actRelease
  split
  · rfl
  · split
    · exact (startBurst_fore (.refl s)).mem
    · exact (takeRelease_fore (.refl s)).mem

theorem actReleaseEnd_mem (x : Unit) (s : State) : (actReleaseEnd x s).state.mem = s.mem := by
  unfold actReleaseEnd
  split
  · exact (takeOwnerEnd_fore (.refl s)).mem
  · rfl

theorem actBurstAbort_mem (x : Unit) (s : State) : (actBurstAbort x s).state.mem = s.mem := by
  unfold actBurstAbort
  split
  · rfl
  · exact (cutBurst_fore (.refl _)).mem.trans (by rw [(dropShotReadout_eq s).1])

theorem actSyncArm_mem (x : Unit) (s : State) : (actSyncArm x s).state.mem = s.mem := by
  unfold actSyncArm
  split
  · rfl
  · rfl

theorem actAfLensCoef_mem (x : Int) (s : State) : (actAfLensCoef x s).state.mem = s.mem := by
  unfold actAfLensCoef
  split
  · rfl
  · rfl

theorem actAfArea_mem (x : AreaArg) (s : State) : (actAfArea x s).state.mem = s.mem := by
  cases x <;> dsimp only [actAfArea] <;> split <;> rfl

theorem actAfStart_mem (x : Option ServoMode) (s : State) : (actAfStart x s).state.mem = s.mem := by
  cases x with
  | some m => exact (startServo_aside (.refl s)).mem
  | none => rfl

theorem actAfStop_mem (x : Unit) (s : State) : (actAfStop x s).state.mem = s.mem := by
  unfold actAfStop
  split
  · exact (stopServo_aside (.refl s)).mem
  · exact (stopServo_aside (.refl s)).mem

theorem actWatchSet_mem (x : Bool) (s : State) : (actWatchSet x s).state.mem = s.mem := by
  unfold actWatchSet
  split
  · rfl
  · rfl

theorem actAfGrid_mem (x : Nat) (s : State) : (actAfGrid x s).state.mem = s.mem := by
  unfold actAfGrid
  split
  · rfl
  · rfl

theorem actLensStart_mem (x : Unit) (s : State) : (actLensStart x s).state.mem = s.mem := by
  unfold actLensStart
  extract_lets lp s1
  show State.mem (if _ then _ else _) = _
  split
  · exact (lensWaiting_aside (.refl s1)).mem
  · rfl

theorem actLensHome_mem (x : Unit) (s : State) : (actLensHome x s).state.mem = s.mem := by
  unfold actLensHome
  split
  · rfl
  · split
    · rfl
    · exact (homingTest_aside (Aside.lens (.refl s))).mem

theorem actLensIris_mem (x : Nat) (s : State) : (actLensIris x s).state.mem = s.mem := by
  unfold actLensIris
  split
  · rfl
  · rfl

theorem actLensLimits_mem (x : LimitsArg) (s : State) : (actLensLimits x s).state.mem = s.mem := by
  unfold actLensLimits
  split
  · rfl
  · rfl

theorem actLensAux_mem (x : Word16) (s : State) : (actLensAux x s).state.mem = s.mem := by
  unfold actLensAux
  split
  · rfl
  · split
    · rfl
    · rfl

theorem actPositionSet_mem (x : Int) (s : State) : (actPositionSet x s).state.mem = s.mem := by
  unfold actPositionSet
  split
  · exact (reference_aside (Aside.lens (.refl s))).mem
  · rfl

theorem actRecipeSet_mem (x : Nat × Recipe) (s : State) : (actRecipeSet x s).state.mem = s.mem := by
  unfold actRecipeSet
  split
  · rfl
  · split
    · rfl
    · exact (raiseDefaulted_fore (.refl _)).mem

theorem actRecipeGet_mem (x : Nat) (s : State) : (actRecipeGet x s).state.mem = s.mem := by
  unfold actRecipeGet
  split
  · rfl
  · rfl

theorem actRecipeSelect_mem (x : Nat) (s : State) : (actRecipeSelect x s).state.mem = s.mem := by
  unfold actRecipeSelect
  split
  · rfl
  · rfl

theorem onSlot_mem {act : Slot → State → Answer} (hact : ∀ sl, (act sl s).state.mem = s.mem) (o : Option Slot) :
    (onSlot o act s).state.mem = s.mem := by
  cases o with
  | some sl => exact hact sl
  | none => rfl

theorem extentsOn_mem (l : List Run) (sl : Slot) (s : State) : (extentsOn l sl s).state.mem = s.mem := by
  unfold extentsOn
  dsimp only
  repeat' split
  all_goals first | rfl | exact (resumeSlot_serves (modSlot_serves (.refl (w := true)))).mem

theorem finalOn_mem (sl : Slot) (s : State) : (finalOn sl s).state.mem = s.mem := by
  have h : Serves true s (modSlot sl (fun c => { c with final := true }) s) := modSlot_serves .refl
  unfold finalOn
  split
  · rfl
  · show State.mem (if _ then _ else _) = _
    split
    · exact (overflowTest_serves h).mem
    · exact h.mem

theorem clearOn_mem (sl : Slot) (s : State) : (clearOn sl s).state.mem = s.mem := by
  unfold clearOn
  split
  · exact (slotSettle_serves (raiseCard_serves (modSlot_serves (.refl (w := true))))).mem
  · rfl

theorem takeOn_mem (sl : Slot) (s : State) : (takeOn sl s).state.mem = s.mem := by
  unfold takeOn
  split
  · rfl
  · exact (slotSettle_serves (modSlot_serves (.refl (w := true)))).mem

theorem ejectOn_mem (sl : Slot) (s : State) : (ejectOn sl s).state.mem = s.mem := by
  unfold ejectOn
  dsimp only
  repeat' split
  all_goals first | rfl | exact (raiseCard_serves (modSlot_serves (.refl (w := true)))).mem

theorem settingsOn_mem (low ms : Nat) (sl : Slot) (s : State) : (settingsOn low ms sl s).state.mem = s.mem := by
  unfold settingsOn
  split
  · exact (modSlot_serves (.refl (w := true))).mem
  · rfl

theorem actCaptionSet_mem (x : Nat × List Byte) (s : State) : (actCaptionSet x s).state.mem = s.mem := by
  unfold actCaptionSet
  split
  · rfl
  · split
    · rfl
    · split
      · rfl
      · exact (setCaption_serves .refl).mem

theorem actCaptionStanding_mem (x : OrNamed (List Byte)) (s : State) : (actCaptionStanding x s).state.mem = s.mem := by
  cases x with
  | value c => dsimp only [actCaptionStanding]; split <;> rfl
  | named => rfl

theorem actMemoLevel_mem (x : Int × Int) (s : State) : (actMemoLevel x s).state.mem = s.mem := by
  unfold actMemoLevel
  split
  · rfl
  · rfl

theorem startRecording_mem (m : MemoRec) (s : State) : (startRecording m s).mem = s.mem := by
  unfold startRecording
  extract_lets mi s1
  split
  · rw [(endMemo_serves .refl).mem]
  · rename_i m1 s2 ha
    obtain ⟨_, rfl, _⟩ := askBlock_some ha
    exact takeBlocks_mem 1 s1

theorem startMemo_mem (n : Nat) (s : State) : (startMemo n s).mem = s.mem := by
  unfold startMemo
  extract_lets m mi s1
  split
  · rfl
  · exact startRecording_mem m s1

theorem actMemoStart_mem (x : OrNamed Nat) (s : State) : (actMemoStart x s).state.mem = s.mem := by
  unfold actMemoStart
  split
  · rfl
  · split
    · exact startMemo_mem _ s
    · rfl

theorem actMemoStop_mem (x : Unit) (s : State) : (actMemoStop x s).state.mem = s.mem := by
  unfold actMemoStop
  split
  · exact (cancelMemo_serves (.refl (w := true))).mem
  · exact (endMemo_serves .refl).mem
  · rfl

theorem actGetNotice_mem (x : Unit) (s : State) : (actGetNotice x s).state.mem = s.mem := by
  unfold actGetNotice
  split
  · rfl
  · rfl

theorem actSetConfig_mem (x : ConfigArg) (s : State) : (actSetConfig x s).state.mem = s.mem := by
  unfold actSetConfig
  split
  · rfl
  · split
    · exact (takeConfig_fore (.refl s)).mem
    · rfl

theorem actGetConfig_mem (x : Option Group) (s : State) : (actGetConfig x s).state.mem = s.mem := by
  cases x <;> rfl

theorem actSleep_mem (x : Unit) (s : State) : (actSleep x s).state.mem = s.mem := by
  unfold actSleep
  split
  · rfl
  · exact sleepPart_mem s

/-! ## The events -/

theorem peerFrame_mem {act : State → State} (h : (act s).mem = s.mem) : (peerFrame act s).mem = s.mem := by
  unfold peerFrame
  split
  · rfl
  · exact h

theorem judgeAccept_mem (id start : Nat) (s : State) : (judgeAccept id start s).mem = s.mem := by
  unfold judgeAccept
  split
  · split
    · exact (acceptTransfer_serves .refl).mem
    · rfl
  · rfl

theorem judgeDecline_mem (id : Nat) (s : State) : (judgeDecline id s).mem = s.mem := by
  unfold judgeDecline
  split
  · exact (declineTransfer_serves .refl).mem
  · rfl

theorem judgeCredit_mem (count : Nat) (s : State) : (judgeCredit count s).mem = s.mem := by
  unfold judgeCredit
  split <;> rfl

theorem judgeAck_mem (id offset : Nat) (s : State) : (judgeAck id offset s).mem = s.mem := by
  unfold judgeAck
  split
  · split
    · rfl
    · split
      · rfl
      · exact (ackTransfer_serves .refl).mem
  · rfl

theorem refusePeer_mem (r : PeerRequest) (shot : Nat) (why : RefuseReason) (s : State) : (refusePeer r shot why s).mem = s.mem :=
  (refusePeer_serves .refl).mem

theorem notAvailable_mem (r : PeerRequest) (shot : Nat) (k : Option FileKind) (why : MissingReason) (s : State) :
    (notAvailable r shot k why s).mem = s.mem := (notAvailable_serves .refl).mem

theorem raisePeer_mem (r : PeerRequest) (shot : Nat) (k : Option FileKind) (count burst : Option Nat) (s : State) :
    (raisePeer r shot k count burst s).mem = s.mem := rfl

theorem judgeRelease_mem (count : Nat) (s : State) : (judgeRelease count s).mem = s.mem := by
  unfold judgeRelease
  split
  · exact refusePeer_mem ..
  · split
    · exact refusePeer_mem ..
    · split
      · exact (raisePeer_mem ..).trans (startBurst_fore (.refl s)).mem
      · exact (refusePeer_mem ..).trans (takeRelease_fore (.refl s)).mem

theorem judgeRemoteEnd_mem (s : State) : (judgeRemoteEnd s).mem = s.mem := by
  unfold judgeRemoteEnd
  split
  · exact refusePeer_mem ..
  · split
    · exact (raisePeer_mem ..).trans (takeOwnerEnd_fore (.refl s)).mem
    · exact refusePeer_mem ..

theorem judgeMark_mem (shot : Nat) (s : State) : (judgeMark shot s).mem = s.mem := by
  unfold judgeMark
  split
  · exact refusePeer_mem ..
  · split
    · rename_i u hu
      unfold markNumber at hu
      split at hu
      · cases hu
        exact (raisePeer_mem ..).trans (markShot_serves .refl).mem
      · cases hu
    · exact notAvailable_mem ..

theorem judgePullOf_mem (shot : Nat) (k : FileKind) (s : State) : (judgePullOf shot k s).mem = s.mem := by
  unfold judgePullOf
  repeat' split
  all_goals first
    | exact notAvailable_mem ..
    | exact (raisePeer_mem ..).trans (pullShot_serves .refl).mem

theorem judgePull_mem (shot : Nat) (kind : Option FileKind) (s : State) : (judgePull shot kind s).mem = s.mem := by
  unfold judgePull
  split
  · exact refusePeer_mem ..
  · split
    · exact judgePullOf_mem shot _ s
    · exact refusePeer_mem ..

theorem grantJob_mem (j : Job) (s : State) : (grantJob j s).mem = s.mem := takeBlocks_mem j.blocks s

theorem startJob_mem (s : State) : (startJob s).mem = s.mem := by
  unfold startJob
  split
  · rfl
  · extract_lets de s0
    split
    · rfl
    · extract_lets j s2 d
      split
      · exact grantJob_mem j s2
      · rfl

theorem collectReply_mem (s : State) : (collectReply s).mem = s.mem := by
  unfold collectReply
  split
  · rfl
  · split
    · exact resetPart_mem s
    · rfl

/-- What an operation leaves, its being taken under a condition leaves. -/
theorem when_mem {c : Prop} [Decidable c] {t : State} (h : t.mem = s.mem) : (if c then t else s).mem = s.mem := by
  split
  · exact h
  · rfl

theorem unless_mem {c : Prop} [Decidable c] {t : State} (h : t.mem = s.mem) : (if c then s else t).mem = s.mem := by
  split
  · rfl
  · exact h

theorem next_mem {u t : State} (hu : u.mem = s.mem) (e : (.next u : Host.Outcome State Fault Refusal) = .next t) : t.mem = s.mem := by
  cases e
  exact hu

/-- A line of the part takes a level, and a block acts on it. -/
theorem line_mem {l : Lines} {c : Prop} [Decidable c] {f : State → State} (hf : ∀ u : State, (f u).mem = u.mem) :
    State.mem (if c then f { s with lines := l } else { s with lines := l }) = s.mem := by
  split
  · exact hf _
  · rfl

/-! ## Every command -/

theorem exec_mem {c : Instr} (hc : storesBytes c = false) (hr : c ≠ .powerUpReset) (e : exec c s = .next t) : t.mem = s.mem := by
  cases c with
  | status r => exact next_mem (hostCommand_mem (fun _ _ => rfl) _ r s) e
  | replyCollected => exact next_mem (collectReply_mem s) e
  | powerUpReset => exact absurd rfl hr
  | commandReset => exact next_mem (when_mem (resetPart_mem s)) e
  | shotMark r => exact next_mem (hostCommand_mem actShotMark_mem _ r s) e
  | shotKeep r => exact next_mem (hostCommand_mem actShotKeep_mem _ r s) e
  | shotRelease r => exact next_mem (hostCommand_mem actShotRelease_mem _ r s) e
  | shotDelete r => exact next_mem (hostCommand_mem actShotDelete_mem _ r s) e
  | shotInfo r => exact next_mem (hostCommand_mem actShotInfo_mem _ r s) e
  | shotList r => exact next_mem (hostCommand_mem (fun _ _ => rfl) _ r s) e
  | linkStart r => exact next_mem (hostCommand_mem actLinkStart_mem _ r s) e
  | linkStop r => exact next_mem (hostCommand_mem actLinkStop_mem _ r s) e
  | laneTestStart r => exact next_mem (hostCommand_mem actLaneTestStart_mem _ r s) e
  | laneTestRead r => exact next_mem (hostCommand_mem (fun _ _ => rfl) _ r s) e
  | laneTestStop r => exact next_mem (hostCommand_mem actLaneTestStop_mem _ r s) e
  | linkStats r => exact next_mem (hostCommand_mem (fun _ _ => rfl) _ r s) e
  | release r => exact next_mem (hostCommand_mem actRelease_mem _ r s) e
  | releaseEnd r => exact next_mem (hostCommand_mem actReleaseEnd_mem _ r s) e
  | burstState r => exact next_mem (hostCommand_mem (fun _ _ => rfl) _ r s) e
  | burstAbort r => exact next_mem (hostCommand_mem actBurstAbort_mem _ r s) e
  | syncArm r => exact next_mem (hostCommand_mem actSyncArm_mem _ r s) e
  | syncState r => exact next_mem (hostCommand_mem (fun _ _ => rfl) _ r s) e
  | latencyStats r => exact next_mem (hostCommand_mem (fun _ _ => rfl) _ r s) e
  | latencyClear r => exact next_mem (hostCommand_mem (fun _ _ => rfl) _ r s) e
  | afLensCoef r => exact next_mem (hostCommand_mem actAfLensCoef_mem _ r s) e
  | afArea r => exact next_mem (hostCommand_mem actAfArea_mem _ r s) e
  | afStart r => exact next_mem (hostCommand_mem actAfStart_mem _ r s) e
  | afStop r => exact next_mem (hostCommand_mem actAfStop_mem _ r s) e
  | watchSet r => exact next_mem (hostCommand_mem actWatchSet_mem _ r s) e
  | watchReset r => exact next_mem (hostCommand_mem (fun _ _ => rfl) _ r s) e
  | afState r => exact next_mem (hostCommand_mem (fun _ _ => rfl) _ r s) e
  | afGrid r => exact next_mem (hostCommand_mem actAfGrid_mem _ r s) e
  | lensStart r => exact next_mem (hostCommand_mem actLensStart_mem _ r s) e
  | lensStop r => exact next_mem (hostCommand_mem (fun _ _ => rfl) _ r s) e
  | lensHome r => exact next_mem (hostCommand_mem actLensHome_mem _ r s) e
  | lensIris r => exact next_mem (hostCommand_mem actLensIris_mem _ r s) e
  | lensLimits r => exact next_mem (hostCommand_mem actLensLimits_mem _ r s) e
  | lensAux r => exact next_mem (hostCommand_mem actLensAux_mem _ r s) e
  | positionSet r => exact next_mem (hostCommand_mem actPositionSet_mem _ r s) e
  | lensState r => exact next_mem (hostCommand_mem (fun _ _ => rfl) _ r s) e
  | recipeSet r => exact next_mem (hostCommand_mem actRecipeSet_mem _ r s) e
  | recipeGet r => exact next_mem (hostCommand_mem actRecipeGet_mem _ r s) e
  | recipeSelect r => exact next_mem (hostCommand_mem actRecipeSelect_mem _ r s) e
  | developState r => exact next_mem (hostCommand_mem (fun _ _ => rfl) _ r s) e
  | cardExtents r => exact next_mem (hostCommand_mem (act := actCardExtents) (fun x t => onSlot_mem (fun sl => extentsOn_mem x.2 sl t) x.1) _ r s) e
  | cardFinal r => exact next_mem (hostCommand_mem (fun x t => onSlot_mem (fun sl => finalOn_mem sl t) x) _ r s) e
  | cardClear r => exact next_mem (hostCommand_mem (fun x t => onSlot_mem (fun sl => clearOn_mem sl t) x) _ r s) e
  | fileTake r => exact next_mem (hostCommand_mem (fun x t => onSlot_mem (fun sl => takeOn_mem sl t) x) _ r s) e
  | cardEject r => exact next_mem (hostCommand_mem (fun x t => onSlot_mem (fun sl => ejectOn_mem sl t) x) _ r s) e
  | cardState r => exact next_mem (hostCommand_mem (fun x t => onSlot_mem (fun _ => rfl) x) _ r s) e
  | cardSet r => exact next_mem (hostCommand_mem (act := actCardSet) (fun x t => onSlot_mem (fun sl => settingsOn_mem x.2.1 x.2.2 sl t) x.1) _ r s) e
  | tetherState r => exact next_mem (hostCommand_mem (fun _ _ => rfl) _ r s) e
  | captionSet r => exact next_mem (hostCommand_mem actCaptionSet_mem _ r s) e
  | captionStanding r => exact next_mem (hostCommand_mem actCaptionStanding_mem _ r s) e
  | memoLevel r => exact next_mem (hostCommand_mem actMemoLevel_mem _ r s) e
  | memoStart r => exact next_mem (hostCommand_mem actMemoStart_mem _ r s) e
  | memoStop r => exact next_mem (hostCommand_mem actMemoStop_mem _ r s) e
  | memoState r => exact next_mem (hostCommand_mem (fun _ _ => rfl) _ r s) e
  | getNotice r => exact next_mem (hostCommand_mem actGetNotice_mem _ r s) e
  | setConfig r => exact next_mem (hostCommand_mem actSetConfig_mem _ r s) e
  | getConfig r => exact next_mem (hostCommand_mem actGetConfig_mem _ r s) e
  | sleep r => exact next_mem (hostCommand_mem actSleep_mem _ r s) e
  | reset r => exact next_mem (hostCommand_mem (fun _ _ => rfl) _ r s) e
  | badFrame => exact next_mem (badHostFrame_mem _ _ _ s) e
  | unknown tag => exact next_mem (badHostFrame_mem _ _ _ s) e
  | notReady tag => exact next_mem (by exact when_mem rfl) e
  | closingComplete => exact next_mem (by exact when_mem rfl) e
  | enterStandby => exact next_mem (by exact when_mem rfl) e
  | wakeLine => exact next_mem (when_mem (wakePart_mem s)) e
  | alignmentWindowExpiry => exact next_mem (when_mem (failAttempt_fore (.refl s)).mem) e
  | noMarkTimeout => exact next_mem (when_mem (failAttempt_fore (.refl s)).mem) e
  | linkParametersHeader => exact next_mem (when_mem (judgeParams_fore (.refl s)).mem) e
  | trainingReassert => exact next_mem (by exact when_mem rfl) e
  | laneDrift wt => exact next_mem (when_mem (driftLanes_fore (.refl s)).mem) e
  | readoutEnd => cases hc
  | readoutSilence => cases hc
  | retrainPerformed => exact next_mem (when_mem (enterTraining_fore (Fore.sensor (.refl s))).mem) e
  | wheelSlot => cases hc
  | releaseFilterExpiry => exact next_mem (when_mem (filterTake_fore (.refl s)).mem) e
  | focusWaitExpiry => exact next_mem (when_mem (retest_fore (Fore.unit (.refl s))).mem) e
  | readoutTimeout => exact next_mem (when_mem (closeFrame_fore (voidShot_fore (Fore.unit (.refl s)))).mem) e
  | syncEdge => exact next_mem (unless_mem (syncEdgeAt_fore (.refl s)).mem) e
  | settleTimeout => exact next_mem (by exact when_mem rfl) e
  | lensDetectChange active => exact next_mem (line_mem (fun u => (detectStep_aside (.refl u)).mem)) e
  | statusSlot w => exact next_mem (when_mem (takeStatus_aside (.refl s)).mem) e
  | driveSlot => exact next_mem (when_mem (sendDrive_aside (.refl s)).mem) e
  | irisSlot => exact next_mem (by exact when_mem rfl) e
  | auxSlot w => exact next_mem (by exact when_mem rfl) e
  | lensFrameEnd => exact next_mem (when_mem (endFrame_aside (.refl s)).mem) e
  | homeTimeout => exact next_mem (by exact when_mem rfl) e
  | encoderEdge x y => exact next_mem (encoderStep_aside x y s).mem e
  | indexEvent => exact next_mem (indexStep_aside (.refl s)).mem e
  | developJobStart => exact next_mem (when_mem (startJob_mem s)) e
  | cardPresentChange sl active => exact next_mem (line_mem (fun u => (presentStep_serves (.refl (a := u) (w := true))).mem)) e
  | fileStart sl => exact next_mem (when_mem (startFile_serves (.refl (w := true))).mem) e
  | cardWriteIssue sl => exact next_mem (issueWrite_serves (.refl (w := true))).mem e
  | tetherLinkChange up => exact next_mem (line_mem (fun u => (linkUpStep_serves (.refl (a := u))).mem)) e
  | peerBadFrame => exact next_mem (peerFrame_mem rfl) e
  | transferStart => exact next_mem (when_mem (startTransfer_serves (.refl (w := true))).mem) e
  | accept id start => exact next_mem (peerFrame_mem (judgeAccept_mem .. )) e
  | decline id => exact next_mem (peerFrame_mem (judgeDecline_mem id s)) e
  | credit count => exact next_mem (peerFrame_mem (judgeCredit_mem .. )) e
  | ack id offset => exact next_mem (peerFrame_mem (judgeAck_mem .. )) e
  | remoteRelease count => exact next_mem (peerFrame_mem (judgeRelease_mem .. )) e
  | remoteEnd => exact next_mem (peerFrame_mem (judgeRemoteEnd_mem .. )) e
  | mark shot => exact next_mem (peerFrame_mem (judgeMark_mem .. )) e
  | pull shot kind => exact next_mem (peerFrame_mem (judgePull_mem .. )) e
  | memoSample bits => cases hc
  | activityFrameEnd => cases hc
  | laneSymbol lane sym wt =>
    simp only [exec, execLaneSymbol] at e
    split at e
    · exact next_mem (takeSymbol_fore (.refl s)).mem e
    · exact next_mem rfl e
  | laneMark lane wt =>
    simp only [exec, execLaneMark] at e
    split at e
    · exact next_mem (takeMark_fore (.refl s)).mem e
    · exact next_mem rfl e
  | readoutHeader => cases hc
  | line => cases hc
  | reservationGrant =>
    simp only [exec, execReservationGrant] at e
    split at e
    · exact next_mem (when_mem (grantReservation_fore (.refl s)).mem) e
    · exact next_mem rfl e
  | frameFire =>
    simp only [exec, execFrameFire] at e
    split at e
    · rename_i b hb
      exact next_mem (when_mem (fireFrame_fore hb (.refl s)).mem) e
    · exact next_mem rfl e
  | allocationGrant =>
    simp only [exec, execAllocationGrant] at e
    split at e
    · exact next_mem (when_mem (grantJob_mem _ s)) e
    · exact next_mem rfl e
  | developComplete => cases hc
  | cardWriteDone sl write =>
    simp only [exec, execCardWriteDone] at e
    split at e
    · exact next_mem (writeDone_serves (.refl (w := true))).mem e
    · exact next_mem rfl e
  | cardWriteError sl write =>
    simp only [exec, execCardWriteError] at e
    split at e
    · exact next_mem (writeFailed_serves (.refl (w := true))).mem e
    · exact next_mem rfl e
  | writeTimeout sl =>
    simp only [exec, execWriteTimeout] at e
    split at e
    · exact next_mem (writeFailed_serves (.refl (w := true))).mem e
    · exact next_mem rfl e
  | segSend =>
    simp only [exec, execSegSend] at e
    split at e
    · exact next_mem (when_mem (sendSegment_serves (.refl (w := true))).mem) e
    · exact next_mem rfl e
  | ackTimerExpiry =>
    simp only [exec, execAckTimerExpiry] at e
    split at e
    · exact next_mem (when_mem (ackExpired_serves (.refl (w := true))).mem) e
    · exact next_mem rfl e
  | captionUpdate =>
    simp only [exec, execCaptionUpdate] at e
    split at e
    · exact next_mem (when_mem (sendCaption_serves (.refl (w := true))).mem) e
    · exact next_mem rfl e
  | releaseLineChange pressed =>
    refine next_mem ?_ e
    split
    · rfl
    · unfold lineMoves
      split
      · rfl
      · exact (filterStart_fore (.refl _)).mem

/-- A command that stores bytes stores them in its own blocks alone. -/
theorem exec_bytes {c : Instr} (hc : storesBytes c = true) (e : exec c s = .next t) : BytesOff (s.storedBlocks c) s.mem t.mem := by
  have next : ∀ {L : List Nat} {u : State}, BytesOff L s.mem u.mem → (.next u : Host.Outcome State Fault Refusal) = .next t →
      BytesOff L s.mem t.mem := by
    rintro L u h ⟨⟩
    exact h
  cases c with
  | readoutHeader =>
    simp only [exec, execReadoutHeader] at e
    split at e
    · exact next (takeHeader_bytes _ s) e
    · exact next (.refl _ _) e
  | line =>
    simp only [exec, execLine] at e
    split at e
    · exact next (takeLine_bytes _ s) e
    · exact next (.refl _ _) e
  | readoutEnd =>
    simp only [exec, execReadoutEnd] at e
    split at e
    · exact next (takeStop_bytes s) e
    · exact next (.refl _ _) e
  | readoutSilence =>
    simp only [exec, execReadoutSilence] at e
    split at e
    · exact next (closeSilent_bytes s) e
    · exact next (.refl _ _) e
  | wheelSlot =>
    simp only [exec, execWheelSlot] at e
    split at e
    · exact next (.refl _ _) e
    · exact next (visitSlot_bytes s) e
  | developComplete =>
    simp only [exec, execDevelopComplete] at e
    split at e
    · split at e
      · exact next (completeJob_bytes ‹_›) e
      · exact next (.refl _ _) e
    · exact next (.refl _ _) e
  | memoSample bits => exact next (memoSample_bytes bits s) e
  | activityFrameEnd =>
    refine next ((closeActivity_recorded s).bytes.mono (fun b h => ?_)) e
    rcases List.mem_append.1 h with h | h
    · exact List.mem_append_left _ h
    · exact List.mem_append_right _ (List.take_subset_take_left _ (by omega) h)
  | _ => cases hc

/-- Settles O25. -/
theorem storedBytes : Obligations.StoredBytes :=
  ⟨fun _ _ _ hm e hc _ ha => (exec_bytes hc e).reads hm _ ha, fun _ _ _ e hc hr => exec_mem hc hr e⟩

end Sys2Proof.Machine
end

section
/-! The capture floor (R8): each allocation of a development job or a memo leaves the floor free, and all else that these
operations do only gives blocks back. -/

namespace Sys2Proof.Machine

set_option Elab.async false

open Sys2Proof

variable {w : Bool} {a s t : State}

/-- From `s` to `t` the free count has not fallen, or is at least the floor. -/
structure Floor (s t : State) : Prop where
  cfg : t.cfg = s.cfg
  kept : s.freeCount ≤ t.freeCount ∨ s.cfg.store.floor ≤ t.freeCount

theorem Floor.refl (s : State) : Floor s s := ⟨rfl, .inl (Nat.le_refl _)⟩

theorem Floor.trans (h1 : Floor a s) (h2 : Floor s t) : Floor a t := by
  refine ⟨h2.cfg.trans h1.cfg, ?_⟩
  have hf : s.cfg.store.floor = a.cfg.store.floor := by rw [h1.cfg]
  have h1 := h1.kept
  have h2 := h2.kept
  omega

/-- A change that leaves the settings and the free list. -/
theorem Floor.same (hc : t.cfg = s.cfg) (hf : t.ss.free = s.ss.free) : Floor s t :=
  ⟨hc, .inl (by unfold State.freeCount; rw [hf])⟩

theorem Serves.cfg (h : Serves w a s) : s.cfg = a.cfg := by
  induction h with
  | refl => rfl
  | give _ ih => rw [giveBlocks_eq]; exact ih
  | _ => assumption

theorem Serves.floor (h : Serves w a s) : Floor a s := ⟨h.cfg, .inl h.freeCount⟩

/-- An allocation that the store may make. -/
theorem takeBlocks_floor {n : Nat} (h : n + s.cfg.store.floor ≤ s.freeCount) : Floor s (takeBlocks n s).2 := by
  refine ⟨by rw [takeBlocks_eq], .inr ?_⟩
  unfold State.freeCount at h ⊢
  rw [takeBlocks_free, List.length_drop]
  omega

theorem grantJob_floor {j : Job} (h : s.mayGrantJob j = true) : Floor s (grantJob j s) := by
  have hn : j.blocks + s.cfg.store.floor ≤ s.freeCount := of_decide_eq_true (Bool.and_eq_true_iff.1 h).1
  exact (takeBlocks_floor hn).trans (.same rfl rfl)

theorem startJob_floor (s : State) : Floor s (startJob s) := by
  unfold startJob
  split
  · exact .refl s
  · extract_lets de s0
    split
    · exact .same rfl rfl
    · extract_lets j s2 d
      have h2 : Floor s s2 := .same rfl rfl
      split
      · exact h2.trans (grantJob_floor ‹_›)
      · exact h2.trans (.same rfl rfl)

theorem endMemo_floor (r : MemoReason) (m : MemoRec) (s : State) : Floor s (endMemo r m s) := (endMemo_serves .refl).floor

theorem recordSample_floor (x : Int) (m : MemoRec) (s : State) : Floor s (recordSample x m s) := by
  unfold recordSample
  split
  · exact endMemo_floor ..
  · rename_i m1 s1 hr
    have h1 : Floor s s1 := by
      rcases withRoom_some hr with ⟨_, rfl⟩ | ⟨_, rfl, hf⟩
      · exact .refl _
      · exact takeBlocks_floor hf
    extract_lets m2 mi s2
    have h2 : Floor s s2 := h1.trans (.same rfl rfl)
    clear_value s2
    split
    · exact h2.trans (endMemo_floor ..)
    · exact h2

theorem startRecording_floor (m : MemoRec) (s : State) : Floor s (startRecording m s) := by
  unfold startRecording
  extract_lets mi s1
  have h1 : Floor s s1 := .same rfl rfl
  clear_value s1
  split
  · exact h1.trans (endMemo_floor ..)
  · rename_i m1 s2 ha
    obtain ⟨_, rfl, hf⟩ := askBlock_some ha
    exact (h1.trans (takeBlocks_floor hf)).trans (.same rfl rfl)

theorem startMemo_floor (n : Nat) (s : State) : Floor s (startMemo n s) := by
  unfold startMemo
  extract_lets m mi s1
  have h1 : Floor s s1 := .same rfl rfl
  split
  · exact h1.trans (.same rfl rfl)
  · exact h1.trans (startRecording_floor m s1)

theorem voiceStart_floor (m : MemoRec) (l : List Int) (s : State) : Floor s (voiceStart m l s) := by
  unfold voiceStart
  extract_lets mi s1
  have h1 : Floor s s1 := .same rfl rfl
  clear_value s1
  split
  · exact h1.trans (endMemo_floor ..)
  · rename_i m1 s2 ha
    obtain ⟨_, rfl, hf⟩ := askBlock_some ha
    exact (h1.trans (takeBlocks_floor hf)).trans (.same rfl rfl)

theorem endActivity_floor (s : State) : Floor s (endActivity s) := by
  unfold endActivity
  extract_lets l f mi s1
  have h1 : Floor s s1 := .same rfl rfl
  clear_value s1
  split
  · split
    · exact h1.trans (voiceStart_floor ..)
    · exact h1
  · extract_lets m1 s2
    have h2 : Floor s s2 := h1.trans (.same rfl rfl)
    split
    · exact h2.trans (endMemo_floor ..)
    · exact h2
  · exact h1

theorem closeActivity_floor (s : State) : Floor s (closeActivity s) := by
  unfold closeActivity
  split
  · exact endActivity_floor s
  · exact .refl s

theorem takeSample_floor (x : Int) (s : State) : Floor s (takeSample x s) := by
  unfold takeSample
  split
  · exact .same rfl rfl
  · exact recordSample_floor ..
  · exact .refl s

theorem pdmWord_floor (bits : BitVec 192) (s : State) : Floor s (pdmWord bits s) := by
  have decimated : ∀ d, Floor s { s with mi := { s.mi with decimator := d } } := fun _ => .same rfl rfl
  unfold pdmWord
  split
  · exact .refl s
  · extract_lets r
    split
    · exact decimated _
    · exact (decimated _).trans (takeSample_floor ..)

theorem actMemoStart_floor (x : OrNamed Nat) (s : State) : Floor s (actMemoStart x s).state := by
  unfold actMemoStart
  split
  · exact .refl s
  · split
    · exact startMemo_floor _ s
    · exact .refl s

/-- A host command in ACTIVE or CLOSING keeps the floor where its effect does. -/
theorem hostCommand_floor {α : Type} {act : α → State → Answer} (hact : ∀ x t, Floor t (act x t).state) (g : Gate) (r : Req α)
    (h : s.cp.power = .active ∨ s.cp.power = .closing) : Floor s (hostCommand g r act s) := by
  have hw : wakeFor (g == .quiet) s = s := by
    refine if_neg ?_
    rcases h with h | h <;> simp [State.wakesOn, h]
  unfold hostCommand
  rw [hw]
  split
  · exact .same rfl rfl
  · refine Floor.trans (s := (judgeCommand g r.fields act s).state) ?_ (.same rfl rfl)
    unfold judgeCommand
    split
    · exact .refl s
    · split
      · exact .refl s
      · exact hact _ _

theorem exec_floor {c : Instr} (hc : allocates c = true) (h : s.cp.power = .active ∨ s.cp.power = .closing)
    (e : exec c s = .next t) : Floor s t := by
  have next : ∀ {u : State}, Floor s u → (.next u : Host.Outcome State Fault Refusal) = .next t → Floor s t := by
    rintro u h ⟨⟩
    exact h
  cases c with
  | developJobStart =>
    simp only [exec, execDevelopJobStart] at e
    split at e
    · exact next (startJob_floor s) e
    · exact next (.refl s) e
  | allocationGrant =>
    simp only [exec, execAllocationGrant] at e
    split at e
    · split at e
      · rename_i hg
        exact next (grantJob_floor hg.2) e
      · exact next (.refl s) e
    · exact next (.refl s) e
  | memoStart r => exact next (hostCommand_floor actMemoStart_floor _ r h) e
  | memoSample bits => exact next ((closeActivity_floor s).trans (pdmWord_floor bits _)) e
  | activityFrameEnd => exact next (closeActivity_floor s) e
  | _ => cases hc

/-- Settles O26. -/
theorem floorKept : Obligations.FloorKept := fun _ _ _ hc h e => (exec_floor hc h e).kept

end Sys2Proof.Machine
end

section
/-! The read wheel (R23): a slot's visit, and what a granted read does for each reader. With it the rules of a HELD shot's record
under a change of it, of another, and when its entry is cleared. -/

namespace Sys2Proof.Machine

set_option Elab.async false

open Sys2Proof

variable {w : Bool} {a s t : State}

/-! ## A HELD shot found after a change -/

/-- A change that leaves a HELD shot of number `n` one. -/
theorem held_modHeld_map {n : Nat} {f : Shot → Shot} (hf : ∀ x, isHeld n x = true → isHeld n (f x) = true) (s : State) :
    (modHeld n f s).held n = (s.held n).map f := by
  cases h : s.held n with
  | none =>
    unfold State.held modHeld at *
    rw [modEntry_ss, updateFirst_none h, h]
    rfl
  | some x => exact held_modHeld h (hf x (find_mem h).2)

/-- A change of one shot's record leaves the others' found. -/
theorem held_modHeld_other {m n : Nat} {f : Shot → Shot} (hmn : m ≠ n) (hf : ∀ x, isHeld n x = true → isHeld m (f x) = false)
    (s : State) : (modHeld n f s).held m = s.held m := by
  show (updateFirst (isHeld n) f s.ss.table).find? (isHeld m) = s.ss.table.find? (isHeld m)
  induction s.ss.table with
  | nil => rfl
  | cons x l ih =>
    unfold updateFirst
    split
    · rename_i hx
      have hm : isHeld m x = false := by
        have := (isHeld_iff.1 hx).2
        simp [isHeld, this, Ne.symm hmn]
      rw [List.find?_cons_of_neg (by simp [hf x hx]), List.find?_cons_of_neg (by simp [hm])]
    · rw [List.find?_cons, List.find?_cons, ih]

/-- Where no two HELD shots share a number, a shot whose entry is cleared is not found. -/
theorem held_clear {n : Nat} (hn : (s.heldShots.map (·.number)).Nodup) : (modHeld n (fun _ => {}) s).held n = none := by
  show (updateFirst (isHeld n) (fun _ => {}) s.ss.table).find? (isHeld n) = none
  unfold State.heldShots at hn
  generalize s.ss.table = l at hn ⊢
  induction l with
  | nil => rfl
  | cons x l ih =>
    unfold updateFirst
    split
    · rename_i hx
      obtain ⟨hs, hnum⟩ := isHeld_iff.1 hx
      rw [List.find?_cons_of_neg (by simp [isHeld])]
      refine List.find?_eq_none.2 (fun y hy hy' => ?_)
      obtain ⟨hys, hyn⟩ := isHeld_iff.1 hy'
      rw [List.filter_cons_of_pos (by simp [hs]), List.map_cons, List.nodup_cons] at hn
      exact hn.1 (List.mem_map.2 ⟨y, List.mem_filter.2 ⟨hy, by simp [hys]⟩, hyn.trans hnum.symm⟩)
    · rename_i hx
      rw [List.find?_cons_of_neg hx]
      refine ih (hn.sublist ?_)
      exact ((List.sublist_cons_self x l).filter _).map _

/-- The numbers of the HELD shots stand through a change that leaves each a HELD shot of its number. -/
theorem heldNumbers_modHeld {n : Nat} {f : Shot → Shot} (hf : ∀ x, isHeld n x = true → isHeld n (f x) = true) (s : State) :
    (modHeld n f s).heldShots.map (·.number) = s.heldShots.map (·.number) := by
  show ((updateFirst (isHeld n) f s.ss.table).filter _).map _ = (s.ss.table.filter _).map _
  induction s.ss.table with
  | nil => rfl
  | cons x l ih =>
    unfold updateFirst
    split
    · rename_i hx
      obtain ⟨hs, hnum⟩ := isHeld_iff.1 hx
      obtain ⟨hs', hnum'⟩ := isHeld_iff.1 (hf x hx)
      rw [List.filter_cons_of_pos (p := fun t : Shot => t.state == .held) (by simp [hs']),
        List.filter_cons_of_pos (p := fun t : Shot => t.state == .held) (by simp [hs]), List.map_cons, List.map_cons, hnum, hnum']
    · rw [List.filter_cons, List.filter_cons]
      split
      · rw [List.map_cons, List.map_cons, ih]
      · exact ih

theorem held_congr {n : Nat} (h : t.ss.table = s.ss.table) : t.held n = s.held n := by
  unfold State.held
  rw [h]

/-! ## The visit -/

theorem granted_none {r : Reader} (h : ∀ r, s.readerWaits r = false) : s.granted r = none := by
  unfold State.granted
  exact List.find?_eq_none.2 (fun x _ => by simp [h x])

/-- The readers in the order in which a slot that names `r` grants them (R23). -/
def grantOrder (r : Reader) : List Reader :=
  match r with
  | .a => [.a, .b, .d, .t]
  | .b => [.b, .d, .t, .a]
  | .d => [.d, .t, .a, .b]
  | .t => [.t, .a, .b, .d]

theorem granted_eq (r : Reader) (s : State) : s.granted r = (grantOrder r).find? s.readerWaits := by
  cases r <;> rfl

theorem granted_first {r g : Reader} {before after : List Reader} (ho : grantOrder r = before ++ g :: after)
    (hb : ∀ x ∈ before, s.readerWaits x = false) (hg : s.readerWaits g = true) : s.granted r = some g := by
  rw [granted_eq, ho, List.find?_append, List.find?_eq_none.2 (fun x hx => by simp [hb x hx]), List.find?_cons_of_pos hg]
  rfl

/-! ## The reads -/

/-- A shot with the reader's pin on it (R23). -/
def pinnedBy (r : Reader) (k : FileKind) (x : Shot) : Shot :=
  if x.pins.any (fun p => p.reader == r) = true then x else { x with pins := x.pins ++ [⟨r, k⟩] }

theorem isHeld_pinnedBy (r : Reader) (k : FileKind) {n : Nat} {x : Shot} (h : isHeld n x = true) :
    isHeld n (pinnedBy r k x) = true := by
  unfold pinnedBy
  split
  · exact h
  · exact h

theorem addPin_eq (n : Nat) (r : Reader) (k : FileKind) (s : State) : addPin n r k s = modHeld n (pinnedBy r k) s := rfl

theorem held_addPin (n : Nat) (r : Reader) (k : FileKind) (s : State) :
    (addPin n r k s).held n = (s.held n).map (pinnedBy r k) := held_modHeld_map (fun _ => isHeld_pinnedBy r k) s

/-- A shot without the reader's pin. -/
def unpinnedBy (r : Reader) (x : Shot) : Shot := { x with pins := x.pins.filter (fun p => p.reader != r) }

theorem dropPin_eq (n : Nat) (r : Reader) (s : State) : dropPin n r s = modHeld n (unpinnedBy r) s := rfl

/-- A shot without its proof extent. -/
def withoutProof (x : Shot) : Shot := { x with proof := none }

theorem dropProof_table {n : Nat} {e : Proof} (h : (s.held n).bind (·.proof) = some e) :
    (dropProof n s).ss.table = (modHeld n withoutProof s).ss.table := by
  unfold dropProof
  rw [h]
  dsimp only
  rw [giveBlocks_eq]
  rfl

theorem Serves.de (h : Serves false a s) : s.de = a.de := h.port_engine.2

/-- The tests after a read leave a shot, if it stands, with the pins that it had. -/
theorem shotTests_pins {n : Nat} {u : Shot} (hn : (s.heldShots.map (·.number)).Nodup) (hu : (shotTests n s).held n = some u) :
    ∃ x, s.held n = some x ∧ u.pins = x.pins := by
  have hproof : ∃ f : Shot → Shot, (∀ x, isHeld n x = true → isHeld n (f x) = true) ∧ (∀ x, (f x).pins = x.pins)
      ∧ (proofTest n s).ss.table = (modHeld n f s).ss.table := by
    have hid : s.ss.table = (modHeld n id s).ss.table := by
      show _ = updateFirst (isHeld n) id s.ss.table
      cases h : s.held n with
      | none => exact (updateFirst_none h).symm
      | some x => rw [updateFirst_found h]; exact (updateFirst_same h).symm
    unfold proofTest
    split
    · split
      · cases he : (s.held n).bind (·.proof) with
        | some e => exact ⟨withoutProof, fun _ hx => hx, fun _ => rfl, dropProof_table he⟩
        | none =>
          refine ⟨id, fun _ => id, fun _ => rfl, ?_⟩
          unfold dropProof
          rw [he]
          exact hid
      · exact ⟨id, fun _ => id, fun _ => rfl, hid⟩
    · exact ⟨id, fun _ => id, fun _ => rfl, hid⟩
  obtain ⟨f, hf, hpins, ht⟩ := hproof
  have hp : (proofTest n s).held n = (s.held n).map f := (held_congr ht).trans (held_modHeld_map hf s)
  have hnp : ((proofTest n s).heldShots.map (·.number)).Nodup := by
    have e : (proofTest n s).heldShots = (modHeld n f s).heldShots := by
      unfold State.heldShots
      rw [ht]
    rw [e, heldNumbers_modHeld hf]
    exact hn
  have hfree : (proofTest n s).held n = some u := by
    unfold shotTests freeTest at hu
    split at hu
    · split at hu
      · obtain ⟨m, c, e⟩ := abortArmed_eq n (giveBlocks (Shot.blocks ‹_›) (modHeld n (fun _ => {}) (proofTest n s)))
        rw [e, held_congr (s := modHeld n (fun _ => {}) (proofTest n s)) (by rw [giveBlocks_eq]), held_clear hnp] at hu
        cases hu
      · exact hu
    · exact hu
  rw [hp] at hfree
  obtain ⟨x, hx, rfl⟩ := Option.map_eq_some_iff.1 hfree
  exact ⟨x, hx, hpins x⟩

theorem tetherRead_eq {x : Transfer} (h : s.tp.transfer = some x) : tetherRead s = { s with
    ss := { s.ss with table := updateFirst (isHeld x.shot) (pinnedBy .t x.kind) s.ss.table }
    tp := { s.tp with
      transfer := some { x with readTo := x.readTo + min 4096 (min x.total (x.sent + 16384) - x.readTo) } } } := by
  unfold tetherRead
  rw [h]
  rfl

theorem cardRead_a_eq {f : CardFile} (h : s.cw.a.file = some f) : cardRead .a s = { s with
    ss := { s.ss with table := updateFirst (isHeld f.shot) (pinnedBy .a f.kind) s.ss.table }
    cw := { s.cw with a := { s.cw.a with file := some { f with inHand := f.inHand + min 4096 (f.payload - f.inHand) } } } } := by
  have hf : (s.slot .a).file = some f := h
  unfold cardRead
  rw [hf]
  rfl

theorem cardRead_b_eq {f : CardFile} (h : s.cw.b.file = some f) : cardRead .b s = { s with
    ss := { s.ss with table := updateFirst (isHeld f.shot) (pinnedBy .b f.kind) s.ss.table }
    cw := { s.cw with b := { s.cw.b with file := some { f with inHand := f.inHand + min 4096 (f.payload - f.inHand) } } } } := by
  have hf : (s.slot .b).file = some f := h
  unfold cardRead
  rw [hf]
  rfl

/-- A job after one more read (R125, R126). -/
def Job.afterRead (j : Job) : Job := { j with bytesRead := j.bytesRead + min 4096 (j.toRead - j.bytesRead) }

/-- The state after one more read of a job, its pin kept (R23, R125, R126). -/
def State.jobRead (s : State) (j : Job) : State :=
  addPin j.shot .d .raw { s with
    mem := writeRows (s.jobExtents j).1 (s.jobExtents j).2 j.afterRead j.afterRead.rowsDuring s.mem
    de := { s.de with job := some { j.afterRead with rows := j.afterRead.rowsDuring } } }

theorem developRead_eq {j : Job} (h : s.de.job = some j) : developRead s =
    if j.toRead ≤ j.afterRead.bytesRead then shotTests j.shot (dropPin j.shot .d (s.jobRead j)) else s.jobRead j := by
  unfold developRead
  rw [h]
  rfl

theorem developRead_de {j : Job} (h : s.de.job = some j) :
    (developRead s).de = { s.de with job := some { j.afterRead with rows := j.afterRead.rowsDuring } } := by
  rw [developRead_eq h]
  split
  · exact (shotTests_serves (dropPin_serves .refl)).de
  · rfl

theorem developRead_mem {j : Job} (h : s.de.job = some j) :
    (developRead s).mem = writeRows (s.jobExtents j).1 (s.jobExtents j).2 j.afterRead j.afterRead.rowsDuring s.mem := by
  rw [developRead_eq h]
  split
  · exact (shotTests_serves (dropPin_serves (.refl (w := true)))).mem
  · rfl

theorem held_jobRead (s : State) (j : Job) : (s.jobRead j).held j.shot = (s.held j.shot).map (pinnedBy .d .raw) :=
  held_addPin ..

/-- After its last read the engine holds no pin on the shot. -/
theorem developRead_unpins {j : Job} (h : s.de.job = some j) (hl : j.toRead ≤ j.afterRead.bytesRead) {u : Shot}
    (hu : (developRead s).held j.shot = some u) (hn : (s.heldShots.map (·.number)).Nodup) : ∀ p ∈ u.pins, p.reader ≠ .d := by
  rw [developRead_eq h, if_pos hl] at hu
  have hn' : ((dropPin j.shot .d (s.jobRead j)).heldShots.map (·.number)).Nodup := by
    rw [dropPin_eq, heldNumbers_modHeld (f := unpinnedBy .d) (fun _ hx => hx)]
    unfold State.jobRead
    rw [addPin_eq, heldNumbers_modHeld (fun _ => isHeld_pinnedBy .d .raw)]
    exact hn
  obtain ⟨x, hx, hp⟩ := shotTests_pins hn' hu
  rw [dropPin_eq, held_modHeld_map (f := unpinnedBy .d) (fun _ hx => hx)] at hx
  obtain ⟨y, _, rfl⟩ := Option.map_eq_some_iff.1 hx
  rw [hp]
  intro p hmem
  simpa using (List.mem_filter.1 hmem).2

/-- Settles O24. -/
theorem wheelSlot : Obligations.WheelSlot := by
  intro s
  refine ⟨fun h => congrArg Host.Outcome.next (if_pos h), fun h => ?_, ?_, ?_, ?_, ?_⟩
  · have hv : exec .wheelSlot s = .next (visitSlot s) := congrArg Host.Outcome.next (if_neg h)
    intro s1 on order
    have ho : order = grantOrder (s1.cfg.store.wheel.getD s.ss.wheelPos .a) := rfl
    clear_value order
    rw [hv]
    refine ⟨fun hw => ?_, fun before r after hbra hb hr => ?_⟩
    · have hg : s1.granted (s1.cfg.store.wheel.getD s.ss.wheelPos .a) = none := granted_none hw
      unfold visitSlot
      show Host.Outcome.next (on (match s1.granted (s1.cfg.store.wheel.getD s.ss.wheelPos .a) with
        | some r => grantRead r s1 | none => s1)) = _
      rw [hg]
    · have hg := granted_first (ho ▸ hbra) hb hr
      unfold visitSlot
      show Host.Outcome.next (on (match s1.granted (s1.cfg.store.wheel.getD s.ss.wheelPos .a) with
        | some r => grantRead r s1 | none => s1)) = _
      rw [hg]
  · intro f hf
    exact ⟨cardRead_a_eq hf, (congrArg (State.held · f.shot) (cardRead_a_eq hf)).trans (held_addPin f.shot .a f.kind s)⟩
  · intro f hf
    exact ⟨cardRead_b_eq hf, (congrArg (State.held · f.shot) (cardRead_b_eq hf)).trans (held_addPin f.shot .b f.kind s)⟩
  · intro j hj lines all read rows u
    refine ⟨developRead_de hj, developRead_mem hj, fun hr => ?_, fun hl v hv hn => developRead_unpins hj hl hv hn⟩
    have hlt : ¬ j.toRead ≤ j.afterRead.bytesRead := Nat.not_le.2 hr
    show (developRead s).held j.shot = _
    rw [developRead_eq hj, if_neg hlt]
    exact held_jobRead s j
  · intro x hx
    exact ⟨tetherRead_eq hx, (congrArg (State.held · x.shot) (tetherRead_eq hx)).trans (held_addPin x.shot .t x.kind s)⟩

end Sys2Proof.Machine
end

section
/-! The reporting commands: each answers with the record of its rule and changes nothing. SHOT_LIST takes the lowest numbers
of a sorted list (R21). -/

namespace Sys2Proof.Machine

set_option Elab.async false

open Sys2Proof

variable {s : State}

/-! ## SHOT_LIST's choice -/

/-- The HELD shots at or above a number, in increasing order of number. -/
def State.shotsFrom (s : State) (n : Nat) : List Shot :=
  (s.heldShots.filter (fun t => decide (n ≤ t.number))).insertionSort (fun x y => x.number ≤ y.number)

theorem listedShots_eq (n : Nat) (s : State) : s.listedShots n = (s.shotsFrom n).take 64 := rfl

theorem mem_shotsFrom {n : Nat} {x : Shot} : x ∈ s.shotsFrom n ↔ x ∈ s.heldShots ∧ n ≤ x.number := by
  unfold State.shotsFrom
  rw [List.mem_insertionSort, List.mem_filter, decide_eq_true_iff]

theorem shotsFrom_sorted (n : Nat) (s : State) : (s.shotsFrom n).Pairwise (fun x y => x.number ≤ y.number) := by
  have : Std.Total (fun x y : Shot => x.number ≤ y.number) := ⟨fun x y => Nat.le_total x.number y.number⟩
  have : IsTrans Shot (fun x y => x.number ≤ y.number) := ⟨fun _ _ _ => Nat.le_trans⟩
  exact List.pairwise_insertionSort _ _

theorem listedShots_spec (n : Nat) (s : State) :
    ((s.listedShots n).map (·.number)).Pairwise (· ≤ ·) ∧ (s.listedShots n).length ≤ 64
    ∧ (∀ x ∈ s.listedShots n, x ∈ s.heldShots ∧ n ≤ x.number)
    ∧ ∀ x ∈ s.heldShots, n ≤ x.number → x ∉ s.listedShots n →
      (s.listedShots n).length = 64 ∧ ∀ y ∈ s.listedShots n, y.number ≤ x.number := by
  have hsort := shotsFrom_sorted n s
  rw [listedShots_eq]
  refine ⟨List.pairwise_map.2 (hsort.sublist (List.take_sublist 64 _)), List.length_take_le .., fun x hx => ?_, fun x hx hn hout => ?_⟩
  · exact mem_shotsFrom.1 (List.mem_of_mem_take hx)
  · have hin : x ∈ s.shotsFrom n := mem_shotsFrom.2 ⟨hx, hn⟩
    have hdrop : x ∈ (s.shotsFrom n).drop 64 := by
      rw [← List.take_append_drop 64 (s.shotsFrom n)] at hin
      exact (List.mem_append.1 hin).resolve_left hout
    refine ⟨?_, fun y hy => ?_⟩
    · have := List.length_pos_of_mem hdrop
      rw [List.length_drop] at this
      rw [List.length_take]
      omega
    · rw [← List.take_append_drop 64 (s.shotsFrom n)] at hsort
      exact (List.pairwise_append.1 hsort).2.2 y hy x hdrop

/-! ## The records -/

theorem exec_shotInfo_none {n : Nat} (tag : Byte) (ha : s.awake = true) (h : s.held n = none) :
    exec (.shotInfo ⟨tag, some n⟩) s = answered tag .notHeld [] s := by
  have hact : actShotInfo n s = deny .notHeld s := by
    unfold actShotInfo
    rw [h]
  refine (exec_plain (act := actShotInfo) tag n ha).trans ?_
  rw [hact]
  rfl

theorem exec_shotInfo_some {n : Nat} {h : Shot} (tag : Byte) (ha : s.awake = true) (hh : s.held n = some h) :
    exec (.shotInfo ⟨tag, some n⟩) s = answered tag .ok (h.wires (s.recordingBlocks n)) s := by
  have hact : actShotInfo n s = ok (h.wires (s.recordingBlocks n)) s := by
    unfold actShotInfo
    rw [hh]
  refine (exec_plain (act := actShotInfo) tag n ha).trans ?_
  rw [hact]
  rfl

/-- Settles O27. -/
theorem reportsAndTheShotList : Obligations.ReportsAndTheShotList := by
  refine ⟨fun tag n s ha => ⟨exec_shotInfo_none tag ha, fun h hh => (exec_shotInfo_some tag ha hh).trans ?_,
    exec_plain (act := actShotList) tag n ha, exec_plain (act := actLaneTestRead) tag () ha,
    exec_plain (act := actLinkStats) tag () ha, exec_plain (act := actBurstState) tag () ha,
    exec_plain (act := actSyncState) tag () ha, (exec_plain (act := actLatencyStats) tag () ha).trans ?_⟩,
    fun tag n s ha => ⟨exec_plain (act := actAfState) tag () ha, (exec_plain (act := actAfGrid) tag n ha).trans ?_,
      exec_plain (act := actLensState) tag () ha, (exec_plain (act := actRecipeGet) tag n ha).trans ?_,
      exec_plain (act := actDevelopState) tag () ha⟩,
    fun tag sl s ha => ⟨exec_plain (act := actCardState) tag none ha, exec_plain (act := actCardState) tag (some sl) ha,
      exec_plain (act := actTetherState) tag () ha, exec_plain (act := actMemoState) tag () ha⟩,
    listedShots_spec⟩
  · simp only [Shot.wires, Snapshot.wires, record, List.flatten_cons, List.append_assoc]
    rfl
  · rfl
  · unfold actAfGrid
    split <;> rfl
  · unfold actRecipeGet
    split <;> rfl

end Sys2Proof.Machine
end

section
/-! LINK_START, LINK_STOP and LANE_TEST. -/

namespace Sys2Proof.Machine

set_option Elab.async false

open Sys2Proof

variable {s t : State}

/-- Nothing is re-tested while no frame is due. -/
theorem retest_of_not_waiting (c : Limit) (h : s.rtu.phase ≠ .waiting) : retest c s = s := if_neg h

/-- What is told stays told when a shot is voided, other than a void. -/
theorem voidShot_tells {p : Shot → Bool} {r : VoidReason} {k : NoticeKind} {sub : Subject} {v : List Wire} (hk : k ≠ .shotVoid)
    (h : s.Tells k sub v) : (voidShot p r s).Tells k sub v := by
  cases hf : s.ss.table.find? p with
  | none => rwa [voidShot_none hf]
  | some e =>
    rw [voidShot_some hf]
    exact (h.of_cp (by rw [clearEntry_eq])).raise (fun e => absurd (congrArg Prod.fst e).symm hk)

/-- What is told stays told when a burst is cut short, other than the voids and the burst's end. -/
theorem cutBurst_tells {r : EndReason} {v : VoidReason} {k : NoticeKind} {sub : Subject} {vs : List Wire} (hv : k ≠ .shotVoid)
    (he : k ≠ .burstEnd) (h : s.Tells k sub vs) : (cutBurst r v s).Tells k sub vs := by
  unfold cutBurst
  split
  · exact h
  · obtain ⟨_, _, _, hkeep⟩ := finishBurst_eq r (modBurst (fun b => { b with voided := b.voided + s.inFlight })
      (voidShot isLanding v (voidShot isTriggered v s)))
    exact hkeep k sub vs he ((voidShot_tells hv (voidShot_tells hv h)).of_cp rfl)

/-! ## The link's start and stop -/

/-- The link enters TRAINING: the first attempt begins (R29, R30). -/
theorem enterTraining_eq (reason : String) (s : State) : ∃ p rd, enterTraining reason s = { s with
      sp := p, rtu := { s.rtu with ready := rd }
      cp := raiseIn .linkState (.num 0) [.word "TRAINING", .word reason, .u8 s.sp.skew] s.time s.cp }
    ∧ p.link = .training ∧ p.attempts = 0 ∧ p.trainReq = true ∧ p.markBy = some (s.time + 5000)
    ∧ p.retrains = s.sp.retrains ∧ p.unexpected = s.sp.unexpected ∧ p.badHeaders = s.sp.badHeaders
    ∧ p.lineOrder = s.sp.lineOrder := by
  obtain ⟨rd, e⟩ := retest_eq .link (raiseLink reason (assertTraining (modSensor (fun p => { p with
    attempts := 0, link := .training, checkOn := false }) (abandonReadout s))))
  exact ⟨_, rd, e, rfl, rfl, rfl, rfl, rfl, rfl, rfl, rfl⟩

/-- The link enters DOWN (R29, R50). -/
theorem linkDown_eq (s : State) : ∃ p rd, linkDown s = { s with
      sp := p, rtu := { s.rtu with ready := rd }
      cp := raiseIn .linkState (.num 0) [.word "DOWN", .word "STOP", .u8 s.sp.skew] s.time s.cp }
    ∧ p.link = .down ∧ p.trainReq = false ∧ p.reading = .between ∧ p.retrain = none ∧ p.checkOn = false
    ∧ (s.rtu.phase ≠ .waiting → rd = s.rtu.ready) := by
  unfold linkDown
  extract_lets s1
  have hp : (raiseLink "STOP" s1).rtu = s.rtu := rfl
  obtain ⟨rd, e⟩ := retest_eq .link (raiseLink "STOP" s1)
  refine ⟨_, rd, e, rfl, rfl, rfl, rfl, rfl, fun hw => ?_⟩
  rw [retest_of_not_waiting (s := raiseLink "STOP" s1) .link hw] at e
  exact (congrArg (fun t : State => t.rtu.ready) e).symm

/-- LINK_STOP outside DOWN leaves the link DOWN, tells it, and cuts a running burst short. -/
theorem stopLink_spec (s : State) :
    (stopLink s).sp.link = .down ∧ (stopLink s).sp.trainReq = false ∧ (stopLink s).sp.reading = .between
    ∧ (stopLink s).sp.retrain = none ∧ (stopLink s).sp.checkOn = false
    ∧ stopLink s = { s with sp := (stopLink s).sp, rtu := (stopLink s).rtu, ss := (stopLink s).ss, cp := (stopLink s).cp }
    ∧ (stopLink s).Tells .linkState (.num 0) [.word "DOWN", .word "STOP", .u8 s.sp.skew]
    ∧ (s.rtu.phase = .idle → (stopLink s).ss = s.ss ∧ (stopLink s).rtu = s.rtu
      ∧ (stopLink s).cp = raiseIn .linkState (.num 0) [.word "DOWN", .word "STOP", .u8 s.sp.skew] s.time s.cp)
    ∧ (s.rtu.phase ≠ .idle → s.CutShort "ABORT" "COMMAND" (stopLink s)) := by
  obtain ⟨p, rd, e, hl, ht, hr, hq, hc, hready⟩ := linkDown_eq s
  have hstop : stopLink s = cutBurst .command .abort (linkDown s) := rfl
  have htell : (linkDown s).Tells .linkState (.num 0) [.word "DOWN", .word "STOP", .u8 s.sp.skew] :=
    (raise_tells .linkState (.num 0) [.word "DOWN", .word "STOP", .u8 s.sp.skew] s).of_cp (by rw [e]; rfl)
  by_cases hi : s.rtu.phase = .idle
  · have hs : stopLink s = linkDown s := hstop.trans (if_pos (by rw [e]; exact hi))
    have hrd : rd = s.rtu.ready := hready (by rw [hi]; simp)
    rw [hs]
    refine ⟨by rw [e]; exact hl, by rw [e]; exact ht, by rw [e]; exact hr, by rw [e]; exact hq, by rw [e]; exact hc,
      by rw [e], htell, fun _ => ⟨by rw [e], by rw [e, hrd], by rw [e]⟩, fun h => absurd hi h⟩
  · have hcut := cutBurst_cuts .command .abort (s := linkDown s) (by rw [e]; exact hi)
    rw [← hstop] at hcut
    have hsp : (stopLink s).sp = p := by rw [hcut.1, e]
    refine ⟨by rw [hsp]; exact hl, by rw [hsp]; exact ht, by rw [hsp]; exact hr, by rw [hsp]; exact hq, by rw [hsp]; exact hc,
      hcut.1.trans (by rw [hsp, e]), ?_, fun h => absurd h hi, fun _ => ?_⟩
    · rw [hstop]
      exact cutBurst_tells (by simp) (by simp) htell
    · have hcs := hcut.2
      rw [e] at hcs
      exact hcs

/-! ## The pattern check -/

theorem actLaneTestStart_refused (hp : s.rtu.phase = .idle) (h : s.sp.link ≠ .aligned ∨ s.sp.retrain ≠ none ∨ s.sp.checkOn = true) :
    actLaneTestStart () s = deny .badState s := by
  unfold actLaneTestStart
  rw [if_neg (by simpa using hp), if_pos]
  rcases h with h | h | h
  · exact .inl h
  · exact .inr (.inl (Option.isSome_iff_ne_none.2 h))
  · exact .inr (.inr h)

theorem actLaneTestStart_starts (hp : s.rtu.phase = .idle) (hl : s.sp.link = .aligned) (hr : s.sp.retrain = none)
    (hc : s.sp.checkOn = false) : actLaneTestStart () s
      = ok [] { s with sp := { s.sp with checkOn := true, checkers := List.replicate 8 {} } } := by
  unfold actLaneTestStart
  rw [if_neg (by simpa using hp), if_neg (by simp [hl, hr, hc])]
  exact congrArg (ok []) (retest_of_not_waiting .link (by rw [modSensor_rtu, hp]; simp))

theorem exec_laneTestStop_on (tag : Byte) (ha : s.awake = true) (hc : s.sp.checkOn = true) : ∃ t,
    exec (.laneTestStop ⟨tag, some ()⟩) s = answered tag .ok [] t
    ∧ t = { s with sp := { s.sp with checkOn := false }, rtu := { s.rtu with ready := t.rtu.ready } } := by
  obtain ⟨rd, e⟩ := retest_eq .link (modSensor (fun p => { p with checkOn := false }) s)
  have hact : actLaneTestStop () s = ok [] (retest .link (modSensor (fun p => { p with checkOn := false }) s)) := if_pos hc
  refine ⟨retest .link (modSensor (fun p => { p with checkOn := false }) s),
    (exec_plain (act := actLaneTestStop) tag () ha).trans ?_, ?_⟩
  · rw [hact]
    rfl
  · rw [e]
    rfl

theorem exec_linkStart_starts (tag : Byte) (ht : s.taking = true) (hl : s.sp.link = .down ∨ s.sp.link = .failed) :
    exec (.linkStart ⟨tag, some ()⟩) s = answered tag .accepted [] (startLink s) := by
  have hact : actLinkStart () s = accepted [] (startLink s) := by
    refine if_neg ?_
    rcases hl with h | h <;> simp [h]
  refine (exec_active (act := actLinkStart) tag () ht).trans ?_
  rw [hact]
  rfl

theorem exec_linkStop (tag : Byte) (ha : s.awake = true) :
    exec (.linkStop ⟨tag, some ()⟩) s = answered tag .ok [] (if s.sp.link = .down then s else stopLink s) := by
  refine (exec_plain (act := actLinkStop) tag () ha).trans ?_
  unfold actLinkStop
  split <;> rfl

/-- Settles O28. -/
theorem linkCommands : Obligations.LinkCommands := by
  intro tag s
  refine ⟨fun ht hl => ?_, fun ht hl => ?_, fun ha hl => ?_, fun ha hl => ?_, fun ht hp => ?_, fun ht hp h => ?_,
    fun ht hp hl hr hc => ?_, fun ha hc => ?_, fun ha hc => exec_laneTestStop_on tag ha hc⟩
  · refine (exec_active (act := actLinkStart) tag () ht).trans ?_
    rw [show actLinkStart () s = deny .badState s from if_pos hl]
    rfl
  · obtain ⟨p, rd, e, h1, h2, h3, h4, h5, h6, h7, h8⟩ := enterTraining_eq "START" (modSensor (fun p => { p with
      retrains := 0, unexpected := 0, badHeaders := 0, lineOrder := 0 }) (applyWaiting (fun f => f.group == .capture) s))
    have hs : startLink s = enterTraining "START" (modSensor (fun p => { p with
      retrains := 0, unexpected := 0, badHeaders := 0, lineOrder := 0 }) (applyWaiting (fun f => f.group == .capture) s)) := rfl
    rw [← hs] at e
    refine ⟨startLink s, exec_linkStart_starts tag ht hl, ?_⟩
    rw [e]
    exact ⟨rfl, rfl, rfl, h1, h2, h3, h4, h5, h6, h7, h8, rfl⟩
  · rw [exec_linkStop tag ha, if_pos hl]
  · exact ⟨stopLink s, by rw [exec_linkStop tag ha, if_neg hl], stopLink_spec s⟩
  · refine (exec_active (act := actLaneTestStart) tag () ht).trans ?_
    rw [show actLaneTestStart () s = deny .busy s from if_pos hp]
    rfl
  · refine (exec_active (act := actLaneTestStart) tag () ht).trans ?_
    rw [actLaneTestStart_refused hp h]
    rfl
  · refine (exec_active (act := actLaneTestStart) tag () ht).trans ?_
    rw [actLaneTestStart_starts hp hl hr hc]
    rfl
  · refine (exec_plain (act := actLaneTestStop) tag () ha).trans ?_
    rw [show actLaneTestStop () s = ok [] s from if_neg (by simp [hc])]
    rfl

end Sys2Proof.Machine
end

section
/-! SET_CONFIG: the ranges of the fields, what a value put into a field reads back as, and where a taken value acts (R204,
R205). -/

namespace Sys2Proof.Machine

set_option Elab.async false

open Sys2Proof

variable {s t : State}

/-! ## The forms of the ranges -/

theorem numIn_isSome (lo hi : Nat) (v : CfgVal) :
    (numIn lo hi v).isSome = true ↔ ∃ n : Int, v = .num n ∧ (lo : Int) ≤ n ∧ n ≤ (hi : Int) := by
  cases v <;> simp [numIn]

theorem numIn_back {lo hi : Nat} {v : CfgVal} {x : Nat} (h : numIn lo hi v = some x) : CfgVal.num x = v := by
  cases v <;> simp only [numIn, reduceCtorEq] at h
  split at h
  · cases h
    congr
    omega
  · cases h

theorem intIn_isSome (lo hi : Int) (v : CfgVal) : (intIn lo hi v).isSome = true ↔ ∃ n : Int, v = .num n ∧ lo ≤ n ∧ n ≤ hi := by
  cases v <;> simp [intIn]

theorem intIn_back {lo hi : Int} {v : CfgVal} {x : Int} (h : intIn lo hi v = some x) : CfgVal.num x = v := by
  cases v <;> simp only [intIn, reduceCtorEq] at h
  split at h
  · cases h
    rfl
  · cases h

theorem numOf_isSome (l : List Nat) (v : CfgVal) : (numOf l v).isSome = true ↔ ∃ n ∈ l.map Int.ofNat, v = .num n := by
  cases v with
  | num n =>
    simp only [numOf, Option.isSome_ite, List.mem_map, CfgVal.num.injEq]
    constructor
    · rintro ⟨h0, hm⟩
      exact ⟨n, ⟨n.toNat, hm, by simpa using h0⟩, rfl⟩
    · rintro ⟨_, ⟨k, hk, rfl⟩, rfl⟩
      exact ⟨by simp, by simpa using hk⟩
  | _ => simp [numOf]

theorem numOf_back {l : List Nat} {v : CfgVal} {x : Nat} (h : numOf l v = some x) : CfgVal.num x = v := by
  cases v <;> simp only [numOf, reduceCtorEq] at h
  split at h
  · cases h
    congr
    omega
  · cases h

theorem wordOf_isSome {α : Type} (l : List (String × α)) (v : CfgVal) :
    (wordOf l v).isSome = true ↔ ∃ w ∈ l.map (·.1), v = .word w := by
  cases v <;> simp [wordOf]

theorem wordOf_back {α : Type} {l : List (String × α)} {name : α → String} (hl : ∀ p ∈ l, name p.2 = p.1) {v : CfgVal} {x : α}
    (h : wordOf l v = some x) : CfgVal.word (name x) = v := by
  cases v <;> simp only [wordOf, reduceCtorEq] at h
  obtain ⟨p, hp, rfl⟩ := Option.map_eq_some_iff.1 h
  rw [hl p (List.mem_of_find?_eq_some hp)]
  exact congrArg _ (by simpa using List.find?_some hp)

theorem mapM_isSome {α β : Type} (f : α → Option β) : ∀ l : List α, (l.mapM f).isSome = true ↔ ∀ w ∈ l, (f w).isSome = true
  | [] => by simp
  | x :: l => by
    rw [List.mapM_cons, List.forall_mem_cons, ← mapM_isSome f l]
    cases f x <;> cases l.mapM f <;> simp

theorem mapM_back {α β : Type} {f : α → Option β} {name : β → α} (hf : ∀ w x, f w = some x → name x = w) :
    ∀ {l : List α} {xs : List β}, l.mapM f = some xs → xs.map name = l
  | [], xs, h => by
    cases h
    rfl
  | x :: l, xs, h => by
    rw [List.mapM_cons] at h
    obtain ⟨y, hy, h⟩ := Option.bind_eq_some_iff.1 h
    obtain ⟨ys, hys, h⟩ := Option.bind_eq_some_iff.1 h
    cases h
    rw [List.map_cons, hf x y hy, mapM_back hf hys]

/-- A list of names of a fixed length, each of those listed. -/
theorem wordsOf_isSome {α : Type} (l : List (String × α)) (k : Nat) (ws : List String) :
    (if ws.length = k then ws.mapM (fun w => wordOf l (.word w)) else none).isSome = true
      ↔ ws.length = k ∧ ∀ w ∈ ws, w ∈ l.map (·.1) := by
  split
  · rename_i hk
    rw [mapM_isSome]
    simp only [wordOf_isSome, CfgVal.word.injEq, hk, true_and, exists_eq_right']
  · simp [*]

theorem wordsOf_back {α : Type} {l : List (String × α)} {name : α → String} (hl : ∀ p ∈ l, name p.2 = p.1) {k : Nat}
    {ws : List String} {xs : List α}
    (h : (if ws.length = k then ws.mapM (fun w => wordOf l (.word w)) else none) = some xs) : xs.map name = ws := by
  split at h
  · exact mapM_back (fun w x hx => CfgVal.word.inj (wordOf_back hl hx)) h
  · cases h

theorem laneMapVal_isSome (v : CfgVal) : (laneMapVal v).isSome = true
    ↔ ∃ l, v = .nums l ∧ l.length = 8 ∧ (∀ n ∈ l, 0 ≤ n ∧ n ≤ 7) ∧ l.Nodup := by
  cases v <;> simp [laneMapVal]

theorem laneMapVal_back {v : CfgVal} {xs : List Nat} (h : laneMapVal v = some xs) : CfgVal.nums (xs.map Int.ofNat) = v := by
  cases v <;> simp only [laneMapVal, reduceCtorEq] at h
  split at h
  · rename_i l hl
    cases h
    rw [List.map_map]
    refine congrArg _ ((List.map_congr_left (fun n hn => ?_)).trans (List.map_id l))
    have := (hl.2.1 n hn).1
    simp [this]
  · cases h

theorem captionVal_isSome (v : CfgVal) : (captionVal v).isSome = true
    ↔ v = .text none ∨ ∃ c, v = .text (some c) ∧ 1 ≤ c.length ∧ c.length ≤ 192 := by
  cases v with
  | text o => cases o <;> simp [captionVal]
  | _ => simp [captionVal]

theorem captionVal_back {v : CfgVal} {x : Option (List Byte)} (h : captionVal v = some x) : CfgVal.text x = v := by
  cases v with
  | text o =>
    cases o with
    | none => cases h; rfl
    | some c =>
      simp only [captionVal] at h
      split at h
      · cases h; rfl
      · cases h
  | _ => cases h

theorem polarityVal_isSome (v : CfgVal) : (polarityVal v).isSome = true
    ↔ ∃ l, v = .words l ∧ l.length = 8 ∧ ∀ w ∈ l, w = "NORMAL" ∨ w = "INVERTED" := by
  cases v with
  | words l => simpa [polarityVal, wheelVal] using wordsOf_isSome [("NORMAL", false), ("INVERTED", true)] 8 l
  | _ => simp [polarityVal]

theorem wheelVal_isSome (v : CfgVal) : (wheelVal v).isSome = true
    ↔ ∃ l, v = .words l ∧ l.length = 16 ∧ ∀ w ∈ l, w = "A" ∨ w = "B" ∨ w = "D" ∨ w = "T" := by
  cases v with
  | words l => simpa [polarityVal, wheelVal] using wordsOf_isSome [("A", Reader.a), ("B", .b), ("D", .d), ("T", .t)] 16 l
  | _ => simp [wheelVal]

/-- A number of a range with a divisor. -/
theorem stepped_isSome (lo hi k : Nat) (v : CfgVal) :
    ((numIn lo hi v).filter (fun x => x % k = 0)).isSome = true
      ↔ (∃ n : Int, v = .num n ∧ (lo : Int) ≤ n ∧ n ≤ (hi : Int)) ∧ ∃ j : Int, v = .num (k * j) := by
  cases v with
  | num n =>
    simp only [numIn, CfgVal.num.injEq, exists_eq_left']
    split
    · rename_i h
      have hn : (n.toNat : Int) = n := by omega
      simp only [Option.filter_some, decide_eq_true_eq, Option.isSome_ite, h, and_self, true_and]
      constructor
      · intro hm
        refine ⟨n / k, ?_⟩
        rw [Int.mul_ediv_cancel' (Int.dvd_of_emod_eq_zero (by rw [← hn]; exact_mod_cast hm))]
      · rintro ⟨j, rfl⟩
        have : ((((k : Int) * j).toNat % k : Nat) : Int) = 0 := by
          rw [Int.natCast_emod, hn, Int.mul_emod_right]
        exact_mod_cast this
    · simp [*]
  | _ => simp [numIn]

/-- The names of the polarities (R28). -/
def polarityName (b : Bool) : String := if b then "INVERTED" else "NORMAL"

theorem polarityVal_back {v : CfgVal} {xs : List Bool} (h : polarityVal v = some xs) : CfgVal.words (xs.map polarityName) = v := by
  cases v <;> simp only [polarityVal, reduceCtorEq] at h
  exact congrArg _ (wordsOf_back (by decide) h)

theorem wheelVal_back {v : CfgVal} {xs : List Reader} (h : wheelVal v = some xs) : CfgVal.words (xs.map Reader.name) = v := by
  cases v <;> simp only [wheelVal, reduceCtorEq] at h
  exact congrArg _ (wordsOf_back (by decide) h)

theorem isSome_map_iff {α β : Type} {o : Option α} {f : α → β} {P : Prop} (h : o.isSome = true ↔ P) :
    (o.map f).isSome = true ↔ P := by
  rw [Option.isSome_map]
  exact h

/-! ## Each field -/

/-- A value in a field's range reads back as it was carried (R204, R206). -/
theorem put_get {c d : Cfg} {f : Field} {v : CfgVal} (h : c.put f v = some d) : d.get f = v := by
  cases f <;> obtain ⟨x, hx, rfl⟩ := Option.map_eq_some_iff.1 h
  case sensorId => exact numIn_back hx
  case laneCount => exact numOf_back hx
  case laneMap => exact laneMapVal_back hx
  case polarity => exact polarityVal_back hx
  case depth => exact numOf_back hx
  case width => exact numIn_back (Option.filter_eq_some_iff.1 hx).1
  case height => exact numIn_back (Option.filter_eq_some_iff.1 hx).1
  case cfaOrder => exact wordOf_back (name := Cfa.name) (by decide) hx
  case errorThreshold => exact numIn_back hx
  case fixedBlack => exact numIn_back hx
  case releaseLatency => exact numIn_back hx
  case framePeriod => exact numIn_back hx
  case latenessLimit => exact numIn_back hx
  case readoutTimeout => exact numIn_back hx
  case releaseFilter => exact numOf_back hx
  case focusPriority => exact wordOf_back (name := onOff) (by decide) hx
  case focusWait => exact numIn_back hx
  case syncMode => exact wordOf_back (name := SyncMode.name) (by decide) hx
  case syncWindow => exact numIn_back hx
  case syncOut => exact wordOf_back (name := onOff) (by decide) hx
  case searchRange => exact numIn_back hx
  case contrastThreshold => exact numIn_back hx
  case inFocusWindow => exact numIn_back hx
  case searchStep => exact numIn_back hx
  case driveSpeed => exact numIn_back hx
  case searchSpeed => exact numIn_back hx
  case watcherThreshold => exact numIn_back hx
  case wakeStartsFocus => exact wordOf_back (name := onOff) (by decide) hx
  case lensFramePeriod => exact numOf_back hx
  case counterMode => exact wordOf_back (name := fun b => if b then "UP_ONLY" else "QUADRATURE") (by decide) hx
  case countDirection => exact wordOf_back (name := fun b => if b then "REVERSED" else "NORMAL") (by decide) hx
  case referenceMode => exact wordOf_back (name := fun b => if b then "INDEX" else "COMMAND") (by decide) hx
  case indexValue => exact intIn_back hx
  case homeTimeout => exact numIn_back hx
  case cardPlan => exact wordOf_back (name := CardPlan.name) (by decide) hx
  case proofFiles => exact wordOf_back (name := onOff) (by decide) hx
  case developPlan => exact wordOf_back (name := DevelopPlan.name) (by decide) hx
  case tetherPlan => exact wordOf_back (name := TetherPlan.name) (by decide) hx
  case standingCaption => exact captionVal_back hx
  case captureFloor => exact numIn_back hx
  case lowThreshold => exact numIn_back hx
  case hold => exact wordOf_back (name := onOff) (by decide) hx
  case wheel => exact wheelVal_back hx
  case ackTimeout => exact numIn_back hx
  case peerRelease => exact wordOf_back (name := onOff) (by decide) hx
  case peerMark => exact wordOf_back (name := onOff) (by decide) hx
  case peerPull => exact wordOf_back (name := onOff) (by decide) hx
  case startMode => exact wordOf_back (name := fun b => if b then "ON_VOICE" else "MANUAL") (by decide) hx
  case energyThreshold => exact numIn_back hx
  case crossingThreshold => exact numIn_back hx
  case trailingSilence => exact numIn_back hx
  case firstShotNumber => exact numIn_back hx

/-- A value put into a field leaves the others'. -/
theorem put_get_other {c d : Cfg} {f g : Field} {v : CfgVal} (h : c.put f v = some d) (hg : g ≠ f) : d.get g = c.get g := by
  cases f <;> obtain ⟨x, hx, rfl⟩ := Option.map_eq_some_iff.1 h <;> cases g <;> first | rfl | exact absurd rfl hg

theorem apply_of_put {c d : Cfg} {f : Field} {v : CfgVal} (h : c.put f v = some d) : c.apply f v = d := by
  unfold Cfg.apply
  rw [h]
  rfl

end Sys2Proof.Machine
end

section
/-! SET_CONFIG: one value taken by its group's effect point (R204, R205). -/

namespace Sys2Proof.Machine

set_option Elab.async false

open Sys2Proof

variable {s t : State}

/-! ## One value -/

/-- A message of one value of the group passes the check of the whole (R204). -/
theorem checked_one (f : Field) (v : CfgVal) : ConfigArg.checked f.group [(some f, v)] = some [(f, v)] := by
  simp [ConfigArg.checked]

theorem exec_setConfig_one (tag : Byte) (f : Field) (v : CfgVal) (ha : s.awake = true) :
    exec (.setConfig ⟨tag, some ⟨some f.group, [(some f, v)]⟩⟩) s = answered tag .ok [] (takeConfig f.group [(f, v)] s) := by
  have hact : actSetConfig ⟨some f.group, [(some f, v)]⟩ s = ok [] (takeConfig f.group [(f, v)] s) := by
    show (match ConfigArg.checked f.group [(some f, v)] with
      | some l => ok [] (takeConfig f.group l s) | none => deny .badValue s) = _
    rw [checked_one]
  refine (exec_plain (act := actSetConfig) tag _ ha).trans ?_
  rw [hact]
  rfl

/-- The state behind CONFIG_DEFAULTED, where a carried value is out of range (R204). -/
def State.listing (s : State) (f : Field) (v : CfgVal) : State :=
  if (s.cfg.put f v).isSome then s else raise .configDefaulted (.group f.group) [.items 1, .word f.name] s

theorem raiseDefaulted_one (f : Field) (v : CfgVal) (s : State) :
    raiseDefaulted (.group f.group) ((s.defaulted [(f, v)]).map Field.name) s = s.listing f v := by
  unfold State.listing State.defaulted
  cases h : s.cfg.put f v <;> simp [h, raiseDefaulted, listOf]

/-- Only the notices differ. -/
theorem listing_eq (f : Field) (v : CfgVal) (s : State) : s.listing f v = { s with cp := (s.listing f v).cp } := by
  unfold State.listing
  split <;> rfl

/-- One value taken, before the blocks act on it (R205). -/
def State.took (s : State) (f : Field) (v : CfgVal) : State := takeValue f (takenVal s.cfg f v) (s.listing f v)

theorem took_immediate {f : Field} (hi : s.immediate f = true) (v : CfgVal) : s.took f v = { s.listing f v with
    cfg := s.cfg.apply f (takenVal s.cfg f v), waiting := s.waiting.filter (fun p => p.1 != f) } := by
  unfold State.took takeValue
  rw [listing_eq]
  exact if_pos hi

theorem took_pending {f : Field} (hi : s.immediate f = false) (v : CfgVal) : s.took f v = { s.listing f v with
    waiting := if s.cfg.put f (takenVal s.cfg f v) = some s.cfg then s.waiting.filter (fun p => p.1 != f)
      else s.waiting.filter (fun p => p.1 != f) ++ [(f, takenVal s.cfg f v)] } := by
  unfold State.took takeValue
  rw [listing_eq]
  exact if_neg (by simpa [State.immediate] using hi)

/-- The groups but for the lens and burst group have no block that acts on a value. -/
theorem takeConfig_one {f : Field} (hl : f.group ≠ .lens) (hb : f.group ≠ .burst) (v : CfgVal) :
    takeConfig f.group [(f, v)] s = s.took f v := by
  unfold takeConfig
  rw [raiseDefaulted_one]
  extract_lets s2
  split
  · exact absurd ‹_› hl
  · exact absurd ‹_› hb
  · rfl

theorem takeConfig_burst {f : Field} (hf : f.group = .burst) (v : CfgVal) : takeConfig .burst [(f, v)] s = { s.took f v with
    rtu := syncApplied s.cfg.burst (s.took f v).cfg.burst s.time (s.took f v).rtu } := by
  have h := raiseDefaulted_one f v s
  rw [hf] at h
  unfold takeConfig
  rw [h]
  rfl

theorem takeConfig_lens {f : Field} (hf : f.group = .lens) (v : CfgVal) :
    takeConfig .lens [(f, v)] s = lensApplied s.cfg.lens (s.took f v) := by
  have h := raiseDefaulted_one f v s
  rw [hf] at h
  unfold takeConfig
  rw [h]
  rfl

/-- The empty list changes nothing. -/
theorem takeConfig_nil (g : Group) (s : State) : takeConfig g [] s = s := by
  unfold takeConfig
  extract_lets s1 s2
  have h2 : s2 = s := rfl
  rw [h2]
  split
  · have h : (s.cfg.lens.indexMode && !s.cfg.lens.indexMode) = false ∧ (!s.cfg.lens.indexMode && s.cfg.lens.indexMode) = false := by
      cases s.cfg.lens.indexMode <;> exact ⟨rfl, rfl⟩
    simp [lensApplied, h.1, h.2]
  · simp [syncApplied]
  · rfl

/-! ## A lens value -/

theorem Aside.waiting (h : Aside s t) : t.waiting = s.waiting := by rw [h.eq]

theorem homingTest_referenced (s : State) : (homingTest s).lp.referenced = s.lp.referenced := by
  unfold homingTest
  split <;> rfl

theorem emptyDrive_referenced (s : State) : (emptyDrive s).lp.referenced = s.lp.referenced := by
  unfold emptyDrive
  split <;> rfl

theorem enterServo_lp (st : ServoState) (reason : String) (s : State) : (enterServo st reason s).lp = s.lp := by
  obtain ⟨rd, e⟩ := retest_eq .focus (raiseFocus reason { s with fe := { s.fe with servo := st } })
  unfold enterServo
  rw [e]
  rfl

theorem lensCheck_referenced (s : State) : (lensCheck s).lp.referenced = s.lp.referenced := by
  unfold lensCheck
  split
  · rw [enterServo_lp]
    exact emptyDrive_referenced s
  · split
    · split
      · rw [enterServo_lp]
      · rfl
    · rfl

theorem unreference_referenced (s : State) : (unreference s).lp.referenced = false := by
  unfold unreference
  split
  · rename_i h
    rw [lensCheck_referenced, homingTest_referenced]
    unfold dropReference
    rw [if_pos h]
    rfl
  · exact eq_false_of_ne_true ‹_›

/-- A new counter mode, count direction or reference mode leaves the counter UNREFERENCED (R113, R205). -/
theorem lensApplied_unreferences {old : LensCfg}
    (h : old.upOnly ≠ s.cfg.lens.upOnly ∨ old.reversed ≠ s.cfg.lens.reversed ∨ old.indexMode ≠ s.cfg.lens.indexMode) :
    (lensApplied old s).lp.referenced = false := by
  unfold lensApplied
  extract_lets new s1 s2
  have h2 : s2.lp.referenced = false := by
    unfold s2
    rw [if_pos h]
    exact unreference_referenced s1
  clear_value s2
  split
  · rw [homingTest_referenced]
    exact h2
  · exact h2

theorem put_lens_mode {c d : Cfg} {f : Field} {v : CfgVal} (hf : f = .counterMode ∨ f = .countDirection ∨ f = .referenceMode)
    (h : c.put f v = some d) (hd : d ≠ c) :
    c.lens.upOnly ≠ d.lens.upOnly ∨ c.lens.reversed ≠ d.lens.reversed ∨ c.lens.indexMode ≠ d.lens.indexMode := by
  rcases hf with rfl | rfl | rfl <;> obtain ⟨x, _, rfl⟩ := Option.map_eq_some_iff.1 h
  · refine .inl (fun e => hd ?_)
    dsimp only at e
    rw [← e]
  · refine .inr (.inl (fun e => hd ?_))
    dsimp only at e
    rw [← e]
  · refine .inr (.inr (fun e => hd ?_))
    dsimp only at e
    rw [← e]

theorem apply_lens_mode {c : Cfg} {f : Field} {v : CfgVal} (hf : f = .counterMode ∨ f = .countDirection ∨ f = .referenceMode)
    (hd : c.apply f v ≠ c) : c.lens.upOnly ≠ (c.apply f v).lens.upOnly ∨ c.lens.reversed ≠ (c.apply f v).lens.reversed
      ∨ c.lens.indexMode ≠ (c.apply f v).lens.indexMode := by
  cases h : c.put f v with
  | none =>
    refine absurd ?_ hd
    unfold Cfg.apply
    rw [h]
    rfl
  | some d =>
    rw [apply_of_put h] at hd ⊢
    exact put_lens_mode hf h hd

/-- Settles O18. -/
theorem setConfigTakesValues : Obligations.SetConfigTakesValues := by
  refine ⟨fun tag f v s ha => ?_, fun tag f v s ha => ?_, ?_⟩
  · refine ⟨fun g => ?_, fun hg => ?_, fun hg => ?_⟩
    · refine (exec_plain (act := actSetConfig) tag _ ha).trans ?_
      show answered tag .ok [] (takeConfig g [] s) = _
      rw [takeConfig_nil]
    · have hi : s.immediate f = true := by
        unfold State.immediate
        rcases hg with hg | hg | hg | ⟨hg, hw⟩ <;> rw [hg]
        simpa using hw
      have hl : f.group ≠ .lens ∧ f.group ≠ .burst := by
        rcases hg with hg | hg | hg | ⟨hg, _⟩ <;> rw [hg] <;> exact ⟨by decide, by decide⟩
      rw [exec_setConfig_one tag f v ha, takeConfig_one hl.1 hl.2, took_immediate hi]
      rfl
    · have hi : s.immediate f = false := by
        unfold State.immediate
        rcases hg with hg | hg | hg | rfl
        · rw [hg]
        · rw [hg]
        · rw [hg]
        · rfl
      have hl : f.group ≠ .lens ∧ f.group ≠ .burst := by
        rcases hg with hg | hg | hg | rfl
        · rw [hg]; exact ⟨by decide, by decide⟩
        · rw [hg]; exact ⟨by decide, by decide⟩
        · rw [hg]; exact ⟨by decide, by decide⟩
        · exact ⟨by decide, by decide⟩
      rw [exec_setConfig_one tag f v ha, takeConfig_one hl.1 hl.2, took_pending hi]
      rfl
  · refine ⟨fun hf => ⟨takeConfig .burst [(f, v)] s, ?_, fun hp => ?_, fun hp => ?_⟩,
      fun hf => ⟨takeConfig .lens [(f, v)] s, ?_, ?_, ?_, fun hm hc => ?_⟩⟩
    · have h := exec_setConfig_one tag f v ha
      rwa [hf] at h
    · have hi : s.immediate f = true := by simp [State.immediate, hf, hp]
      rw [takeConfig_burst hf, took_immediate hi, listing_eq]
      exact ⟨rfl, rfl, syncApplied_takes ..⟩
    · have hi : s.immediate f = false := by simp [State.immediate, hf, hp]
      rw [takeConfig_burst hf, took_pending hi, listing_eq]
      refine ⟨rfl, ?_, rfl⟩
      show syncApplied s.cfg.burst s.cfg.burst s.time s.rtu = s.rtu
      simp [syncApplied]
    · have h := exec_setConfig_one tag f v ha
      rwa [hf] at h
    all_goals
      have hi : s.immediate f = true := by simp [State.immediate, hf]
      have ht := took_immediate hi v
      rw [listing_eq] at ht
    · rw [takeConfig_lens hf, (lensApplied_aside (.refl _)).cfg, ht]
    · rw [takeConfig_lens hf, (lensApplied_aside (.refl _)).waiting, ht]
    · rw [takeConfig_lens hf, (lensApplied_aside (.refl _)).cfg, ht] at hc
      rw [takeConfig_lens hf, ht]
      exact lensApplied_unreferences (apply_lens_mode hm hc)
  · intro num oneOf name table c f v
    have back : ∀ d, c.put f v = some d → c.apply f v = d ∧ d.get f = v ∧ ∀ g, g ≠ f → d.get g = c.get g :=
      fun d hd => ⟨apply_of_put hd, put_get hd, fun g hg => put_get_other hd hg⟩
    cases f
    case sensorId => exact ⟨rfl, isSome_map_iff (numIn_isSome 0 65535 v), rfl, rfl, back⟩
    case laneCount => exact ⟨rfl, isSome_map_iff (numOf_isSome _ v), rfl, rfl, back⟩
    case laneMap => exact ⟨rfl, isSome_map_iff (laneMapVal_isSome v), rfl, rfl, back⟩
    case polarity => exact ⟨rfl, isSome_map_iff (polarityVal_isSome v), rfl, rfl, back⟩
    case depth => exact ⟨rfl, isSome_map_iff (numOf_isSome _ v), rfl, rfl, back⟩
    case width => exact ⟨rfl, isSome_map_iff (stepped_isSome 64 8192 16 v), rfl, rfl, back⟩
    case height => exact ⟨rfl, isSome_map_iff (stepped_isSome 16 6144 2 v), rfl, rfl, back⟩
    case cfaOrder => exact ⟨rfl, isSome_map_iff (wordOf_isSome _ v), rfl, rfl, back⟩
    case errorThreshold => exact ⟨rfl, isSome_map_iff (numIn_isSome 1 255 v), rfl, rfl, back⟩
    case fixedBlack => exact ⟨rfl, isSome_map_iff (numIn_isSome 0 65535 v), rfl, rfl, back⟩
    case releaseLatency => exact ⟨rfl, isSome_map_iff (numIn_isSome 0 100000 v), rfl, rfl, back⟩
    case framePeriod => exact ⟨rfl, isSome_map_iff (numIn_isSome 20000 10000000 v), rfl, rfl, back⟩
    case latenessLimit => exact ⟨rfl, isSome_map_iff (numIn_isSome 0 1000000 v), rfl, rfl, back⟩
    case readoutTimeout => exact ⟨rfl, isSome_map_iff (numIn_isSome 1 2000 v), rfl, rfl, back⟩
    case releaseFilter => exact ⟨rfl, isSome_map_iff (numOf_isSome _ v), rfl, rfl, back⟩
    case focusPriority => exact ⟨rfl, isSome_map_iff (wordOf_isSome _ v), rfl, rfl, back⟩
    case focusWait => exact ⟨rfl, isSome_map_iff (numIn_isSome 0 2000 v), rfl, rfl, back⟩
    case syncMode => exact ⟨rfl, isSome_map_iff (wordOf_isSome _ v), rfl, rfl, back⟩
    case syncWindow => exact ⟨rfl, isSome_map_iff (numIn_isSome 0 5000 v), rfl, rfl, back⟩
    case syncOut => exact ⟨rfl, isSome_map_iff (wordOf_isSome _ v), rfl, rfl, back⟩
    case searchRange => exact ⟨rfl, isSome_map_iff (numIn_isSome 1 24 v), rfl, rfl, back⟩
    case contrastThreshold => exact ⟨rfl, isSome_map_iff (numIn_isSome 0 16777215 v), rfl, rfl, back⟩
    case inFocusWindow => exact ⟨rfl, isSome_map_iff (numIn_isSome 0 255 v), rfl, rfl, back⟩
    case searchStep => exact ⟨rfl, isSome_map_iff (numIn_isSome 1 65535 v), rfl, rfl, back⟩
    case driveSpeed => exact ⟨rfl, isSome_map_iff (numIn_isSome 0 7 v), rfl, rfl, back⟩
    case searchSpeed => exact ⟨rfl, isSome_map_iff (numIn_isSome 0 7 v), rfl, rfl, back⟩
    case watcherThreshold => exact ⟨rfl, isSome_map_iff (numIn_isSome 1 64 v), rfl, rfl, back⟩
    case wakeStartsFocus => exact ⟨rfl, isSome_map_iff (wordOf_isSome _ v), rfl, rfl, back⟩
    case lensFramePeriod => exact ⟨rfl, isSome_map_iff (numOf_isSome _ v), rfl, rfl, back⟩
    case counterMode => exact ⟨rfl, isSome_map_iff (wordOf_isSome _ v), rfl, rfl, back⟩
    case countDirection => exact ⟨rfl, isSome_map_iff (wordOf_isSome _ v), rfl, rfl, back⟩
    case referenceMode => exact ⟨rfl, isSome_map_iff (wordOf_isSome _ v), rfl, rfl, back⟩
    case indexValue => exact ⟨rfl, isSome_map_iff (intIn_isSome _ _ v), rfl, rfl, back⟩
    case homeTimeout => exact ⟨rfl, isSome_map_iff (numIn_isSome 0 10000 v), rfl, rfl, back⟩
    case cardPlan => exact ⟨rfl, isSome_map_iff (wordOf_isSome _ v), rfl, rfl, back⟩
    case proofFiles => exact ⟨rfl, isSome_map_iff (wordOf_isSome _ v), rfl, rfl, back⟩
    case developPlan => exact ⟨rfl, isSome_map_iff (wordOf_isSome _ v), rfl, rfl, back⟩
    case tetherPlan => exact ⟨rfl, isSome_map_iff (wordOf_isSome _ v), rfl, rfl, back⟩
    case standingCaption => exact ⟨rfl, isSome_map_iff (captionVal_isSome v), rfl, rfl, back⟩
    case captureFloor => exact ⟨rfl, isSome_map_iff (numIn_isSome 0 8192 v), rfl, rfl, back⟩
    case lowThreshold => exact ⟨rfl, isSome_map_iff (numIn_isSome 0 65536 v), rfl, rfl, back⟩
    case hold => exact ⟨rfl, isSome_map_iff (wordOf_isSome _ v), rfl, rfl, back⟩
    case wheel => exact ⟨rfl, isSome_map_iff (wheelVal_isSome v), rfl, rfl, back⟩
    case ackTimeout => exact ⟨rfl, isSome_map_iff (numIn_isSome 50 5000 v), rfl, rfl, back⟩
    case peerRelease => exact ⟨rfl, isSome_map_iff (wordOf_isSome _ v), rfl, rfl, back⟩
    case peerMark => exact ⟨rfl, isSome_map_iff (wordOf_isSome _ v), rfl, rfl, back⟩
    case peerPull => exact ⟨rfl, isSome_map_iff (wordOf_isSome _ v), rfl, rfl, back⟩
    case startMode => exact ⟨rfl, isSome_map_iff (wordOf_isSome _ v), rfl, rfl, back⟩
    case energyThreshold => exact ⟨rfl, isSome_map_iff (numIn_isSome 0 32767 v), rfl, rfl, back⟩
    case crossingThreshold => exact ⟨rfl, isSome_map_iff (numIn_isSome 0 319 v), rfl, rfl, back⟩
    case trailingSilence => exact ⟨rfl, isSome_map_iff (numIn_isSome 10 250 v), rfl, rfl, back⟩
    case firstShotNumber => exact ⟨rfl, isSome_map_iff (numIn_isSome 1 4294967295 v), rfl, rfl, back⟩

end Sys2Proof.Machine
end

section
/-! What a slot's rest between files, the overflow move's test and the hand-off of a card duty do, where no move happens
(R143, R145, R151 to R153). -/

namespace Sys2Proof.Machine

set_option Elab.async false

open Sys2Proof

variable {w : Bool} {a s t : State}

/-! ## The slot between files -/

/-- The state and the hold reason alone of a slot changed. -/
def setRest (st : SlotState) (hd : Hold) (c : CardSlot) : CardSlot := { c with state := st, hold := hd }

theorem modSlot_congr {sl : Slot} {f g : CardSlot → CardSlot} (h : f (s.slot sl) = g (s.slot sl)) : modSlot sl f s = modSlot sl g s := by
  cases sl
  · exact congrArg (fun c => ({ s with cw := { s.cw with a := c } } : State)) h
  · exact congrArg (fun c => ({ s with cw := { s.cw with b := c } } : State)) h

/-- Between files a slot changes its state and its hold reason, and tells it. -/
theorem slotRest_eq (sl : Slot) (s : State) : ∃ st hd c, slotRest sl s = { modSlot sl (setRest st hd) s with cp := c } := by
  have still : ∃ st hd c, s = { modSlot sl (setRest st hd) s with cp := c } :=
    ⟨(s.slot sl).state, (s.slot sl).hold, s.cp, by cases sl <;> rfl⟩
  have set : ∀ (f : CardSlot → CardSlot) (st : SlotState) (hd : Hold) (c : CommandPort),
      f (s.slot sl) = setRest st hd (s.slot sl) → ∃ st hd c', { modSlot sl f s with cp := c } = { modSlot sl (setRest st hd) s with cp := c' } :=
    fun f st hd c h => ⟨st, hd, c, by rw [modSlot_congr h]⟩
  unfold slotRest
  dsimp only
  split
  · exact still
  · split
    · exact still
    · exact still
    · exact set _ .ready .ejected _ rfl
    · split
      · split
        · exact still
        · exact ⟨.ready, .closed, s.cp, by cases sl <;> rfl⟩
      · split
        · exact still
        · split
          · exact ⟨.ready, (s.slot sl).hold, s.cp, by cases sl <;> rfl⟩
          · split
            · split
              · exact still
              · exact set _ .starved (s.slot sl).hold _ rfl
            · split
              · exact set _ .ready .returnFull _ rfl
              · exact still

theorem slotRest_overflow (sl : Slot) (s : State) : (slotRest sl s).cw.overflow = s.cw.overflow := by
  obtain ⟨st, hd, c, e⟩ := slotRest_eq sl s
  rw [e]
  cases sl <;> rfl

theorem slotRest_queue (sl x : Slot) (s : State) : ((slotRest sl s).slot x).queue = (s.slot x).queue := by
  obtain ⟨st, hd, c, e⟩ := slotRest_eq sl s
  rw [e]
  cases sl <;> cases x <;> rfl

/-! ## The overflow move's test -/

theorem overflowMove_sets (s : State) : (overflowMove s).cw.overflow = true := by
  unfold overflowMove
  extract_lets file s1 s2 s3 s4
  rw [slotRest_overflow]
  rfl

/-- The move happens or nothing does. -/
theorem overflowTest_cases (s : State) : overflowTest s = s ∨ s.cw.overflow = false ∧ (overflowTest s).cw.overflow = true := by
  unfold overflowTest
  split
  · rename_i h
    exact .inr ⟨by simpa using h.2.1, overflowMove_sets s⟩
  · exact .inl rfl

/-- The slot settles without a move, or the switch is newly set. -/
theorem slotSettle_cases (sl : Slot) (s : State) :
    slotSettle sl s = slotRest sl s ∨ s.cw.overflow = false ∧ (slotSettle sl s).cw.overflow = true := by
  rw [← slotRest_overflow sl s]
  exact overflowTest_cases (slotRest sl s)

/-! ## A card duty handed to its slot -/

/-- Whether a job for a slot goes to slot B instead (R153). -/
def State.diverts (s : State) (j : FileJob) (sl : Slot) : Bool := sl == .a && s.cw.overflow && s.mayMove j

/-- A card duty that is handed out, its target changed where it goes to slot B. -/
def State.aimed (s : State) (j : FileJob) (sl : Slot) : State := if s.diverts j sl then retarget j s else s

theorem aimed_overflow (j : FileJob) (sl : Slot) (s : State) : (s.aimed j sl).cw.overflow = s.cw.overflow := by
  unfold State.aimed
  split <;> rfl

/-- A hand-off leaves the duty as it was, queues it without a move, or sets the switch anew. -/
theorem handCard_cases (n : Nat) (k : FileKind) (sl : Slot) (s : State) :
    (s.dutyOf n (.card k sl) ≠ some .pending ∨ ⟨n, k⟩ ∈ (s.slot sl).queue) ∧ handCard n k sl s = s
    ∨ (s.dutyOf n (.card k sl) = some .pending ∧ ⟨n, k⟩ ∉ (s.slot sl).queue)
      ∧ (handCard n k sl s = slotRest (if s.diverts ⟨n, k⟩ sl then .b else sl)
          (modSlot (if s.diverts ⟨n, k⟩ sl then .b else sl) (fun x => { x with queue := x.queue ++ [⟨n, k⟩] }) (s.aimed ⟨n, k⟩ sl))
        ∨ s.cw.overflow = false ∧ (handCard n k sl s).cw.overflow = true) := by
  by_cases h : s.dutyOf n (.card k sl) ≠ some .pending ∨ ⟨n, k⟩ ∈ (s.slot sl).queue
  · exact .inl ⟨h, if_pos h⟩
  · refine .inr ⟨by simpa using h, ?_⟩
    have e : handCard n k sl s = slotSettle (if s.diverts ⟨n, k⟩ sl then .b else sl)
        (modSlot (if s.diverts ⟨n, k⟩ sl then .b else sl) (fun x => { x with queue := x.queue ++ [⟨n, k⟩] })
          (s.aimed ⟨n, k⟩ sl)) := if_neg h
    rw [e]
    refine (slotSettle_cases _ _).imp_right (fun ⟨h1, h2⟩ => ⟨?_, h2⟩)
    rwa [modSlot_overflow, aimed_overflow] at h1

theorem handCard_overflow {n : Nat} {k : FileKind} {sl : Slot} (h : s.cw.overflow = true) : (handCard n k sl s).cw.overflow = true := by
  rcases handCard_cases n k sl s with ⟨_, e⟩ | ⟨_, e | ⟨h', _⟩⟩
  · rw [e]
    exact h
  · rw [e, slotRest_overflow, modSlot_overflow, aimed_overflow]
    exact h
  · rw [h] at h'
    cases h'

end Sys2Proof.Machine
end

section
/-! The development engine's steps: a job's start, the grant of its blocks, and its completion (R123, R124, R126, R134). -/

namespace Sys2Proof.Machine

set_option Elab.async false

open Sys2Proof

variable {a s t : State}

/-! ## The conditions of a grant -/

theorem any_state_updateFirst {p : Shot → Bool} {f : Shot → Shot} (hf : ∀ x, (f x).state = x.state) (st : EntryState) (l : List Shot) :
    (updateFirst p f l).any (fun x => x.state == st) = l.any (fun x => x.state == st) := by
  induction l with
  | nil => rfl
  | cons x l ih =>
    unfold updateFirst
    split
    · rw [List.any_cons, List.any_cons, hf]
    · rw [List.any_cons, List.any_cons, ih]

/-- A change of a record leaves the waiting reservation's conditions. -/
theorem mayReserve_modHeld {n : Nat} {f : Shot → Shot} (hf : ∀ x, (f x).state = x.state) (s : State) :
    (modHeld n f s).mayReserve = s.mayReserve := by
  unfold State.mayReserve
  rw [show (modHeld n f s).ss.table = updateFirst (isHeld n) f s.ss.table from rfl, any_state_updateFirst hf, any_state_updateFirst hf]
  rfl

theorem mayGrantJob_iff {j : Job} : s.mayGrantJob j = true ↔ j.blocks + s.cfg.store.floor ≤ s.ss.free.length ∧ s.mayReserve = false := by
  unfold State.mayGrantJob mayAllocate State.freeCount
  rw [Bool.and_eq_true, decide_eq_true_iff, Bool.not_eq_true']

theorem not_mayGrantJob {j : Job} (h : s.ss.free.length < j.blocks + s.cfg.store.floor ∨ s.mayReserve = true) :
    ¬ s.mayGrantJob j = true := by
  rw [mayGrantJob_iff]
  rintro ⟨h1, h2⟩
  rcases h with h | h
  · omega
  · rw [h2] at h
    cases h

/-! ## The grant -/

/-- A shot with the proof extent that its job is granted (R124). -/
def withProof (j : Job) (l : List Nat) (x : Shot) : Shot := { x with proof := some ⟨l, j.bytes, j.width, j.height⟩ }

theorem grantJob_eq (j : Job) (s : State) : grantJob j s = { s with
    ss := { s.ss with
      free := s.ss.free.drop j.blocks
      table := updateFirst (isHeld j.shot) (withProof j (s.ss.free.take j.blocks)) s.ss.table }
    de := { s.de with phase := .developing }, cp := s.tellsLow j.blocks } := by
  have h : grantJob j s = { modHeld j.shot (withProof j (takeBlocks j.blocks s).1) (takeBlocks j.blocks s).2 with
      de := { (takeBlocks j.blocks s).2.de with phase := .developing } } := rfl
  rw [h, takeBlocks_eq]
  rfl

theorem held_grantJob (j : Job) (s : State) :
    (grantJob j s).held j.shot = (s.held j.shot).map (withProof j (s.ss.free.take j.blocks)) := by
  rw [grantJob_eq]
  exact held_modHeld_map (f := withProof j (s.ss.free.take j.blocks)) (fun _ hx => hx) s

/-! ## The start -/

/-- The state with the job of the head entry's shot begun (R123). -/
def State.begun (s : State) (n : Nat) (rest : List DevEntry) (j : Job) : State :=
  { setDuty n .develop (Duty.into .active) s with de := { s.de with queue := rest, job := some j } }

theorem startJob_eq {e : DevEntry} {rest : List DevEntry} {h : Shot} (hq : s.de.queue = e :: rest) (hh : s.held e.shot = some h) :
    startJob s = if (s.begun e.shot rest (newJob h s)).mayGrantJob (newJob h s) then
        grantJob (newJob h s) (s.begun e.shot rest (newJob h s))
      else { s.begun e.shot rest (newJob h s) with
        de := { (s.begun e.shot rest (newJob h s)).de with phase := .stalled, stalls := sat32 s.de.stalls } } := by
  have hs0 : ({ s with de := { s.de with queue := rest } } : State).held e.shot = some h := hh
  unfold startJob
  rw [hq]
  dsimp only
  rw [hs0]
  rfl

theorem mayGrantJob_begun (n : Nat) (rest : List DevEntry) (j : Job) (s : State) :
    (s.begun n rest j).mayGrantJob j = s.mayGrantJob j := by
  have hr : (s.begun n rest j).mayReserve = s.mayReserve := mayReserve_modHeld (f := Shot.setDuty .develop (Duty.into .active))
    (fun _ => rfl) s
  unfold State.mayGrantJob
  rw [hr]
  rfl

theorem held_begun (n : Nat) (rest : List DevEntry) (j : Job) (s : State) :
    (s.begun n rest j).held n = (s.held n).map (Shot.setDuty .develop (Duty.into .active)) :=
  held_modHeld_map (f := Shot.setDuty .develop (Duty.into .active)) (fun _ hx => hx) s

theorem develop_active {h : Shot} (hd : h.duty .develop ≠ none) :
    (h.setDuty .develop (Duty.into .active)).dutyState .develop = some .active := by
  rw [dutyState_setDuty (into_key .active), if_pos rfl]
  obtain ⟨d, hd⟩ := Option.ne_none_iff_exists'.1 hd
  rw [hd, Option.map_some, into_state]

/-! ## What the card writer leaves of the duties -/

/-- A card duty or none. -/
def DutyKey.onCard : DutyKey → Bool
  | .card _ _ => true
  | _ => false

/-- The duty of another consumer is found as it was. -/
theorem find_carded {k : DutyKey} (hk : k.onCard = false) : ∀ {l m : List Duty}, List.Forall₂ Duty.Carded l m →
    m.find? (fun d => d.key == k) = l.find? (fun d => d.key == k)
  | _, _, .nil => rfl
  | _, _, .cons h t => by
    rw [List.find?_cons, List.find?_cons, find_carded hk t]
    rcases h with rfl | ⟨kd, sl, sl', hd, he⟩
    · rfl
    · have card : ∀ x, (DutyKey.card kd x == k) = false := by
        intro x
        rw [beq_eq_false_iff_ne]
        rintro rfl
        cases hk
      rw [hd, he, card, card]

theorem dutyState_carded {x y : Shot} {k : DutyKey} (hk : k.onCard = false) (h : List.Forall₂ Duty.Carded x.duties y.duties) :
    y.dutyState k = x.dutyState k := by
  unfold Shot.dutyState Shot.duty
  rw [find_carded hk h]

/-- A record whose card duties may name another slot. -/
structure Shot.Aimed (x y : Shot) : Prop where
  eq : y = { x with duties := y.duties }
  duties : List.Forall₂ (fun d e => Duty.Carded d e ∧ e.state = d.state ∧ e.key.needsProof = d.key.needsProof) x.duties y.duties

theorem Shot.Aimed.refl (x : Shot) : Shot.Aimed x x := ⟨rfl, List.forall₂_same.2 (fun d _ => ⟨.refl d, rfl, rfl⟩)⟩

theorem Shot.Aimed.trans {x y z : Shot} (h1 : Shot.Aimed x y) (h2 : Shot.Aimed y z) : Shot.Aimed x z where
  eq := by rw [h2.eq, h1.eq]
  duties := forall₂_trans (fun _ _ _ ⟨a1, b1, c1⟩ ⟨a2, b2, c2⟩ => ⟨a1.trans a2, b2.trans b1, c2.trans c1⟩) h1.duties h2.duties

theorem Shot.Aimed.carded {x y : Shot} (h : Shot.Aimed x y) : List.Forall₂ Duty.Carded x.duties y.duties :=
  h.duties.imp (fun _ _ h => h.1)

theorem aimed_retarget (k : FileKind) (x : Shot) :
    Shot.Aimed x (x.setDuty (.card k .a) (fun d => { d with key := .card k .b })) where
  eq := rfl
  duties := by
    refine List.forall₂_map_right_iff.2 (List.forall₂_same.2 (fun d _ => ?_))
    split
    · rename_i hd
      have hk : d.key = .card k .a := eq_of_beq hd
      refine ⟨.inr ⟨k, .a, .b, hk, rfl⟩, rfl, ?_⟩
      rw [hk]
      cases k <;> rfl
    · exact ⟨.refl d, rfl, rfl⟩

/-- Whether some duty or all duties have a property that the target's slot does not matter to. -/
theorem Shot.Aimed.any {x y : Shot} (h : Shot.Aimed x y) :
    y.duties.any (fun d => d.key.needsProof && d.owed) = x.duties.any (fun d => d.key.needsProof && d.owed) := by
  have hd := h.duties
  generalize x.duties = l, y.duties = m at hd
  induction hd with
  | nil => rfl
  | cons h _ ih =>
    obtain ⟨_, hs, hk⟩ := h
    rw [List.any_cons, List.any_cons, ih, hk, Duty.owed, Duty.owed, hs]

theorem Shot.Aimed.all {x y : Shot} (h : Shot.Aimed x y) : y.duties.all (fun d => !d.owed) = x.duties.all (fun d => !d.owed) := by
  have hd := h.duties
  generalize x.duties = l, y.duties = m at hd
  induction hd with
  | nil => rfl
  | cons h _ ih =>
    obtain ⟨_, hs, _⟩ := h
    rw [List.all_cons, List.all_cons, ih, Duty.owed, Duty.owed, hs]

theorem modHeld_id (n : Nat) (s : State) : modHeld n id s = s := by
  have h : updateFirst (isHeld n) id s.ss.table = s.ss.table := by
    cases h : s.ss.table.find? (isHeld n) with
    | none => exact updateFirst_none h
    | some x => rw [updateFirst_found h]; exact updateFirst_same h
  show { s with ss := { s.ss with table := updateFirst (isHeld n) id s.ss.table } } = s
  rw [h]

/-- A hand-off without a move changes the card writer's state, the notices, and of the shot the target of card duties. -/
theorem handCard_still {n : Nat} {k : FileKind} {sl : Slot} (h : (handCard n k sl s).cw.overflow = s.cw.overflow) :
    ∃ r c p, (∀ x, Shot.Aimed x (r x)) ∧ handCard n k sl s = { modHeld n r s with cw := c, cp := p } := by
  rcases handCard_cases n k sl s with ⟨_, e⟩ | ⟨_, e | ⟨h1, h2⟩⟩
  · exact ⟨id, s.cw, s.cp, fun x => .refl x, by rw [modHeld_id, e]⟩
  · obtain ⟨st, hd, p, er⟩ := slotRest_eq (if s.diverts ⟨n, k⟩ sl then .b else sl)
      (modSlot (if s.diverts ⟨n, k⟩ sl then .b else sl) (fun x => { x with queue := x.queue ++ [⟨n, k⟩] }) (s.aimed ⟨n, k⟩ sl))
    rw [er] at e
    refine ⟨if s.diverts ⟨n, k⟩ sl then Shot.setDuty (.card k .a) (fun d => { d with key := .card k .b }) else id,
      (handCard n k sl s).cw, p, fun x => ?_, ?_⟩
    · split
      · exact aimed_retarget k x
      · exact .refl x
    · rw [e]
      unfold State.aimed
      split
      · rfl
      · rw [modHeld_id]
        cases sl <;> rfl
  · rw [h1, h2] at h
    cases h

/-- A job that does not go to slot B instead is queued on its own slot, where no move happens. -/
theorem handCard_undiverted {n : Nat} {k : FileKind} {sl : Slot} (hdiv : s.diverts ⟨n, k⟩ sl = false)
    (h : (handCard n k sl s).cw.overflow = s.cw.overflow) :
    ∃ c p, handCard n k sl s = { s with cw := c, cp := p }
      ∧ ∀ x, ((handCard n k sl s).slot x).queue = (s.slot x).queue
        ++ if x = sl ∧ s.dutyOf n (.card k sl) = some .pending ∧ ⟨n, k⟩ ∉ (s.slot sl).queue then [⟨n, k⟩] else [] := by
  rcases handCard_cases n k sl s with ⟨hno, e⟩ | ⟨hyes, e | ⟨h1, h2⟩⟩
  · refine ⟨s.cw, s.cp, e, fun x => ?_⟩
    rw [e, if_neg, List.append_nil]
    rintro ⟨_, hp, hm⟩
    rcases hno with hno | hno
    · exact hno hp
    · exact hm hno
  · unfold State.aimed at e
    rw [hdiv] at e
    obtain ⟨st, hd, p, er⟩ := slotRest_eq sl (modSlot sl (fun x => { x with queue := x.queue ++ [⟨n, k⟩] }) s)
    have e' : handCard n k sl s = slotRest sl (modSlot sl (fun x => { x with queue := x.queue ++ [⟨n, k⟩] }) s) := e
    refine ⟨(handCard n k sl s).cw, p, ?_, fun x => ?_⟩
    · rw [e', er]
      cases sl <;> rfl
    · rw [e', slotRest_queue]
      by_cases hx : x = sl
      · rw [hx, if_pos ⟨rfl, hyes⟩, modSlot_slot]
      · rw [if_neg (fun c => hx c.1), List.append_nil]
        cases sl <;> cases x <;> first | rfl | exact absurd rfl hx
  · rw [h, h1] at h2
    cases h2

/-- With the overflow switch clear before and behind, a job is queued on its own slot. -/
theorem handCard_queue {n : Nat} {k : FileKind} {sl : Slot} (h0 : s.cw.overflow = false) (h : (handCard n k sl s).cw.overflow = false) :
    ∃ c p, handCard n k sl s = { s with cw := c, cp := p }
      ∧ ∀ x, ((handCard n k sl s).slot x).queue = (s.slot x).queue
        ++ if x = sl ∧ s.dutyOf n (.card k sl) = some .pending ∧ ⟨n, k⟩ ∉ (s.slot sl).queue then [⟨n, k⟩] else [] :=
  handCard_undiverted (by unfold State.diverts; rw [h0]; simp) (h.trans h0.symm)

/-! ## The tests -/

/-- The blocks that the proof test gives back (R17). -/
def Shot.proofBack (x : Shot) : List Nat := if x.proofReleasable then (x.proof.map (·.blocks)).getD [] else []

/-- A shot after the proof test. -/
def Shot.tested (x : Shot) : Shot := if x.proofReleasable then withoutProof x else x

theorem proofTest_eq {n : Nat} {x : Shot} (hx : s.held n = some x) : proofTest n s = { s with ss := { s.ss with
    free := s.ss.free ++ x.proofBack, table := updateFirst (isHeld n) (fun _ => x.tested) s.ss.table } } := by
  unfold proofTest Shot.proofBack Shot.tested
  rw [hx]
  dsimp only
  split
  · rename_i hr
    have hp : x.proof.isSome = true := by
      simp only [Shot.proofReleasable, Bool.and_eq_true] at hr
      exact hr.1.1.1
    obtain ⟨e, he⟩ := Option.isSome_iff_exists.1 hp
    unfold dropProof
    rw [hx, Option.bind_some, he]
    dsimp only
    rw [giveBlocks_eq, modHeld_eq hx]
    rfl
  · rw [List.append_nil, updateFirst_same hx]

theorem held_proofTest {n : Nat} {x : Shot} (hx : s.held n = some x) : (proofTest n s).held n = some x.tested := by
  have ht : isHeld n x.tested = true := by
    unfold Shot.tested
    split <;> exact (find_mem hx).2
  rw [proofTest_eq hx]
  exact find_updateFirst hx ht

theorem tested_freeable (x : Shot) : x.tested.freeable = x.freeable := by
  unfold Shot.tested
  split <;> rfl

/-- The tests change the store, the notices and an ARMED memo alone. -/
theorem shotTests_eq (n : Nat) (s : State) : ∃ ss m c, shotTests n s = { s with ss := ss, mi := m, cp := c } := by
  have hp : ∃ ss, proofTest n s = { s with ss := ss } := by
    cases h : s.held n with
    | some x => exact ⟨_, proofTest_eq h⟩
    | none =>
      refine ⟨s.ss, ?_⟩
      unfold proofTest
      rw [h]
  obtain ⟨ss, e⟩ := hp
  unfold shotTests
  rw [e]
  unfold freeTest
  split
  · split
    · obtain ⟨m, c, e2⟩ := abortArmed_eq n (giveBlocks (Shot.blocks ‹_›) (modHeld n (fun _ => {}) { s with ss := ss }))
      rw [e2, giveBlocks_eq]
      exact ⟨_, m, c, rfl⟩
    · exact ⟨ss, s.mi, s.cp, rfl⟩
  · exact ⟨ss, s.mi, s.cp, rfl⟩

/-- A shot that the tests keep has its proof, or has given it back. -/
theorem shotTests_stands {n : Nat} {x : Shot} (hx : s.held n = some x) (hf : x.freeable = false ∨ s.recordsInto n = true) :
    (shotTests n s).held n = some x.tested ∧ (shotTests n s).ss.free = s.ss.free ++ x.proofBack := by
  have hh := held_proofTest hx
  have e : shotTests n s = proofTest n s := by
    refine freeTest_stands hh (hf.imp (fun h => (tested_freeable x).trans h) (fun h => ?_))
    rw [proofTest_eq hx]
    exact h
  rw [e]
  exact ⟨hh, by rw [proofTest_eq hx]⟩

/-- A shot that the tests free gives all its blocks back. -/
theorem shotTests_frees {n : Nat} {x : Shot} (hx : s.held n = some x) (hf : x.freeable = true) (hr : s.recordsInto n = false)
    (hn : (s.heldShots.map (·.number)).Nodup) :
    (shotTests n s).held n = none ∧ (shotTests n s).ss.free = s.ss.free ++ x.proofBack ++ x.tested.blocks := by
  have hh := held_proofTest hx
  have e : shotTests n s = abortArmed n ((proofTest n s).freed n x.tested) := by
    refine freeTest_frees hh ((tested_freeable x).trans hf) ?_
    rw [proofTest_eq hx]
    exact hr
  have hnp : ((proofTest n s).heldShots.map (·.number)).Nodup := (proofTest_serves (w := true) .refl).nodup hn
  obtain ⟨m, c, ea⟩ := abortArmed_eq n ((proofTest n s).freed n x.tested)
  rw [e, ea]
  refine ⟨held_clear hnp, ?_⟩
  show (proofTest n s).ss.free ++ _ = _
  rw [proofTest_eq hx]

end Sys2Proof.Machine
end

section
/-! The completion of a development job, and the statement on the engine's steps (R126, R134). -/

namespace Sys2Proof.Machine

set_option Elab.async false

open Sys2Proof

variable {a s t : State}

/-! ## The proof's release -/

/-- Whether a proof is still wanted: by an owed duty or by a reader (R17). -/
def Shot.proofWanted (x : Shot) : Bool := x.duties.any (fun d => d.key.needsProof && d.owed) || x.pins.any (fun p => p.kind == .proof)

theorem proofReleasable_eq {x : Shot} (h : x.dutyState .develop ≠ some .active) :
    x.proofReleasable = (x.proof.isSome && !x.proofWanted) := by
  unfold Shot.proofReleasable Shot.proofWanted
  have hd : (x.dutyState .develop != some .active) = true := by simpa using h
  rw [hd, Bool.and_true, Bool.not_or, Bool.and_assoc]

theorem proofBack_eq {x : Shot} (h : x.dutyState .develop ≠ some .active) :
    x.proofBack = if x.proofWanted then [] else (x.proof.map (·.blocks)).getD [] := by
  unfold Shot.proofBack
  rw [proofReleasable_eq h]
  cases x.proof <;> cases x.proofWanted <;> rfl

theorem tested_proof {x : Shot} (h : x.dutyState .develop ≠ some .active) :
    x.tested.proof = if x.proofWanted then x.proof else none := by
  unfold Shot.tested
  rw [proofReleasable_eq h]
  cases hp : x.proof <;> cases x.proofWanted <;> simp [hp, withoutProof]

theorem tested_raw (x : Shot) : x.tested.raw = x.raw := by
  unfold Shot.tested
  split <;> rfl

theorem tested_memo (x : Shot) : x.tested.memo = x.memo := by
  unfold Shot.tested
  split <;> rfl

theorem Shot.Aimed.proofWanted {x y : Shot} (h : Shot.Aimed x y) : y.proofWanted = x.proofWanted := by
  unfold Shot.proofWanted
  rw [h.any, h.eq]

theorem Shot.Aimed.freeable {x y : Shot} (h : Shot.Aimed x y) : y.freeable = x.freeable := by
  unfold Shot.freeable
  rw [h.all, h.eq]

/-! ## The completed shot -/

/-- A shot whose job completes, before what follows it (R126, R134). -/
def developedShot (j : Job) (x : Shot) : Shot :=
  ({ x with develop := some (highMask j.recipe j.black) } : Shot).setDuty .develop (Duty.into .done)

/-- The engine with its job completed. -/
def completedEngine (j : Job) (d : Develop) : Develop := { d with
  phase := .idle, job := none, completed := sat32 d.completed
  highs := if (highMask j.recipe j.black).any then sat32 d.highs else d.highs }

/-- The state at a job's completion, before what follows it. -/
def State.developed (s : State) (j : Job) : State :=
  { setDuty j.shot .develop (Duty.into .done) (modHeld j.shot (fun x => { x with develop := some (highMask j.recipe j.black) })
      { s with mem := writeRows (s.jobExtents j).1 (s.jobExtents j).2 j j.height s.mem }) with de := completedEngine j s.de }

theorem completeJob_eq (j : Job) (s : State) : completeJob j s
    = shotTests j.shot (handCard j.shot .proof .b (handCard j.shot .proof .a (s.developed j))) := rfl

theorem completeJob_serves (j : Job) (s : State) : Serves false (s.developed j) (completeJob j s) :=
  shotTests_serves (handCard_serves (handCard_serves .refl))

/-- A shot with its develop status set. -/
def withMask (j : Job) (x : Shot) : Shot := { x with develop := some (highMask j.recipe j.black) }

theorem held_developed (j : Job) (s : State) : (s.developed j).held j.shot = (s.held j.shot).map (developedShot j) := by
  have h1 : (s.developed j).held j.shot = (setDuty j.shot .develop (Duty.into .done) (modHeld j.shot (withMask j) s)).held j.shot := rfl
  rw [h1]
  unfold setDuty
  rw [held_modHeld_map (f := Shot.setDuty .develop (Duty.into .done)) (fun _ hx => hx),
    held_modHeld_map (f := withMask j) (fun _ hx => hx), Option.map_map]
  rfl

theorem heldNumbers_developed (j : Job) (s : State) :
    (s.developed j).heldShots.map (·.number) = s.heldShots.map (·.number) := by
  have h1 : (s.developed j).heldShots = (setDuty j.shot .develop (Duty.into .done) (modHeld j.shot (withMask j) s)).heldShots := rfl
  rw [h1]
  unfold setDuty
  rw [heldNumbers_modHeld (f := Shot.setDuty .develop (Duty.into .done)) (fun _ hx => hx),
    heldNumbers_modHeld (f := withMask j) (fun _ hx => hx)]

theorem developedShot_duties (j : Job) (x : Shot) :
    (developedShot j x).duties = x.duties.map (fun d => if d.key == .develop then d.into .done else d) := rfl

theorem developedShot_done (j : Job) (x : Shot) (st : DutyState) (h : (developedShot j x).dutyState .develop = some st) : st = .done := by
  unfold developedShot at h
  rw [dutyState_setDuty (into_key .done), if_pos rfl] at h
  obtain ⟨d, _, rfl⟩ := Option.map_eq_some_iff.1 h
  exact into_state .done d

theorem done_not_owed (d : Duty) : (d.into .done).owed = false := rfl

theorem developedShot_wanted (j : Job) (x : Shot) : (developedShot j x).proofWanted
    = (x.duties.any (fun d => d.key.needsProof && (d.state == .pending || d.state == .active)) || x.pins.any (·.kind == .proof)) := by
  unfold Shot.proofWanted
  rw [developedShot_duties, List.any_map]
  refine congrArg₂ _ (congrArg (List.any x.duties) (funext fun d => ?_)) rfl
  show (DutyKey.needsProof (Duty.key (if _ then _ else _)) && Duty.owed (if _ then _ else _)) = _
  split
  · rename_i h
    rw [into_key, eq_of_beq h]
    rfl
  · rfl

theorem developedShot_all (j : Job) (x : Shot) : (developedShot j x).duties.all (fun d => !d.owed)
    = x.duties.all (fun d => !(d.state == .pending || d.state == .active) || d.key == .develop) := by
  rw [developedShot_duties, List.all_map]
  refine congrArg (List.all x.duties) (funext fun d => ?_)
  show (!Duty.owed (if _ then _ else _)) = _
  split
  · rename_i h
    rw [done_not_owed, h, Bool.or_true]
    rfl
  · rename_i h
    rw [eq_false_of_ne_true h, Bool.or_false]
    rfl

/-- What is left to do with a completed shot: nothing, so that it may be freed (R18). -/
def Shot.goneAfter (x : Shot) (recorded : Bool) : Bool :=
  x.duties.all (fun d => !(d.state == .pending || d.state == .active) || d.key == .develop) && x.pins.isEmpty && !x.keep && !recorded

theorem goneAfter_eq (j : Job) (x : Shot) (r : Bool) : x.goneAfter r = ((developedShot j x).freeable && !r) := by
  unfold Shot.freeable Shot.goneAfter
  rw [developedShot_all]
  rfl

/-! ## The completion -/

/-- A completed shot with nothing left to do is freed. -/
theorem completeJob_frees {j : Job} {h : Shot} (hh : s.held j.shot = some h) (hn : (s.heldShots.map (·.number)).Nodup)
    (hg : h.goneAfter (s.recordsInto j.shot) = true) :
    (completeJob j s).held j.shot = none
    ∧ (completeJob j s).ss.free = s.ss.free ++ (if (developedShot j h).proofWanted then [] else (h.proof.map (·.blocks)).getD [])
      ++ h.raw ++ (h.memo.map (·.blocks)).getD [] := by
  have hx : (s.developed j).held j.shot = some (developedShot j h) := by rw [held_developed, hh]; rfl
  rw [goneAfter_eq j, Bool.and_eq_true, Bool.not_eq_true'] at hg
  obtain ⟨hf, hr⟩ := hg
  have hall : (developedShot j h).duties.all (fun d => !d.owed) = true := by
    simp only [Shot.freeable, Bool.and_eq_true] at hf
    exact hf.1.1
  have still : ∀ sl, handCard j.shot .proof sl (s.developed j) = s.developed j := fun sl =>
    if_pos (.inl (by rw [dutyOf_eq hx]; exact (not_owed hall _).1))
  have hd : (developedShot j h).dutyState .develop ≠ some .active := fun e => by cases developedShot_done j h _ e
  have hk : (developedShot j h).proofWanted = false := by
    have hpins : h.pins = [] := by
      simp only [Shot.freeable, Bool.and_eq_true] at hf
      exact List.isEmpty_iff.1 hf.1.2
    unfold Shot.proofWanted
    rw [show (developedShot j h).pins = [] from hpins, List.any_nil, Bool.or_false, List.any_eq_false]
    intro d hd
    have := List.all_eq_true.1 hall d hd
    simp only [Bool.not_eq_true'] at this
    simp [this]
  rw [completeJob_eq, still, still]
  have hnd : ((s.developed j).heldShots.map (·.number)).Nodup := by rw [heldNumbers_developed]; exact hn
  obtain ⟨h1, h2⟩ := shotTests_frees hx hf hr hnd
  refine ⟨h1, h2.trans ?_⟩
  have hb : (developedShot j h).tested.blocks = h.raw ++ (h.memo.map (·.blocks)).getD [] := by
    unfold Shot.blocks
    rw [tested_raw, tested_memo, tested_proof hd, hk]
    simp [developedShot, Shot.setDuty]
  rw [hb, proofBack_eq hd, hk, ← List.append_assoc]
  rfl

/-- A completed shot with something left to do stands, and its proof if that is wanted. -/
theorem completeJob_stands {j : Job} {h : Shot} (hh : s.held j.shot = some h)
    (hg : h.goneAfter (s.recordsInto j.shot) = false) (ho : (completeJob j s).cw.overflow = s.cw.overflow) :
    (completeJob j s).ss.free = s.ss.free ++ (if (developedShot j h).proofWanted then [] else (h.proof.map (·.blocks)).getD [])
    ∧ ∃ u, (completeJob j s).held j.shot = some u ∧ u.proof = if (developedShot j h).proofWanted then h.proof else none := by
  have hx : (s.developed j).held j.shot = some (developedShot j h) := by rw [held_developed, hh]; rfl
  obtain ⟨ss, m, c, et⟩ := shotTests_eq j.shot (handCard j.shot .proof .b (handCard j.shot .proof .a (s.developed j)))
  have ho2 : (handCard j.shot .proof .b (handCard j.shot .proof .a (s.developed j))).cw.overflow = (s.developed j).cw.overflow := by
    rw [completeJob_eq, et] at ho
    exact ho
  have ho1 : (handCard j.shot .proof .a (s.developed j)).cw.overflow = (s.developed j).cw.overflow := by
    cases h1 : (handCard j.shot .proof .a (s.developed j)).cw.overflow with
    | true => rw [handCard_overflow h1] at ho2; exact ho2
    | false =>
      cases h0 : (s.developed j).cw.overflow with
      | true => rw [handCard_overflow h0] at h1; cases h1
      | false => rfl
  obtain ⟨r1, c1, p1, hr1, e1⟩ := handCard_still ho1
  obtain ⟨r2, c2, p2, hr2, e2⟩ := handCard_still (ho2.trans ho1.symm)
  have ha1 : ∀ (r : Shot → Shot), (∀ x, Shot.Aimed x (r x)) → ∀ x, isHeld j.shot x = true → isHeld j.shot (r x) = true := by
    intro r hr x hx
    rw [(hr x).eq]
    exact hx
  have hy1 : (handCard j.shot .proof .a (s.developed j)).held j.shot = some (r1 (developedShot j h)) := by
    rw [e1]
    exact (held_modHeld_map (ha1 r1 hr1) (s.developed j)).trans (by rw [hx]; rfl)
  have hy2 : (handCard j.shot .proof .b (handCard j.shot .proof .a (s.developed j))).held j.shot
      = some (r2 (r1 (developedShot j h))) := by
    rw [e2]
    exact (held_modHeld_map (ha1 r2 hr2) _).trans (by rw [hy1]; rfl)
  have haim : Shot.Aimed (developedShot j h) (r2 (r1 (developedShot j h))) := (hr1 _).trans (hr2 _)
  have hd : (r2 (r1 (developedShot j h))).dutyState .develop ≠ some .active := by
    rw [dutyState_carded rfl haim.carded]
    exact fun e => by cases developedShot_done j h _ e
  have hrec : (handCard j.shot .proof .b (handCard j.shot .proof .a (s.developed j))).recordsInto j.shot = s.recordsInto j.shot := by
    rw [e2, e1]
    rfl
  have hfree : (handCard j.shot .proof .b (handCard j.shot .proof .a (s.developed j))).ss.free = s.ss.free := by
    rw [e2, e1]
    rfl
  have hf : (r2 (r1 (developedShot j h))).freeable = false
      ∨ (handCard j.shot .proof .b (handCard j.shot .proof .a (s.developed j))).recordsInto j.shot = true := by
    rw [goneAfter_eq j, ← haim.freeable, Bool.and_eq_false_iff, Bool.not_eq_false'] at hg
    rw [hrec]
    exact hg
  obtain ⟨h1, h2⟩ := shotTests_stands hy2 hf
  rw [completeJob_eq]
  have hp : (r2 (r1 (developedShot j h))).proof = h.proof := by rw [haim.eq]; rfl
  refine ⟨?_, _, h1, ?_⟩
  · rw [h2, hfree, proofBack_eq hd, haim.proofWanted, hp]
  · rw [tested_proof hd, haim.proofWanted, hp]

/-- With the overflow switch clear before and behind, each PENDING PROOF duty's job joins its slot's queue. -/
theorem completeJob_queue {j : Job} {h : Shot} (hh : s.held j.shot = some h) (h0 : s.cw.overflow = false)
    (ho : (completeJob j s).cw.overflow = false) (sl : Slot) : ((completeJob j s).slot sl).queue = (s.slot sl).queue
      ++ if h.dutyState (.card .proof sl) = some .pending ∧ ⟨j.shot, .proof⟩ ∉ (s.slot sl).queue then [⟨j.shot, .proof⟩] else [] := by
  have hx : (s.developed j).held j.shot = some (developedShot j h) := by rw [held_developed, hh]; rfl
  have hduty : ∀ x, (s.developed j).dutyOf j.shot (.card .proof x) = h.dutyState (.card .proof x) := by
    intro x
    rw [dutyOf_eq hx]
    unfold developedShot
    rw [dutyState_setDuty (into_key .done), if_neg (by simp)]
    rfl
  obtain ⟨ss, m, c, et⟩ := shotTests_eq j.shot (handCard j.shot .proof .b (handCard j.shot .proof .a (s.developed j)))
  rw [completeJob_eq, et] at ho
  rw [completeJob_eq, et]
  have ho1 : (handCard j.shot .proof .a (s.developed j)).cw.overflow = false := by
    cases h1 : (handCard j.shot .proof .a (s.developed j)).cw.overflow with
    | true => rw [show State.cw _ = (handCard j.shot .proof .b (handCard j.shot .proof .a (s.developed j))).cw from rfl,
        handCard_overflow h1] at ho; exact ho
    | false => rfl
  obtain ⟨c1, p1, e1, q1⟩ := handCard_queue (s := s.developed j) h0 ho1
  obtain ⟨c2, p2, e2, q2⟩ := handCard_queue ho1 ho
  show ((handCard j.shot .proof .b (handCard j.shot .proof .a (s.developed j))).slot sl).queue = _
  have hd1 : ∀ x, (handCard j.shot .proof .a (s.developed j)).dutyOf j.shot (.card .proof x) = h.dutyState (.card .proof x) := by
    intro x
    rw [← hduty x, e1]
    rfl
  rw [q2, hd1, q1, q1, hduty]
  cases sl with
  | a =>
    simp only [State.developed, State.slot, setDuty_cw, modHeld_cw, reduceCtorEq, false_and, if_false, true_and, List.append_nil]
    exact congrArg _ (if_congr Iff.rfl rfl rfl)
  | b =>
    simp only [State.developed, State.slot, setDuty_cw, modHeld_cw, reduceCtorEq, false_and, if_false, true_and, List.append_nil]
    exact congrArg _ (if_congr Iff.rfl rfl rfl)

/-- A completed shot that is still there has its develop status, and its DEVELOP is DONE. -/
theorem completeJob_status {j : Job} {u : Shot} (hu : (completeJob j s).held j.shot = some u)
    (hn : (s.heldShots.map (·.number)).Nodup) : u.develop = some (highMask j.recipe j.black)
      ∧ ∀ st, u.dutyState .develop = some st → st = .done := by
  have hnd : ((s.developed j).heldShots.map (·.number)).Nodup := by rw [heldNumbers_developed]; exact hn
  obtain ⟨y, hy, hs⟩ := (completeJob_serves j s).held_of hnd hu
  rw [held_developed] at hy
  obtain ⟨x, _, rfl⟩ := Option.map_eq_some_iff.1 hy
  refine ⟨by rw [hs.narrow rfl]; rfl, fun st hst => ?_⟩
  rw [dutyState_carded rfl (hs.duties rfl)] at hst
  exact developedShot_done j x st hst

/-! ## The steps -/

theorem exec_developComplete_none (h : ∀ j, s.de.job = some j → s.de.phase ≠ .developing ∨ j.bytesRead < j.toRead) :
    exec .developComplete s = .next s := by
  show execDevelopComplete s = .next s
  unfold execDevelopComplete
  split
  · rename_i j hj
    refine congrArg Host.Outcome.next (if_neg ?_)
    unfold State.jobDone
    rw [hj]
    rcases h j hj with h | h
    · simp [h]
    · simp [Nat.not_le.2 h]
  · rfl

theorem exec_developComplete_some {j : Job} (hj : s.de.job = some j) (hp : s.de.phase = .developing) (hr : j.toRead ≤ j.bytesRead) :
    exec .developComplete s = .next (completeJob j s) := by
  show execDevelopComplete s = _
  unfold execDevelopComplete
  rw [hj]
  refine congrArg Host.Outcome.next (if_pos ?_)
  unfold State.jobDone
  rw [hj]
  simp [hp, hr]

theorem exec_allocationGrant_none (h : s.de.phase ≠ .stalled ∨ s.de.job = none) : exec .allocationGrant s = .next s := by
  show execAllocationGrant s = _
  unfold execAllocationGrant
  split
  · rename_i j hj
    refine congrArg Host.Outcome.next (if_neg (fun c => ?_))
    rcases h with h | h
    · exact h c.1
    · rw [hj] at h
      cases h
  · rfl

theorem exec_allocationGrant_some {j : Job} (hp : s.de.phase = .stalled) (hj : s.de.job = some j) :
    exec .allocationGrant s = .next (if s.mayGrantJob j then grantJob j s else s) := by
  show execAllocationGrant s = _
  unfold execAllocationGrant
  rw [hj]
  exact congrArg Host.Outcome.next (if_congr (by simp [hp]) rfl rfl)

theorem blocksFor_eq (n : Nat) : blocksFor n = (n + 65535) / 65536 := by
  unfold blocksFor ceilDiv Config.blockBytes
  omega

/-- A job that starts (R123, R124). -/
theorem startJob_starts {e : DevEntry} {rest : List DevEntry} {h : Shot} (hq : s.de.queue = e :: rest) (hh : s.held e.shot = some h) :
    let rc := s.de.recipes.getD h.recipe defaultRecipe
    let wide := h.geom.width / (2 * rc.scale)
    let high := h.geom.height / (2 * rc.scale)
    let blocks := (newJob h s).blocks
    let t := startJob s
    let j := newJob h s
    t = { s with ss := t.ss, de := t.de, cp := t.cp } ∧ t.de.queue = rest ∧ t.de.job = some j
    ∧ (blocks + s.cfg.store.floor ≤ s.ss.free.length → s.mayReserve = false →
        t.de.phase = .developing ∧ t.ss.free = s.ss.free.drop blocks ∧ t.cp = s.tellsLow blocks
        ∧ (t.held e.shot).bind (·.proof) = some ⟨s.ss.free.take blocks, wide * high * 3, wide, high⟩)
    ∧ (s.ss.free.length < blocks + s.cfg.store.floor ∨ s.mayReserve = true →
        t.de.phase = .stalled ∧ t.ss.free = s.ss.free ∧ t.cp = s.cp ∧ t.de.stalls = min (s.de.stalls + 1) 4294967295)
    ∧ (h.duty .develop ≠ none → (t.held e.shot).bind (·.dutyState .develop) = some .active) := by
  intro rc wide high blocks t j
  have hj : j.shot = e.shot := (held_mem hh).2.2
  have hb : (s.begun e.shot rest j).held e.shot = some (h.setDuty .develop (Duty.into .active)) := by
    rw [held_begun, hh]
    rfl
  by_cases hg : s.mayGrantJob j = true
  · have ht : t = grantJob j (s.begun e.shot rest j) := by
      rw [← mayGrantJob_begun e.shot rest j s] at hg
      exact (startJob_eq hq hh).trans (if_pos hg)
    have hheld := held_grantJob j (s.begun e.shot rest j)
    rw [hj, hb, ← ht] at hheld
    rw [grantJob_eq] at ht
    refine ⟨by rw [ht]; rfl, by rw [ht]; rfl, by rw [ht]; rfl, fun _ _ => ⟨by rw [ht], by rw [ht]; rfl, by rw [ht]; rfl, ?_⟩,
      fun hno => absurd hg (not_mayGrantJob hno), fun hd => ?_⟩
    · rw [hheld]
      rfl
    · rw [hheld]
      exact develop_active hd
  · have ht : t = { s.begun e.shot rest j with
        de := { (s.begun e.shot rest j).de with phase := .stalled, stalls := sat32 s.de.stalls } } := by
      rw [← mayGrantJob_begun e.shot rest j s] at hg
      exact (startJob_eq hq hh).trans (if_neg hg)
    have hheld : t.held e.shot = some (h.setDuty .develop (Duty.into .active)) := by
      rw [ht]
      exact hb
    refine ⟨by rw [ht]; rfl, by rw [ht]; rfl, by rw [ht]; rfl, fun h1 h2 => absurd (mayGrantJob_iff.2 ⟨h1, h2⟩) hg,
      fun _ => ⟨by rw [ht], by rw [ht]; rfl, by rw [ht]; rfl, by rw [ht]; rfl⟩, fun hd => ?_⟩
    rw [hheld]
    exact develop_active hd

/-- Settles O48. -/
theorem developmentSteps : Obligations.DevelopmentSteps := by
  intro s
  refine ⟨fun h => ?_, fun e rest h hp hq hh => ?_, exec_allocationGrant_none, fun j hp hj => ⟨fun h => ?_, fun h1 h2 => ?_⟩,
    exec_developComplete_none, fun j hj hp hr => ?_⟩
  · refine congrArg Host.Outcome.next ?_
    split
    · rename_i hp
      unfold startJob
      rw [h.resolve_left (fun c => c hp)]
    · rfl
  · intro rc wide high blocks
    obtain ⟨h1, h2, h3, h4, h5, h6⟩ := startJob_starts hq hh
    have hb : (newJob h s).blocks = blocks := blocksFor_eq _
    rw [hb] at h4 h5
    exact ⟨startJob s, newJob h s, congrArg Host.Outcome.next (if_pos hp), h1, h2, h3, rfl, rfl, rfl, rfl, rfl, rfl, rfl, hb, rfl,
      rfl, h4, h5, h6⟩
  · rw [exec_allocationGrant_some hp hj, if_neg (not_mayGrantJob h)]
  · refine ⟨grantJob j s, by rw [exec_allocationGrant_some hp hj, if_pos (mayGrantJob_iff.2 ⟨h1, h2⟩)], ?_, ?_, fun h hh => ?_⟩
    · rw [grantJob_eq]
    · rw [grantJob_eq]
    · rw [held_grantJob, hh]
      rfl
  · refine ⟨completeJob j s, exec_developComplete_some hj hp hr, (completeJob_serves j s).de.trans ?_, (completeJob_serves j s).mem,
      fun u hu hn => completeJob_status hu hn, fun h hh hn hd => ?_⟩
    · have hm : ∀ (m : HighMask) (x y : Nat), (if m.any then x else y) = if m.r ∨ m.g ∨ m.b then x else y := by
        rintro ⟨r, g, b⟩ x y
        cases r <;> cases g <;> cases b <;> rfl
      show completedEngine j s.de = _
      unfold completedEngine
      rw [hm]
      rfl
    · intro owed kept back gone job
      have hk : (developedShot j h).proofWanted = kept := developedShot_wanted j h
      refine ⟨fun hg => ?_, fun hg ho => ?_, fun h0 ho sl => completeJob_queue hh h0 ho sl⟩
      · have := completeJob_frees hh hn hg
        rw [hk] at this
        exact this
      · have := completeJob_stands hh hg ho
        rw [hk] at this
        exact this

end Sys2Proof.Machine
end

section
/-! Readout headers (R34 to R37): what reassembly leaves unchanged, the judgement of a header, and the statement on them. -/

namespace Sys2Proof.Machine

set_option Elab.async false

open Sys2Proof

variable {a s t : State} {p q : SensorPort}

/-! ## What reassembly leaves unchanged -/

/-- Reassembly: a port that differs in what the FIFOs, the unit in hand, the units ready and the checkers hold. -/
structure Reassembles (p q : SensorPort) : Prop where
  eq : q = { p with
    fifos := q.fifos, items := q.items, unitOpen := q.unitOpen, assembly := q.assembly, turn := q.turn, resync := q.resync
    checkers := q.checkers } := by rfl

theorem Reassembles.refl (p : SensorPort) : Reassembles p p := {}

theorem Reassembles.trans {r : SensorPort} (h1 : Reassembles p q) (h2 : Reassembles q r) : Reassembles p r :=
  ⟨by rw [h2.eq, h1.eq]⟩

theorem popLane_reassembles (i : Nat) (p : SensorPort) : Reassembles p (popLane i p) := {}

theorem foldl_reassembles {f : SensorPort → Nat → SensorPort} (hf : ∀ q i, Reassembles q (f q i)) :
    ∀ (l : List Nat) (p : SensorPort), Reassembles p (l.foldl f p)
  | [], p => .refl p
  | i :: l, p => (hf p i).trans (foldl_reassembles hf l (f p i))

theorem popWhere_reassembles (l : List Nat) (f : Nat → Bool) (p : SensorPort) : Reassembles p (popWhere l f p) :=
  foldl_reassembles (fun q i => popLane_reassembles i q) _ p

theorem emitUnit_reassembles (p : SensorPort) : Reassembles p (emitUnit p) := by
  unfold emitUnit
  split
  · exact {}
  · exact .refl p

theorem ite_emitUnit_reassembles {c : Prop} [Decidable c] (h : Reassembles p q) :
    Reassembles p (if c then emitUnit q else q) := by
  split
  · exact h.trans (emitUnit_reassembles q)
  · exact h

theorem lineSet_reassembles (l : List Nat) (p : SensorPort) : Reassembles p (lineSet l p) :=
  ((popWhere_reassembles l _ p).trans (emitUnit_reassembles _)).trans {}

theorem stopSet_reassembles (l : List Nat) (p : SensorPort) : Reassembles p (stopSet l p) :=
  ((popWhere_reassembles l _ p).trans (emitUnit_reassembles _)).trans {}

theorem takeWord_reassembles (w : Word16) (ends : List Word16 → Bool) (n : Nat) (p : SensorPort) :
    Reassembles p (takeWord w ends n p) := by
  exact ite_emitUnit_reassembles {}

theorem judgeUnit_reassembles (n : Nat) (p : SensorPort) : Reassembles p (judgeUnit n p) := {}

theorem testWord_reassembles (i : Nat) (w : LaneWord) (p : SensorPort) : Reassembles p (testWord i w p) := {}

theorem growTest_reassembles (l : List Nat) (ws : List Word16) (p : SensorPort) : Reassembles p (growTest l ws p) := by
  have h : Reassembles p { popWhere l (fun _ => true) p with assembly := p.assembly ++ ws } :=
    (popWhere_reassembles l _ p).trans {}
  unfold growTest
  dsimp only
  repeat' split
  · exact h
  · exact h.trans (emitUnit_reassembles _)
  · exact h.trans (judgeUnit_reassembles _ _)

theorem Reassembles.reading (h : Reassembles p q) : q.reading = p.reading := by rw [h.eq]
theorem Reassembles.accums (h : Reassembles p q) : q.accums = p.accums := by rw [h.eq]
theorem Reassembles.errs (h : Reassembles p q) : q.errs = p.errs := by rw [h.eq]
theorem Reassembles.retrain (h : Reassembles p q) : q.retrain = p.retrain := by rw [h.eq]
theorem Reassembles.unexpected (h : Reassembles p q) : q.unexpected = p.unexpected := by rw [h.eq]
theorem Reassembles.badHeaders (h : Reassembles p q) : q.badHeaders = p.badHeaders := by rw [h.eq]

/-- A state that differs in what reassembly holds. -/
structure Pumps (s t : State) : Prop where
  eq : t = { s with sp := t.sp } := by rfl
  port : Reassembles s.sp t.sp

theorem Pumps.refl (s : State) : Pumps s s := ⟨rfl, .refl _⟩

theorem Pumps.trans (h1 : Pumps a s) (h2 : Pumps s t) : Pumps a t := ⟨by rw [h2.eq, h1.eq], h1.port.trans h2.port⟩

theorem modSensor_pumps {f : SensorPort → SensorPort} (h : Reassembles s.sp (f s.sp)) : Pumps s (modSensor f s) := ⟨rfl, h⟩

theorem stepTest_pumps (h : stepTest s = some t) : Pumps s t := by
  unfold stepTest at h
  dsimp only at h
  split_ifs at h <;> cases h
  · exact modSensor_pumps ((judgeUnit_reassembles _ _).trans (stopSet_reassembles _ _))
  · exact modSensor_pumps ((judgeUnit_reassembles _ _).trans (lineSet_reassembles _ _))
  · exact modSensor_pumps (growTest_reassembles _ _ _)
  · exact modSensor_pumps ((judgeUnit_reassembles _ _).trans (foldl_reassembles (fun q i => testWord_reassembles i _ q) _ _))

theorem stepIdle_pumps (h : stepIdle s = some t) : Pumps s t := by
  unfold stepIdle at h
  split at h
  · cases h
    exact modSensor_pumps (popLane_reassembles _ _)
  · split at h <;> cases h
    exact modSensor_pumps (lineSet_reassembles _ _)

theorem stepResync_pumps (h : stepResync s = some t) : Pumps s t := by
  unfold stepResync at h
  split at h
  · cases h
    exact modSensor_pumps (popLane_reassembles _ _)
  · split at h <;> cases h
    exact modSensor_pumps {}

theorem stepNormal_pumps (h : stepNormal s = some t) : Pumps s t := by
  unfold stepNormal at h
  split at h
  · cases h
  · cases h
    exact modSensor_pumps (takeWord_reassembles _ _ _ _)
  · split at h
    · cases h
      exact modSensor_pumps ((popLane_reassembles _ _).trans {})
    · split_ifs at h <;> cases h
      · exact modSensor_pumps (lineSet_reassembles _ _)
      · exact modSensor_pumps (stopSet_reassembles _ _)
      · exact modSensor_pumps (popWhere_reassembles _ _ _)

theorem stepPump_pumps (h : stepPump s = some t) : Pumps s t := by
  unfold stepPump at h
  split_ifs at h
  · exact stepResync_pumps h
  · exact stepTest_pumps h
  · exact stepIdle_pumps h
  · exact stepNormal_pumps h

theorem pumpFor_pumps : ∀ (n : Nat) (s : State), Pumps s (pumpFor n s)
  | 0, s => .refl s
  | n + 1, s => by
    unfold pumpFor
    split
    · next t ht => exact (stepPump_pumps ht).trans (pumpFor_pumps n t)
    · exact .refl s

theorem pump_pumps (s : State) : Pumps s (pump s) := by
  unfold pump
  split
  · exact pumpFor_pumps _ s
  · exact .refl s

/-- Reassembly of a TEST readout waits where the lanes hold no word. -/
theorem pump_waits (hl : 1 ≤ s.lanes) (ht : s.testing = true) (hi : s.sp.items = []) (hf : ∀ i < s.lanes, s.fifo i = []) :
    pump s = s := by
  have hhead : ∀ i < s.lanes, s.headOf i = none := fun i h => by rw [State.headOf, hf i h]; rfl
  have hturn : s.turnReady = false := by
    refine List.all_eq_false.2 ⟨0, List.mem_range.2 hl, ?_⟩
    rw [hhead 0 hl]
    decide
  have hdata : s.laneList.find? s.headData = none := by
    refine List.find?_eq_none.2 fun i h => ?_
    rw [State.headData, hhead i (List.mem_range.1 h)]
    decide
  have hheld : s.held_ = false := by rw [State.held_, hi]; rfl
  have hstep : stepPump s = none := by
    unfold stepPump stepResync stepTest
    rw [hheld, hdata, hturn, ht]
    simp
  unfold pump pumpFor
  rw [hstep]
  exact ite_self s

/-! ## The close of a readout before a header -/

theorem Serves.sp (h : Serves w a s) : s.sp = a.sp := by
  induction h with
  | refl => rfl
  | give _ ih => rw [giveBlocks_eq]; exact ih
  | _ => assumption

theorem substituteRange_sp (k : Planes) (x y : Nat) (s : State) : (substituteRange k x y s).sp = s.sp := by
  unfold substituteRange
  generalize (List.range y).drop x = l
  induction l generalizing s with
  | nil => rfl
  | cons i l ih => exact (ih _).trans rfl

theorem handMissing_sp (r : Readout) (s : State) : (handMissing r s).sp = s.sp := (handMissing_aside (.refl s)).sp

theorem closeFrame_sp (landed : Bool) (s : State) : (closeFrame landed s).sp = s.sp := by
  unfold closeFrame
  dsimp only
  split
  · rw [enterWaiting_eq]; rfl
  · rw [enterWaiting_eq]; rfl
  · obtain ⟨c, ef, -, -⟩ := finishBurst_eq (((modBurst (fun b => if landed then { b with landed := b.landed + 1 } else
      { b with voided := b.voided + 1 }) s).rtu.burst.bind (·.ending)).getD .count) (modBurst (fun b => if landed then
      { b with landed := b.landed + 1 } else { b with voided := b.voided + 1 }) s)
    rw [ef]; rfl
  · rfl

theorem landShot_sp (k : Planes) (s : State) : (landShot k s).sp = s.sp := by
  unfold landShot
  split
  · rfl
  · dsimp only
    exact (shotTests_serves (w := true) (foldl_serves _ (fun _ _ => handDuty_serves) _ .refl)).sp

/-- The close of a readout ends the readout, and the sensor port's other fields stand (R37). -/
theorem closeReadout_sp (r : Readout) (s : State) : (closeReadout r s).sp = { s.sp with reading := .between } := by
  unfold closeReadout
  dsimp only
  split
  · rfl
  · exact handMissing_sp _ _
  · rw [closeFrame_sp, landShot_sp, handMissing_sp, substituteRange_sp]; rfl

/-! ## The judgement of a header -/

theorem exec_readoutHeader_between {ws : List Word16} (hw : s.headerReady = some ws) (hr : s.sp.reading = .between) :
    exec .readoutHeader s = .next (pump (dropItem (judgeHeader ws s))) := by
  simp only [exec, execReadoutHeader, hw, takeHeader, hr]

theorem exec_readoutHeader_within {ws : List Word16} {r : Readout} (hw : s.headerReady = some ws) (hr : s.sp.reading = .active r) :
    exec .readoutHeader s = .next (pump (dropItem (judgeHeader ws (closeReadout r s)))) := by
  simp only [exec, execReadoutHeader, hw, takeHeader, hr]

/-- A header that is ready stays ready when the readout in progress is closed. -/
theorem headerReady_closeReadout {ws : List Word16} {r : Readout} (hw : s.headerReady = some ws) (hr : s.sp.reading = .active r) :
    (closeReadout r s).headerReady = some ws := by
  unfold State.headerReady at hw ⊢
  rw [closeReadout_sp]
  rw [hr] at hw
  dsimp only
  split at hw <;> simp_all

/-- An error on every lane (R40). -/
theorem allError_spec (s : State) :
    let t := allError s
    let c := s.cfg.capture
    let bumped := (s.sp.errs.take c.lanes).map (fun n => min (n + 1) 255) ++ s.sp.errs.drop c.lanes
    (∃ e r rd cp, t = { s with sp := { s.sp with errs := e, retrain := r }, rtu := { s.rtu with ready := rd }, cp := cp })
    ∧ (s.sp.link = .aligned → s.sp.checkOn = false → t.sp.errs = bumped
      ∧ ((s.sp.retrain.isSome = true ∨ ∀ i < c.lanes, bumped.getD i 0 < c.errThreshold) →
          t.sp.retrain = s.sp.retrain ∧ t = { s with sp := t.sp })
      ∧ (s.sp.retrain = none → (∃ i < c.lanes, c.errThreshold ≤ bumped.getD i 0) → t.sp.retrain = some .errors))
    ∧ (s.sp.checkOn = true → t = s) := by
  intro t c bumped
  let u : State := { s with sp := { s.sp with errs := bumped } }
  have hc : ∀ h : s.counting = true, t = errorTest u := fun h => if_pos h
  have hn : ∀ h : s.counting = false, t = s := fun h => if_neg (by rw [h]; decide)
  have hsome : s.sp.retrain.isSome = true → errorTest u = u := fun h => if_pos h
  have htest : s.sp.retrain = none → errorTest u
      = match (List.range c.lanes).find? (fun i => decide (c.errThreshold ≤ bumped.getD i 0)) with
        | some i => requestRetrain (some i) .errors u
        | none => u := fun h => if_neg (by change ¬ s.sp.retrain.isSome = true; rw [h]; decide)
  have hreq : ∀ i, ∃ rd cp, requestRetrain (some i) .errors u
      = { u with sp := { u.sp with retrain := some .errors }, rtu := { u.rtu with ready := rd }, cp := cp } := fun i => by
    obtain ⟨rd, e⟩ := retest_eq .link (raiseRetrain (some i) .errors (modSensor (fun p => { p with retrain := some .errors }) u))
    exact ⟨rd, _, e⟩
  have hnone : (∀ i < c.lanes, bumped.getD i 0 < c.errThreshold) →
      (List.range c.lanes).find? (fun i => decide (c.errThreshold ≤ bumped.getD i 0)) = none := fun h =>
    List.find?_eq_none.2 fun i hi => by simpa using h i (List.mem_range.1 hi)
  refine ⟨?_, fun hl ho => ?_, fun ho => hn (by rw [State.counting, ho]; simp)⟩
  · cases h : s.counting with
    | false => exact ⟨_, _, _, _, hn h⟩
    | true =>
      rw [hc h]
      cases hr : s.sp.retrain with
      | some r => exact ⟨bumped, _, _, _, hsome (by rw [hr]; rfl)⟩
      | none =>
        rw [htest hr]
        split
        · next i _ =>
          obtain ⟨rd, cp, e⟩ := hreq i
          exact ⟨bumped, _, rd, cp, e⟩
        · exact ⟨bumped, _, _, _, rfl⟩
  · rw [hc (by rw [State.counting, hl, ho]; rfl)]
    refine ⟨?_, fun h => ?_, fun hr ⟨i, hi, hle⟩ => ?_⟩
    · cases hr : s.sp.retrain with
      | some r => rw [hsome (by rw [hr]; rfl)]
      | none =>
        rw [htest hr]
        split
        · next i _ =>
          obtain ⟨rd, cp, e⟩ := hreq i
          rw [e]
        · rfl
    · have hu : errorTest u = u := by
        cases hr : s.sp.retrain with
        | some r => exact hsome (by rw [hr]; rfl)
        | none => rw [htest hr, hnone (h.resolve_left (by rw [hr]; decide))]
      rw [hu]
      exact ⟨rfl, rfl⟩
    · rw [htest hr]
      split
      · next i _ =>
        obtain ⟨rd, cp, e⟩ := hreq i
        rw [e]
      · next hf => exact absurd hle (by simpa using List.find?_eq_none.1 hf i (List.mem_range.2 hi))

/-! ## What a judged header leaves -/

section
variable {ws : List Word16} {e : Shot}

/-- What is ready dropped and reassembly run on. -/
theorem pump_dropItem (u : State) : ∃ p, pump (dropItem u) = { u with sp := p } ∧ Reassembles u.sp p :=
  ⟨_, (pump_pumps (dropItem u)).eq, .trans {} (pump_pumps (dropItem u)).port⟩

/-- A header word's value. -/
def word (ws : List Word16) (i : Nat) : Nat := (ws.getD i 0).toNat

/-- A TEST readout opened, every checker unlocked (R48). -/
def testOpened (w : Nat → Nat) (s : State) : State :=
  modSensor (fun p => { p with checkers := p.checkers.map Checker.unlock }) (openReading .test w s)

/-- Whether a WATCH header fits the applied capture group (R36). -/
abbrev watchFits (c : CaptureCfg) (w : Nat → Nat) : Prop :=
  w 2 ≤ 16 ∧ w 3 ≤ 11 ∧ w 4 ≤ c.height ∧ w 5 = c.width ∧ w 6 = c.depth
/-- The judgement of eight words with a right checksum, by their kind (R34, R35). -/
theorem judgeHeader_eq (h : isHeader ws = true) : judgeHeader ws s =
    if word ws 0 = 1 then
      match s.ss.table.find? isTriggered with
      | some t => if s.sp.checkOn then unexpectedReadout s else shotHeader (word ws) t s
      | none => unexpectedReadout s
    else if word ws 0 = 2 then
      if s.sp.checkOn then unexpectedReadout s
      else if watchFits s.cfg.capture (word ws) then openReadout .watch s.time (openReading .watch (word ws) s)
      else badHeader s
    else if word ws 0 = 3 then
      if s.sp.checkOn then testOpened (word ws) s else unexpectedReadout s
    else badHeader s := by
  unfold judgeHeader
  rw [h]
  rfl

theorem judgeHeader_damaged (h : isHeader ws = false) : judgeHeader ws s = badHeader (allError s) := by
  unfold judgeHeader
  rw [h]
  rfl

theorem judgeHeader_unknown (h : isHeader ws = true) (h1 : word ws 0 ≠ 1) (h2 : word ws 0 ≠ 2) (h3 : word ws 0 ≠ 3) :
    judgeHeader ws s = badHeader s := by
  rw [judgeHeader_eq h, if_neg h1, if_neg h2, if_neg h3]

theorem judgeHeader_shot (h : isHeader ws = true) (h1 : word ws 0 = 1) (he : s.ss.table.find? isTriggered = some e)
    (hc : s.sp.checkOn = false) : judgeHeader ws s = shotHeader (word ws) e s := by
  simp [judgeHeader_eq h, h1, he, hc]

theorem judgeHeader_shot_unexpected (h : isHeader ws = true) (h1 : word ws 0 = 1)
    (hc : s.expectsReadout = false ∨ s.sp.checkOn = true) : judgeHeader ws s = unexpectedReadout s := by
  rw [judgeHeader_eq h, if_pos h1]
  cases he : s.ss.table.find? isTriggered with
  | none => rfl
  | some x => simp [hc.resolve_left (by rw [expectsReadout_iff.2 ⟨x, he⟩]; decide)]

theorem judgeHeader_watch_unexpected (h : isHeader ws = true) (h2 : word ws 0 = 2) (hc : s.sp.checkOn = true) :
    judgeHeader ws s = unexpectedReadout s := by
  simp [judgeHeader_eq h, h2, hc]

theorem judgeHeader_test_unexpected (h : isHeader ws = true) (h3 : word ws 0 = 3) (hc : s.sp.checkOn = false) :
    judgeHeader ws s = unexpectedReadout s := by
  simp [judgeHeader_eq h, h3, hc]

theorem judgeHeader_test (h : isHeader ws = true) (h3 : word ws 0 = 3) (hc : s.sp.checkOn = true) :
    judgeHeader ws s = testOpened (word ws) s := by
  simp [judgeHeader_eq h, h3, hc]

theorem judgeHeader_watch (h : isHeader ws = true) (h2 : word ws 0 = 2) (hc : s.sp.checkOn = false)
    (hf : watchFits s.cfg.capture (word ws)) :
    judgeHeader ws s = openReadout .watch s.time (openReading .watch (word ws) s) := by
  simp only [judgeHeader_eq h, h2, hc, if_pos hf]
  rfl

theorem judgeHeader_watch_wrong (h : isHeader ws = true) (h2 : word ws 0 = 2) (hc : s.sp.checkOn = false)
    (hf : ¬ watchFits s.cfg.capture (word ws)) : judgeHeader ws s = badHeader s := by
  simp only [judgeHeader_eq h, h2, hc, if_neg hf]
  rfl

/-! The watcher's plan for a WATCH readout (R94). -/

theorem watchPlan_off (h : s.watching = false) : s.watchPlan .watch = (false, false) := by
  simp [State.watchPlan, h]

theorem watchPlan_full (h : s.watching = true) (hf : s.fe.watcher.full = true) : s.watchPlan .watch = (false, true) := by
  simp [State.watchPlan, h, hf]

theorem watchPlan_low_sampled (h : s.watching = true) (hf : s.fe.watcher.full = false) (hz : s.fe.watcher.counter = 0) :
    s.watchPlan .watch = (false, true) := by
  simp [State.watchPlan, h, hf, hz]

theorem watchPlan_low_skipped (h : s.watching = true) (hf : s.fe.watcher.full = false) (hz : s.fe.watcher.counter ≠ 0) :
    s.watchPlan .watch = (true, false) := by
  simp [State.watchPlan, h, hf, hz]

/-- The readout in hand of a WATCH readout that opens (R75). -/
theorem watchOpened_in_hand {w : Nat → Nat} {skipped sampled : Bool} (h : s.watchPlan .watch = (skipped, sampled)) :
    (openReadout .watch s.time (openReading .watch w s)).fe.inHand = some
      { kind := .watch, start := s.time, counter := s.lp.counter, referenced := s.lp.referenced, lens := s.lp.phase
        moving := (s.lp.latest.map (·.moving)).getD false, cfg := s.cfg.focus, coef := s.fe.coef, rows := []
        skipped := skipped, sampled := sampled, complete := false } := by
  have h' : (openReading .watch w s).watchPlan .watch = (skipped, sampled) := h
  unfold openReadout
  rw [h']
  rfl

theorem watchOpened_watcher {w : Nat → Nat} : (openReadout .watch s.time (openReading .watch w s)).fe.watcher
    = if s.watching && !s.fe.watcher.full then { s.fe.watcher with counter := (s.fe.watcher.counter + 1) % 8 }
      else s.fe.watcher := rfl

/-- Whether a SHOT header fits the applied capture group and the expected shot's record (R36). -/
def shotFits (c : CaptureCfg) (g : Geometry) (w : Nat → Nat) : Prop :=
  w 5 = c.width ∧ w 5 = g.width ∧ w 6 = c.depth ∧ w 6 = g.depth ∧ w 4 = c.height ∧ w 4 = g.height ∧ w 2 ≤ 16 ∧ w 3 ≤ 11

/-- The expected shot's readout opened (R36). -/
def shotOpened (w : Nat → Nat) (s : State) : State :=
  openReadout .shot s.time (openReading .shot w { s with
    ss := { s.ss with
      table := updateFirst isTriggered (fun x => { x with state := .landing, sequence := w 1 % 256 }) s.ss.table }
    rtu := { s.rtu with readoutAt := none, phase := if s.rtu.phase = .exposing then .reading else s.rtu.phase }
    sp := { s.sp with accums := {} } })

theorem shotHeader_fits {w : Nat → Nat} (h : shotFits s.cfg.capture e.geom w) : shotHeader w e s = shotOpened w s := by
  obtain ⟨a5, b5, a6, b6, a4, b4, a2, a3⟩ := h
  refine (if_neg ?_).trans rfl
  simp [a2, a3, ← a5, ← b5, ← a6, ← b6, ← a4, ← b4]

theorem shotHeader_wrong {w : Nat → Nat} (h : ¬ shotFits s.cfg.capture e.geom w) :
    shotHeader w e s = closeFrame false (voidShot isTriggered .headerMismatch (discardReadout s)) := by
  refine if_pos (Bool.not_eq_true' _ ▸ Bool.eq_false_iff.2 fun c => h ?_)
  simpa [shotFits, and_assoc] using c

theorem unexpected_taken (h : Reassembles (unexpectedReadout s).sp p) :
    ({ unexpectedReadout s with sp := p } : State) = { s with sp := p } ∧ p.reading = .discarded
    ∧ p.unexpected = min (s.sp.unexpected + 1) 4294967295 ∧ p.badHeaders = s.sp.badHeaders :=
  ⟨rfl, h.reading, h.unexpected, h.badHeaders⟩

theorem badHeader_taken (h : Reassembles (badHeader s).sp p) :
    (p.reading = .discarded ∧ p.badHeaders = min (s.sp.badHeaders + 1) 4294967295 ∧ p.unexpected = s.sp.unexpected)
    ∧ ({ badHeader s with sp := p } : State) = { s with sp := p } ∧ p.errs = s.sp.errs :=
  ⟨⟨h.reading, h.badHeaders, h.unexpected⟩, rfl, h.errs⟩

end

/-- Settles O31. -/
theorem readoutHeaders : Obligations.ReadoutHeaders := by
  intro s
  refine ⟨fun hn => by simp only [exec, execReadoutHeader, hn], fun ws r hw hr => ?_, fun ws hw hr => ?_⟩
  · have hbetween : (closeReadout r s).sp.reading = .between := by rw [closeReadout_sp]
    have hready := headerReady_closeReadout hw hr
    refine ⟨?_, hbetween, hready, ?_⟩
    · rw [exec_readoutHeader_within hw hr, exec_readoutHeader_between hready hbetween]
    · rintro (hk | ⟨hk, hp⟩)
      · simp only [closeReadout, hk]; rfl
      · simp only [closeReadout, hk, handMissing, if_pos hp]; rfl
  · obtain ⟨p, hpump, hp⟩ := pump_dropItem (judgeHeader ws s)
    rw [exec_readoutHeader_between hw hr]
    refine ⟨_, congrArg _ hpump, ?_⟩
    refine ⟨fun hbad => ?_, fun hgood => ⟨fun h1 h2 h3 => ?_, fun h1 hc => ?_, fun h2 hc => ?_, fun h3 hc => ?_, fun h3 hc => ?_,
      fun h2 hc => ⟨fun hf => ?_, fun hf => ?_⟩, fun e h1 he hc => ⟨fun hf => ?_, fun hf => ?_⟩⟩⟩
    · rw [judgeHeader_damaged hbad] at hp ⊢
      obtain ⟨⟨x, r, rd, cp, e⟩, hcount, hchecked⟩ := allError_spec s
      obtain ⟨⟨hread, hheads, hun⟩, htaken, herrs⟩ := badHeader_taken hp
      have hret : p.retrain = (allError s).sp.retrain := hp.retrain
      have hsp : (allError s).sp = { s.sp with errs := x, retrain := r } := congrArg State.sp e
      rw [hsp] at hheads hun
      rw [htaken]
      refine ⟨⟨hread, hheads, hun⟩, by rw [e], fun hl ho => ?_, fun ho => ?_⟩
      · obtain ⟨hb, hsame, hnew⟩ := hcount hl ho
        refine ⟨herrs.trans hb, fun hno => ⟨hret.trans (hsame hno).1, by rw [(hsame hno).2]⟩, fun hno hsome => ?_⟩
        exact hret.trans (hnew hno hsome)
      · rw [hchecked ho] at herrs ⊢
        exact ⟨herrs, rfl⟩
    · rw [judgeHeader_unknown hgood h1 h2 h3] at hp ⊢
      exact badHeader_taken hp
    · rw [judgeHeader_shot_unexpected hgood h1 hc] at hp ⊢
      exact unexpected_taken hp
    · rw [judgeHeader_watch_unexpected hgood h2 hc] at hp ⊢
      exact unexpected_taken hp
    · rw [judgeHeader_test_unexpected hgood h3 hc] at hp ⊢
      exact unexpected_taken hp
    · rw [judgeHeader_test hgood h3 hc] at hp hpump ⊢
      refine ⟨rfl, hp.reading, fun hi hl hf => ?_⟩
      have hwait : pump (dropItem (testOpened (word ws) s)) = dropItem (testOpened (word ws) s) := by
        have hi' : (dropItem (testOpened (word ws) s)).sp.items = [] := congrArg (List.drop 1) hi
        refine pump_waits hl ?_ hi' hf
        rw [State.testing, hi']
        rfl
      exact congrArg (fun u => u.sp.checkers) (hpump.symm.trans hwait)
    · rw [judgeHeader_watch_wrong hgood h2 hc hf] at hp ⊢
      exact badHeader_taken hp
    · rw [judgeHeader_watch hgood h2 hc hf] at hp ⊢
      refine ⟨hp.reading, rfl, fun hoff => ?_, fun hon hfull => ?_, fun hon hlow => ⟨?_, fun hz => ?_, fun hz => ?_⟩⟩
      · exact ⟨watchOpened_in_hand (watchPlan_off hoff), watchOpened_watcher.trans (if_neg (by simp [hoff]))⟩
      · exact ⟨watchOpened_in_hand (watchPlan_full hon hfull), watchOpened_watcher.trans (if_neg (by simp [hfull]))⟩
      · exact watchOpened_watcher.trans (if_pos (by simp [hon, hlow]))
      · exact watchOpened_in_hand (watchPlan_low_sampled hon hlow hz)
      · exact watchOpened_in_hand (watchPlan_low_skipped hon hlow hz)
    · rw [judgeHeader_shot hgood h1 he hc, shotHeader_fits (w := word ws) hf] at hp ⊢
      exact ⟨hp.reading, hp.accums, rfl, rfl, rfl⟩
    · rw [judgeHeader_shot hgood h1 he hc, shotHeader_wrong (w := word ws) hf] at hp ⊢
      obtain ⟨htold, hsp, hburst, hwait, hstop⟩ := triggered_voided (s := discardReadout s) .headerMismatch he
      refine ⟨hp.reading.trans (by rw [hsp]; rfl), htold, fun hph => ?_, fun hph => ?_⟩
      · obtain ⟨hphase, hfree, htable⟩ := hwait hph
        exact ⟨hfree, htable, hphase, hburst⟩
      · obtain ⟨hphase, hreq, -, hfree, htable⟩ := hstop hph
        exact ⟨hfree, htable, hreq, hphase, hburst⟩

end Sys2Proof.Machine
end

section
/-! A shot whose duties wait for their consumers: what the hand-off of its duties leaves of its record (R10, R152, R153). -/

namespace Sys2Proof.Machine

set_option Elab.async false

open Sys2Proof

variable {w : Bool} {a s t : State}

/-! ## What the consumers leave of the state -/

/-- The consumers change the store's free list and table, the card writer, the memo input, the engine, the tether port and
the notices alone. -/
theorem Serves.eq (h : Serves w a s) : s = { a with
    ss := { a.ss with free := s.ss.free, table := s.ss.table }, cw := s.cw, mi := s.mi, de := s.de, tp := s.tp, cp := s.cp } := by
  have hs : s = { a with ss := s.ss, cw := s.cw, mi := s.mi, de := s.de, tp := s.tp, cp := s.cp } := by
    induction h with
    | refl => rfl
    | give _ ih => rw [giveBlocks_eq]; dsimp only; rw [ih]
    | @raise u k sub v _ ih => exact congrArg (fun z : State => { z with cp := (Machine.raise k sub v u).cp }) ih
    | entry _ _ ih => dsimp only [modHeld, modEntry]; rw [ih]
    | clear _ ih => dsimp only [modHeld, modEntry]; rw [ih]
    | cards _ ih => rw [ih]
    | input _ _ ih => rw [ih]
    | engine _ _ ih => rw [ih]
    | port _ _ ih => rw [ih]
  rw [← h.store]
  exact hs

theorem Serves.power (h : Serves w a s) : s.cp.power = a.cp.power := by
  induction h with
  | refl => rfl
  | raise _ ih => exact (raiseIn_power _ _ _ _ _).trans ih
  | give _ ih => rw [giveBlocks_eq]; exact ih
  | _ => assumption

/-! ## The record of a shot that waits -/

/-- A duty in the same state and class, whose target may have become card B. -/
def Duty.Turned (d e : Duty) : Prop :=
  e.state = d.state ∧ e.urgent = d.urgent ∧ (e.key = d.key ∨ ∃ f, d.key = .card f .a ∧ e.key = .card f .b)

theorem Duty.Turned.refl (d : Duty) : Duty.Turned d d := ⟨rfl, rfl, .inl rfl⟩

theorem Duty.Turned.trans {d e f : Duty} (h1 : Duty.Turned d e) (h2 : Duty.Turned e f) : Duty.Turned d f := by
  obtain ⟨s1, u1, k1⟩ := h1
  obtain ⟨s2, u2, k2⟩ := h2
  refine ⟨s2.trans s1, u2.trans u1, ?_⟩
  rcases k1 with k1 | ⟨x, hx, he⟩
  · rw [← k1]
    exact k2
  · rcases k2 with k2 | ⟨y, hy, _⟩
    · exact .inr ⟨x, hx, k2.trans he⟩
    · rw [he] at hy
      cases hy

/-- A record that differs in its pins, its proof and the targets of its duties. -/
structure Shot.Turned (x y : Shot) : Prop where
  eq : y = { x with duties := y.duties, pins := y.pins, proof := y.proof } := by rfl
  duties : List.Forall₂ Duty.Turned x.duties y.duties

theorem Shot.Turned.of_same {x y : Shot} (h : y = { x with pins := y.pins, proof := y.proof } := by rfl) : Shot.Turned x y where
  eq := by rw [h]
  duties := by
    rw [h]
    exact List.forall₂_same.2 (fun d _ => .refl d)

theorem Shot.Turned.refl (x : Shot) : Shot.Turned x x := .of_same

theorem Shot.Turned.trans {x y z : Shot} (h1 : Shot.Turned x y) (h2 : Shot.Turned y z) : Shot.Turned x z where
  eq := by rw [h2.eq, h1.eq]
  duties := forall₂_trans (fun _ _ _ => .trans) h1.duties h2.duties

/-- Whether all of a shot's duties are PENDING, and it has one. -/
def Shot.AllPending (x : Shot) : Prop := x.duties ≠ [] ∧ ∀ d ∈ x.duties, d.state = .pending

theorem Shot.Turned.allPending {x y : Shot} (h : Shot.Turned x y) (hx : x.AllPending) : y.AllPending := by
  obtain ⟨hne, hp⟩ := hx
  refine ⟨fun e => hne ?_, fun e he => ?_⟩
  · have := h.duties.length_eq
    rw [e] at this
    exact List.length_eq_zero_iff.1 this
  · obtain ⟨d, hd, ht⟩ := forall₂_mem_right h.duties he
    exact ht.1.trans (hp d hd)

theorem Shot.AllPending.not_freeable {x : Shot} (h : x.AllPending) : x.freeable = false := by
  obtain ⟨d, hd⟩ := List.exists_mem_of_ne_nil _ h.1
  have hall : x.duties.all (fun d => !d.owed) = false :=
    List.all_eq_false.2 ⟨d, hd, by rw [Duty.owed, h.2 d hd]; decide⟩
  unfold Shot.freeable
  rw [hall]
  rfl

/-- A duty of another consumer than the card slots is found with its state and class. -/
theorem Shot.Turned.find {x y : Shot} (h : Shot.Turned x y) {k : DutyKey} (hk : k.onCard = false) :
    (y.duty k).map (fun d => (d.state, d.urgent)) = (x.duty k).map (fun d => (d.state, d.urgent)) := by
  unfold Shot.duty
  have hd := h.duties
  generalize x.duties = l, y.duties = m at hd
  induction hd with
  | nil => rfl
  | @cons d e l m hde _ ih =>
    obtain ⟨hs, hu, hkey⟩ := hde
    have hcard : ∀ f sl, (DutyKey.card f sl == k) = false := fun f sl => by
      rw [beq_eq_false_iff_ne]
      rintro rfl
      cases hk
    have hsame : (e.key == k) = (d.key == k) := by
      rcases hkey with hkey | ⟨f, hx, he⟩
      · rw [hkey]
      · rw [hx, he, hcard, hcard]
    rw [List.find?_cons, List.find?_cons, hsame]
    split
    · simp [hs, hu]
    · exact ih

/-- A duty set PENDING that is PENDING. -/
theorem setDuty_pending_turned {x : Shot} (h : x.AllPending) (k : DutyKey) :
    Shot.Turned x (x.setDuty k (Duty.into .pending)) where
  duties := by
    refine List.forall₂_map_right_iff.2 (List.forall₂_same.2 (fun d hd => ?_))
    split
    · exact ⟨(h.2 d hd).symm, rfl, .inl rfl⟩
    · exact .refl d

theorem setDuty_deferred_turned (x : Shot) (k : DutyKey) : Shot.Turned x (x.setDuty k (fun d => { d with deferred := true })) where
  duties := by
    refine List.forall₂_map_right_iff.2 (List.forall₂_same.2 (fun d _ => ?_))
    split
    · exact ⟨rfl, rfl, .inl rfl⟩
    · exact .refl d

theorem retarget_turned (x : Shot) (f : FileKind) :
    Shot.Turned x (x.setDuty (.card f .a) (fun d => { d with key := .card f .b })) where
  duties := by
    refine List.forall₂_map_right_iff.2 (List.forall₂_same.2 (fun d _ => ?_))
    split
    · next hd => exact ⟨rfl, rfl, .inr ⟨f, eq_of_beq hd, rfl⟩⟩
    · exact .refl d

/-! ## The state while a shot waits -/

/-- The shot of record `x`, all its duties PENDING, is there but for the targets of its duties, its pins and its proof; and
the memo input tells shot `l` as the latest. -/
structure Waits (n : Nat) (x : Shot) (l : Option Nat) (s : State) : Prop where
  shot : ∃ y, s.held n = some y ∧ Shot.Turned x y
  latest : s.mi.latest = l

section
variable {n : Nat} {x : Shot} {l : Option Nat}

theorem Waits.same (h : Waits n x l s) (ht : t.ss.table = s.ss.table) (hm : t.mi.latest = s.mi.latest) : Waits n x l t where
  shot := by rw [held_congr ht]; exact h.shot
  latest := hm.trans h.latest

/-- A change of a HELD shot's record that leaves a waiting shot waiting. -/
theorem Waits.entry {m : Nat} {f : Shot → Shot} (hx : x.AllPending) (hf : ∀ y, y.AllPending → Shot.Turned y (f y))
    (hk : ∀ y, (f y).state = y.state ∧ (f y).number = y.number) (h : Waits n x l s) : Waits n x l (modHeld m f s) where
  shot := by
    obtain ⟨y, hy, hxy⟩ := h.shot
    have keeps : ∀ k y, isHeld k y = isHeld k (f y) := fun k y => by unfold isHeld; rw [(hk y).1, (hk y).2]
    by_cases hm : m = n
    · subst hm
      rw [held_modHeld_map (fun y hy => (keeps m y).symm.trans hy), hy]
      exact ⟨_, rfl, hxy.trans (hf y (hxy.allPending hx))⟩
    · rw [held_modHeld_other (Ne.symm hm)]
      · exact ⟨y, hy, hxy⟩
      · intro y hy
        rw [← keeps n y]
        have := (isHeld_iff.1 hy).2
        simp [isHeld, this, hm]
  latest := h.latest

theorem setDuty_pending_waits {m : Nat} {k : DutyKey} (hx : x.AllPending) (h : Waits n x l s) :
    Waits n x l (setDuty m k (Duty.into .pending) s) :=
  h.entry hx (fun _ hy => setDuty_pending_turned hy k) (fun _ => ⟨rfl, rfl⟩)

theorem retarget_waits {j : FileJob} (hx : x.AllPending) (h : Waits n x l s) : Waits n x l (retarget j s) :=
  h.entry hx (fun y _ => retarget_turned y j.kind) (fun _ => ⟨rfl, rfl⟩)

theorem dropPin_waits {m : Nat} {r : Reader} (hx : x.AllPending) (h : Waits n x l s) : Waits n x l (dropPin m r s) := by
  rw [dropPin_eq]
  exact h.entry hx (fun _ _ => .of_same) (fun _ => ⟨rfl, rfl⟩)

theorem modSlot_waits {sl : Slot} {f : CardSlot → CardSlot} (h : Waits n x l s) : Waits n x l (modSlot sl f s) :=
  h.same (by rw [modSlot_ss]) (by rw [modSlot_mi])

theorem Waits.cards {c : CardWriter} (h : Waits n x l s) : Waits n x l { s with cw := c } := h.same rfl rfl

theorem raiseCard_waits {sl : Slot} {reason : String} {extra : List Wire} (h : Waits n x l s) :
    Waits n x l (raiseCard sl reason extra s) := h.same rfl rfl

theorem slotRest_waits {sl : Slot} (h : Waits n x l s) : Waits n x l (slotRest sl s) := by
  obtain ⟨st, hd, c, e⟩ := slotRest_eq sl s
  rw [e]
  exact (modSlot_waits h).same rfl rfl

theorem proofTest_waits {m : Nat} (hx : x.AllPending) (h : Waits n x l s) : Waits n x l (proofTest m s) := by
  cases hm : s.held m with
  | none =>
    have e : proofTest m s = s := by unfold proofTest; rw [hm]
    rw [e]
    exact h
  | some z =>
    have he : ∃ f : List Nat, proofTest m s = { modHeld m Shot.tested s with ss := { (modHeld m Shot.tested s).ss with free := f } } :=
      ⟨_, by rw [proofTest_eq hm, modHeld_eq hm]⟩
    obtain ⟨f, e⟩ := he
    rw [e]
    have ht : Waits n x l (modHeld m Shot.tested s) := h.entry hx
      (fun y _ => by
        unfold Shot.tested
        split
        · exact .of_same
        · exact .refl y)
      (fun y => by unfold Shot.tested; split <;> exact ⟨rfl, rfl⟩)
    exact ht.same rfl rfl

theorem abortArmed_latest (m : Nat) (s : State) : (abortArmed m s).mi.latest = s.mi.latest := by
  unfold abortArmed
  split
  · split <;> rfl
  · rfl

theorem freeTest_waits {m : Nat} (hx : x.AllPending) (h : Waits n x l s) : Waits n x l (freeTest m s) := by
  obtain ⟨y, hy, hxy⟩ := h.shot
  by_cases hm : m = n
  · subst hm
    rw [freeTest_stands hy (.inl (hxy.allPending hx).not_freeable)]
    exact h
  · unfold freeTest
    split
    · split
      · next z _ _ =>
        obtain ⟨mi, c, e⟩ := abortArmed_eq m (giveBlocks z.blocks (modHeld m (fun _ => {}) s))
        have hl := abortArmed_latest m (giveBlocks z.blocks (modHeld m (fun _ => {}) s))
        refine ⟨⟨y, ?_, hxy⟩, ?_⟩
        · rw [e, giveBlocks_eq]
          exact (held_modHeld_other (Ne.symm hm) (fun _ _ => rfl) s).trans hy
        · rw [hl, giveBlocks_eq]
          exact h.latest
      · exact h
    · exact h

theorem shotTests_waits {m : Nat} (hx : x.AllPending) (h : Waits n x l s) : Waits n x l (shotTests m s) :=
  freeTest_waits hx (proofTest_waits hx h)

/-! ## The overflow move while a shot waits -/

theorem addRecord_waits {sl : Slot} {r : FileRecord} (h : Waits n x l s) : Waits n x l (addRecord sl r s) := by
  unfold addRecord
  extract_lets s1 c s2
  have h2 : Waits n x l s2 := (modSlot_waits h).same rfl rfl
  clear_value s2
  split
  · exact raiseCard_waits (modSlot_waits h2)
  · exact h2

theorem abandon_overflow_waits {sl : Slot} (hx : x.AllPending) (h : Waits n x l s) : Waits n x l (abandon sl .overflow s) := by
  unfold abandon
  split
  · exact h
  · unfold abandonDuty
    dsimp only
    refine shotTests_waits hx (dropPin_waits hx (setDuty_pending_waits hx (modSlot_waits ?_)))
    split
    · exact modSlot_waits h
    · exact addRecord_waits (modSlot_waits h)

theorem foldl_waits {α : Type} {f : State → α → State} (hf : ∀ t y, Waits n x l t → Waits n x l (f t y)) :
    ∀ (ys : List α) {s : State}, Waits n x l s → Waits n x l (ys.foldl f s)
  | [], _, h => h
  | y :: ys, _, h => foldl_waits hf ys (hf _ y h)

theorem moveJob_waits {j : FileJob} (hx : x.AllPending) (h : Waits n x l s) : Waits n x l (moveJob s j) := by
  unfold moveJob
  split
  · exact modSlot_waits (modSlot_waits (retarget_waits hx h))
  · exact h

theorem moveWaiting_waits {j : FileJob} (hx : x.AllPending) (h : Waits n x l s) : Waits n x l (moveWaiting s j) := by
  unfold moveWaiting
  split
  · exact retarget_waits hx h
  · exact h

theorem overflowMove_waits (hx : x.AllPending) (h : Waits n x l s) : Waits n x l (overflowMove s) := by
  have h1 : Waits n x l (abandon .a .overflow s) := abandon_overflow_waits hx h
  refine slotRest_waits (raiseCard_waits (Waits.cards (modSlot_waits ?_)))
  exact foldl_waits (fun _ _ => moveWaiting_waits hx) _ (foldl_waits (fun _ _ => moveJob_waits hx) _ h1)

theorem slotSettle_waits {sl : Slot} (hx : x.AllPending) (h : Waits n x l s) : Waits n x l (slotSettle sl s) := by
  unfold slotSettle overflowTest
  split
  · exact overflowMove_waits hx (slotRest_waits h)
  · exact slotRest_waits h

/-! ## The hand-off while a shot waits -/

theorem handCard_waits {m : Nat} {k : FileKind} {sl : Slot} (hx : x.AllPending) (h : Waits n x l s) :
    Waits n x l (handCard m k sl s) := by
  unfold handCard
  dsimp only
  split
  · exact h
  · refine slotSettle_waits hx (modSlot_waits ?_)
    split
    · exact retarget_waits hx h
    · exact h

theorem joinTether_waits {atHead : Bool} {m : Nat} {k : FileKind} (hx : x.AllPending) (h : Waits n x l s) :
    Waits n x l (joinTether atHead m k s) := by
  unfold joinTether
  dsimp only
  split
  · exact h
  · split
    · exact h
    · split
      · exact (h.entry hx (fun y _ => setDuty_deferred_turned y _) (fun _ => ⟨rfl, rfl⟩)).same rfl rfl
      · exact h.same rfl rfl

theorem joinDevelop_waits {m serial : Nat} {urgent : Bool} (h : Waits n x l s) : Waits n x l (joinDevelop m serial urgent s) := by
  unfold joinDevelop
  split
  · exact h
  · exact h.same rfl rfl

theorem handDuty_waits {m : Nat} {k : DutyKey} (hx : x.AllPending) (h : Waits n x l s) : Waits n x l (handDuty m k s) := by
  unfold handDuty
  split
  · exact h
  · split
    · split
      · exact handCard_waits hx h
      · exact h
    · exact handCard_waits hx h
    · exact joinTether_waits hx h
    · exact joinDevelop_waits h

end

end Sys2Proof.Machine
end

section
/-! The duties of a shot handed to their consumers in their order (R10, R121, R143, R164, R165). -/

namespace Sys2Proof.Machine

set_option Elab.async false

open Sys2Proof

variable {a s t : State}

/-! ## The queues' orders -/

/-- The order of the transfer queue (R165). -/
def inTetherOrder (x y : Entry) : Prop := (x.urgent = true ∧ y.urgent = false) ∨ (x.urgent = y.urgent ∧ x.order ≤ y.order)

/-- The order of the develop queue (R121). -/
def inDevelopOrder (x y : DevEntry) : Prop := (x.urgent = true ∧ y.urgent = false) ∨ (x.urgent = y.urgent ∧ x.serial ≤ y.serial)

theorem develop_before_iff (x y : DevEntry) : x.before y = true ↔ inDevelopOrder x y := by
  unfold inDevelopOrder
  cases hx : x.urgent <;> cases hy : y.urgent <;> simp [DevEntry.before, hx, hy]

theorem sortTether_perm (l : List Entry) : (sortTether l).Perm l := List.perm_insertionSort _ l

theorem sortTether_pairwise (l : List Entry) : (sortTether l).Pairwise inTetherOrder := by
  have : Std.Total (fun x y : Entry => x.before y = true) := ⟨fun x y => by
    rw [before_iff, before_iff]
    cases x.urgent <;> cases y.urgent <;> simp <;> omega⟩
  have : IsTrans Entry (fun x y : Entry => x.before y = true) := ⟨fun x y z => by
    rw [before_iff, before_iff, before_iff]
    cases x.urgent <;> cases y.urgent <;> cases z.urgent <;> simp <;> omega⟩
  exact (List.pairwise_insertionSort (fun x y : Entry => x.before y = true) l).imp fun {x y} => (before_iff x y).1

theorem sortDevelop_perm (l : List DevEntry) : (sortDevelop l).Perm l := List.perm_insertionSort _ l

theorem sortDevelop_pairwise (l : List DevEntry) : (sortDevelop l).Pairwise inDevelopOrder := by
  have : Std.Total (fun x y : DevEntry => x.before y = true) := ⟨fun x y => by
    rw [develop_before_iff, develop_before_iff]
    unfold inDevelopOrder
    cases x.urgent <;> cases y.urgent <;> simp <;> omega⟩
  have : IsTrans DevEntry (fun x y : DevEntry => x.before y = true) := ⟨fun x y z => by
    rw [develop_before_iff, develop_before_iff, develop_before_iff]
    unfold inDevelopOrder
    cases x.urgent <;> cases y.urgent <;> cases z.urgent <;> simp <;> omega⟩
  exact (List.pairwise_insertionSort (fun x y : DevEntry => x.before y = true) l).imp fun {x y} => (develop_before_iff x y).1

/-! ## A duty that joins the transfer queue -/

section
variable {n : Nat} {k : FileKind}

theorem joinTether_eq (atHead : Bool) (n : Nat) (k : FileKind) (s : State) :
    ∃ l p, joinTether atHead n k s = { s with ss := { s.ss with table := l }, tp := p } := by
  unfold joinTether
  dsimp only
  split
  · exact ⟨_, _, rfl⟩
  · split
    · exact ⟨_, _, rfl⟩
    · split
      · exact ⟨_, _, rfl⟩
      · exact ⟨_, _, rfl⟩

/-- Whether a PENDING send duty may be queued: the port takes entries, and none is there (R164, R183). -/
structure State.MayJoin (s : State) (n : Nat) (k : FileKind) : Prop where
  active : s.cp.power = .active
  pending : s.dutyOf n (.send k) = some .pending
  absent : ∀ y ∈ s.tp.queue, ¬ (y.shot = n ∧ y.kind = k)

theorem joinTether_at (h : s.MayJoin n k) (atHead : Bool) : joinTether atHead n k s =
    if 256 ≤ s.tp.queue.length then
      { setDuty n (.send k) (fun d => { d with deferred := true }) s with tp := { s.tp with deferred := s.tp.deferred + 1 } }
    else { s with tp := { s.tp with
      queue := sortTether (s.tp.queue ++ [⟨n, k, ((s.sendDuty n k).map (·.urgent)).getD false,
        if atHead then headOrder (((s.sendDuty n k).map (·.urgent)).getD false) s.tp else s.tp.nextOrder⟩])
      nextOrder := s.tp.nextOrder + 1 } } := by
  have hopen : s.tetherClosed = false := by
    unfold State.tetherClosed
    rw [h.active]
    decide
  have hany : s.tp.queue.any (fun e => e.shot == n && e.kind == k) = false :=
    List.any_eq_false.2 fun y hy => by simpa using h.absent y hy
  unfold joinTether
  rw [if_neg (by simp [hopen, h.pending]), hany]
  rfl

theorem joinTether_full (h : s.MayJoin n k) (hl : 256 ≤ s.tp.queue.length) (atHead : Bool) : joinTether atHead n k s =
    { setDuty n (.send k) (fun d => { d with deferred := true }) s with tp := { s.tp with deferred := s.tp.deferred + 1 } } := by
  rw [joinTether_at h, if_pos hl]

theorem joinTether_room (h : s.MayJoin n k) (hl : s.tp.queue.length < 256) : joinTether false n k s =
    { s with tp := { s.tp with
      queue := sortTether (s.tp.queue ++ [⟨n, k, ((s.sendDuty n k).map (·.urgent)).getD false, s.tp.nextOrder⟩])
      nextOrder := s.tp.nextOrder + 1 } } := by
  rw [joinTether_at h, if_neg (by omega)]
  rfl

end

/-! ## The send duties handed out -/

/-- A shot's duties handed to their consumers in order. -/
def handOut (n : Nat) (ks : List DutyKey) (s : State) : State := ks.foldl (fun u k => handDuty n k u) s

theorem handOut_cons (n : Nat) (k : DutyKey) (ks : List DutyKey) (s : State) :
    handOut n (k :: ks) s = handOut n ks (handDuty n k s) := rfl

theorem handOut_append (n : Nat) (ks ls : List DutyKey) (s : State) : handOut n (ks ++ ls) s = handOut n ls (handOut n ks s) :=
  List.foldl_append

section
variable {n : Nat} {x : Shot} {l : Option Nat} {urgent : Bool}

theorem handOut_waits (hx : x.AllPending) (ks : List DutyKey) (h : Waits n x l s) : Waits n x l (handOut n ks s) :=
  foldl_waits (fun _ _ => handDuty_waits hx) ks h

/-- The entries of send duties that join in order. -/
def joined (n : Nat) (urgent : Bool) : Int → List FileKind → List Entry
  | _, [] => []
  | o, f :: fs => ⟨n, f, urgent, o⟩ :: joined n urgent (o + 1) fs

theorem joined_eq (n : Nat) (urgent : Bool) (fs : List FileKind) : ∀ (o : Int) (i : Nat),
    joined n urgent (o + i) fs = (fs.zipIdx i).map (fun p => ⟨n, p.1, urgent, o + p.2⟩) := by
  induction fs with
  | nil => exact fun _ _ => rfl
  | cons f fs ih =>
    intro o i
    have e : o + ((i + 1 : Nat) : Int) = o + i + 1 := by push_cast; ring
    rw [List.zipIdx_cons, List.map_cons, ← ih o (i + 1), e, joined]

/-- A duty of another consumer than the card slots stands with its state and class while the shot waits. -/
theorem Waits.duty (h : Waits n x l s) {k : DutyKey} (hk : k.onCard = false) {p : DutyState × Bool}
    (hd : (x.duty k).map (fun d => (d.state, d.urgent)) = some p) :
    ∃ y d, s.held n = some y ∧ y.duty k = some d ∧ d.state = p.1 ∧ d.urgent = p.2 := by
  obtain ⟨y, hy, ht⟩ := h.shot
  obtain ⟨d, hd', he⟩ := Option.map_eq_some_iff.1 ((ht.find hk).trans hd)
  exact ⟨y, d, hy, hd', congrArg Prod.fst he, congrArg Prod.snd he⟩

theorem handDuty_send (h : Waits n x l s) (f : FileKind) : handDuty n (.send f) s = joinTether false n f s := by
  obtain ⟨y, hy, _⟩ := h.shot
  unfold handDuty
  rw [hy]

theorem mayJoin_of_waits (h : Waits n x l s) {f : FileKind} (hd : (x.duty (.send f)).map (fun d => (d.state, d.urgent)) = some (.pending, urgent))
    (hp : s.cp.power = .active) (ha : ∀ y ∈ s.tp.queue, ¬ (y.shot = n ∧ y.kind = f)) :
    s.MayJoin n f ∧ ((s.sendDuty n f).map (·.urgent)).getD false = urgent := by
  obtain ⟨y, d, hy, hyd, hs, hu⟩ := h.duty (k := .send f) rfl hd
  refine ⟨⟨hp, ?_, ha⟩, ?_⟩
  · unfold State.dutyOf Shot.dutyState
    rw [hy, Option.bind_some, hyd, Option.map_some, hs]
  · unfold State.sendDuty
    rw [hy, Option.bind_some, hyd, Option.map_some, Option.getD_some, hu]

/-- The send duties of a shot that waits join the transfer queue in their order, or are deferred at a full queue (R164, R165). -/
theorem handOut_sends (hx : x.AllPending) : ∀ (fs : List FileKind) {s : State}, Waits n x l s → s.cp.power = .active →
    (∀ f ∈ fs, (x.duty (.send f)).map (fun d => (d.state, d.urgent)) = some (.pending, urgent)) → fs.Nodup →
    (∀ f ∈ fs, ∀ y ∈ s.tp.queue, ¬ (y.shot = n ∧ y.kind = f)) →
    let t := handOut n (fs.map DutyKey.send) s
    (s.tp.queue.length + fs.length ≤ 256 → t.tp.deferred = s.tp.deferred
      ∧ t.tp.queue.Perm (s.tp.queue ++ joined n urgent s.tp.nextOrder fs))
    ∧ (256 ≤ s.tp.queue.length → t.tp.queue = s.tp.queue ∧ t.tp.deferred = s.tp.deferred + fs.length)
    ∧ (s.tp.queue.Pairwise inTetherOrder → t.tp.queue.Pairwise inTetherOrder)
    ∧ (fs ≠ [] → s.tp.queue.length < 256 → t.tp.queue.Pairwise inTetherOrder)
  | [], s, _, _, _, _, _ => ⟨fun _ => ⟨rfl, by rw [joined, List.append_nil]; exact .refl _⟩, fun _ => ⟨rfl, rfl⟩, id, fun h => absurd rfl h⟩
  | f :: fs, s, hw, hp, hd, hnd, ha => by
    intro t
    obtain ⟨hj, hu⟩ := mayJoin_of_waits hw (hd f List.mem_cons_self) hp (ha f List.mem_cons_self)
    have ht : t = handOut n (fs.map DutyKey.send) (joinTether false n f s) := by
      rw [← handDuty_send hw f]
      rfl
    have hw1 : Waits n x l (joinTether false n f s) := joinTether_waits hx hw
    have hp1 : (joinTether false n f s).cp.power = .active := by
      obtain ⟨l', p, e⟩ := joinTether_eq false n f s
      rw [e]
      exact hp
    obtain ⟨hfn, hfs⟩ := List.nodup_cons.1 hnd
    have rest := handOut_sends hx fs hw1 hp1 (fun g hg => hd g (List.mem_cons_of_mem _ hg)) hfs
    by_cases hl : 256 ≤ s.tp.queue.length
    · have hq : (joinTether false n f s).tp = { s.tp with deferred := s.tp.deferred + 1 } := by rw [joinTether_full hj hl]
      rw [← ht, hq] at rest
      obtain ⟨hroom, hfull, hsort, hsorted⟩ := rest (fun g hg => ha g (List.mem_cons_of_mem _ hg))
      refine ⟨fun h => absurd h (by rw [List.length_cons]; omega), fun _ => ?_, hsort, fun _ h => absurd hl (by omega)⟩
      obtain ⟨h1, h2⟩ := hfull hl
      exact ⟨h1, by rw [h2, List.length_cons]; dsimp only; omega⟩
    · have hl' : s.tp.queue.length < 256 := by omega
      have hq : (joinTether false n f s).tp = { s.tp with
          queue := sortTether (s.tp.queue ++ [⟨n, f, urgent, s.tp.nextOrder⟩]), nextOrder := s.tp.nextOrder + 1 } := by
        rw [joinTether_room hj hl', hu]
      have hperm := sortTether_perm (s.tp.queue ++ [⟨n, f, urgent, s.tp.nextOrder⟩])
      have hsorted0 := sortTether_pairwise (s.tp.queue ++ [⟨n, f, urgent, s.tp.nextOrder⟩])
      rw [← ht, hq] at rest
      obtain ⟨hroom, hfull, hsort, hsorted⟩ := rest (fun g hg y hy hyn => by
        rcases List.mem_append.1 (hperm.mem_iff.1 hy) with hy | hy
        · exact ha g (List.mem_cons_of_mem _ hg) y hy hyn
        · rw [List.mem_singleton.1 hy] at hyn
          have hfg : f = g := hyn.2
          exact hfn (hfg ▸ hg))
      refine ⟨fun h => ?_, fun h => absurd h hl, fun _ => hsort hsorted0, fun _ _ => hsort hsorted0⟩
      obtain ⟨h1, h2⟩ := hroom (by rw [hperm.length_eq, List.length_append]; simpa [Nat.add_comm, Nat.add_left_comm] using h)
      refine ⟨h1, h2.trans ?_⟩
      rw [joined, List.append_cons s.tp.queue ⟨n, f, urgent, s.tp.nextOrder⟩ (joined n urgent (s.tp.nextOrder + 1) fs)]
      exact hperm.append_right (joined n urgent (s.tp.nextOrder + 1) fs)

theorem handOut_sends_eq (h : Waits n x l s) (hx : x.AllPending) (fs : List FileKind) :
    ∃ l p, handOut n (fs.map DutyKey.send) s = { s with ss := { s.ss with table := l }, tp := p } := by
  induction fs generalizing s with
  | nil => exact ⟨s.ss.table, s.tp, rfl⟩
  | cons f fs ih =>
    have hw := h
    obtain ⟨l1, p1, e1⟩ := joinTether_eq false n f s
    obtain ⟨l2, p2, e2⟩ := ih (joinTether_waits (atHead := false) (m := n) (k := f) hx h)
    refine ⟨l2, p2, ?_⟩
    have e : handOut n ((f :: fs).map DutyKey.send) s = handOut n (fs.map DutyKey.send) (joinTether false n f s) := by
      rw [← handDuty_send hw f]
      rfl
    rw [e, e2, e1]

/-- The keys of a shot's duties. -/
def State.keysOf (s : State) (n : Nat) : Option (List DutyKey) := (s.held n).map (fun y => y.duties.map (·.key))

theorem joinTether_keys (atHead : Bool) (n : Nat) (k : FileKind) (s : State) :
    (joinTether atHead n k s).keysOf n = s.keysOf n := by
  unfold joinTether
  dsimp only
  split
  · rfl
  · split
    · rfl
    · split
      · show ((modHeld n (Shot.setDuty (.send k) _) s).held n).map _ = _
        rw [held_modHeld_map (f := Shot.setDuty (.send k) (fun d => { d with deferred := true })) (fun _ h => h)]
        unfold State.keysOf
        rw [Option.map_map]
        refine congrArg (fun f => Option.map f (s.held n)) (funext fun y => ?_)
        show (List.map _ (List.map _ y.duties)) = _
        rw [List.map_map]
        refine List.map_congr_left (fun d _ => ?_)
        show (if d.key == .send k then { d with deferred := true } else d : Duty).key = d.key
        split <;> rfl
      · rfl

theorem handOut_sends_keys (hx : x.AllPending) (fs : List FileKind) (h : Waits n x l s) :
    (handOut n (fs.map DutyKey.send) s).keysOf n = s.keysOf n := by
  induction fs generalizing s with
  | nil => rfl
  | cons f fs ih =>
    rw [List.map_cons, handOut_cons, handDuty_send h f, ih (joinTether_waits hx h), joinTether_keys]

/-! ## The DEVELOP duty handed out -/

/-- The DEVELOP duty of a shot that waits joins the develop queue, unless the engine is HALTED (R121). -/
theorem handOut_develop (h : Waits n x l s) (hd : (x.duty .develop).map (fun d => (d.state, d.urgent)) = some (.pending, urgent)) :
    handOut n [.develop] s = if s.de.phase = .halted then s else { s with de := { s.de with
      queue := sortDevelop (s.de.queue.filter (fun e => e.shot != n) ++ [⟨n, x.serial, urgent⟩]) } } := by
  obtain ⟨y, d, hy, hyd, hs, hu⟩ := h.duty (k := .develop) rfl hd
  have hserial : y.serial = x.serial := by
    obtain ⟨z, hz, ht⟩ := h.shot
    rw [hy] at hz
    cases hz
    rw [ht.eq]
  have hpend : s.dutyOf n .develop = some .pending := by
    unfold State.dutyOf Shot.dutyState
    rw [hy, Option.bind_some, hyd, Option.map_some, hs]
  show handDuty n .develop s = _
  unfold handDuty
  rw [hy]
  dsimp only
  unfold joinDevelop
  rw [hyd, Option.map_some, Option.getD_some, hu, hserial, hpend]
  simp

/-! ## The card duties handed out -/

theorem Waits.not_proofReady (h : Waits n x l s) (hx : x.AllPending) {y : Shot} (hy : s.held n = some y) : y.proofReady = false := by
  obtain ⟨z, hz, ht⟩ := h.shot
  rw [hy] at hz
  cases hz
  have hne : y.dutyState .develop ≠ some .done := by
    intro hd
    obtain ⟨d, hdm, hs⟩ := Option.map_eq_some_iff.1 hd
    have := (ht.allPending hx).2 d (List.mem_of_find?_eq_some hdm)
    rw [this] at hs
    cases hs
  unfold Shot.proofReady
  rw [beq_eq_false_iff_ne.2 hne]
  rfl

/-- The keys of the card duties that a landing gives (R10). -/
def DutyKey.landsOnCard : DutyKey → Bool
  | .card .raw _ | .card .proof _ => true
  | _ => false

theorem handDuty_raw (h : Waits n x l s) (sl : Slot) : handDuty n (.card .raw sl) s = handCard n .raw sl s := by
  obtain ⟨y, hy, _⟩ := h.shot
  unfold handDuty
  rw [hy]

theorem handDuty_proof (h : Waits n x l s) (hx : x.AllPending) (sl : Slot) : handDuty n (.card .proof sl) s = s := by
  obtain ⟨y, hy, _⟩ := h.shot
  unfold handDuty
  rw [hy]
  exact if_neg (by rw [h.not_proofReady hx hy]; decide)

theorem handOut_cards_serves (hx : x.AllPending) : ∀ (ks : List DutyKey) {s : State}, Waits n x l s → (∀ k ∈ ks, k.landsOnCard = true) →
    Serves false a s → Serves false a (handOut n ks s)
  | [], _, _, _, h => h
  | .card .raw sl :: ks, s, hw, hk, h => by
    rw [handOut_cons, handDuty_raw hw]
    refine handOut_cards_serves hx ks (handCard_waits hx hw) (fun k hm => hk k (List.mem_cons_of_mem _ hm)) ?_
    exact handCard_serves h
  | .card .proof sl :: ks, s, hw, hk, h => by
    rw [handOut_cons, handDuty_proof hw hx]
    refine handOut_cards_serves hx ks hw (fun k hm => hk k (List.mem_cons_of_mem _ hm)) ?_
    exact h
  | .card .memo _ :: _, _, _, hk, _ | .card .caption _ :: _, _, _, hk, _ | .send _ :: _, _, _, hk, _
  | .develop :: _, _, _, hk, _ => absurd (hk _ List.mem_cons_self) Bool.false_ne_true

/-- The switch that is set stays set while card duties are handed out. -/
theorem handOut_cards_overflow (hx : x.AllPending) : ∀ (ks : List DutyKey) {s : State}, Waits n x l s → (∀ k ∈ ks, k.landsOnCard = true) →
    s.cw.overflow = true → (handOut n ks s).cw.overflow = true
  | [], _, _, _, h => h
  | .card .raw sl :: ks, s, hw, hk, h => by
    rw [handOut_cons, handDuty_raw hw]
    refine handOut_cards_overflow hx ks (handCard_waits hx hw) (fun k hm => hk k (List.mem_cons_of_mem _ hm)) ?_
    exact handCard_overflow h
  | .card .proof sl :: ks, s, hw, hk, h => by
    rw [handOut_cons, handDuty_proof hw hx]
    refine handOut_cards_overflow hx ks hw (fun k hm => hk k (List.mem_cons_of_mem _ hm)) ?_
    exact h
  | .card .memo _ :: _, _, _, hk, _ | .card .caption _ :: _, _, _, hk, _ | .send _ :: _, _, _, hk, _
  | .develop :: _, _, _, hk, _ => absurd (hk _ List.mem_cons_self) Bool.false_ne_true

/-- Where the switch is clear behind them, the hand-off of card duties changes the card writer and the notices alone. -/
theorem handOut_cards_still (hx : x.AllPending) : ∀ (ks : List DutyKey) {s : State}, Waits n x l s → (∀ k ∈ ks, k.landsOnCard = true) →
    (handOut n ks s).cw.overflow = false → ∃ c p, handOut n ks s = { s with cw := c, cp := p }
  | [], s, _, _, _ => ⟨s.cw, s.cp, rfl⟩
  | .card .raw sl :: ks, s, hw, hk, ho => by
    rw [handOut_cons, handDuty_raw hw] at ho ⊢
    have hw1 : Waits n x l (handCard n .raw sl s) := handCard_waits hx hw
    have hk1 : ∀ k ∈ ks, k.landsOnCard = true := fun k hm => hk k (List.mem_cons_of_mem _ hm)
    have clear : ∀ {u : State}, Waits n x l u → u.cw.overflow = true → (handOut n ks u).cw.overflow ≠ false :=
      fun hu h c => by rw [handOut_cards_overflow hx ks hu hk1 h] at c; cases c
    have ho1 : (handCard n .raw sl s).cw.overflow = false := by
      by_contra hc
      exact clear hw1 (by simpa using hc) ho
    have ho0 : s.cw.overflow = false := by
      by_contra hc
      rw [handCard_overflow (by simpa using hc)] at ho1
      cases ho1
    obtain ⟨c1, p1, e1, -⟩ := handCard_queue ho0 ho1
    obtain ⟨c, p, e⟩ := handOut_cards_still hx ks hw1 hk1 ho
    exact ⟨c, p, by rw [e, e1]⟩
  | .card .proof sl :: ks, s, hw, hk, ho => by
    rw [handOut_cons, handDuty_proof hw hx] at ho ⊢
    exact handOut_cards_still hx ks hw (fun k hm => hk k (List.mem_cons_of_mem _ hm)) ho
  | .card .memo _ :: _, _, _, hk, _ | .card .caption _ :: _, _, _, hk, _ | .send _ :: _, _, _, hk, _
  | .develop :: _, _, _, hk, _ => absurd (hk _ List.mem_cons_self) Bool.false_ne_true

/-- Where no move happens and none goes to slot B instead, the card duties' jobs join their slots' queues, no PROOF job
before its proof is done (R10, R143). -/
theorem handOut_cards (hx : x.AllPending) : ∀ (ks : List DutyKey) {s : State}, Waits n x l s → (∀ k ∈ ks, k.landsOnCard = true) → ks.Nodup →
    (∀ sl, .card .raw sl ∈ ks → s.dutyOf n (.card .raw sl) = some .pending ∧ ⟨n, .raw⟩ ∉ (s.slot sl).queue) →
    (s.cw.overflow = true → .card .raw .a ∉ ks) → (handOut n ks s).cw.overflow = s.cw.overflow →
    ∃ c p, handOut n ks s = { s with cw := c, cp := p }
      ∧ ∀ sl, ((handOut n ks s).slot sl).queue = (s.slot sl).queue ++ if .card .raw sl ∈ ks then [⟨n, .raw⟩] else []
  | [], s, _, _, _, _, _, _ => ⟨s.cw, s.cp, rfl, fun _ => (List.append_nil _).symm⟩
  | .card .proof sl :: ks, s, hw, hk, hnd, hq, hb, ho => by
    have e : handOut n (.card .proof sl :: ks) s = handOut n ks s := by
      show handOut n ks (handDuty n (.card .proof sl) s) = _
      rw [handDuty_proof hw hx]
    rw [e] at ho ⊢
    obtain ⟨c, p, he, hqueue⟩ := handOut_cards hx ks hw (fun k hm => hk k (List.mem_cons_of_mem _ hm)) (List.nodup_cons.1 hnd).2
      (fun sl hm => hq sl (List.mem_cons_of_mem _ hm)) (fun h hm => hb h (List.mem_cons_of_mem _ hm)) ho
    refine ⟨c, p, he, fun y => (hqueue y).trans ?_⟩
    have hiff : (DutyKey.card .raw y ∈ DutyKey.card .proof sl :: ks) ↔ DutyKey.card .raw y ∈ ks := by simp
    rw [if_congr hiff rfl rfl]
  | .card .raw sl :: ks, s, hw, hk, hnd, hq, hb, ho => by
    have e : handOut n (.card .raw sl :: ks) s = handOut n ks (handCard n .raw sl s) := by
      rw [← handDuty_raw hw]
      rfl
    have hw1 : Waits n x l (handCard n .raw sl s) := handCard_waits hx hw
    have hk1 : ∀ k ∈ ks, k.landsOnCard = true := fun k hm => hk k (List.mem_cons_of_mem _ hm)
    rw [e] at ho ⊢
    have ho1 : (handCard n .raw sl s).cw.overflow = s.cw.overflow := by
      cases h : s.cw.overflow with
      | true => exact handCard_overflow h
      | false =>
        by_contra hc
        have := handOut_cards_overflow hx ks hw1 hk1 (by simpa using hc)
        rw [ho, h] at this
        cases this
    have hdiv : s.diverts ⟨n, .raw⟩ sl = false := by
      unfold State.diverts
      cases h : s.cw.overflow with
      | false => simp
      | true =>
        cases sl with
        | a => exact absurd List.mem_cons_self (hb h)
        | b => rfl
    obtain ⟨hpend, habs⟩ := hq sl List.mem_cons_self
    obtain ⟨c1, p1, he1, hq1⟩ := handCard_undiverted hdiv ho1
    have hsl : ∀ y, ((handCard n .raw sl s).slot y).queue = (s.slot y).queue ++ if y = sl then [⟨n, .raw⟩] else [] := by
      intro y
      rw [hq1 y, if_congr (and_iff_left ⟨hpend, habs⟩) rfl rfl]
    obtain ⟨hslk, hnd1⟩ := List.nodup_cons.1 hnd
    obtain ⟨c, p, he, hqueue⟩ := handOut_cards hx ks hw1 hk1 hnd1
      (fun y hm => by
        obtain ⟨hp, hm'⟩ := hq y (List.mem_cons_of_mem _ hm)
        have hne : y ≠ sl := fun c => hslk (c ▸ hm)
        refine ⟨by rw [he1]; exact hp, ?_⟩
        rw [hsl y, if_neg hne, List.append_nil]
        exact hm')
      (fun h hm => hb (ho1 ▸ h) (List.mem_cons_of_mem _ hm)) (ho.trans ho1.symm)
    refine ⟨c, p, by rw [he, he1], fun y => ?_⟩
    rw [hqueue y, hsl y, List.append_assoc]
    by_cases hy : y = sl
    · subst hy
      rw [if_pos rfl, if_neg hslk, if_pos List.mem_cons_self, List.append_nil]
    · have hiff : (DutyKey.card .raw y ∈ DutyKey.card .raw sl :: ks) ↔ DutyKey.card .raw y ∈ ks := by simp [hy]
      rw [if_neg hy, List.nil_append, if_congr hiff rfl rfl]
  | .card .memo _ :: _, _, _, hk, _, _, _, _ | .card .caption _ :: _, _, _, hk, _, _, _, _ | .send _ :: _, _, _, hk, _, _, _, _
  | .develop :: _, _, _, hk, _, _, _, _ => absurd (hk _ List.mem_cons_self) Bool.false_ne_true

end

end Sys2Proof.Machine
end

section
/-! A shot that lands: the lines owed, its record, and the statement on it (R10, R37, R43). -/

namespace Sys2Proof.Machine

set_option Elab.async false

open Sys2Proof

variable {a s t : State}

/-! ## Entries changed in turn -/

section
variable {p q : Shot → Bool} {l : List Shot} {x d : Shot}

/-- An entry that meets a test first by a change is the one found. -/
theorem find_updateFirst_new (h : l.find? p = some x) (hd : q d = true) (hq : ∀ y ∈ l, q y = false) :
    (updateFirst p (fun _ => d) l).find? q = some d := by
  obtain ⟨l1, l2, rfl, -, -, h2⟩ := updateFirst_some h
  rw [h2, List.find?_append, List.find?_eq_none.2 (fun y hy => by simp [hq y (List.mem_append_left _ hy)]), Option.none_or,
    List.find?_cons_of_pos hd]

/-- A change of the entry that meets another test by the first change. -/
theorem updateFirst_new (h : l.find? p = some x) (hd : q d = true) (hq : ∀ y ∈ l, q y = false) (g : Shot → Shot) :
    updateFirst q g (updateFirst p (fun _ => d) l) = updateFirst p (fun _ => g d) l := by
  obtain ⟨l1, l2, rfl, -, -, h2⟩ := updateFirst_some h
  rw [h2, h2]
  clear h2 h
  induction l1 with
  | nil => simp [updateFirst, hd]
  | cons y l1 ih =>
    have hy := hq y List.mem_cons_self
    simp only [List.cons_append, updateFirst, hy, Bool.false_eq_true, if_false]
    rw [ih (fun z hz => hq z (List.mem_cons_of_mem _ hz))]

/-- Entries of two kinds cleared in either order. -/
theorem clear_comm (hpq : ∀ x, p x = true → q x = false) (hp : p {} = false) (hq : q {} = false) (l : List Shot) :
    updateFirst p (fun _ => {}) (updateFirst q (fun _ => {}) l) = updateFirst q (fun _ => {}) (updateFirst p (fun _ => {}) l) := by
  induction l with
  | nil => rfl
  | cons x l ih =>
    cases hx : p x with
    | true => simp [updateFirst, hx, hpq x hx, hq]
    | false =>
      cases hy : q x with
      | true => simp [updateFirst, hx, hy, hp]
      | false => simp [updateFirst, hx, hy, ih]

end

/-! ## The lines owed -/

/-- A line of a raw extent filled: by the line two above it, or by the black of its pixels' planes (R43). -/
def fillLine (raw : List Nat) (c : CaptureCfg) (k : Planes) (m : List Host.Cell) (y : Nat) : List Host.Cell :=
  writeExtent raw (if 2 ≤ y then readRange m raw ((y - 2) * (c.width * c.depth / 8)) (c.width * c.depth / 8) else blackLine c k y)
    (y * (c.width * c.depth / 8)) m

/-- Lines of the LANDING shot substituted in turn (R42, R43). -/
theorem substitute_foldl {k : Planes} : ∀ (ys : List Nat) {s : State} {e : Shot}, s.ss.table.find? isLanding = some e →
    ys.foldl (fun u y => substitute k y u) s = { s with
      mem := ys.foldl (fillLine e.raw s.cfg.capture k) s.mem
      ss := { s.ss with
        table := updateFirst isLanding (fun _ => { e with damaged := e.damaged + ys.length }) s.ss.table } }
  | [], s, e, he => by
    have : updateFirst isLanding (fun _ => { e with damaged := e.damaged + ([] : List Nat).length }) s.ss.table = s.ss.table :=
      updateFirst_same he
    rw [this]
    rfl
  | y :: ys, s, e, he => by
    have hraw : s.landingRaw = e.raw := by simp [State.landingRaw, he]
    have h1 : substitute k y s = { s with
        mem := fillLine e.raw s.cfg.capture k s.mem y
        ss := { s.ss with table := updateFirst isLanding (fun _ => { e with damaged := e.damaged + 1 }) s.ss.table } } := by
      rw [← updateFirst_found he (fun t => { t with damaged := t.damaged + 1 }), fillLine, ← hraw]
      rfl
    have hl : isLanding { e with damaged := e.damaged + 1 } = true := (find_mem he).2
    rw [List.foldl_cons, h1, substitute_foldl ys (find_updateFirst he hl), List.foldl_cons, List.length_cons]
    dsimp only
    rw [updateFirst_twice he hl, Nat.add_assoc, Nat.add_comm 1]

/-! ## A shot lands -/

/-- The state with a LANDING shot's record HELD, its duties not yet handed out (R10). -/
def State.landed (k : Planes) (e : Shot) (s : State) : State :=
  { applyAtLanding s with
    ss := { s.ss with
      table := updateFirst isLanding (fun _ => landedRecord k (applyAtLanding s) e) s.ss.table, lastLanded := some e.number }
    mi := { s.mi with latest := some e.number } }

theorem landShot_eq {e : Shot} (he : s.ss.table.find? isLanding = some e) (k : Planes) : landShot k s
    = shotTests e.number (handOut e.number ((landedRecord k (applyAtLanding s) e).duties.map (·.key)) (s.landed k e)) := by
  unfold landShot
  rw [he]
  rfl

section
variable {k : Planes} {e : Shot}

theorem landedRecord_keys (k : Planes) (e : Shot) (s : State) : (landedRecord k s e).duties.map (·.key)
    = s.cfg.plans.duties s.cw.overflow e.markPending := by
  unfold landedRecord
  rw [List.map_map]
  exact List.map_id _

/-- A duty of a shot that lands is PENDING and of the shot's class. -/
theorem landedRecord_duty {d : DutyKey} (hd : d ∈ s.cfg.plans.duties s.cw.overflow e.markPending) :
    ((landedRecord k s e).duty d).map (fun d => (d.state, d.urgent)) = some (.pending, e.markPending) := by
  unfold Shot.duty landedRecord
  rw [List.find?_map]
  have h : (s.cfg.plans.duties s.cw.overflow e.markPending).find? (fun x => x == d) = some d := by
    obtain ⟨y, hy⟩ : ∃ y, (s.cfg.plans.duties s.cw.overflow e.markPending).find? (fun x => x == d) = some y :=
      Option.isSome_iff_exists.1 (List.find?_isSome.2 ⟨d, hd, beq_self_eq_true d⟩)
    have hyd : y = d := eq_of_beq (List.find?_some (p := fun x => x == d) hy)
    subst hyd
    exact hy
  show ((List.find? (fun x => x == d) _).map _).map _ = _
  rw [h]
  rfl

theorem held_landed (he : s.ss.table.find? isLanding = some e) (hno : ∀ x ∈ s.ss.table, x.state = .held → x.number ≠ e.number) :
    (s.landed k e).held e.number = some (landedRecord k (applyAtLanding s) e) := by
  refine find_updateFirst_new he (by simp [isHeld, landedRecord]) (fun y hy => ?_)
  cases h : isHeld e.number y with
  | false => rfl
  | true => exact absurd (isHeld_iff.1 h).2 (hno y hy (isHeld_iff.1 h).1)

theorem landedRecord_allPending (h : s.cfg.plans.duties s.cw.overflow e.markPending ≠ []) : (landedRecord k s e).AllPending := by
  refine ⟨fun c => h (List.map_eq_nil_iff.1 c), fun d hd => ?_⟩
  obtain ⟨x, _, rfl⟩ := List.mem_map.1 hd
  rfl

/-! ## The plans' duties -/

theorem cardDuties_landsOnCard (p : PlansCfg) (moved : Bool) : ∀ k ∈ p.cardDuties moved, k.landsOnCard = true := by
  unfold PlansCfg.cardDuties
  cases p.card <;> cases p.proofFiles <;> cases moved <;> decide

theorem cardDuties_nodup (p : PlansCfg) (moved : Bool) : (p.cardDuties moved).Nodup := by
  unfold PlansCfg.cardDuties
  cases p.card <;> cases p.proofFiles <;> cases moved <;> decide

/-- Under the plan OVERFLOW with the switch set, no duty is for slot A. -/
theorem cardDuties_moved {p : PlansCfg} (h : p.card = .overflow) : DutyKey.card .raw .a ∉ p.cardDuties true := by
  unfold PlansCfg.cardDuties
  rw [h]
  cases p.proofFiles <;> decide

/-- The kinds of the send duties that the applied tether plan gives (R10). -/
def PlansCfg.sends (p : PlansCfg) (urgent : Bool) : List FileKind :=
  match p.tether with
  | .none => []
  | .urgentProof => if urgent then [.proof] else []
  | .allProof => [.proof]
  | .urgentRaw => if urgent then [.raw] else []
  | .urgentBoth => if urgent then [.raw, .proof] else []

theorem sendDuties_eq (p : PlansCfg) (urgent : Bool) : p.sendDuties urgent = (p.sends urgent).map DutyKey.send := by
  unfold PlansCfg.sendDuties PlansCfg.sends
  cases p.tether <;> cases urgent <;> rfl

theorem sends_nodup (p : PlansCfg) (urgent : Bool) : (p.sends urgent).Nodup := by
  unfold PlansCfg.sends
  cases p.tether <;> cases urgent <;> decide

/-- Whether a landing gives the DEVELOP duty (R10). -/
def PlansCfg.landsDevelop (p : PlansCfg) (moved urgent : Bool) : Bool :=
  p.develops urgent (p.cardDuties moved ++ p.sendDuties urgent)

theorem duties_eq (p : PlansCfg) (moved urgent : Bool) : p.duties moved urgent
    = p.cardDuties moved ++ (p.sends urgent).map DutyKey.send ++ if p.landsDevelop moved urgent then [.develop] else [] := by
  unfold PlansCfg.duties PlansCfg.landsDevelop
  rw [← sendDuties_eq]

theorem landsDevelop_iff (p : PlansCfg) (moved urgent : Bool) : p.landsDevelop moved urgent = true
    ↔ (let built := p.cardDuties moved ++ (p.sends urgent).map DutyKey.send
      .card .proof .a ∈ built ∨ .card .proof .b ∈ built ∨ .send .proof ∈ built
        ∨ p.develop = .all ∨ (p.develop = .urgentOnly ∧ urgent = true)) := by
  unfold PlansCfg.landsDevelop PlansCfg.develops
  rw [sendDuties_eq]
  generalize p.cardDuties moved ++ (p.sends urgent).map DutyKey.send = l
  have hproof : l.any DutyKey.needsProof = true ↔ .card .proof .a ∈ l ∨ .card .proof .b ∈ l ∨ .send .proof ∈ l := by
    rw [List.any_eq_true]
    constructor
    · rintro ⟨x, hx, hn⟩
      cases x with
      | card f sl =>
        cases f <;> cases sl <;> first | exact .inl hx | exact .inr (.inl hx) | cases hn
      | send f =>
        cases f <;> first | exact .inr (.inr hx) | cases hn
      | develop => cases hn
    · rintro (h | h | h)
      all_goals exact ⟨_, h, rfl⟩
  rw [Bool.or_eq_true, hproof]
  cases p.develop <;> cases urgent <;> simp

end

end Sys2Proof.Machine
end

section
/-! A landing's hand-off as a whole, the tests behind it, and the statement on a shot that lands (R10, R18, R64). -/

namespace Sys2Proof.Machine

set_option Elab.async false

open Sys2Proof

variable {a s t : State} {k : Planes} {e : Shot}

/-! ## The hand-off as a whole -/

/-- The record that a landing shot gets. -/
def State.landsAs (s : State) (k : Planes) (e : Shot) : Shot := landedRecord k (applyAtLanding s) e

/-- The duties' keys that a landing shot gets. -/
def State.landsWith (s : State) (e : Shot) : List DutyKey :=
  (applyAtLanding s).cfg.plans.duties (applyAtLanding s).cw.overflow e.markPending

/-- Whether the landing shot gets a DEVELOP duty. -/
def State.landsDevelop (s : State) (e : Shot) : Bool :=
  (applyAtLanding s).cfg.plans.landsDevelop (applyAtLanding s).cw.overflow e.markPending

/-- The landing's duties handed out. -/
def State.landedOut (s : State) (k : Planes) (e : Shot) : State := handOut e.number (s.landsWith e) (s.landed k e)

theorem landShot_out (he : s.ss.table.find? isLanding = some e) : landShot k s = shotTests e.number (s.landedOut k e) := by
  rw [landShot_eq he, landedRecord_keys]
  rfl

theorem landsAs_allPending (h : s.landsWith e ≠ []) : (s.landsAs k e).AllPending := landedRecord_allPending h

theorem landed_waits (he : s.ss.table.find? isLanding = some e) (hno : ∀ x ∈ s.ss.table, x.state = .held → x.number ≠ e.number) :
    Waits e.number (s.landsAs k e) (some e.number) (s.landed k e) :=
  ⟨⟨_, held_landed he hno, .refl _⟩, rfl⟩

theorem slot_congr {sl : Slot} (h : t.cw = s.cw) : t.slot sl = s.slot sl := by
  unfold State.slot
  rw [h]

/-- The three stages of the hand-off. -/
theorem landedOut_eq : s.landedOut k e = handOut e.number (if s.landsDevelop e then [.develop] else [])
    (handOut e.number (((applyAtLanding s).cfg.plans.sends e.markPending).map DutyKey.send)
      (handOut e.number ((applyAtLanding s).cfg.plans.cardDuties (applyAtLanding s).cw.overflow) (s.landed k e))) := by
  unfold State.landedOut State.landsWith
  rw [duties_eq, handOut_append, handOut_append]
  rfl

theorem landsWith_eq : s.landsWith e = (applyAtLanding s).cfg.plans.cardDuties (applyAtLanding s).cw.overflow
    ++ ((applyAtLanding s).cfg.plans.sends e.markPending).map DutyKey.send ++ if s.landsDevelop e then [.develop] else [] :=
  duties_eq _ _ _

theorem landedOut_nil (h : s.landsWith e = []) : s.landedOut k e = s.landed k e := by
  unfold State.landedOut
  rw [h]
  rfl

theorem landsWith_nil (h : s.landsWith e = []) : (applyAtLanding s).cfg.plans.cardDuties (applyAtLanding s).cw.overflow = []
    ∧ (applyAtLanding s).cfg.plans.sends e.markPending = [] ∧ s.landsDevelop e = false := by
  rw [landsWith_eq, List.append_eq_nil_iff, List.append_eq_nil_iff, List.map_eq_nil_iff] at h
  obtain ⟨⟨h1, h2⟩, h3⟩ := h
  refine ⟨h1, h2, ?_⟩
  cases hd : s.landsDevelop e with
  | false => rfl
  | true => rw [hd] at h3; cases h3

section
variable (he : s.ss.table.find? isLanding = some e) (hno : ∀ x ∈ s.ss.table, x.state = .held → x.number ≠ e.number)
include he hno

/-- The shot waits behind the hand-off, with the record of its landing but for the targets of its duties. -/
theorem landedOut_shot : ∃ y, (s.landedOut k e).held e.number = some y ∧ Shot.Turned (s.landsAs k e) y
    ∧ (s.landsWith e ≠ [] → y.AllPending) := by
  by_cases h : s.landsWith e = []
  · rw [landedOut_nil h]
    exact ⟨_, held_landed he hno, .refl _, fun c => absurd h c⟩
  · have hx := landsAs_allPending (k := k) h
    obtain ⟨y, hy, ht⟩ := (handOut_waits hx _ (landed_waits he hno)).shot
    exact ⟨y, hy, ht, fun _ => ht.allPending hx⟩

theorem landedOut_latest : (s.landedOut k e).mi.latest = some e.number := by
  by_cases h : s.landsWith e = []
  · rw [landedOut_nil h]
    rfl
  · exact (handOut_waits (landsAs_allPending h) _ (landed_waits he hno)).latest

theorem landedOut_engine : (s.landedOut k e).de = if s.landsDevelop e = true ∧ s.de.phase ≠ .halted then
      { (s.landed k e).de with
        queue := sortDevelop (s.de.queue.filter (fun y => y.shot != e.number) ++ [⟨e.number, e.serial, e.markPending⟩]) }
    else (s.landed k e).de := by
  by_cases h : s.landsWith e = []
  · rw [landedOut_nil h, (landsWith_nil h).2.2]
    rfl
  · have hx := landsAs_allPending (k := k) h
    rw [landedOut_eq]
    generalize hA1 : handOut e.number ((applyAtLanding s).cfg.plans.cardDuties (applyAtLanding s).cw.overflow) (s.landed k e) = A1
    have hw1 : Waits e.number (s.landsAs k e) (some e.number) A1 := hA1 ▸ handOut_waits hx _ (landed_waits he hno)
    have hd1 : A1.de = (s.landed k e).de := by
      rw [← hA1]
      exact (handOut_cards_serves hx _ (landed_waits he hno) (cardDuties_landsOnCard _ _) .refl).de
    obtain ⟨l, p, e2⟩ := handOut_sends_eq hw1 hx ((applyAtLanding s).cfg.plans.sends e.markPending)
    have hw2 := handOut_waits hx (((applyAtLanding s).cfg.plans.sends e.markPending).map DutyKey.send) hw1
    generalize handOut e.number (((applyAtLanding s).cfg.plans.sends e.markPending).map DutyKey.send) A1 = A2 at e2 hw2
    have hd2 : A2.de = (s.landed k e).de := by rw [e2]; exact hd1
    have hphase : A2.de.phase = s.de.phase := by rw [hd2]; rfl
    cases hdev : s.landsDevelop e with
    | false =>
      have hoff : ¬ (false = true ∧ s.de.phase ≠ .halted) := fun c => Bool.false_ne_true c.1
      rw [if_neg hoff]
      exact hd2
    | true =>
      have hkey : DutyKey.develop ∈ s.landsWith e := by rw [landsWith_eq, hdev]; simp
      have hdone := handOut_develop hw2 (landedRecord_duty hkey)
      rw [if_pos rfl, hdone, hphase]
      by_cases hh : s.de.phase = .halted
      · rw [if_pos hh, if_neg (fun c => c.2 hh)]
        exact hd2
      · rw [if_neg hh, if_pos ⟨rfl, hh⟩]
        show ({ A2.de with queue := _ } : Develop) = _
        rw [hd2]
        rfl

theorem landedOut_cards (ho : (s.landedOut k e).cw.overflow = (applyAtLanding s).cw.overflow)
    (hm : (applyAtLanding s).cw.overflow = true → (applyAtLanding s).cfg.plans.card = .overflow)
    (hq : ∀ sl, (⟨e.number, .raw⟩ : FileJob) ∉ (s.slot sl).queue) (sl : Slot) : ((s.landedOut k e).slot sl).queue
      = (s.slot sl).queue ++ if .card .raw sl ∈ (applyAtLanding s).cfg.plans.cardDuties (applyAtLanding s).cw.overflow then
          [⟨e.number, .raw⟩] else [] := by
  have hslot : ∀ y, ((s.landed k e).slot y).queue = (s.slot y).queue := fun y => by cases y <;> rfl
  by_cases h : s.landsWith e = []
  · rw [landedOut_nil h, (landsWith_nil h).1, hslot]
    exact (List.append_nil _).symm
  · have hx := landsAs_allPending (k := k) h
    rw [landedOut_eq] at ho ⊢
    generalize hA1 : handOut e.number ((applyAtLanding s).cfg.plans.cardDuties (applyAtLanding s).cw.overflow) (s.landed k e) = A1
      at ho ⊢
    have hw1 : Waits e.number (s.landsAs k e) (some e.number) A1 := hA1 ▸ handOut_waits hx _ (landed_waits he hno)
    obtain ⟨l, p, e2⟩ := handOut_sends_eq hw1 hx ((applyAtLanding s).cfg.plans.sends e.markPending)
    have hw2 := handOut_waits hx (((applyAtLanding s).cfg.plans.sends e.markPending).map DutyKey.send) hw1
    generalize handOut e.number (((applyAtLanding s).cfg.plans.sends e.markPending).map DutyKey.send) A1 = A2 at e2 hw2 ho ⊢
    have hcw : (handOut e.number (if s.landsDevelop e then [.develop] else []) A2).cw = A1.cw := by
      have hA2 : A2.cw = A1.cw := by rw [e2]
      cases hdev : s.landsDevelop e with
      | false => exact hA2
      | true =>
        have hkey : DutyKey.develop ∈ s.landsWith e := by rw [landsWith_eq, hdev]; simp
        rw [if_pos rfl, handOut_develop hw2 (landedRecord_duty hkey)]
        split <;> exact hA2
    rw [hcw] at ho
    rw [slot_congr hcw, ← hslot sl]
    rw [← hA1] at ho ⊢
    have hpend : ∀ y, DutyKey.card .raw y ∈ (applyAtLanding s).cfg.plans.cardDuties (applyAtLanding s).cw.overflow →
        (s.landed k e).dutyOf e.number (.card .raw y) = some .pending := by
      intro y hy
      have hkey : DutyKey.card .raw y ∈ s.landsWith e := by
        rw [landsWith_eq]
        exact List.mem_append_left _ (List.mem_append_left _ hy)
      obtain ⟨d, hd, hp⟩ := Option.map_eq_some_iff.1 (landedRecord_duty (k := k) hkey)
      unfold State.dutyOf Shot.dutyState
      rw [held_landed he hno, Option.bind_some, hd]
      exact congrArg some (congrArg Prod.fst hp)
    have hmoved : (s.landed k e).cw.overflow = true →
        DutyKey.card .raw .a ∉ (applyAtLanding s).cfg.plans.cardDuties (applyAtLanding s).cw.overflow := by
      intro hov
      have hov' : (applyAtLanding s).cw.overflow = true := hov
      rw [hov']
      exact cardDuties_moved (hm hov')
    obtain ⟨c, p, -, hqueue⟩ := handOut_cards hx _ (landed_waits he hno) (cardDuties_landsOnCard _ _) (cardDuties_nodup _ _)
      (fun y hy => ⟨hpend y hy, by rw [hslot]; exact hq y⟩) hmoved ho
    exact hqueue sl

/-- Where the switch is clear behind it, the hand-off leaves the duties' targets. -/
theorem landedOut_keys (ho : (s.landedOut k e).cw.overflow = false) : (s.landedOut k e).keysOf e.number = some (s.landsWith e) := by
  have hkeys : (s.landed k e).keysOf e.number = some (s.landsWith e) := by
    unfold State.keysOf
    rw [held_landed he hno, Option.map_some, landedRecord_keys]
    rfl
  by_cases h : s.landsWith e = []
  · rw [landedOut_nil h]
    exact hkeys
  · have hx := landsAs_allPending (k := k) h
    rw [landedOut_eq] at ho ⊢
    generalize hA1 : handOut e.number ((applyAtLanding s).cfg.plans.cardDuties (applyAtLanding s).cw.overflow) (s.landed k e) = A1
      at ho ⊢
    have hw1 : Waits e.number (s.landsAs k e) (some e.number) A1 := hA1 ▸ handOut_waits hx _ (landed_waits he hno)
    obtain ⟨l, p, e2⟩ := handOut_sends_eq hw1 hx ((applyAtLanding s).cfg.plans.sends e.markPending)
    have hk2 := handOut_sends_keys hx ((applyAtLanding s).cfg.plans.sends e.markPending) hw1
    have hw2 := handOut_waits hx (((applyAtLanding s).cfg.plans.sends e.markPending).map DutyKey.send) hw1
    generalize handOut e.number (((applyAtLanding s).cfg.plans.sends e.markPending).map DutyKey.send) A1 = A2 at e2 hw2 ho hk2 ⊢
    have hlast : ∃ d, handOut e.number (if s.landsDevelop e then [.develop] else []) A2 = { A2 with de := d } := by
      cases hdev : s.landsDevelop e with
      | false => exact ⟨A2.de, rfl⟩
      | true =>
        have hkey : DutyKey.develop ∈ s.landsWith e := by rw [landsWith_eq, hdev]; simp
        rw [if_pos rfl, handOut_develop hw2 (landedRecord_duty hkey)]
        split
        · exact ⟨A2.de, rfl⟩
        · exact ⟨_, rfl⟩
    obtain ⟨d, e3⟩ := hlast
    rw [e3] at ho ⊢
    have ho1 : A1.cw.overflow = false := by rw [e2] at ho; exact ho
    rw [← hA1] at ho1
    obtain ⟨c, q, e1⟩ := handOut_cards_still hx _ (landed_waits he hno) (cardDuties_landsOnCard _ _) ho1
    rw [hA1] at e1
    refine Eq.trans ?_ (hk2.trans (Eq.trans ?_ hkeys))
    · rfl
    · rw [e1]
      rfl

theorem landedOut_sends (hp : s.cp.power = .active) (hq : ∀ y ∈ s.tp.queue, y.shot ≠ e.number) :
    let sends := (applyAtLanding s).cfg.plans.sends e.markPending
    let t := s.landedOut k e
    (s.tp.queue.length + sends.length ≤ 256 → t.tp.deferred = s.tp.deferred
      ∧ t.tp.queue.Perm (s.tp.queue ++ joined e.number e.markPending s.tp.nextOrder sends))
    ∧ (256 ≤ s.tp.queue.length → t.tp.queue = s.tp.queue ∧ t.tp.deferred = s.tp.deferred + sends.length)
    ∧ (sends ≠ [] → s.tp.queue.length < 256 → t.tp.queue.Pairwise inTetherOrder) := by
  intro sends t
  by_cases h : s.landsWith e = []
  · have hs : sends = [] := (landsWith_nil h).2.1
    have ht : t.tp = s.tp := by
      show (s.landedOut k e).tp = _
      rw [landedOut_nil h]
      rfl
    rw [hs, ht]
    exact ⟨fun _ => ⟨rfl, by rw [joined, List.append_nil]⟩, fun _ => ⟨rfl, rfl⟩, fun c => absurd rfl c⟩
  · have hx := landsAs_allPending (k := k) h
    have ht : t = _ := landedOut_eq
    generalize hA1 : handOut e.number ((applyAtLanding s).cfg.plans.cardDuties (applyAtLanding s).cw.overflow) (s.landed k e) = A1 at ht
    have hw1 : Waits e.number (s.landsAs k e) (some e.number) A1 := hA1 ▸ handOut_waits hx _ (landed_waits he hno)
    have hs1 : Serves false (s.landed k e) A1 := by
      rw [← hA1]
      exact handOut_cards_serves hx _ (landed_waits he hno) (cardDuties_landsOnCard _ _) .refl
    have htp1 : A1.tp = s.tp := hs1.port_engine.1
    have hp1 : A1.cp.power = .active := hs1.power.trans hp
    have hw2 := handOut_waits hx (sends.map DutyKey.send) hw1
    obtain ⟨hroom, hfull, -, hsorted⟩ := handOut_sends (urgent := e.markPending) hx sends hw1 hp1
      (fun f hf => landedRecord_duty (by
        show DutyKey.send f ∈ s.landsWith e
        rw [landsWith_eq]
        exact List.mem_append_left _ (List.mem_append_right _ (List.mem_map_of_mem hf))))
      (sends_nodup _ _) (fun f _ y hy hyn => hq y (htp1 ▸ hy) hyn.1)
    have htp : t.tp = (handOut e.number (sends.map DutyKey.send) A1).tp := by
      rw [ht]
      cases hdev : s.landsDevelop e with
      | false => rfl
      | true =>
        have hkey : DutyKey.develop ∈ s.landsWith e := by rw [landsWith_eq, hdev]; simp
        rw [if_pos rfl, handOut_develop hw2 (landedRecord_duty hkey)]
        split <;> rfl
    rw [htp, ← htp1]
    exact ⟨hroom, hfull, hsorted⟩

end

end Sys2Proof.Machine
end

section
/-! The tests behind a landing, the frame that closes with it, and the statement on a shot that lands (R10, R18, R37, R64). -/

namespace Sys2Proof.Machine

set_option Elab.async false

open Sys2Proof

variable {a s t : State} {k : Planes} {e : Shot}

/-! ## The tests behind a landing -/

theorem shotTests_latest (n : Nat) (s : State) : (shotTests n s).mi.latest = s.mi.latest := by
  have hp : (proofTest n s).mi = s.mi := by
    cases h : s.held n with
    | some x => rw [proofTest_eq h]
    | none =>
      unfold proofTest
      rw [h]
  unfold shotTests freeTest
  split
  · split
    · rw [abortArmed_latest, giveBlocks_eq]
      exact congrArg Memo.latest hp
    · exact congrArg Memo.latest hp
  · exact congrArg Memo.latest hp

/-- A shot that the tests free: its entry is FREE and its blocks are at the free list's tail (R18). -/
theorem shotTests_freed {n : Nat} {x : Shot} (hx : s.held n = some x) (hf : x.freeable = true) (hr : s.recordsInto n = false) :
    ∃ m c, shotTests n s = { s with
      ss := { s.ss with
        free := s.ss.free ++ x.proofBack ++ x.tested.blocks, table := updateFirst (isHeld n) (fun _ => {}) s.ss.table }
      mi := m, cp := c } := by
  have ht : isHeld n x.tested = true := (find_mem (held_proofTest hx)).2
  have e : shotTests n s = abortArmed n ((proofTest n s).freed n x.tested) :=
    freeTest_frees (held_proofTest hx) ((tested_freeable x).trans hf) (by rw [proofTest_eq hx]; exact hr)
  obtain ⟨m, c, ea⟩ := abortArmed_eq n ((proofTest n s).freed n x.tested)
  refine ⟨m, c, ?_⟩
  rw [e, ea, State.freed, proofTest_eq hx]
  dsimp only
  rw [updateFirst_twice hx (f := fun _ => x.tested) ht]

section
variable (he : s.ss.table.find? isLanding = some e) (hno : ∀ x ∈ s.ss.table, x.state = .held → x.number ≠ e.number)

theorem tested_turned (x : Shot) : Shot.Turned x x.tested := by
  unfold Shot.tested
  split
  · exact .of_same
  · exact .refl x

include he in
theorem landShot_eq_out : ∃ ss m c, landShot k s = { s.landedOut k e with ss := ss, mi := m, cp := c } := by
  rw [landShot_out he]
  exact shotTests_eq _ _

include he hno in
theorem landShot_latest : (landShot k s).mi.latest = some e.number := by
  rw [landShot_out he, shotTests_latest]
  exact landedOut_latest he hno

include he in
theorem landShot_serves : Serves true (s.landed k e) (landShot k s) := by
  rw [landShot_out he]
  exact shotTests_serves (foldl_serves _ (fun _ _ => handDuty_serves) _ .refl)

include he hno in
/-- A shot that lands with a duty, KEEP, a pin or a memo recording into it stays, with the record of its landing. -/
theorem landShot_stays (h : s.landsWith e ≠ [] ∨ e.keep = true ∨ e.pins ≠ [] ∨ s.recordsInto e.number = true) :
    ∃ y, (landShot k s).held e.number = some y ∧ Shot.Turned (s.landsAs k e) y := by
  obtain ⟨y, hy, ht, hp⟩ := landedOut_shot (k := k) he hno
  have hstands : y.freeable = false ∨ (s.landedOut k e).recordsInto e.number = true := by
    by_cases hne : s.landsWith e = []
    · rw [landedOut_nil hne] at hy ⊢
      rw [held_landed he hno] at hy
      cases hy
      rcases h with h | h | h | h
      · exact absurd hne h
      · left
        have hkeep : (landedRecord k (applyAtLanding s) e).keep = true := h
        unfold Shot.freeable
        rw [hkeep, Bool.not_true, Bool.and_false]
      · left
        have hpins : (landedRecord k (applyAtLanding s) e).pins.isEmpty = false := by
          show e.pins.isEmpty = false
          simpa [List.isEmpty_iff] using h
        unfold Shot.freeable
        rw [hpins, Bool.and_false, Bool.false_and]
      · exact .inr h
    · exact .inl (hp hne).not_freeable
  rw [landShot_out he]
  exact ⟨_, (shotTests_stands hy hstands).1, ht.trans (tested_turned y)⟩

include he hno in
/-- A shot that lands with nothing to hold it is freed at once (R18). -/
theorem landShot_frees (hd : s.landsWith e = []) (hk : e.keep = false) (hp : e.pins = []) (hr : s.recordsInto e.number = false) :
    (landShot k s).held e.number = none
    ∧ (e.proof = none → e.memo = none → (landShot k s).ss.free = s.ss.free ++ e.raw)
    ∧ (landShot k s).ss.table = updateFirst isLanding (fun _ => {}) s.ss.table := by
  have hheld := held_landed (k := k) he hno
  have hduties : (landedRecord k (applyAtLanding s) e).duties = [] :=
    List.map_eq_nil_iff.2 hd
  have hfree : (landedRecord k (applyAtLanding s) e).freeable = true := by
    have hkeep : (landedRecord k (applyAtLanding s) e).keep = false := hk
    have hpins : (landedRecord k (applyAtLanding s) e).pins = [] := hp
    unfold Shot.freeable
    rw [hduties, hkeep, hpins]
    rfl
  have hno' : ∀ y ∈ s.ss.table, isHeld e.number y = false := fun y hy => by
    cases h : isHeld e.number y with
    | false => rfl
    | true => exact absurd (isHeld_iff.1 h).2 (hno y hy (isHeld_iff.1 h).1)
  obtain ⟨m, c, eq⟩ := shotTests_freed hheld hfree (show (s.landed k e).recordsInto e.number = false from hr)
  have htable : (landShot k s).ss.table = updateFirst isLanding (fun _ => {}) s.ss.table := by
    rw [landShot_out he, landedOut_nil hd, eq]
    exact updateFirst_new he (by simp [isHeld, landedRecord]) hno' (fun _ => {})
  refine ⟨?_, fun h1 h2 => ?_, htable⟩
  · unfold State.held
    rw [htable]
    obtain ⟨l1, l2, hl, -, -, h2⟩ := updateFirst_some he
    rw [h2]
    refine List.find?_eq_none.2 (fun y hy hh => ?_)
    rcases List.mem_append.1 hy with hy | hy
    · exact Bool.false_ne_true ((hno' y (hl ▸ List.mem_append_left _ hy)).symm.trans hh)
    · rcases List.mem_cons.1 hy with rfl | hy
      · simp [isHeld] at hh
      · exact Bool.false_ne_true ((hno' y (hl ▸ List.mem_append_right _ (List.mem_cons_of_mem _ hy))).symm.trans hh)
  · rw [landShot_out he, landedOut_nil hd, eq]
    have hproof : (landedRecord k (applyAtLanding s) e).proof = none := h1
    have hmemo : (landedRecord k (applyAtLanding s) e).memo = none := h2
    have hrel : (landedRecord k (applyAtLanding s) e).proofReleasable = false := by
      unfold Shot.proofReleasable
      rw [hproof]
      rfl
    show s.ss.free ++ _ ++ _ = _
    unfold Shot.proofBack Shot.tested Shot.blocks
    rw [hrel]
    simp only [Bool.false_eq_true, if_false, hproof, hmemo, Option.map_none, Option.getD_none, List.append_nil]
    rfl

include he hno in
theorem landShot_turned {u : Shot} (hu : (landShot k s).held e.number = some u) : Shot.Turned (s.landsAs k e) u := by
  by_cases h : s.landsWith e ≠ [] ∨ e.keep = true ∨ e.pins ≠ [] ∨ s.recordsInto e.number = true
  · obtain ⟨y, hy, ht⟩ := landShot_stays (k := k) he hno h
    rw [hu] at hy
    cases hy
    exact ht
  · simp only [not_or, not_not, Bool.not_eq_true] at h
    obtain ⟨hd, hk, hp, hr⟩ := h
    rw [(landShot_frees he hno hd hk hp hr).1] at hu
    cases hu

end

/-- Where the switch is clear behind it, a landed shot's duties are those of the plans. -/
theorem landShot_keys (he : s.ss.table.find? isLanding = some e) (hno : ∀ x ∈ s.ss.table, x.state = .held → x.number ≠ e.number)
    (ho : (landShot k s).cw.overflow = false) {u : Shot} (hu : (landShot k s).held e.number = some u) :
    u.duties.map (·.key) = s.landsWith e := by
  have ho' : (s.landedOut k e).cw.overflow = false := by
    obtain ⟨ss, m, c, eq⟩ := landShot_eq_out (k := k) he
    rw [eq] at ho
    exact ho
  have hk := landedOut_keys he hno ho'
  obtain ⟨y, hy, -, -⟩ := landedOut_shot (k := k) he hno
  unfold State.keysOf at hk
  rw [hy] at hk
  have hyk : y.duties.map (·.key) = s.landsWith e := Option.some.inj hk
  rw [landShot_out he] at hu
  by_cases hs : y.freeable = false ∨ (s.landedOut k e).recordsInto e.number = true
  · rw [(shotTests_stands hy hs).1] at hu
    cases hu
    rw [← hyk]
    unfold Shot.tested
    split <;> rfl
  · simp only [not_or, Bool.not_eq_false, Bool.not_eq_true] at hs
    by_cases hne : s.landsWith e = []
    · have := landShot_turned (k := k) he hno (by rw [landShot_out he]; exact hu)
      have hlen := this.duties.length_eq
      have hnil : (s.landsAs k e).duties = [] := List.map_eq_nil_iff.2 hne
      rw [hnil] at hlen
      rw [hne, List.length_eq_zero_iff.1 hlen.symm]
      rfl
    · obtain ⟨z, hz, -, hp⟩ := landedOut_shot (k := k) he hno
      rw [hy] at hz
      cases hz
      rw [(hp hne).not_freeable] at hs
      exact absurd hs.1 Bool.false_ne_true

/-! ## The frame that closes with a landing -/

/-- The reservation that the end of a burst gives back at the close of a frame (R64). -/
def State.returnedAtClose (s : State) : Option Shot := if s.rtu.phase = .stopping then s.ss.table.find? isClaimed else none

/-- The close of a frame that landed counts it, and the unit waits for the next one, or in STOPPING the burst ends (R64). -/
theorem closeFrame_landed (s : State) :
    let t := closeFrame true s
    t = { s with rtu := t.rtu, ss := { s.ss with request := t.ss.request, free := t.ss.free, table := t.ss.table }, cp := t.cp }
    ∧ t.rtu.burst = s.rtu.burst.map (fun b => { b with landed := b.landed + 1 })
    ∧ (s.rtu.phase = .exposing ∨ s.rtu.phase = .reading → t.rtu.phase = .waiting ∧ t.rtu.readyFrom = s.time)
    ∧ (s.rtu.phase = .stopping → t.rtu.phase = .idle ∧ t.ss.request = none
      ∧ ∀ b, t.rtu.burst = some b → t.TellsEnd b (b.ending.getD .count).name)
    ∧ t.ss.free = s.ss.free ++ (s.returnedAtClose.map (·.raw)).getD []
    ∧ t.ss.table = (if s.returnedAtClose.isSome then updateFirst isClaimed (fun _ => {}) s.ss.table else s.ss.table) := by
  intro t
  set u : State := modBurst (fun b => { b with landed := b.landed + 1 }) s with hu
  have ht : t = (match s.rtu.phase with
      | .exposing | .reading => enterWaiting u
      | .stopping => finishBurst ((u.rtu.burst.bind (·.ending)).getD .count) u
      | _ => u) := rfl
  have hback : s.rtu.phase ≠ .stopping → s.returnedAtClose = none := fun h => if_neg h
  rw [ht]
  cases hp : s.rtu.phase with
  | idle | waiting =>
    rw [hback (by rw [hp]; decide)]
    exact ⟨rfl, rfl, by simp, by simp, (List.append_nil _).symm, rfl⟩
  | exposing | reading =>
    rw [hback (by rw [hp]; decide)]
    dsimp only
    rw [enterWaiting_eq]
    exact ⟨rfl, rfl, fun _ => ⟨rfl, rfl⟩, by simp, (List.append_nil _).symm, rfl⟩
  | stopping =>
    have hclaimed : s.returnedAtClose = s.ss.table.find? isClaimed := if_pos hp
    obtain ⟨c, ef, hend, -⟩ := finishBurst_eq ((u.rtu.burst.bind (·.ending)).getD .count) u
    have hburst : (finishBurst ((u.rtu.burst.bind (·.ending)).getD .count) u).rtu.burst = u.rtu.burst := by rw [ef]; rfl
    rw [hclaimed]
    refine ⟨by rw [ef]; rfl, hburst, by simp, fun _ => ⟨by rw [ef]; rfl, by rw [ef]; rfl, fun b hb => ?_⟩, by rw [ef]; rfl, ?_⟩
    · have hb' : u.rtu.burst = some b := hburst.symm.trans hb
      have := hend b hb'
      rw [hb', Option.bind_some] at this ⊢
      exact this
    · rw [ef]
      cases hc : s.ss.table.find? isClaimed with
      | some x => rfl
      | none => exact updateFirst_none hc

/-- The HELD shots are found as before when a frame closes. -/
theorem held_closeFrame (n : Nat) (s : State) : (closeFrame true s).held n = s.held n := by
  obtain ⟨-, -, -, -, -, htable⟩ := closeFrame_landed s
  unfold State.held
  rw [htable]
  split
  · refine find_updateOther (fun x hx => ?_)
    have := (find_mem hx).2
    simp only [isClaimed, Bool.and_eq_true, beq_iff_eq] at this
    rw [this.1]
    decide
  · rfl

end Sys2Proof.Machine
end

section
/-! The statement on a shot that lands (R10, R37, R43, R64). -/

namespace Sys2Proof.Machine

set_option Elab.async false

open Sys2Proof

variable {a s t : State} {k : Planes} {e : Shot} {r : Readout}

/-! ## The readout that closes -/

/-- The port as a silence leaves it: no unit in hand (R37). -/
def State.atClose (s : State) (c : Instr) : State :=
  if c = .readoutEnd then s else { s with sp := { s.sp with unitOpen := false, assembly := [], turn := 0 } }

/-- END words, and a silence with no unit in hand, close the SHOT readout in progress (R34, R37). -/
theorem exec_closes {c : Instr} (hc : (c = .readoutEnd ∧ s.stopReady = true) ∨ (c = .readoutSilence ∧ s.silent = true ∧ s.sp.unitOpen = false))
    (hr : s.sp.reading = .active r) (hk : r.kind = .shot) :
    ∃ q, exec c s = .next { closeReadout r (s.atClose c) with sp := q } ∧ q.reading = .between := by
  rcases hc with ⟨rfl, hstop⟩ | ⟨rfl, hsilent, hopen⟩
  · obtain ⟨q, hq, hre⟩ := pump_dropItem (closeReadout r s)
    refine ⟨q, ?_, hre.reading.trans (by rw [closeReadout_sp])⟩
    simp only [exec, execReadoutEnd, hstop, if_true, takeStop, hr]
    rw [hq]
    rfl
  · refine ⟨(closeReadout r (s.atClose .readoutSilence)).sp, ?_, by rw [closeReadout_sp]⟩
    have htest : s.inTest = false := by
      unfold State.inTest
      rw [hr]
      dsimp only
      rw [hk]
      decide
    simp only [exec, execReadoutSilence, hsilent, if_true]
    unfold closeSilent
    simp only [htest, Bool.false_eq_true, if_false, hopen, Bool.false_and, modSensor_sp, hr]
    rfl

/-- The means of a readout that closes (R39, R45). -/
def Readout.closingMeans (r : Readout) (s : State) : Planes :=
  if r.blackOpen then meansOf s.cfg.capture.fixedBlack s.sp.accums else r.means

theorem closeBlack_eq (r : Readout) (s : State) : closeBlack r s = { r with blackOpen := false, means := r.closingMeans s } := by
  unfold closeBlack Readout.closingMeans
  cases h : r.blackOpen with
  | true => rfl
  | false => exact congrArg (fun b => { r with blackOpen := b }) h

/-- The state with the lines owed substituted and the readout over (R37). -/
def State.filled (s : State) (r : Readout) : State :=
  substituteRange (r.closingMeans s) r.nextImage s.cfg.capture.height { s with sp := { s.sp with reading := .between } }

/-- The rows that were never handed (R46). -/
def Readout.missing (r : Readout) : List Nat := (List.range 11).filter (fun k => !r.phaseSeen.contains k)

/-- The state with those rows handed as damaged besides. -/
def State.handed (s : State) (r : Readout) : State :=
  if r.np = 0 then s.filled r else r.missing.foldl (fun u k => handRow k none u) (s.filled r)

theorem closeReadout_shot (hk : r.kind = .shot) (s : State) :
    closeReadout r s = closeFrame true (landShot (r.closingMeans s) (s.handed r)) := by
  unfold closeReadout
  rw [hk, closeBlack_eq]
  rfl

theorem handed_aside (s : State) (r : Readout) : Aside (s.filled r) (s.handed r) :=
  handMissing_aside (r := r) (.refl (s.filled r))

theorem handed_power (s : State) (r : Readout) : (s.handed r).cp.power = (s.filled r).cp.power :=
  (handMissing_keeps (r := r) (.refl (s.filled r))).power

/-- The lines that are owed (R43). -/
def State.owed (s : State) (r : Readout) : List Nat := (List.range s.cfg.capture.height).drop r.nextImage

/-- The record of the LANDING shot with the lines owed counted. -/
def State.damagedBy (s : State) (r : Readout) (e : Shot) : Shot := { e with damaged := e.damaged + (s.owed r).length }

theorem filled_eq (he : s.ss.table.find? isLanding = some e) : s.filled r = { s with
    sp := { s.sp with reading := .between }
    mem := (s.owed r).foldl (fillLine e.raw s.cfg.capture (r.closingMeans s)) s.mem
    ss := { s.ss with table := updateFirst isLanding (fun _ => s.damagedBy r e) s.ss.table } } :=
  substitute_foldl _ (s := { s with sp := { s.sp with reading := .between } }) he

/-- The state before the landing differs in the bytes, the shot's count, and what handing the rows leaves. -/
theorem handed_eq (he : s.ss.table.find? isLanding = some e) : s.handed r = { s with
    sp := { s.sp with reading := .between }
    mem := (s.owed r).foldl (fillLine e.raw s.cfg.capture (r.closingMeans s)) s.mem
    ss := { s.ss with table := updateFirst isLanding (fun _ => s.damagedBy r e) s.ss.table }
    fe := (s.handed r).fe, lp := (s.handed r).lp, cp := (s.handed r).cp
    rtu := { s.rtu with ready := (s.handed r).rtu.ready } } := by
  have h := (handed_aside s r).eq
  rw [filled_eq he] at h
  exact h

theorem landing_handed (he : s.ss.table.find? isLanding = some e) :
    (s.handed r).ss.table.find? isLanding = some (s.damagedBy r e) := by
  rw [handed_eq he]
  exact find_updateFirst he (f := fun _ => s.damagedBy r e) (find_mem he).2

theorem not_held_handed (he : s.ss.table.find? isLanding = some e)
    (hno : ∀ x ∈ s.ss.table, x.state = .held → x.number ≠ e.number) :
    ∀ x ∈ (s.handed r).ss.table, x.state = .held → x.number ≠ (s.damagedBy r e).number := by
  rw [handed_eq he]
  intro x hx hs
  obtain ⟨l1, l2, hl, -, hp, h2⟩ := updateFirst_some he
  have hx' : x ∈ updateFirst isLanding (fun _ => s.damagedBy r e) s.ss.table := hx
  rw [h2] at hx'
  rcases List.mem_append.1 hx' with hm | hm
  · exact hno x (hl ▸ List.mem_append_left _ hm) hs
  · rcases List.mem_cons.1 hm with rfl | hm
    · have : e.state = .landing := by simpa [isLanding] using hp
      have hs' : e.state = .held := hs
      rw [this] at hs'
      cases hs'
    · exact hno x (hl ▸ List.mem_append_right _ (List.mem_cons_of_mem _ hm)) hs

/-! ## The statement -/

/-- The state as a landing applies the plans and the recipe (R10, R119, R153, R205). -/
theorem applyAtLanding_handed (he : s.ss.table.find? isLanding = some e) :
    (applyAtLanding (s.handed r)).cfg = (s.waiting.filter (fun w => w.1.group == .plans)).foldl (fun c w => c.apply w.1 w.2) s.cfg
    ∧ (applyAtLanding (s.handed r)).waiting = s.waiting.filter (fun w => w.1.group != .plans)
    ∧ (applyAtLanding (s.handed r)).cw.overflow = (s.cw.overflow && !s.waiting.any (fun w => w.1 == .cardPlan))
    ∧ (applyAtLanding (s.handed r)).de = { s.de with recipe := s.de.selected.getD s.de.recipe, selected := none } := by
  rw [handed_eq he]
  refine ⟨rfl, rfl, ?_, rfl⟩
  show (if s.cardPlanWaits then false else s.cw.overflow) = _
  unfold State.cardPlanWaits
  cases s.waiting.any (fun w => w.1 == .cardPlan) <;> simp

/-- Settles O33. -/
theorem shotLands : Obligations.ShotLands := by
  intro c r e s hc hr hk he hno
  obtain ⟨q, hexec, hbetween⟩ := exec_closes hc hr hk
  refine ⟨_, hexec, ?_⟩
  rw [closeReadout_shot hk]
  obtain ⟨p, hz, hacc⟩ : ∃ p, s.atClose c = { s with sp := p } ∧ p.accums = s.sp.accums := by
    unfold State.atClose
    split
    · exact ⟨s.sp, rfl, rfl⟩
    · exact ⟨_, rfl, rfl⟩
  have hs0 : (if c = .readoutEnd then s else { s with sp := { s.sp with unitOpen := false, assembly := [], turn := 0 } })
      = ({ s with sp := p } : State) := hz
  rw [hz, hs0]
  set z : State := { s with sp := p } with hzdef
  have hmeans : r.closingMeans z = if r.blackOpen then meansOf s.cfg.capture.fixedBlack s.sp.accums else r.means := by
    unfold Readout.closingMeans
    rw [show z.sp.accums = s.sp.accums from hacc]
  have hez : z.ss.table.find? isLanding = some e := he
  have hMe := landing_handed (r := r) hez
  have hMno := not_held_handed (r := r) hez hno
  obtain ⟨hcfg, hwaiting, hover, hde⟩ := applyAtLanding_handed (r := r) hez
  have hM := handed_eq (r := r) hez
  have hfe : (z.handed r).fe = if r.np = 0 then s.fe else (r.missing.foldl (fun u k => handRow k none u) (z.filled r)).fe := by
    unfold State.handed
    split
    · rw [filled_eq hez]
    · rfl
  have hpower : (z.handed r).cp.power = s.cp.power := by
    rw [handed_power, filled_eq hez]
  have hstays := landShot_stays (k := r.closingMeans z) hMe hMno
  have hfrees := landShot_frees (k := r.closingMeans z) hMe hMno
  have hturned := fun u => landShot_turned (k := r.closingMeans z) (u := u) hMe hMno
  have hlatest := landShot_latest (k := r.closingMeans z) hMe hMno
  have hU := (landShot_serves (k := r.closingMeans z) hMe).eq
  obtain ⟨ss, mi, cp, hout⟩ := landShot_eq_out (k := r.closingMeans z) hMe
  obtain ⟨hF, hburst, hwait, hstop, hfree, htable⟩ := closeFrame_landed (landShot (r.closingMeans z) (z.handed r))
  have hheld := held_closeFrame e.number (landShot (r.closingMeans z) (z.handed r))
  have hsame := fun ho u => landShot_keys (k := r.closingMeans z) (u := u) hMe hMno ho
  generalize landShot (r.closingMeans z) (z.handed r) = U at *
  have hT : (closeFrame true U).cfg = (applyAtLanding (z.handed r)).cfg := (congrArg State.cfg hF).trans (by rw [hU]; rfl)
  have hUde : U.de = _ := (congrArg State.de hout).trans (landedOut_engine hMe hMno)
  have hUphase : U.rtu.phase = s.rtu.phase := by rw [hU]; exact congrArg (·.rtu.phase) hM
  have hUburst : U.rtu.burst = s.rtu.burst := by rw [hU]; exact congrArg (·.rtu.burst) hM
  intro cap black n owed s0 filled missing urgent moved proofs cards sends built develops plan records returned
  have hcards : cards = (applyAtLanding (z.handed r)).cfg.plans.cardDuties (applyAtLanding (z.handed r)).cw.overflow := by
    show (match (closeFrame true U).cfg.plans.card with
      | .off => [] | .singleA => _ | .mirror => _ | .overflow => _ | .split => _) = _
    simp only [proofs]
    rw [hT, hover]
    unfold PlansCfg.cardDuties
    cases (applyAtLanding (z.handed r)).cfg.plans.card with
    | off | singleA | split => rfl
    | mirror => rfl
    | overflow =>
      show (if moved = true then _ else _) = _
      cases hm : moved with
      | true => rw [show (s.cw.overflow && !s.waiting.any (fun w => w.1 == .cardPlan)) = true from hm]; rfl
      | false => rw [show (s.cw.overflow && !s.waiting.any (fun w => w.1 == .cardPlan)) = false from hm]; rfl
  have hsends : sends = (applyAtLanding (z.handed r)).cfg.plans.sends e.markPending := by
    show (match (closeFrame true U).cfg.plans.tether with
      | .none => [] | .urgentProof => _ | .allProof => _ | .urgentRaw => _ | .urgentBoth => _) = _
    rw [hT]
    rfl
  have hbuilt : built = (applyAtLanding (z.handed r)).cfg.plans.cardDuties (applyAtLanding (z.handed r)).cw.overflow
      ++ ((applyAtLanding (z.handed r)).cfg.plans.sends e.markPending).map DutyKey.send := by
    show cards ++ sends.map DutyKey.send = _
    rw [hcards, hsends]
  have hdevelops : develops ↔ (z.handed r).landsDevelop (z.damagedBy r e) = true := by
    show (_ ∈ built ∨ _ ∈ built ∨ _ ∈ built ∨ (closeFrame true U).cfg.plans.develop = _ ∨ ((closeFrame true U).cfg.plans.develop = _ ∧ _))
      ↔ (applyAtLanding (z.handed r)).cfg.plans.landsDevelop (applyAtLanding (z.handed r)).cw.overflow e.markPending = true
    rw [landsDevelop_iff, hbuilt, hT]
  have hplan : plan = (z.handed r).landsWith (z.damagedBy r e) := by
    show (built ++ if develops then [.develop] else []) = _
    rw [landsWith_eq]
    exact congrArg₂ (· ++ ·) hbuilt (if_congr hdevelops rfl rfl)
  have hblack : black = r.closingMeans z := hmeans.symm
  have hfilled : filled = z.filled r := by
    show substituteRange black _ _ _ = _
    rw [hblack]
    rfl
  have hcw : (z.handed r).cw = s.cw := by rw [hM]
  have htp : (z.handed r).tp = s.tp := by rw [hM]
  have hdeq : (z.handed r).de = s.de := by rw [hM]
  have hrecords : records ↔ (z.handed r).recordsInto e.number = true := by
    show (s.mi.phase = .recording ∧ ∃ m, s.mi.current = some m ∧ m.shot = e.number) ↔ _
    unfold State.recordsInto
    rw [hM]
    cases s.mi.current <;> simp [hzdef]
  refine ⟨?_, ?_, hbetween, ?_, ?_, hT.trans hcfg, ?_, ?_, ?_, ?_, ?_, ?_, ?_, ?_, ?_, ?_, ?_, ?_⟩
  · show (closeFrame true U).mem = List.foldl (fillLine e.raw cap black) s.mem owed
    rw [hF, hblack]
    show U.mem = _
    rw [hU]
    exact congrArg State.mem hM
  · show (closeFrame true U).fe = if r.np = 0 then s.fe else (List.foldl _ filled missing).fe
    rw [hF, hfilled]
    show U.fe = _
    rw [hU]
    exact hfe
  · show (closeFrame true U).ss.lastLanded = _
    rw [hF]
    show U.ss.lastLanded = _
    rw [hU]
    rfl
  · show (closeFrame true U).mi.latest = _
    rw [hF]
    exact hlatest
  · show (closeFrame true U).waiting = _
    rw [hF]
    show U.waiting = _
    rw [hU]
    exact hwaiting
  · show (closeFrame true U).de.recipe = _
    rw [hF]
    show U.de.recipe = _
    rw [hUde]
    split <;> exact congrArg Develop.recipe hde
  · show (closeFrame true U).de.selected = _
    rw [hF]
    show U.de.selected = _
    rw [hUde]
    split <;> exact congrArg Develop.selected hde
  · exact hburst.trans (by rw [hUburst])
  · intro hph
    obtain ⟨h1, h2⟩ := hwait (by rw [hUphase]; exact hph)
    have htime : (z.handed r).time = s.time := by rw [hM]
    refine ⟨h1, h2.trans ?_⟩
    rw [hU]
    exact htime
  · intro hph
    obtain ⟨h1, h2, h3⟩ := hstop (by rw [hUphase]; exact hph)
    refine ⟨h1, h2, fun b hb => ?_⟩
    have := h3 b hb
    cases hend : b.ending <;> rw [hend] at this <;> exact this
  · intro hnil hkeep hpins hrec hproof hmemo
    have hr' : (z.handed r).recordsInto e.number = false := by
      rw [← Bool.not_eq_true, ← hrecords]
      exact hrec
    obtain ⟨hnone, hback, htab⟩ := hfrees (hplan ▸ hnil) hkeep hpins hr'
    have hl : U.ss.table = updateFirst isLanding (fun _ => {}) s.ss.table := by
      rw [htab, hM]
      exact updateFirst_twice he (f := fun _ => z.damagedBy r e) (find_mem he).2
    have hreturned : U.returnedAtClose = returned := by
      show (if U.rtu.phase = .stopping then U.ss.table.find? isClaimed else none) = if s.rtu.phase = .stopping then _ else _
      rw [hUphase, hl, claimed_clear_landing]
    refine ⟨hheld.trans hnone, ?_, ?_⟩
    · refine hfree.trans ?_
      rw [hback hproof hmemo, hreturned, hM]
      rfl
    · refine htable.trans ?_
      rw [hreturned, hl]
      split
      · exact clear_comm (fun x hx => by
          cases h : isLanding x with
          | false => rfl
          | true => rw [claimed_not_landing x h] at hx; cases hx) rfl rfl _
      · rfl
  · intro h
    obtain ⟨y, hy, -⟩ := hstays (by
      rcases h with h | h | h | h
      · exact .inl (hplan ▸ h)
      · exact .inr (.inl h)
      · exact .inr (.inr (.inl h))
      · exact .inr (.inr (.inr (hrecords.1 h))))
    show ((closeFrame true U).held e.number).isSome = true
    rw [hheld]
    exact Option.isSome_iff_exists.2 ⟨y, hy⟩
  · intro hov hmoved hq sl
    have hUcw : U.cw = ((z.handed r).landedOut (r.closingMeans z) (z.damagedBy r e)).cw := by rw [hout]
    have htcw : (closeFrame true U).cw = U.cw := by rw [hF]
    have hov' : (closeFrame true U).cw.overflow = (applyAtLanding (z.handed r)).cw.overflow := hov.trans hover.symm
    rw [htcw, hUcw] at hov'
    have hsl : (closeFrame true U).slot sl = ((z.handed r).landedOut (r.closingMeans z) (z.damagedBy r e)).slot sl :=
      slot_congr (htcw.trans hUcw)
    have hm : (applyAtLanding (z.handed r)).cw.overflow = true → (applyAtLanding (z.handed r)).cfg.plans.card = .overflow := by
      intro h
      refine (congrArg (·.plans.card) hT).symm.trans (hmoved.resolve_left ?_)
      rw [show moved = _ from hover.symm, h]
      decide
    have key := landedOut_cards (k := r.closingMeans z) hMe hMno hov' hm
      (fun x hx => hq x _ (by rw [← slot_congr hcw]; exact hx) rfl) sl
    rw [slot_congr hcw] at key
    show ((closeFrame true U).slot sl).queue = _
    rw [hsl, key, hcards]
    rfl
  · intro hq hp
    have hUtp : (closeFrame true U).tp = ((z.handed r).landedOut (r.closingMeans z) (z.damagedBy r e)).tp := by rw [hF, hout]
    obtain ⟨hroom, hfull, hsorted⟩ :=
      landedOut_sends (k := r.closingMeans z) hMe hMno (hpower.trans hp) (by rw [htp]; exact hq)
    rw [← hUtp, htp] at hroom hfull
    rw [← hUtp, htp] at hsorted
    have hjoined := joined_eq e.number e.markPending ((applyAtLanding (z.handed r)).cfg.plans.sends e.markPending) s.tp.nextOrder 0
    rw [Nat.cast_zero, add_zero] at hjoined
    rw [hsends]
    exact ⟨fun h => ⟨(hroom h).1, hjoined ▸ (hroom h).2⟩, hfull, hsorted⟩
  · intro hq hh
    show if develops then (closeFrame true U).de.queue.Perm _ ∧ (closeFrame true U).de.queue.Pairwise _ else (closeFrame true U).de.queue = _
    have hq' : s.de.queue.filter (fun y => y.shot != e.number) = s.de.queue :=
      List.filter_eq_self.2 (fun y hy => by simpa using hq y hy)
    have htde : (closeFrame true U).de = U.de := by rw [hF]
    rw [htde, hUde, hdeq]
    by_cases hd : develops
    · rw [if_pos hd, if_pos ⟨hdevelops.1 hd, hh⟩]
      have hq2 : s.de.queue.filter (fun y => y.shot != (z.damagedBy r e).number) = s.de.queue := hq'
      rw [hq2]
      exact ⟨sortDevelop_perm _, sortDevelop_pairwise _⟩
    · rw [if_neg hd, if_neg (fun c => hd (hdevelops.2 c.1))]
      exact (congrArg Develop.queue hde).trans rfl
  · intro u hu
    have ht := hturned u (hheld.symm.trans hu)
    rw [show u = _ from ht.eq]
    have hlen := ht.duties.length_eq
    have hkeys : ((z.handed r).landsAs (r.closingMeans z) (z.damagedBy r e)).duties = plan.map (fun k => { key := k, urgent := urgent }) := by
      rw [hplan]
      rfl
    rw [hkeys, List.length_map] at hlen
    refine ⟨hblack.symm, ?_, ?_, rfl, rfl, rfl, rfl, hlen.symm, fun i d hd => ?_⟩
    · show (applyAtLanding (z.handed r)).cfg.plans.standing = (closeFrame true U).cfg.plans.standing
      rw [hT]
    · show (applyAtLanding (z.handed r)).de.recipe = (closeFrame true U).de.recipe
      rw [hF]
      show _ = U.de.recipe
      rw [hUde]
      split <;> rfl
    · obtain ⟨hlt, hget⟩ := List.getElem?_eq_some_iff.1 hd
      have hlt' : i < plan.length := hlen ▸ hlt
      obtain ⟨hs, hu', hkey⟩ := (List.forall₂_iff_get.1 ht.duties).2 i (by rw [hkeys, List.length_map]; exact hlt') hlt
      have hplanned : ((z.handed r).landsAs (r.closingMeans z) (z.damagedBy r e)).duties.get ⟨i, by rw [hkeys, List.length_map]; exact hlt'⟩
          = { key := plan[i], urgent := urgent } := by
        simp [hkeys]
      rw [hplanned] at hs hu' hkey
      have hd' : u.duties.get ⟨i, hlt⟩ = d := hget
      rw [hd'] at hs hu' hkey
      refine ⟨hs, hu', plan[i], List.getElem?_eq_getElem hlt', ?_⟩
      cases hov : (closeFrame true U).cw.overflow with
      | true => exact hkey.imp_right (fun h => ⟨rfl, h⟩)
      | false =>
        left
        have hoU : U.cw.overflow = false := by
          rw [hF] at hov
          exact hov
        have hget' : (u.duties.map (·.key))[i]? = some d.key := by
          rw [List.getElem?_map, show u.duties[i]? = some d from hd]
          rfl
        rw [hsame hoU u (hheld.symm.trans hu), ← hplan, List.getElem?_eq_getElem hlt'] at hget'
        exact (Option.some.inj hget').symm

end Sys2Proof.Machine
end

section
/-! A duty put into a shot's list and handed out, and the DEVELOP duty that a proof calls for (R14, R121, R164, R181). -/

namespace Sys2Proof.Machine

set_option Elab.async false

open Sys2Proof

variable {a s t v : State} {n : Nat} {h x y : Shot} {k j : DutyKey} {f : FileKind} {b : Bool}

/-! ## A duty put into a record -/

/-- A duty as a put leaves it: new, or set back. -/
def putBack (k : DutyKey) (b : Bool) : Option Duty → Duty
  | none => { key := k, urgent := b }
  | some d => { d.into .pending with resume := 0, outcome := none, urgent := d.urgent || b }

/-- A record with a duty added PENDING, or set back to PENDING. -/
def Shot.put (k : DutyKey) (b : Bool) (x : Shot) : Shot :=
  match x.dutyState k with
  | none => { x with duties := x.duties ++ [{ key := k, urgent := b }] }
  | some _ => x.setDuty k (fun d => putBack k b (some d))

theorem dutyState_eq_none : x.dutyState k = none ↔ x.duty k = none := by
  unfold Shot.dutyState
  exact Option.map_eq_none_iff

theorem duty_setDuty {g : Duty → Duty} (hg : ∀ d, (g d).key = d.key) (j : DutyKey) :
    (x.setDuty k g).duty j = if j = k then (x.duty k).map g else x.duty j := by
  have hk : ∀ d : Duty, (if d.key == k then g d else d).key = d.key := by
    intro d
    split
    · exact hg d
    · rfl
  unfold Shot.setDuty Shot.duty
  rw [find_mapDuty hk]
  by_cases e : j = k
  · subst e
    rw [if_pos rfl]
    cases hd : x.duties.find? (fun d => d.key == j) with
    | none => rfl
    | some d => exact congrArg some (if_pos (List.find?_some hd))
  · rw [if_neg e]
    cases hd : x.duties.find? (fun d => d.key == j) with
    | none => rfl
    | some d =>
      have hdj : d.key = j := eq_of_beq (List.find?_some (p := fun d : Duty => d.key == j) hd)
      refine congrArg some (if_neg ?_)
      rw [hdj, beq_iff_eq]
      exact e

theorem putBack_key (d : Duty) : (putBack k b (some d)).key = d.key := rfl

theorem putBack_state (o : Option Duty) : (putBack k b o).state = .pending := by cases o <;> rfl

theorem putBack_urgent (o : Option Duty) : (putBack k b o).urgent = ((o.map (·.urgent)).getD false || b) := by cases o <;> rfl

theorem duty_append (d : Duty) (hd : x.duty d.key = none) (j : DutyKey) :
    ({ x with duties := x.duties ++ [d] } : Shot).duty j = if j = d.key then some d else x.duty j := by
  unfold Shot.duty at *
  rw [List.find?_append]
  by_cases e : j = d.key
  · subst e
    rw [hd, Option.none_or, if_pos rfl]
    simp
  · have hne : (d.key == j) = false := beq_eq_false_iff_ne.2 (Ne.symm e)
    rw [if_neg e]
    simp [hne]

/-- A duty after a put: PENDING, and the others as they were. -/
theorem duty_put (j : DutyKey) : (x.put k b).duty j = if j = k then some (putBack k b (x.duty k)) else x.duty j := by
  unfold Shot.put
  cases hd : x.dutyState k with
  | none =>
    have hn := dutyState_eq_none.1 hd
    rw [hn]
    exact duty_append { key := k, urgent := b } hn j
  | some st =>
    obtain ⟨d, hd, -⟩ := Option.map_eq_some_iff.1 hd
    have := duty_setDuty (x := x) (k := k) (g := fun d => putBack k b (some d)) (fun d => rfl) j
    refine this.trans ?_
    rw [show x.duty k = some d from hd]
    rfl

theorem dutyState_put (j : DutyKey) : (x.put k b).dutyState j = if j = k then some .pending else x.dutyState j := by
  unfold Shot.dutyState
  rw [duty_put]
  split
  · rw [Option.map_some, putBack_state]
  · rfl

theorem put_eq (x : Shot) : x.put k b = { x with duties := (x.put k b).duties } := by
  unfold Shot.put
  split <;> rfl

/-- A duty put that is no proof duty leaves whether a proof duty waits. -/
theorem any_put (hk : k.needsProof = false) :
    (x.put k b).duties.any (fun d => d.key.needsProof && d.state == .pending) = x.duties.any (fun d => d.key.needsProof && d.state == .pending) := by
  unfold Shot.put
  split
  · show (x.duties ++ [_]).any _ = _
    rw [List.any_append]
    simp [hk]
  · show (x.duties.map _).any _ = _
    rw [List.any_map]
    refine congrArg (fun p => x.duties.any p) (funext fun d => ?_)
    show ((if d.key == k then putBack k b (some d) else d).key.needsProof && _) = _
    by_cases hd : d.key = k
    · simp [hd, putBack_key, hk]
    · simp [hd]

/-! ## A duty put and handed out -/

theorem putDuty_stands {back : DutyState → Bool} {d : DutyState} (hy : s.held n = some y) (hd : y.dutyState k = some d)
    (hb : back d = false) : putDuty back n k b s = s := by
  unfold putDuty
  rw [hy, Option.map_some, hd]
  exact if_neg (by rw [hb]; decide)

theorem putDuty_puts {back : DutyState → Bool} (hy : s.held n = some y) (h : ∀ d, y.dutyState k = some d → back d = true) :
    putDuty back n k b s = handDuty n k (modHeld n (Shot.put k b) s) := by
  unfold putDuty
  rw [hy, Option.map_some]
  cases hd : y.dutyState k with
  | none =>
    dsimp only
    unfold appendDuty
    rw [modHeld_eq hy, modHeld_eq hy, Shot.put, hd]
  | some d =>
    dsimp only
    rw [if_pos (h d hd)]
    unfold resetDuty setDuty
    rw [modHeld_eq hy, modHeld_eq hy]
    unfold Shot.put
    rw [hd]
    rfl

/-! ## The state while one shot's duties are put -/

/-- `v` is `s` with the HELD shot `h` of number `n` as `y`, which differs in its class and its duties, and with other send and
develop queues. -/
structure Puts (s : State) (n : Nat) (h y : Shot) (v : State) : Prop where
  eq : v = { s with
    ss := { s.ss with table := updateFirst (isHeld n) (fun _ => y) s.ss.table }
    tp := { s.tp with queue := v.tp.queue, nextOrder := v.tp.nextOrder, deferred := v.tp.deferred, transfer := v.tp.transfer }
    de := { s.de with queue := v.de.queue } }
  record : y = { h with urgent := y.urgent, duties := y.duties }

theorem Puts.refl (hh : s.held n = some h) : Puts s n h h s := by
  refine ⟨?_, rfl⟩
  have : updateFirst (isHeld n) (fun _ => h) s.ss.table = s.ss.table := updateFirst_same hh
  rw [this]

section
variable (hh : s.held n = some h)
include hh

theorem Puts.isHeld (p : Puts s n h y v) : isHeld n y = true := by
  rw [p.record]
  exact (find_mem hh).2

theorem Puts.held (p : Puts s n h y v) : v.held n = some y := by
  rw [p.eq]
  exact find_updateFirst hh (p.isHeld hh)

theorem Puts.mod (p : Puts s n h y v) {g : Shot → Shot} (hg : g y = { y with urgent := (g y).urgent, duties := (g y).duties }) :
    Puts s n h (g y) (modHeld n g v) where
  eq := by
    rw [modHeld_eq (p.held hh)]
    have ht : v.ss.table = updateFirst (Machine.isHeld n) (fun _ => y) s.ss.table := by rw [p.eq]
    rw [ht, updateFirst_twice hh (f := fun _ => y) (p.isHeld hh)]
    rw [p.eq]
  record := by
    rw [hg, p.record]

end

theorem Puts.port (p : Puts s n h y v) {q : List Entry} {o : Int} {d : Nat} {x : Option Transfer} :
    Puts s n h y { v with tp := { v.tp with queue := q, nextOrder := o, deferred := d, transfer := x } } where
  eq := by rw [p.eq]
  record := p.record

theorem Puts.engine (p : Puts s n h y v) {q : List DevEntry} : Puts s n h y { v with de := { v.de with queue := q } } where
  eq := by rw [p.eq]
  record := p.record

theorem Puts.power (p : Puts s n h y v) : v.cp.power = s.cp.power := by rw [p.eq]
theorem Puts.phase (p : Puts s n h y v) : v.de.phase = s.de.phase := by rw [p.eq]
theorem Puts.proof (p : Puts s n h y v) : y.proof = h.proof := by rw [p.record]
theorem Puts.serial (p : Puts s n h y v) : y.serial = h.serial := by rw [p.record]

section
variable (hh : s.held n = some h)
include hh

theorem Puts.put (p : Puts s n h y v) (k : DutyKey) (b : Bool) : Puts s n h (y.put k b) (modHeld n (Shot.put k b) v) :=
  p.mod hh (by unfold Shot.put; split <;> rfl)

/-! ## A send duty put -/

/-- What a send duty that is put leaves: the duty PENDING or deferred, its entry in the transfer queue, the engine's queue as
it was (R164, R165). -/
theorem putSend_puts (p : Puts s n h y v) {back : DutyState → Bool} (ho : ∀ d, y.dutyState (.send f) = some d → back d = true) :
    let t := putDuty back n (.send f) b v
    let d0 := putBack (.send f) b (y.duty (.send f))
    ∃ z, Puts s n h z t ∧ z.urgent = y.urgent ∧ (∀ k, k ≠ .send f → z.duty k = y.duty k)
      ∧ (z.duty (.send f) = some d0 ∨ z.duty (.send f) = some { d0 with deferred := true })
      ∧ z.duties.any (fun d => d.key.needsProof && d.state == .pending) = (y.put (.send f) b).duties.any (fun d => d.key.needsProof && d.state == .pending)
      ∧ t.de = v.de ∧ t.tp.transfer = v.tp.transfer
      ∧ (s.cp.power ≠ .active → t.tp = v.tp)
      ∧ (s.cp.power = .active → (∀ e ∈ v.tp.queue, e.shot = n → e.kind ≠ f) →
        (v.tp.queue.length < 256 → t.tp.queue = sortTether (v.tp.queue ++ [⟨n, f, d0.urgent, v.tp.nextOrder⟩])
          ∧ t.tp.nextOrder = v.tp.nextOrder + 1 ∧ t.tp.deferred = v.tp.deferred)
        ∧ (256 ≤ v.tp.queue.length → t.tp.queue = v.tp.queue ∧ t.tp.nextOrder = v.tp.nextOrder
          ∧ t.tp.deferred = v.tp.deferred + 1 ∧ z.duty (.send f) = some { d0 with deferred := true })) := by
  intro t d0
  have p1 := p.put hh (.send f) b
  have hheld := p1.held hh
  have hd0 : (y.put (.send f) b).duty (.send f) = some d0 := by rw [duty_put, if_pos rfl]
  have hother : ∀ k, k ≠ .send f → (y.put (.send f) b).duty k = y.duty k := fun k hk => by rw [duty_put, if_neg hk]
  have hurg : (y.put (.send f) b).urgent = y.urgent := by rw [put_eq]
  have ht : t = joinTether false n f (modHeld n (Shot.put (.send f) b) v) := by
    show putDuty back n (.send f) b v = _
    rw [putDuty_puts (p.held hh) ho]
    unfold handDuty
    rw [hheld]
  have htp1 : (modHeld n (Shot.put (.send f) b) v).tp = v.tp := rfl
  have hsend : ((modHeld n (Shot.put (.send f) b) v).sendDuty n f) = some d0 := by
    unfold State.sendDuty
    rw [hheld, Option.bind_some, hd0]
  have hpend : (modHeld n (Shot.put (.send f) b) v).dutyOf n (.send f) = some .pending := by
    unfold State.dutyOf
    rw [hheld, Option.bind_some, dutyState_put, if_pos rfl]
  by_cases hact : s.cp.power = .active
  · by_cases hab : ∀ e ∈ v.tp.queue, ¬ (e.shot = n ∧ e.kind = f)
    · have hj : (modHeld n (Shot.put (.send f) b) v).MayJoin n f := ⟨p1.power.trans hact, hpend, hab⟩
      by_cases hl : 256 ≤ v.tp.queue.length
      · have e := joinTether_full hj hl false
        have hz : ((y.put (.send f) b).setDuty (.send f) (fun d => { d with deferred := true })).duty (.send f)
            = some { d0 with deferred := true } := by
          rw [duty_setDuty (g := fun d => { d with deferred := true }) (fun _ => rfl), if_pos rfl, hd0]
          rfl
        rw [ht, e]
        refine ⟨_, (p1.mod hh (g := Shot.setDuty (.send f) (fun d => { d with deferred := true })) rfl).port, hurg, fun k hk => ?_,
          .inr hz, ?_, rfl, rfl, fun c => absurd hact c, fun _ _ => ⟨fun c => absurd hl (by omega), fun _ => ⟨rfl, rfl, rfl, hz⟩⟩⟩
        · rw [duty_setDuty (g := fun d => { d with deferred := true }) (fun _ => rfl), if_neg hk, hother k hk]
        · show (List.map _ _).any _ = _
          rw [List.any_map]
          refine congrArg (fun q => (y.put (.send f) b).duties.any q) (funext fun d => ?_)
          show ((if d.key == .send f then { d with deferred := true } else d : Duty).key.needsProof
            && (if d.key == .send f then { d with deferred := true } else d : Duty).state == .pending) = _
          split <;> rfl
      · have e := joinTether_room hj (show (modHeld n (Shot.put (.send f) b) v).tp.queue.length < 256 by rw [htp1]; omega)
        rw [hsend, Option.map_some, Option.getD_some] at e
        rw [ht, e]
        refine ⟨_, p1.port, hurg, hother, .inl hd0, rfl, rfl, rfl, fun c => absurd hact c, fun _ _ => ⟨fun _ => ⟨rfl, rfl, rfl⟩,
          fun c => absurd c hl⟩⟩
    · have e : t = modHeld n (Shot.put (.send f) b) v := by
        rw [ht]
        unfold joinTether
        split
        · rfl
        · rw [if_pos]
          simp only [not_forall, not_not] at hab
          obtain ⟨q, hq, hs, hk⟩ := hab
          exact List.any_eq_true.2 ⟨q, hq, by simp [hs, hk]⟩
      rw [e]
      exact ⟨_, p1, hurg, hother, .inl hd0, rfl, rfl, rfl, fun _ => rfl, fun _ c => absurd (fun q hq hqq => c q hq hqq.1 hqq.2) hab⟩
  · have e : t = modHeld n (Shot.put (.send f) b) v := by
      rw [ht]
      unfold joinTether
      refine if_pos (.inl ?_)
      unfold State.tetherClosed
      rw [p1.power]
      simpa using hact
    rw [e]
    exact ⟨_, p1, hurg, hother, .inl hd0, rfl, rfl, rfl, fun _ => rfl, fun c => absurd c hact⟩

/-! ## A DEVELOP duty put -/

/-- A DEVELOP duty put URGENT: its entry joins the develop queue, unless the engine is HALTED (R121). -/
theorem putDevelop_puts (p : Puts s n h y v) {u : State} (hu : u = handDuty n .develop (modHeld n (Shot.put .develop true) v)) :
    Puts s n h (y.put .develop true) u ∧ u.tp = v.tp
    ∧ u.de.queue = if s.de.phase = .halted then v.de.queue else
        sortDevelop (v.de.queue.filter (fun e => e.shot != n) ++ [⟨n, h.serial, true⟩]) := by
  have p1 := p.put hh .develop true
  have hheld := p1.held hh
  have hd0 : (y.put .develop true).duty .develop = some (putBack .develop true (y.duty .develop)) := by rw [duty_put, if_pos rfl]
  have hpend : (modHeld n (Shot.put .develop true) v).dutyOf n .develop = some .pending := by
    unfold State.dutyOf
    rw [hheld, Option.bind_some, dutyState_put, if_pos rfl]
  have e : u = joinDevelop n h.serial true (modHeld n (Shot.put .develop true) v) := by
    rw [hu]
    unfold handDuty
    rw [hheld]
    dsimp only
    rw [hd0, Option.map_some, Option.getD_some, putBack_urgent, Bool.or_true, p1.serial]
  rw [e]
  unfold joinDevelop
  rw [hpend]
  by_cases hph : s.de.phase = .halted
  · rw [if_pos (.inl (p1.phase.trans hph)), if_pos hph]
    exact ⟨p1, rfl, rfl⟩
  · rw [if_neg (fun c => c.elim (fun c => hph (p1.phase.symm.trans c)) (fun c => c rfl)), if_neg hph]
    exact ⟨p1.engine, rfl, rfl⟩

theorem needProof_eq (p : Puts s n h y v) : needProof n v =
    if (y.duties.any (fun d => d.key.needsProof && d.state == .pending) && y.proof.isNone) = true
      ∧ (y.dutyState .develop = none ∨ y.dutyState .develop = some .done) then
      handDuty n .develop (modHeld n (Shot.put .develop true) v)
    else v := by
  have hheld := p.held hh
  unfold needProof
  rw [hheld]
  dsimp only
  by_cases hw : (y.duties.any (fun d => d.key.needsProof && d.state == .pending) && y.proof.isNone) = true
  · rw [if_pos hw]
    cases hd : y.dutyState .develop with
    | none =>
      rw [if_pos ⟨hw, .inl rfl⟩]
      dsimp only
      unfold appendDuty
      rw [modHeld_eq hheld, modHeld_eq hheld, Shot.put, hd]
    | some d =>
      cases d with
      | done =>
        rw [if_pos ⟨hw, .inr rfl⟩]
        dsimp only
        unfold resetDuty setDuty
        rw [modHeld_eq hheld, modHeld_eq hheld]
        unfold Shot.put
        rw [hd]
        rfl
      | pending | active | failed | cancelled => rw [if_neg (by rintro ⟨-, c | c⟩ <;> cases c)]
  · rw [if_neg hw, if_neg (fun c => hw c.1)]

end

end Sys2Proof.Machine
end

section
/-! SHOT_MARK: the duties that a mark puts, the classes that it sets, and the statement (R14, R15, R121, R164, R166, R180). -/

namespace Sys2Proof.Machine

set_option Elab.async false

open Sys2Proof

variable {a s t v : State} {n : Nat} {h x y : Shot}

/-! ## The classes set -/

/-- Whether a key is a send duty's of the kinds chosen. -/
def DutyKey.sends (q : FileKind → Bool) : DutyKey → Bool
  | .send f => q f
  | _ => false

/-- A send duty of the kinds chosen made URGENT (R164). -/
def Duty.hastened (q : FileKind → Bool) (d : Duty) : Duty := if d.key.sends q then { d with urgent := true } else d

/-- A record whose send duties of the kinds chosen are URGENT. -/
def Shot.hastened (q : FileKind → Bool) (x : Shot) : Shot := { x with duties := x.duties.map (Duty.hastened q) }

theorem hastened_key (q : FileKind → Bool) (d : Duty) : (d.hastened q).key = d.key := by
  unfold Duty.hastened
  split <;> rfl

theorem hastened_state (q : FileKind → Bool) (d : Duty) : (d.hastened q).state = d.state := by
  unfold Duty.hastened
  split <;> rfl

theorem hastened_urgent {q : FileKind → Bool} {d : Duty} {f : FileKind} (hd : d.key = .send f) (hq : q f = true) :
    (d.hastened q).urgent = true := by
  unfold Duty.hastened
  rw [hd, DutyKey.sends, if_pos hq]

theorem duty_hastened (q : FileKind → Bool) (k : DutyKey) : (x.hastened q).duty k = (x.duty k).map (Duty.hastened q) :=
  find_mapDuty (hastened_key q) k x.duties

theorem dutyState_hastened (q : FileKind → Bool) (k : DutyKey) : (x.hastened q).dutyState k = x.dutyState k := by
  unfold Shot.dutyState
  rw [duty_hastened, Option.map_map]
  exact congrArg (fun f => Option.map f (x.duty k)) (funext fun d => hastened_state q d)

theorem any_hastened (q : FileKind → Bool) : (x.hastened q).duties.any (fun d => d.key.needsProof && d.state == .pending)
    = x.duties.any (fun d => d.key.needsProof && d.state == .pending) := by
  show (x.duties.map _).any _ = _
  rw [List.any_map]
  refine congrArg (fun p => x.duties.any p) (funext fun d => ?_)
  show ((d.hastened q).key.needsProof && (d.hastened q).state == .pending) = _
  rw [hastened_key, hastened_state]

/-- An entry of the shot and of the kinds chosen made URGENT (R180). -/
def Entry.hastened (q : FileKind → Bool) (n : Nat) (e : Entry) : Entry := if e.shot = n ∧ q e.kind then { e with urgent := true } else e

theorem hastenSends_puts (hh : s.held n = some h) (p : Puts s n h y v) (q : FileKind → Bool) :
    let t := hastenSends q n v
    Puts s n h (y.hastened q) t ∧ t.tp.queue = sortTether (v.tp.queue.map (Entry.hastened q n))
    ∧ t.tp.transfer = v.tp.transfer.map (fun x => if x.shot = n ∧ q x.kind then { x with urgent := true } else x)
    ∧ t.tp.deferred = v.tp.deferred ∧ t.de = v.de :=
  ⟨(p.mod hh (g := Shot.hastened q) rfl).port, rfl, rfl, rfl, rfl⟩

/-! ## The send duties that a mark puts -/

/-- The state of a duty behind a mark that gives it (R14). -/
def marked : Option DutyState → DutyState
  | none => .pending
  | some .failed => .pending
  | some d => d

/-- The kinds that a mark puts: those whose duty is absent or FAILED. -/
def Shot.joins (x : Shot) (fs : List FileKind) : List FileKind :=
  fs.filter (fun k => x.dutyState (.send k) = none ∨ x.dutyState (.send k) = some .failed)

theorem joins_congr {fs : List FileKind} (h : ∀ f ∈ fs, y.dutyState (.send f) = x.dutyState (.send f)) : y.joins fs = x.joins fs := by
  unfold Shot.joins
  refine List.filter_congr (fun f hf => ?_)
  rw [h f hf]

/-- The duties that a mark puts for the kinds given (R14, R164, R165). -/
theorem putSends_puts (hh : s.held n = some h) : ∀ (fs : List FileKind) {y : Shot} {v : State}, fs.Nodup → Puts s n h y v →
    let t := (fs.map DutyKey.send).foldl (fun u k => putDuty DutyState.isFailed n k true u) v
    ∃ z, Puts s n h z t ∧ z.urgent = y.urgent
      ∧ (∀ f ∈ fs, z.dutyState (.send f) = some (marked (y.dutyState (.send f))))
      ∧ (∀ k, k ∉ fs.map DutyKey.send → z.dutyState k = y.dutyState k)
      ∧ t.de = v.de ∧ t.tp.transfer = v.tp.transfer
      ∧ (y.joins fs = [] ∨ s.cp.power ≠ .active → t.tp = v.tp)
      ∧ (s.cp.power = .active → (∀ k ∈ y.joins fs, ∀ e ∈ v.tp.queue, e.shot = n → e.kind ≠ k) →
        (v.tp.queue.length + (y.joins fs).length ≤ 256 → t.tp.deferred = v.tp.deferred
          ∧ t.tp.queue.Perm (v.tp.queue ++ joined n true v.tp.nextOrder (y.joins fs)))
        ∧ (256 ≤ v.tp.queue.length → t.tp.queue = v.tp.queue ∧ t.tp.deferred = v.tp.deferred + (y.joins fs).length))
  | [], y, v, _, p => ⟨y, p, rfl, by simp, fun _ _ => rfl, rfl, rfl, fun _ => rfl,
      fun _ _ => ⟨fun _ => ⟨rfl, by show List.Perm v.tp.queue (v.tp.queue ++ []); rw [List.append_nil]⟩, fun _ => ⟨rfl, rfl⟩⟩⟩
  | f :: fs, y, v, hnd, p => by
    intro t
    obtain ⟨hf, hfs⟩ := List.nodup_cons.1 hnd
    have hsend : ∀ g ∈ fs, DutyKey.send g ≠ .send f := fun g hg c => hf (by cases c; exact hg)
    by_cases ho : y.dutyState (.send f) = none ∨ y.dutyState (.send f) = some .failed
    · have hput := putSend_puts (b := true) (f := f) hh p (back := DutyState.isFailed) (fun d hd => by
        rcases ho with ho | ho
        · rw [ho] at hd
          cases hd
        · rw [ho] at hd
          cases hd
          rfl)
      have ht : t = (fs.map DutyKey.send).foldl (fun u k => putDuty DutyState.isFailed n k true u)
        (putDuty DutyState.isFailed n (.send f) true v) := rfl
      clear_value t
      obtain ⟨z1, p1, hu1, hoth1, hd1, -, hde1, htr1, hoff1, hon1⟩ := hput
      generalize putDuty DutyState.isFailed n (.send f) true v = w at *
      obtain ⟨z, pz, huz, hin, hout, hde, htr, hnone, hon⟩ := putSends_puts hh fs hfs p1
      rw [← ht] at pz hde htr hnone hon
      have hstate1 : ∀ k, k ≠ .send f → z1.dutyState k = y.dutyState k := fun k hk => by
        unfold Shot.dutyState
        rw [hoth1 k hk]
      have hf1 : z1.dutyState (.send f) = some .pending := by
        unfold Shot.dutyState
        rcases hd1 with hd | hd <;> rw [hd, Option.map_some]
        · rw [putBack_state]
        · exact congrArg some (putBack_state _)
      have hmark : marked (y.dutyState (.send f)) = .pending := by
        rcases ho with ho | ho <;> rw [ho] <;> rfl
      have hjoins : y.joins (f :: fs) = f :: z1.joins fs := by
        rw [joins_congr (x := y) (fun g hg => hstate1 _ (hsend g hg))]
        unfold Shot.joins
        rw [List.filter_cons_of_pos (by simpa using ho)]
      refine ⟨z, pz, huz.trans hu1, fun g hg => ?_, fun k hk => ?_, hde.trans hde1, htr.trans htr1, ?_, ?_⟩
      · rcases List.mem_cons.1 hg with rfl | hg
        · rw [hout _ (fun c => by obtain ⟨g, hg, e⟩ := List.mem_map.1 c; exact hsend g hg e), hf1, hmark]
        · rw [hin g hg, hstate1 _ (hsend g hg)]
      · rw [List.map_cons, List.mem_cons, not_or] at hk
        rw [hout k hk.2, hstate1 k hk.1]
      · rintro (c | c)
        · rw [hjoins] at c
          cases c
        · exact (hnone (.inr c)).trans (hoff1 c)
      · rw [hjoins]
        intro hact hab
        obtain ⟨hroom1, hfull1⟩ := hon1 hact (fun e he hs => hab f List.mem_cons_self e he hs)
        refine ⟨fun hl => ?_, fun hl => ?_⟩
        · rw [List.length_cons] at hl
          obtain ⟨hq, ho1, hd⟩ := hroom1 (by omega)
          have hperm : w.tp.queue.Perm (v.tp.queue ++ [⟨n, f, true, v.tp.nextOrder⟩]) := by
            rw [hq, putBack_urgent, Bool.or_true]
            exact sortTether_perm _
          have hab1 : ∀ k ∈ z1.joins fs, ∀ e ∈ w.tp.queue, e.shot = n → e.kind ≠ k := fun k hk e he hs => by
            rcases List.mem_append.1 (hperm.mem_iff.1 he) with he | he
            · exact hab k (List.mem_cons_of_mem _ hk) e he hs
            · rw [List.mem_singleton.1 he]
              rintro rfl
              exact hf (List.mem_filter.1 hk).1
          obtain ⟨hd2, hq2⟩ := (hon hact hab1).1 (by rw [hperm.length_eq, List.length_append, List.length_singleton]; omega)
          refine ⟨hd2.trans hd, hq2.trans ?_⟩
          rw [joined, List.append_cons v.tp.queue ⟨n, f, true, v.tp.nextOrder⟩ (joined n true (v.tp.nextOrder + 1) (z1.joins fs)), ho1]
          exact hperm.append_right (joined n true (v.tp.nextOrder + 1) (z1.joins fs))
        · obtain ⟨hq, ho1, hd, -⟩ := hfull1 hl
          obtain ⟨hq2, hd2⟩ := (hon hact (by rw [hq]; exact fun k hk => hab k (List.mem_cons_of_mem _ hk))).2 (by rw [hq]; exact hl)
          refine ⟨hq2.trans hq, hd2.trans ?_⟩
          rw [hd, List.length_cons]
          omega
    · have hstand : putDuty DutyState.isFailed n (.send f) true v = v := by
        cases hd : y.dutyState (.send f) with
        | none => exact absurd (.inl hd) ho
        | some d =>
          refine putDuty_stands (p.held hh) hd ?_
          cases d with
          | failed => exact absurd (.inr hd) ho
          | pending | active | done | cancelled => rfl
      have ht : t = (fs.map DutyKey.send).foldl (fun u k => putDuty DutyState.isFailed n k true u) v :=
        congrArg (fun u => (fs.map DutyKey.send).foldl _ u) hstand
      clear_value t
      obtain ⟨z, pz, huz, hin, hout, hrest⟩ := putSends_puts hh fs hfs p
      rw [← ht] at pz hrest
      have hjoins : y.joins (f :: fs) = y.joins fs := by
        unfold Shot.joins
        rw [List.filter_cons_of_neg (by simpa using ho)]
      rw [hjoins]
      refine ⟨z, pz, huz, fun g hg => ?_, fun k hk => hout k (fun c => hk (List.mem_cons_of_mem _ c)), hrest⟩
      rcases List.mem_cons.1 hg with rfl | hg
      · rw [hout _ (fun c => by obtain ⟨g', hg', e⟩ := List.mem_map.1 c; exact hsend g' hg' e)]
        cases hd : y.dutyState (.send g) with
        | none => exact absurd (.inl hd) ho
        | some d =>
          cases d with
          | failed => exact absurd (.inr hd) ho
          | pending | active | done | cancelled => rfl
      · exact hin g hg

end Sys2Proof.Machine
end

section
/-! SHOT_MARK's effect as a whole, and the statement on it (R14, R15, R121, R164, R166, R180). -/

namespace Sys2Proof.Machine

set_option Elab.async false

open Sys2Proof

variable {a s t v : State} {n : Nat} {h x y : Shot}

/-! ## The DEVELOP duty of a mark -/

/-- A proof duty that is PENDING with the proof extent absent (R14). -/
def Shot.proofWaits (x : Shot) : Bool := x.duties.any (fun d => d.key.needsProof && d.state == .pending) && x.proof.isNone

/-- The state of DEVELOP behind a mark (R14, R121). -/
def developMarked (gives waits : Bool) : Option DutyState → Option DutyState
  | none => if gives = true ∨ waits = true then some .pending else none
  | some .failed => if gives then some .pending else some .failed
  | some .done => if waits then some .pending else some .done
  | some d => some d

/-- What may follow for DEVELOP: nothing, or the duty put and its entry queued (R121). -/
structure DevelopStep (s : State) (n : Nat) (h y z : Shot) (v t : State) : Prop where
  puts : Puts s n h z t
  port : t.tp = v.tp
  urgent : z.urgent = y.urgent
  others : ∀ k, k ≠ .develop → z.duty k = y.duty k
  waits : z.proofWaits = y.proofWaits
  stands : z.dutyState .develop = y.dutyState .develop → t.de.queue = v.de.queue
  joins : z.dutyState .develop ≠ y.dutyState .develop → t.de.queue = if s.de.phase = .halted then v.de.queue else
    sortDevelop (v.de.queue.filter (fun e => e.shot != n) ++ [⟨n, h.serial, true⟩])

theorem DevelopStep.refl (p : Puts s n h y v) : DevelopStep s n h y y v v :=
  ⟨p, rfl, rfl, fun _ _ => rfl, rfl, fun _ => rfl, fun c => absurd rfl c⟩

section
variable (hh : s.held n = some h)
include hh

/-- DEVELOP put on a shot whose DEVELOP is not PENDING. -/
theorem develop_step (p : Puts s n h y v) (hd : y.dutyState .develop ≠ some .pending) {u : State}
    (hu : u = handDuty n .develop (modHeld n (Shot.put .develop true) v)) :
    DevelopStep s n h y (y.put .develop true) v u ∧ (y.put .develop true).dutyState .develop = some .pending := by
  obtain ⟨pz, hport, hq⟩ := putDevelop_puts hh p hu
  have hs : (y.put .develop true).dutyState .develop = some .pending := by rw [dutyState_put, if_pos rfl]
  refine ⟨⟨pz, hport, ?_, fun k hk => ?_, ?_, fun c => absurd (c.symm.trans hs) hd, fun _ => hq⟩, hs⟩
  · rw [put_eq]
  · rw [duty_put, if_neg hk]
  · unfold Shot.proofWaits
    rw [any_put rfl, put_eq y]

/-- DEVELOP as a plan gives it: put if it is absent or FAILED (R14). -/
theorem putDevelop_step (p : Puts s n h y v) : ∃ z, DevelopStep s n h y z v (putDuty DutyState.isFailed n .develop true v)
    ∧ z.dutyState .develop = developMarked true false (y.dutyState .develop) := by
  by_cases ho : y.dutyState .develop = none ∨ y.dutyState .develop = some .failed
  · have hput := putDuty_puts (b := true) (back := DutyState.isFailed) (k := .develop) (p.held hh) (fun d hd => by
      rcases ho with ho | ho <;> rw [ho] at hd <;> cases hd
      rfl)
    obtain ⟨hs, hd⟩ := develop_step hh p (by rcases ho with ho | ho <;> rw [ho] <;> decide) hput
    refine ⟨_, hs, hd.trans ?_⟩
    rcases ho with ho | ho <;> rw [ho] <;> rfl
  · cases hd : y.dutyState .develop with
    | none => exact absurd (.inl hd) ho
    | some d =>
      have hb : d.isFailed = false ∧ developMarked true false (some d) = some d := by
        cases d with
        | failed => exact absurd (.inr hd) ho
        | pending | active | done | cancelled => exact ⟨rfl, rfl⟩
      rw [putDuty_stands (p.held hh) hd hb.1]
      exact ⟨y, .refl p, hd.trans hb.2.symm⟩

/-- DEVELOP as a waiting proof calls for it (R14, R121). -/
theorem needProof_step (p : Puts s n h y v) : ∃ z, DevelopStep s n h y z v (needProof n v)
    ∧ z.dutyState .develop = developMarked false y.proofWaits (y.dutyState .develop) := by
  have e : needProof n v = if y.proofWaits = true ∧ (y.dutyState .develop = none ∨ y.dutyState .develop = some .done) then
      handDuty n .develop (modHeld n (Shot.put .develop true) v) else v := needProof_eq hh p
  by_cases hw : y.proofWaits = true ∧ (y.dutyState .develop = none ∨ y.dutyState .develop = some .done)
  · rw [if_pos hw] at e
    obtain ⟨hs, hd⟩ := develop_step hh p (by rcases hw.2 with ho | ho <;> rw [ho] <;> decide) e
    refine ⟨_, hs, hd.trans ?_⟩
    rw [hw.1]
    rcases hw.2 with ho | ho <;> rw [ho] <;> rfl
  · rw [if_neg hw] at e
    rw [e]
    refine ⟨y, .refl p, ?_⟩
    rw [not_and, not_or] at hw
    cases hd : y.dutyState .develop with
    | none =>
      cases hwt : y.proofWaits with
      | false => rfl
      | true => exact absurd hd (hw hwt).1
    | some d =>
      cases d with
      | done =>
        cases hwt : y.proofWaits with
        | false => rfl
        | true => exact absurd hd (hw hwt).2
      | pending | active | failed | cancelled => rfl

/-- Both steps in turn: DEVELOP is put at most once. -/
theorem developSteps (p : Puts s n h y v) (gives : Bool) :
    ∃ z, DevelopStep s n h y z v (needProof n (if gives then putDuty DutyState.isFailed n .develop true v else v))
      ∧ z.dutyState .develop = developMarked gives y.proofWaits (y.dutyState .develop) := by
  cases gives with
  | false => exact needProof_step hh p
  | true =>
    obtain ⟨z1, s1, h1⟩ := putDevelop_step hh p
    obtain ⟨z2, s2, h2⟩ := needProof_step hh s1.puts
    rw [if_pos rfl]
    rw [s1.waits] at h2
    have hfinal : z2.dutyState .develop = developMarked true y.proofWaits (y.dutyState .develop) := by
      rw [h2, h1]
      cases y.dutyState .develop with
      | none => cases y.proofWaits <;> rfl
      | some d => cases d <;> cases y.proofWaits <;> rfl
    refine ⟨z2, ⟨s2.puts, s2.port.trans s1.port, s2.urgent.trans s1.urgent, fun k hk => (s2.others k hk).trans (s1.others k hk),
      s2.waits.trans s1.waits, fun hsame => ?_, fun hne => ?_⟩, hfinal⟩
    · have hz1 : z1.dutyState .develop = y.dutyState .develop := by
        rw [hfinal] at hsame
        rw [h1]
        revert hsame
        cases y.dutyState .develop with
        | none => cases y.proofWaits <;> exact fun h => h
        | some d => cases d <;> cases y.proofWaits <;> simp [developMarked]
      exact (s2.stands (hsame.trans hz1.symm)).trans (s1.stands hz1)
    · by_cases hz : z2.dutyState .develop = z1.dutyState .develop
      · rw [s2.stands hz]
        exact s1.joins (hz ▸ hne)
      · have hz1 : z1.dutyState .develop = y.dutyState .develop := by
          rw [h2, h1] at hz
          rw [h1]
          revert hz
          cases y.dutyState .develop with
          | none => cases y.proofWaits <;> simp [developMarked]
          | some d => cases d <;> cases y.proofWaits <;> simp [developMarked]
        rw [s2.joins hz, s1.stands hz1]

end

/-! ## The mark as a whole -/

theorem hastenDevelop_puts (p : Puts s n h y v) : Puts s n h y (hastenDevelop n v) := p.engine

theorem sendDuties_any (p : PlansCfg) : (p.sendDuties true).any DutyKey.needsProof = decide (.proof ∈ p.sends true) := by
  unfold PlansCfg.sendDuties PlansCfg.sends
  cases p.tether <;> rfl

/-- Whether a mark gives DEVELOP (R10, R14). -/
def PlansCfg.marksDevelop (p : PlansCfg) : Bool := p.develops true (p.sendDuties true)

theorem marksDevelop_iff (p : PlansCfg) : p.marksDevelop = true ↔ .proof ∈ p.sends true ∨ p.develop ≠ .never := by
  unfold PlansCfg.marksDevelop PlansCfg.develops
  rw [sendDuties_any, Bool.or_eq_true, decide_eq_true_iff]
  cases p.develop <;> simp

/-- An entry of the shot made URGENT (R121). -/
def DevEntry.hastened (n : Nat) (e : DevEntry) : DevEntry := if e.shot = n then { e with urgent := true } else e

/-- The classes of the entries of a sorted develop queue whose entries of one shot are URGENT already. -/
theorem hastened_joined (l : List DevEntry) (n serial : Nat) :
    List.map (DevEntry.hastened n) (l.filter (fun e => e.shot != n) ++ [⟨n, serial, true⟩])
      = l.filter (fun e => e.shot != n) ++ [⟨n, serial, true⟩] := by
  rw [List.map_append]
  refine congrArg₂ (· ++ ·) ?_ (by simp [DevEntry.hastened])
  refine (List.map_congr_left (fun e he => ?_)).trans (List.map_id _)
  have : e.shot ≠ n := by simpa using (List.mem_filter.1 he).2
  exact if_neg this

theorem markShot_marks (hh : s.held n = some h) :
    let fs := s.cfg.plans.sends true
    let t := markShot n s
    let joins := h.joins fs
    ∃ u, Puts s n h u t ∧ u.urgent = true
      ∧ (∀ f ∈ fs, u.dutyState (.send f) = some (marked (h.dutyState (.send f))))
      ∧ (∀ k, k ≠ .develop → k ∉ fs.map DutyKey.send → u.dutyState k = h.dutyState k)
      ∧ (∀ d ∈ u.duties, (∃ f, d.key = .send f) → d.urgent = true)
      ∧ u.dutyState .develop = developMarked s.cfg.plans.marksDevelop u.proofWaits (h.dutyState .develop)
      ∧ t.tp.transfer = s.tp.transfer.map (fun x => if x.shot = n then { x with urgent := true } else x)
      ∧ (∃ q : List Entry, t.tp.queue = sortTether (q.map (fun e => if e.shot = n then { e with urgent := true } else e))
        ∧ (joins = [] ∨ s.cp.power ≠ .active → q = s.tp.queue ∧ t.tp.deferred = s.tp.deferred)
        ∧ (s.cp.power = .active → (∀ k ∈ joins, ∀ e ∈ s.tp.queue, e.shot = n → e.kind ≠ k) →
          (s.tp.queue.length + joins.length ≤ 256 → t.tp.deferred = s.tp.deferred ∧ q.Perm (s.tp.queue ++ joined n true s.tp.nextOrder joins))
          ∧ (256 ≤ s.tp.queue.length → q = s.tp.queue ∧ t.tp.deferred = s.tp.deferred + joins.length)))
      ∧ ∃ q, t.de.queue = sortDevelop (q.map (DevEntry.hastened n))
        ∧ (u.dutyState .develop = h.dutyState .develop → q = s.de.queue)
        ∧ (u.dutyState .develop ≠ h.dutyState .develop → q = if s.de.phase = .halted then s.de.queue else
          sortDevelop (s.de.queue.filter (fun e => e.shot != n) ++ [⟨n, h.serial, true⟩])) := by
  intro fs t joins
  have p0 : Puts s n h { h with urgent := true } (modHeld n (fun x => { x with urgent := true }) s) :=
    (Puts.refl hh).mod hh (g := fun x => { x with urgent := true }) rfl
  obtain ⟨y1, p1, hu1, hin, hout, hde1, htr1, hnone, hon⟩ := putSends_puts hh fs (sends_nodup _ _) p0
  have ht : t = hastenDevelop n (hastenSends (fun _ => true) n (needProof n
      (if s.cfg.plans.marksDevelop then putDuty DutyState.isFailed n .develop true
        ((fs.map DutyKey.send).foldl (fun u k => putDuty DutyState.isFailed n k true u) (modHeld n (fun x => { x with urgent := true }) s))
      else (fs.map DutyKey.send).foldl (fun u k => putDuty DutyState.isFailed n k true u) (modHeld n (fun x => { x with urgent := true }) s)))) := by
    show markShot n s = _
    unfold markShot PlansCfg.marksDevelop
    dsimp only
    rw [sendDuties_eq]
  clear_value t
  generalize (fs.map DutyKey.send).foldl (fun u k => putDuty DutyState.isFailed n k true u) (modHeld n (fun x => { x with urgent := true }) s) = v1
    at *
  obtain ⟨y2, st2, hd2⟩ := developSteps hh p1 s.cfg.plans.marksDevelop
  generalize needProof n (if s.cfg.plans.marksDevelop then putDuty DutyState.isFailed n .develop true v1 else v1) = v2 at *
  obtain ⟨p3, hq3, htr3, hdef3, hde3⟩ := hastenSends_puts hh st2.puts (fun _ => true)
  have hdev : ∀ k, k ≠ .develop → y2.dutyState k = y1.dutyState k := fun k hk => by
    unfold Shot.dutyState
    rw [st2.others k hk]
  have hnd : DutyKey.develop ∉ fs.map DutyKey.send := fun c => by
    obtain ⟨f, -, hf⟩ := List.mem_map.1 c
    cases hf
  have hh1 : y1.dutyState .develop = h.dutyState .develop := (hout _ hnd).trans rfl
  have hwaits : (y2.hastened fun _ => true).proofWaits = y1.proofWaits := by
    rw [← st2.waits]
    unfold Shot.proofWaits
    rw [any_hastened]
    rfl
  have hdevelop : (y2.hastened fun _ => true).dutyState .develop
      = developMarked s.cfg.plans.marksDevelop (y2.hastened fun _ => true).proofWaits (h.dutyState .develop) := by
    rw [dutyState_hastened, hd2, hwaits, hh1]
  have hjoins : ({ h with urgent := true } : Shot).joins fs = joins := joins_congr (fun _ _ => rfl)
  rw [hjoins] at hnone hon
  rw [ht]
  refine ⟨_, hastenDevelop_puts p3, ?_, fun f hf => ?_, fun k hk hks => ?_, ?_, hdevelop, ?_, ?_, ?_⟩
  · exact st2.urgent.trans hu1
  · rw [dutyState_hastened, hdev _ (by simp), hin f hf]
    rfl
  · rw [dutyState_hastened, hdev k hk, hout k hks]
    rfl
  · rintro d hd ⟨f, hf⟩
    obtain ⟨d', -, rfl⟩ := List.mem_map.1 hd
    exact hastened_urgent (hastened_key _ d' ▸ hf) rfl
  · show (hastenSends (fun _ => true) n v2).tp.transfer = _
    rw [htr3, st2.port, htr1]
    exact congrArg (fun f => Option.map f s.tp.transfer) (funext fun x => by simp)
  · refine ⟨v1.tp.queue, ?_, fun hc => ?_, fun hact hab => ?_⟩
    · show (hastenSends (fun _ => true) n v2).tp.queue = _
      rw [hq3, st2.port]
      exact congrArg sortTether (List.map_congr_left fun e _ => if_congr (and_iff_left rfl) rfl rfl)
    · have := hnone hc
      refine ⟨by rw [this]; rfl, ?_⟩
      show (hastenSends (fun _ => true) n v2).tp.deferred = _
      rw [hdef3, st2.port, this]
      rfl
    · obtain ⟨hroom, hfull⟩ := hon hact hab
      refine ⟨fun hl => ?_, fun hl => ?_⟩
      · obtain ⟨h1, h2⟩ := hroom hl
        refine ⟨?_, h2⟩
        show (hastenSends (fun _ => true) n v2).tp.deferred = _
        rw [hdef3, st2.port, h1]
        rfl
      · obtain ⟨h1, h2⟩ := hfull hl
        refine ⟨h1, ?_⟩
        show (hastenSends (fun _ => true) n v2).tp.deferred = _
        rw [hdef3, st2.port, h2]
        rfl
  · refine ⟨v2.de.queue, ?_, fun hsame => ?_, fun hne => ?_⟩
    · show sortDevelop ((hastenSends (fun _ => true) n v2).de.queue.map (DevEntry.hastened n)) = _
      rw [hde3]
    · rw [dutyState_hastened] at hsame
      rw [st2.stands (hsame.trans hh1.symm), hde1]
      rfl
    · rw [dutyState_hastened] at hne
      rw [st2.joins (fun c => hne (c.trans hh1)), hde1]
      rfl

/-! ## The statement -/

theorem exec_shotMark (tag : Byte) (n : Nat) (ha : s.awake = true) : exec (.shotMark ⟨tag, some (.value n)⟩) s =
    if (s.usable n).isSome then answered tag .ok [.u32 n] (markShot n s) else answered tag .notHeld [] s := by
  show (.next (hostCommand .plain ⟨tag, some (.value n)⟩ actShotMark s) : Host.Outcome State Fault Refusal) = _
  rw [exec_plain (act := actShotMark) tag (.value n) ha]
  unfold actShotMark markNumber
  dsimp only
  cases h : (s.usable n).isSome <;> rfl

theorem exec_shotMark_current (tag : Byte) (ha : s.awake = true) : exec (.shotMark ⟨tag, some .named⟩) s =
    match markCurrent s with
    | some r => answered tag .ok [.u32 r.1] r.2
    | none => answered tag .notHeld [] s := by
  show (.next (hostCommand .plain ⟨tag, some .named⟩ actShotMark s) : Host.Outcome State Fault Refusal) = _
  rw [exec_plain (act := actShotMark) tag .named ha]
  unfold actShotMark
  dsimp only
  cases h : markCurrent s <;> rfl

/-- Settles O20. -/
theorem shotMark : Obligations.ShotMark := by
  refine ⟨fun tag n s ha => ?_, fun tag s ha => ?_⟩
  · intro kinds sends gives
    refine ⟨fun hn => ?_, fun h hu => ?_⟩
    · rw [exec_shotMark tag n ha, hn]
      rfl
    · obtain ⟨hh, -⟩ := usable_held hu
      have hkinds : kinds = s.cfg.plans.sends true := by
        show (match s.cfg.plans.tether with | .none => _ | .urgentProof => _ | .allProof => _ | .urgentRaw => _ | .urgentBoth => _) = _
        unfold PlansCfg.sends
        cases s.cfg.plans.tether <;> rfl
      have hgives : gives ↔ s.cfg.plans.marksDevelop = true := by
        rw [marksDevelop_iff, ← hkinds]
      obtain ⟨u, p, hurg, hin, hout, hsends, hdev, htr, ⟨q, hq, hnone, hon⟩, ⟨d, hd, hsame, hdiff⟩⟩ := markShot_marks hh
      rw [← hkinds] at hin hout hnone hon
      refine ⟨_, u, by rw [exec_shotMark tag n ha, hu]; rfl, p.eq, ?_, fun k hk => ?_, fun k hk hks => hout k hk hks, hsends, ?_, htr,
        ?_, ?_, ?_⟩
      · have := p.record
        rw [hurg] at this
        exact this
      · obtain ⟨f, hf, rfl⟩ := List.mem_map.1 hk
        rw [hin f hf]
        cases h.dutyState (.send f) with
        | none => rfl
        | some d => cases d <;> rfl
      · intro waits
        rw [hdev]
        cases h.dutyState .develop with
        | none => exact if_congr (or_congr hgives.symm Iff.rfl) rfl rfl
        | some d =>
          cases d with
          | failed => exact if_congr hgives.symm rfl rfl
          | pending | active | done | cancelled => rfl
      · intro joins moved
        have hsorted : ∀ l : List Entry, (sortTether (l.map (fun e => if e.shot = n then { e with urgent := true } else e))).Perm
            (l.map (fun e => if e.shot = n then { e with urgent := true } else e)) := fun l => sortTether_perm _
        refine ⟨by rw [hq]; exact sortTether_pairwise _, fun hc => ?_, fun hact hab => ?_⟩
        · obtain ⟨h1, h2⟩ := hnone hc
          exact ⟨by rw [hq, h1]; exact hsorted _, h2⟩
        · obtain ⟨hroom, hfull⟩ := hon hact (fun k hk e he hs => hab k hk e he hs)
          refine ⟨fun hl => ?_, fun hl => ?_⟩
          · obtain ⟨h1, h2⟩ := hroom hl
            refine ⟨h1, ?_⟩
            have hjoined := joined_eq n true (h.joins kinds) s.tp.nextOrder 0
            rw [Nat.cast_zero, add_zero] at hjoined
            have hmap : (joined n true s.tp.nextOrder (h.joins kinds)).map (fun e => if e.shot = n then { e with urgent := true } else e)
                = joined n true s.tp.nextOrder (h.joins kinds) := by
              rw [hjoined, List.map_map]
              exact List.map_congr_left (fun x _ => if_pos rfl)
            rw [hq]
            refine (hsorted _).trans ((h2.map _).trans ?_)
            rw [List.map_append, hmap, hjoined]
            exact .refl _
          · obtain ⟨h1, h2⟩ := hfull hl
            exact ⟨by rw [hq, h1]; exact hsorted _, h2⟩
      · rw [hd]
        exact sortDevelop_pairwise _
      · rw [hd]
        refine (sortDevelop_perm _).trans ?_
        by_cases hc : u.dutyState .develop = h.dutyState .develop
        · rw [if_pos (.inl hc), hsame hc]
          exact .refl _
        · by_cases hph : s.de.phase = .halted
          · rw [if_pos (.inr hph), hdiff hc, if_pos hph]
            exact .refl _
          · rw [if_neg (fun c => c.elim hc hph), hdiff hc, if_neg hph]
            refine ((sortDevelop_perm _).map _).trans ?_
            rw [hastened_joined]
  · intro current pend
    have hcur : current = _ := exec_shotMark_current tag ha
    unfold markCurrent at hcur
    refine ⟨fun e he => ?_, fun hn => ⟨fun e he => ?_, fun hl => ⟨fun h => ?_, fun n h => ?_⟩⟩⟩
    · rw [hcur, he]
      rfl
    · rw [hcur, hn, he]
      rfl
    · rw [hcur, hn, hl, h]
      rfl
    · rw [hcur, hn, hl, h, exec_shotMark tag n ha]
      unfold markNumber
      cases hu : (s.usable n).isSome <;> simp [hu]

end Sys2Proof.Machine
end

section
/-! The peer's requests: PULL's effect, and the statement (R178 to R181). -/

namespace Sys2Proof.Machine

set_option Elab.async false

open Sys2Proof

variable {a s t v : State} {n : Nat} {h x y : Shot} {k : FileKind}

/-! ## PULL -/

theorem mem_sortTether {l : List Entry} {e : Entry} : e ∈ sortTether l ↔ e ∈ l := (sortTether_perm l).mem_iff

theorem mem_sortDevelop {l : List DevEntry} {e : DevEntry} : e ∈ sortDevelop l ↔ e ∈ l := (sortDevelop_perm l).mem_iff

/-- The send duty of a PULL, put or made URGENT, before a proof's DEVELOP (R181). -/
def pullSend (n : Nat) (k : FileKind) (s : State) : State :=
  match s.dutyOf n (.send k) with
  | none => putDuty DutyState.isFailed n (.send k) true s
  | some .failed => putDuty DutyState.isFailed n (.send k) true s
  | some _ => hastenSends (fun x => x == k) n s

theorem pullShot_eq (n : Nat) (k : FileKind) (s : State) :
    pullShot n k s = if k = .proof then needProof n (pullSend n k s) else pullSend n k s := rfl

theorem dutyOf_held (hh : s.held n = some h) (k : DutyKey) : s.dutyOf n k = h.dutyState k := by
  unfold State.dutyOf
  rw [hh, Option.bind_some]

theorem pullSend_open (hh : s.held n = some h) (ho : h.dutyState (.send k) = none ∨ h.dutyState (.send k) = some .failed) :
    pullSend n k s = putDuty DutyState.isFailed n (.send k) true s := by
  unfold pullSend
  rw [dutyOf_held hh]
  rcases ho with ho | ho <;> rw [ho]

theorem pullSend_there (hh : s.held n = some h) (h0 : h.dutyState (.send k) ≠ none) (h1 : h.dutyState (.send k) ≠ some .failed) :
    pullSend n k s = hastenSends (fun x => x == k) n s := by
  unfold pullSend
  rw [dutyOf_held hh]
  cases hd : h.dutyState (.send k) with
  | none => exact absurd hd h0
  | some d =>
    cases d with
    | failed => exact absurd hd h1
    | pending | active | done | cancelled => rfl

/-- What a PULL leaves of its send duty, the transfer queue and the transfer (R164, R165, R181). -/
theorem pullSend_puts (hh : s.held n = some h) : ∃ z, Puts s n h z (pullSend n k s) ∧ z.urgent = h.urgent
    ∧ (∃ d, z.duty (.send k) = some d ∧ d.urgent = true ∧ d.state = marked (h.dutyState (.send k)))
    ∧ z.dutyState .develop = h.dutyState .develop ∧ (pullSend n k s).de = s.de
    ∧ (h.dutyState (.send k) ≠ none → h.dutyState (.send k) ≠ some .failed →
      (pullSend n k s).tp.queue = sortTether (s.tp.queue.map (Entry.hastened (fun x => x == k) n))
      ∧ (pullSend n k s).tp.transfer = s.tp.transfer.map (fun x => if x.shot = n ∧ (x.kind == k) = true then { x with urgent := true } else x))
    ∧ (h.dutyState (.send k) = none ∨ h.dutyState (.send k) = some .failed → s.cp.power = .active →
      (∀ e ∈ s.tp.queue, e.shot = n → e.kind ≠ k) →
      (s.tp.queue.length < 256 → (pullSend n k s).tp.queue = sortTether (s.tp.queue ++ [⟨n, k, true, s.tp.nextOrder⟩]))
      ∧ (256 ≤ s.tp.queue.length → (pullSend n k s).tp.queue = s.tp.queue ∧ (pullSend n k s).tp.deferred = s.tp.deferred + 1
        ∧ ∃ d, z.duty (.send k) = some d ∧ d.deferred = true)) := by
  by_cases ho : h.dutyState (.send k) = none ∨ h.dutyState (.send k) = some .failed
  · rw [pullSend_open hh ho]
    obtain ⟨z, pz, hu, hother, hduty, -, hde, -, -, hon⟩ := putSend_puts (b := true) (f := k) (back := DutyState.isFailed) hh (Puts.refl hh)
      (fun d hd => by
        rcases ho with ho | ho <;> rw [ho] at hd <;> cases hd
        rfl)
    have hmark : marked (h.dutyState (.send k)) = .pending := by
      rcases ho with ho | ho <;> rw [ho] <;> rfl
    refine ⟨z, pz, hu, ?_, ?_, hde, fun h0 h1 => absurd ho (by rintro (c | c); exacts [h0 c, h1 c]), fun _ hact hab => ?_⟩
    · rcases hduty with hd | hd
      · exact ⟨_, hd, by rw [putBack_urgent, Bool.or_true], by rw [putBack_state, hmark]⟩
      · refine ⟨_, hd, ?_, ?_⟩
        · show (putBack _ _ _).urgent = true
          rw [putBack_urgent, Bool.or_true]
        · show (putBack _ _ _).state = _
          rw [putBack_state, hmark]
    · unfold Shot.dutyState
      rw [hother .develop (by simp)]
    · obtain ⟨hroom, hfull⟩ := hon hact hab
      refine ⟨fun hl => ?_, fun hl => ?_⟩
      · obtain ⟨hq, -, -⟩ := hroom hl
        rw [hq, putBack_urgent, Bool.or_true]
      · obtain ⟨hq, -, hd, hz⟩ := hfull hl
        exact ⟨hq, hd, _, hz, rfl⟩
  · rw [not_or] at ho
    obtain ⟨h0, h1⟩ := ho
    rw [pullSend_there hh h0 h1]
    obtain ⟨pz, hq, htr, -, hde⟩ := hastenSends_puts hh (Puts.refl hh) (fun x => x == k)
    obtain ⟨st, hst⟩ := Option.ne_none_iff_exists'.1 h0
    obtain ⟨d, hd, hds⟩ := Option.map_eq_some_iff.1 hst
    have hkey : d.key = .send k := (duty_key hd).1
    refine ⟨_, pz, rfl, ⟨d.hastened (fun x => x == k), ?_, hastened_urgent hkey (beq_self_eq_true k), ?_⟩, dutyState_hastened _ _, hde,
      fun _ _ => ⟨hq, htr⟩, fun c => absurd c (by rintro (c | c); exacts [h0 c, h1 c])⟩
    · rw [duty_hastened, hd]
      rfl
    · rw [hastened_state, hds, hst]
      cases st with
      | failed => exact absurd hst h1
      | pending | active | done | cancelled => rfl

/-- What a PULL leaves (R164, R165, R181). -/
theorem pullShot_pulls (hh : s.held n = some h) : ∃ u, Puts s n h u (pullShot n k s) ∧ u.urgent = h.urgent
    ∧ (∃ d, u.duty (.send k) = some d ∧ d.urgent = true ∧ d.state = marked (h.dutyState (.send k)))
    ∧ u.dutyState .develop = developMarked false (decide (k = .proof) && u.proofWaits) (h.dutyState .develop)
    ∧ (u.dutyState .develop = h.dutyState .develop → (pullShot n k s).de.queue = s.de.queue)
    ∧ (u.dutyState .develop ≠ h.dutyState .develop → (pullShot n k s).de.queue = if s.de.phase = .halted then s.de.queue else
        sortDevelop (s.de.queue.filter (fun e => e.shot != n) ++ [⟨n, h.serial, true⟩]))
    ∧ (h.dutyState (.send k) ≠ none → h.dutyState (.send k) ≠ some .failed →
      (pullShot n k s).tp.queue = sortTether (s.tp.queue.map (Entry.hastened (fun x => x == k) n))
      ∧ (pullShot n k s).tp.transfer = s.tp.transfer.map (fun x => if x.shot = n ∧ (x.kind == k) = true then { x with urgent := true } else x))
    ∧ (h.dutyState (.send k) = none ∨ h.dutyState (.send k) = some .failed → s.cp.power = .active →
      (∀ e ∈ s.tp.queue, e.shot = n → e.kind ≠ k) →
      (s.tp.queue.length < 256 → (pullShot n k s).tp.queue = sortTether (s.tp.queue ++ [⟨n, k, true, s.tp.nextOrder⟩]))
      ∧ (256 ≤ s.tp.queue.length → (pullShot n k s).tp.queue = s.tp.queue ∧ (pullShot n k s).tp.deferred = s.tp.deferred + 1
        ∧ ∃ d, u.duty (.send k) = some d ∧ d.deferred = true)) := by
  obtain ⟨z, pz, hu, hduty, hdev, hde, hthere, hopen⟩ := pullSend_puts (k := k) hh
  rw [pullShot_eq]
  by_cases hk : k = .proof
  · obtain ⟨u, st, hs⟩ := needProof_step hh pz
    have htp : (needProof n (pullSend n k s)).tp = (pullSend n k s).tp := st.port
    have hsend : u.duty (.send k) = z.duty (.send k) := st.others _ (by simp)
    rw [if_pos hk, htp]
    refine ⟨u, st.puts, st.urgent.trans hu, by rw [hsend]; exact hduty, ?_, ?_, ?_, hthere, by rw [hsend]; exact hopen⟩
    · rw [decide_eq_true hk, Bool.true_and, st.waits, ← hdev]
      exact hs
    · rw [← hdev, ← hde]
      exact st.stands
    · have hj := st.joins
      rw [hde] at hj
      rw [← hdev]
      exact hj
  · rw [if_neg hk]
    refine ⟨z, pz, hu, hduty, ?_, fun _ => congrArg Develop.queue hde, fun c => absurd hdev c, hthere, hopen⟩
    rw [decide_eq_false hk, Bool.false_and, hdev]
    cases h.dutyState .develop with
    | none => rfl
    | some d => cases d <;> rfl

/-! ## The statement -/

theorem proofWaits_iff {u : Shot} : u.proofWaits = true ↔ u.proof = none ∧ ∃ d ∈ u.duties, d.key.needsProof = true ∧ d.state = .pending := by
  unfold Shot.proofWaits
  rw [Bool.and_eq_true, List.any_eq_true, Option.isNone_iff_eq_none]
  simp only [Bool.and_eq_true, beq_iff_eq]
  exact and_comm

theorem peerFrame_up {act : State → State} (h : s.tp.phase ≠ .down) : peerFrame act s = act s := if_neg h

theorem markNumber_some (hu : s.usable n = some h) : markNumber n s = some (markShot n s) := by
  unfold markNumber
  rw [hu]
  rfl

theorem pullData_iff {shot : Nat} : s.pullData shot h k = false ↔
    (k = .memo ∧ h.memo = none ∧ s.recordsInto shot = false) ∨ (k = .caption ∧ h.caption = none) := by
  cases k <;> simp [State.pullData]

theorem judgePull_none {shot : Nat} (hon : s.cfg.tether.peerPull = true) : judgePull shot none s = refusePeer .pull shot .badValue s :=
  if_neg (by rw [hon]; decide)

theorem judgePull_some {shot : Nat} (hon : s.cfg.tether.peerPull = true) (hu : s.usable shot = some h) : judgePull shot (some k) s =
    if !s.pullData shot h k then notAvailable .pull shot (some k) .noData s
    else if h.dutyState (.send k) = some .done then notAvailable .pull shot (some k) .delivered s
    else raisePeer .pull shot (some k) none none (pullShot shot k s) := by
  refine (if_neg (by rw [hon]; decide)).trans ?_
  unfold judgePullOf
  rw [hu]

/-- Settles O55. -/
theorem peerRequests : Obligations.PeerRequests := by
  intro n shot k ko s
  refine ⟨fun hp c hc => ?_, fun hp => ?_⟩
  · have hdown : ∀ act, peerFrame act s = s := fun act => if_pos hp
    rcases hc with rfl | rfl | rfl | rfl <;> exact congrArg _ (hdown _)
  · intro refuse missing
    have hup : ∀ act, peerFrame act s = act s := fun act => peerFrame_up hp
    have hrel : exec (.remoteRelease n) s = .next (judgeRelease n s) := congrArg _ (hup _)
    have hend : exec .remoteEnd s = .next (judgeRemoteEnd s) := congrArg _ (hup _)
    have hmark : exec (.mark shot) s = .next (judgeMark shot s) := congrArg _ (hup _)
    have hpull : ∀ o, exec (.pull shot o) s = .next (judgePull shot o s) := fun o => congrArg _ (hup _)
    refine ⟨fun hoff => ⟨?_, ?_⟩, fun hon => ⟨fun hn => ?_, fun h1 h2 hr => ?_, fun h1 h2 hr => ?_, fun ho => ?_, fun b ho hb => ?_⟩,
      fun hoff => ?_, fun hon hu => ?_, fun hon h hu => ?_, fun hoff => ?_, fun hon => ⟨?_, fun hu => ?_, fun h hu => ⟨fun hno => ?_, fun hdata =>
        ⟨fun hd => ?_, fun hd => ?_⟩⟩⟩⟩
    · rw [hrel, judgeRelease, hoff]
      rfl
    · rw [hend, judgeRemoteEnd, hoff]
      rfl
    · rw [hrel, judgeRelease, hon, if_neg (by decide), if_pos hn]
      rfl
    · have hn : ¬ (n = 0 ∨ 99 < n) := by omega
      rw [hrel, judgeRelease, hon, if_neg (by decide), if_neg hn, if_neg hr, takeRelease_ignored .peer (some n) hr]
      rfl
    · have hn : ¬ (n = 0 ∨ 99 < n) := by omega
      refine ⟨startBurst .peer (some n) s, startBurst_begins .peer (some n) s, ?_⟩
      rw [hrel, judgeRelease, hon, if_neg (by decide), if_neg hn, if_pos hr]
      rfl
    · rw [hend, judgeRemoteEnd, hon, ho]
      rfl
    · have hr : s.rtu.phase ≠ .idle := by
        intro e
        simp [State.ownedBy, e] at ho
      refine ⟨takeOwnerEnd s, takeOwnerEnd_ends hr, ?_⟩
      rw [hend, judgeRemoteEnd, hon, ho, hb]
      rfl
    · rw [hmark, judgeMark, hoff]
      rfl
    · rw [hmark, judgeMark, hon, markNumber, hu]
      rfl
    · obtain ⟨hh, -⟩ := usable_held hu
      obtain ⟨u, p, hurg, -, -, hsends, -, htr, ⟨q, hq, -, -⟩, ⟨d, hd, -, -⟩⟩ := markShot_marks hh
      refine ⟨raise .peerCommand (.num shot) [.word "MARK", .u32 shot, .present false, .present false, .present false] (markShot shot s),
        u, by rw [hmark, judgeMark, hon, markNumber_some hu]; rfl, show (markShot shot s).held shot = some u from p.held hh, hurg, by rw [p.record], by rw [p.record],
        fun y hy hs => ?_, fun y hy hs => ?_, hsends, fun x hx hs => ?_, fun ha => ⟨markShot shot s, fun tag => ?_, rfl⟩⟩
      · have hy' : y ∈ (markShot shot s).tp.queue := hy
        rw [hq, mem_sortTether] at hy'
        obtain ⟨z, -, rfl⟩ := List.mem_map.1 hy'
        split at hs <;> simp_all
      · have hy' : y ∈ (markShot shot s).de.queue := hy
        rw [hd, mem_sortDevelop] at hy'
        obtain ⟨z, -, rfl⟩ := List.mem_map.1 hy'
        unfold DevEntry.hastened at hs ⊢
        split at hs <;> simp_all
      · have hx' : (markShot shot s).tp.transfer = some x := hx
        rw [htr] at hx'
        obtain ⟨z, -, rfl⟩ := Option.map_eq_some_iff.1 hx'
        split at hs <;> simp_all
      · rw [exec_shotMark tag shot ha, hu]
        rfl
    · rw [hpull]
      exact congrArg _ (if_pos (by rw [hoff]; rfl))
    · rw [hpull, judgePull_none hon]
      rfl
    · rw [hpull]
      refine congrArg _ ((if_neg (by rw [hon]; decide)).trans ?_)
      unfold judgePullOf
      rw [hu]
      rfl
    · have hno' : s.pullData shot h k = false := pullData_iff.2 hno
      rw [hpull, judgePull_some hon hu, hno']
      rfl
    · have hyes : s.pullData shot h k = true := by
        rw [← Bool.not_eq_false]
        exact fun c => hdata (pullData_iff.1 c)
      rw [hpull, judgePull_some hon hu, hyes, if_neg (by decide), if_pos hd]
      rfl
    · have hyes : s.pullData shot h k = true := by
        rw [← Bool.not_eq_false]
        exact fun c => hdata (pullData_iff.1 c)
      obtain ⟨hh, -⟩ := usable_held hu
      obtain ⟨u, p, hurg, ⟨d, hud, hdu, hds⟩, hdev, hsame, hdiff, hthere, hopen⟩ := pullShot_pulls (k := k) hh
      refine ⟨raisePeer .pull shot (some k) none none (pullShot shot k s), u, ?_, raise_tells _ _ _ (pullShot shot k s),
        show (pullShot shot k s).held shot = some u from p.held hh, hurg, ?_, ⟨d, hud, hdu⟩, ?_, fun h0 h1 => ?_, fun ho hact hab => ?_⟩
      · rw [hpull, judgePull_some hon hu, hyes, if_neg (by decide), if_neg hd]
      · unfold Shot.dutyState at *
        rw [hud, Option.map_some, hds]
        cases h.duty (.send k) with
        | none => rfl
        | some d => cases d.state <;> rfl
      · intro waits
        have hw : waits ↔ (decide (k = .proof) && u.proofWaits) = true := by
          rw [Bool.and_eq_true, decide_eq_true_iff, proofWaits_iff]
        refine ⟨?_, fun hc => ?_, fun hc hph => ?_⟩
        · rw [hdev]
          cases h.dutyState .develop with
          | none => exact if_congr (by rw [hw]; simp) rfl rfl
          | some d =>
            cases d with
            | done => exact if_congr hw.symm rfl rfl
            | pending | active | failed | cancelled => rfl
        · show (pullShot shot k s).de.queue = _
          by_cases hc' : u.dutyState .develop = h.dutyState .develop
          · exact hsame hc'
          · rw [hdiff hc', if_pos (hc.resolve_left hc')]
        · show (pullShot shot k s).de.queue.Perm _
          rw [hdiff hc, if_neg hph]
          exact sortDevelop_perm _
      · obtain ⟨hq, htr⟩ := hthere h0 h1
        refine ⟨fun y hy hs hk => ?_, fun y hy hs hk => ?_, fun x hx hs hk => ?_⟩
        · show _ ∈ (pullShot shot k s).tp.queue
          rw [hq, mem_sortTether]
          exact List.mem_map.2 ⟨y, hy, if_pos ⟨hs, beq_iff_eq.2 hk⟩⟩
        · have hy' : y ∈ (pullShot shot k s).tp.queue := hy
          rw [hq, mem_sortTether] at hy'
          obtain ⟨z, -, rfl⟩ := List.mem_map.1 hy'
          unfold Entry.hastened at hs hk ⊢
          split at hs <;> simp_all
        · show (pullShot shot k s).tp.transfer = _
          rw [htr, hx, Option.map_some, if_pos ⟨hs, beq_iff_eq.2 hk⟩]
      · obtain ⟨hroom, hfull⟩ := hopen ho hact hab
        refine ⟨fun hl => ?_, hfull⟩
        show _ ∈ (pullShot shot k s).tp.queue ∧ (pullShot shot k s).tp.queue.length = _
        rw [hroom hl, mem_sortTether, (sortTether_perm _).length_eq, List.length_append]
        exact ⟨List.mem_append_right _ (List.mem_singleton_self _), rfl⟩

end Sys2Proof.Machine
end

section
/-! The lines sampled after a reset or a wake: what each block does with its line from its resting state, and the resets
(R53, R102, R139, R163, R211, R212). -/

namespace Sys2Proof.Machine

set_option Elab.async false

open Sys2Proof

variable {s t : State} {sl : Slot}

/-! ## Notices that find room -/

/-- At most `n` notices wait and none was lost. -/
def State.Roomy (n : Nat) (s : State) : Prop := s.cp.lost = false ∧ s.cp.notices.length ≤ n

theorem State.Roomy.mono {n m : Nat} (h : s.Roomy n) (hm : n ≤ m) : s.Roomy m := ⟨h.1, h.2.trans hm⟩

theorem State.Roomy.raise {n : Nat} {k : NoticeKind} {sub : Subject} {v : List Wire} (h : s.Roomy n)
    (hn : n < Config.noticeRoom) : (Machine.raise k sub v s).Roomy (n + 1) := by
  obtain ⟨hl, hc⟩ := h
  unfold State.Roomy
  rw [raise_cp]
  unfold raiseIn
  split
  · exact ⟨hl, by simpa [bumpQueue] using hc.trans (Nat.le_succ n)⟩
  · rw [if_pos (by omega)]
    exact ⟨hl, by simpa using hc⟩

/-! ## A card slot at its line -/

/-- A slot whose card was found (R139). -/
def CardSlot.readied (c : CardSlot) : CardSlot :=
  { c with state := .ready, hold := .none, extents := [], final := false, lowArmed := true }

/-- An ABSENT slot without work follows its line (R139). -/
theorem presentStep_resting (hst : (s.slot sl).state = .absent) (hf : (s.slot sl).file = none)
    (hq : (s.slot sl).queue = []) (ho : s.cw.overflow = false) (hc : s.cw.closing = false) (ha : s.cw.a.final = false) :
    presentStep sl s = if s.cardLine sl then raiseCard sl "INSERTED" [] (modSlot sl CardSlot.readied s) else s := by
  unfold presentStep
  rw [if_pos hst, if_pos hst]
  refine if_congr Iff.rfl ?_ rfl
  unfold insertCard
  extract_lets s1 w s2
  have e2 : s2 = modSlot sl CardSlot.readied s := by
    cases sl with
    | b => rfl
    | a => simp [s2, s1, w, modSlot, CardSlot.readied, ho]
  rw [e2]
  have er : slotRest sl (raiseCard sl "INSERTED" [] (modSlot sl CardSlot.readied s))
      = raiseCard sl "INSERTED" [] (modSlot sl CardSlot.readied s) := by
    cases sl <;> simp_all [slotRest, raiseCard, State.slot, modSlot, CardSlot.readied, raise]
  rw [slotSettle, er, overflowTest, if_neg]
  cases sl with
  | a => simp [raiseCard, modSlot, CardSlot.readied]
  | b => simp [raiseCard, modSlot, ha]

/-! ## The lens port, the tether port and the release line -/

/-- The lens port in WAITING from now (R103). -/
def State.waitingLens (s : State) : Lens := { s.lp with
  phase := .waiting, stopping := none, frameFrom := s.time, framePeriod := s.cfg.lens.framePeriod, slot := 0
  failRun := 0, goodRun := 0, lastSeq := none }

/-- A STOPPED lens port follows its line, the servo at rest (R102). -/
theorem detectStep_resting (hp : s.lp.phase = .stopped) (hf : s.fe.servo = .idle) :
    detectStep s = if s.lines.lensDetect && s.lp.enable then raiseLens "DETECT" { s with lp := s.waitingLens } else s := by
  unfold detectStep lensStopped
  rw [if_pos hp]
  cases s.lines.lensDetect with
  | false => rfl
  | true =>
    rw [if_pos rfl, hp]
    refine if_congr (by simp) ?_ rfl
    unfold lensWaiting lensCheck
    simp [raiseLens, hf, ServoState.running, State.waitingLens]

/-- A tether port in DOWN follows its line (R163). -/
theorem linkUpStep_resting (hp : s.tp.phase = .down) :
    linkUpStep s = if s.lines.linkUp then raiseTether "LINK_UP" { s with tp := { s.tp with phase := .idle, credits := 0 } }
      else s := by
  unfold linkUpStep tetherLost
  rw [if_pos hp, if_pos hp]

/-- The release filter started with no level set yet (R53). -/
def State.filtered (s : State) : Rtu := { s.rtu with
  level := if s.cfg.burst.filterMs = 0 then some s.lines.releasePressed else none
  filterAt := if s.cfg.burst.filterMs = 0 then none else some (s.time + s.cfg.burst.filterMs * 1000) }

theorem filterStart_fresh {live : Bool} (hl : s.rtu.level = none) :
    filterStart live s = { s with rtu := s.filtered } := by
  unfold filterStart State.filtered
  split
  · unfold filterTake
    simp [hl]
  · simp [← hl]

/-! ## What a step at rest raises -/

/-- Between two states one notice of a kind and subject was raised, or none. -/
def Raises (k : NoticeKind) (sub : Subject) (s t : State) : Prop :=
  t.cp = s.cp ∨ ∃ v time, t.cp = raiseIn k sub v time s.cp

section
variable {k k' : NoticeKind} {sub sub' : Subject} {v : List Wire}

theorem raises_raise : Raises k sub s (raise k sub v s) := .inr ⟨v, s.time, rfl⟩

theorem Raises.power (h : Raises k sub s t) : t.cp = { s.cp with notices := t.cp.notices, lost := t.cp.lost } := by
  rcases h with h | ⟨w, time, h⟩
  · rw [h]
  · rw [h]
    unfold raiseIn
    split
    · rfl
    · split <;> rfl

theorem Raises.tells (h : Raises k sub s t) (ht : s.Tells k' sub' v) (hk : (k, sub) ≠ (k', sub')) : t.Tells k' sub' v := by
  rcases h with h | ⟨w, time, h⟩
  · exact ht.of_cp h
  · exact (State.Tells.raise (s := { s with time := time }) (k' := k) (sub' := sub) (v' := w) ht
      (fun e => absurd e hk)).of_cp h

theorem Raises.roomy {n : Nat} (h : Raises k sub s t) (hs : s.Roomy n) (hn : n < Config.noticeRoom) : t.Roomy (n + 1) := by
  rcases h with h | ⟨w, time, h⟩
  · unfold State.Roomy
    rw [h]
    exact hs.mono (Nat.le_succ n)
  · have hr := State.Roomy.raise (s := { s with time := time }) (k := k) (sub := sub) (v := w) hs hn
    unfold State.Roomy at hr ⊢
    rw [h]
    exact hr

end

/-- A slot as its line leaves it. -/
def CardSlot.sampled (line : Bool) (c : CardSlot) : CardSlot := if line then c.readied else c

theorem presentStep_samples (hst : (s.slot sl).state = .absent) (hf : (s.slot sl).file = none)
    (hq : (s.slot sl).queue = []) (ho : s.cw.overflow = false) (hc : s.cw.closing = false) (ha : s.cw.a.final = false) :
    presentStep sl s = { modSlot sl (CardSlot.sampled (s.cardLine sl)) s with cp := (presentStep sl s).cp }
      ∧ Raises .cardState (.slot sl) s (presentStep sl s)
      ∧ (s.cardLine sl = true → (presentStep sl s).TellsCard sl "INSERTED" []) := by
  rw [presentStep_resting hst hf hq ho hc ha]
  unfold CardSlot.sampled
  cases s.cardLine sl with
  | false => cases sl <;> exact ⟨rfl, .inl rfl, nofun⟩
  | true => cases sl <;> exact ⟨rfl, .inr ⟨_, _, rfl⟩, fun _ => raise_tells _ _ _ _⟩

/-- The lens port as its line leaves it. -/
def State.sampledLens (s : State) : Lens := if s.lines.lensDetect && s.lp.enable then s.waitingLens else s.lp

theorem detectStep_samples (hp : s.lp.phase = .stopped) (hf : s.fe.servo = .idle) :
    detectStep s = { s with lp := s.sampledLens, cp := (detectStep s).cp }
      ∧ Raises .lensState (.num 0) s (detectStep s)
      ∧ (s.lines.lensDetect = true → s.lp.enable = true → (detectStep s).Tells .lensState (.num 0)
          [.word "WAITING", .word "DETECT", .i32 s.lp.counter, .word (refName s.lp.referenced), flag s.lp.overrun]) := by
  rw [detectStep_resting hp hf]
  unfold State.sampledLens
  split
  · exact ⟨rfl, .inr ⟨_, _, rfl⟩, fun _ _ => raise_tells _ _ _ _⟩
  · rename_i h
    exact ⟨rfl, .inl rfl, fun h1 h2 => absurd (by rw [h1, h2]; rfl) h⟩

/-- The tether port as its line leaves it. -/
def State.sampledTether (s : State) : Tether :=
  if s.lines.linkUp then { s.tp with phase := .idle, credits := 0 } else s.tp

theorem linkUpStep_samples (hp : s.tp.phase = .down) :
    linkUpStep s = { s with tp := s.sampledTether, cp := (linkUpStep s).cp }
      ∧ Raises .tetherState (.num 0) s (linkUpStep s)
      ∧ (s.lines.linkUp = true → (linkUpStep s).Tells .tetherState (.num 0)
          [.word "IDLE", .word "LINK_UP", .u16 s.tp.queue.length]) := by
  rw [linkUpStep_resting hp]
  unfold State.sampledTether
  cases s.lines.linkUp with
  | false => exact ⟨rfl, .inl rfl, nofun⟩
  | true => exact ⟨rfl, .inr ⟨_, _, rfl⟩, fun _ => raise_tells _ _ _ _⟩

/-! ## The state after a reset, its lines sampled -/

/-- The part reset, before its lines are sampled (R211, R212). -/
def State.cleared (c : Cfg) (m : List Host.Cell) (s : State) : State :=
  { State.reset with
    pending := s.pending, lines := s.lines, cfg := c, mem := m, ss := { Store.reset with next := c.firstShot }
    lp := { State.reset.lp with framePeriod := c.lens.framePeriod } }

/-- Only the first shot number is of the numbering group. -/
theorem numbering_iff (f : Field) : (f.group == .numbering) = (f == .firstShotNumber) := by cases f <;> rfl

/-- The applied configuration with the pending first shot number (R205). -/
def State.numbered (s : State) : Cfg :=
  (s.waiting.filter (fun w => w.1 == .firstShotNumber)).foldl (fun c w => c.apply w.1 w.2) s.cfg

theorem applyNumbering_cfg (s : State) : (applyNumbering s).cfg = s.numbered := by
  simp [applyNumbering, applyWaiting, numbering_iff, State.numbered]

theorem resetPart_eq (s : State) : resetPart s = sampleLines (s.cleared s.numbered s.mem) := by
  rw [← applyNumbering_cfg]
  rfl

theorem powerUpPart_eq (s : State) : powerUpPart s = sampleLines (s.cleared {} []) := rfl

/-- A reset part with its lines sampled, but for the command port. -/
def State.brought (b : State) : State := { b with
  cw := { b.cw with a := b.cw.a.sampled b.lines.cardA, b := b.cw.b.sampled b.lines.cardB }
  lp := b.sampledLens, tp := b.sampledTether, rtu := b.filtered }

section
variable {c : Cfg} {m : List Host.Cell}

theorem sampleLines_cleared (c : Cfg) (m : List Host.Cell) (s : State) :
    let b := s.cleared c m
    let t := sampleLines b
    t = { b.brought with cp := { notices := t.cp.notices } }
      ∧ (∀ sl, s.cardLine sl = true → t.TellsCard sl "INSERTED" [])
      ∧ (s.lines.lensDetect = true →
          t.Tells .lensState (.num 0) [.word "WAITING", .word "DETECT", .i32 0, .word "UNREFERENCED", flag false])
      ∧ (s.lines.linkUp = true → t.Tells .tetherState (.num 0) [.word "IDLE", .word "LINK_UP", .u16 0]) := by
  intro b t
  obtain ⟨e1, r1, a1⟩ := presentStep_samples (s := b) (sl := .a) rfl rfl rfl rfl rfl rfl
  obtain ⟨w1, hw1⟩ : ∃ w, presentStep .a b = w := ⟨_, rfl⟩
  rw [hw1] at e1 r1 a1
  have hfinal : w1.cw.a.final = false := by
    rw [e1]
    show (CardSlot.sampled _ {}).final = false
    unfold CardSlot.sampled
    split <;> rfl
  obtain ⟨e2, r2, a2⟩ := presentStep_samples (s := w1) (sl := .b) (by rw [e1]; rfl) (by rw [e1]; rfl) (by rw [e1]; rfl)
    (by rw [e1]; rfl) (by rw [e1]; rfl) hfinal
  obtain ⟨w2, hw2⟩ : ∃ w, presentStep .b w1 = w := ⟨_, rfl⟩
  rw [hw2] at e2 r2 a2
  have f2 : w2 = { b with cw := b.brought.cw, cp := w2.cp } := by
    rw [e1] at e2
    exact e2
  obtain ⟨e3, r3, a3⟩ := detectStep_samples (s := w2) (by rw [f2]; rfl) (by rw [f2]; rfl)
  obtain ⟨w3, hw3⟩ : ∃ w, detectStep w2 = w := ⟨_, rfl⟩
  rw [hw3] at e3 r3 a3
  have f3 : w3 = { b with cw := b.brought.cw, lp := b.brought.lp, cp := w3.cp } := by
    rw [f2] at e3
    exact e3
  obtain ⟨e4, r4, a4⟩ := linkUpStep_samples (s := w3) (by rw [f3]; rfl)
  obtain ⟨w4, hw4⟩ : ∃ w, linkUpStep w3 = w := ⟨_, rfl⟩
  rw [hw4] at e4 r4 a4
  have f4 : w4 = { b with cw := b.brought.cw, lp := b.brought.lp, tp := b.brought.tp, cp := w4.cp } := by
    rw [f3] at e4
    exact e4
  have ht : t = { b.brought with cp := w4.cp } := by
    have e5 : t = filterStart true w4 := by rw [← hw4, ← hw3, ← hw2, ← hw1]; rfl
    rw [e5, filterStart_fresh (by rw [f4]; rfl), f4]
    rfl
  have hroom : w4.Roomy 4 := by
    have h0 : b.Roomy 0 := ⟨rfl, Nat.le_refl 0⟩
    exact r4.roomy (r3.roomy (r2.roomy (r1.roomy h0 (by decide)) (by decide)) (by decide)) (by decide)
  have hcp : w4.cp = { notices := w4.cp.notices } := by
    have hl := hroom.1
    have hb : b.cp = {} := rfl
    have h1 := r1.power
    have h2 := r2.power
    have h3 := r3.power
    have h4 := r4.power
    rw [hb] at h1
    rw [h1] at h2
    rw [h2] at h3
    rw [h3] at h4
    rw [hl] at h4
    exact h4
  have htcp : t.cp = w4.cp := by rw [ht]
  refine ⟨by rw [htcp, ← hcp, ht], fun sl hsl => ?_, fun hd => ?_, fun hu => ?_⟩
  · unfold State.TellsCard
    refine State.Tells.of_cp (s := w4) ?_ htcp
    cases sl with
    | a =>
      have a1' := a1 hsl
      unfold State.TellsCard at a1'
      have h4 := r4.tells (r3.tells (r2.tells a1' (by decide)) (by decide)) (by decide)
      rw [ht]
      rw [e1] at h4
      exact h4
    | b =>
      have a2' := a2 (by rw [e1]; exact hsl)
      unfold State.TellsCard at a2'
      have h4 := r4.tells (r3.tells a2' (by decide)) (by decide)
      rw [ht]
      rw [f2] at h4
      exact h4
  · refine State.Tells.of_cp (s := w4) ?_ htcp
    have h3 := a3 (by rw [f2]; exact hd) (by rw [f2]; rfl)
    have h4 := r4.tells h3 (by decide)
    rw [f2] at h4
    exact h4
  · refine State.Tells.of_cp (s := w4) ?_ htcp
    have h4 := a4 (by rw [f3]; exact hu)
    rw [f3] at h4
    exact h4

/-- What a reset part's slot is at its line. -/
theorem sampled_empty (line : Bool) : CardSlot.sampled line {} = { ({} : CardSlot) with state := if line then .ready else .absent } := by
  cases line <;> rfl

end

/-- The state that a reset leaves, with the configuration and the bytes that it keeps. -/
theorem sampleLines_leaves {c : Cfg} {m : List Host.Cell} (hw : sampleLines (s.cleared c m) = t) :
    t.time = 0 ∧ t.pending = s.pending ∧ t.lines = s.lines ∧ t.waiting = []
      ∧ t.cfg = c ∧ t.mem = m ∧ t.ss = { Store.reset with next := c.firstShot }
      ∧ t.sp = {} ∧ t.fe = {} ∧ t.de = {} ∧ t.mi = {} ∧ t.rtu.phase = .idle ∧ t.rtu.burst = none ∧ t.rtu.nextBurst = 1
      ∧ t.tp = { ({} : Tether) with phase := if s.lines.linkUp then .idle else .down }
      ∧ t.cw.overflow = false ∧ t.cw.closing = false
      ∧ (∀ sl, t.slot sl = { ({} : CardSlot) with state := if s.cardLine sl then .ready else .absent })
      ∧ t.lp = { ({} : Lens) with
          phase := if s.lines.lensDetect then .waiting else .stopped, framePeriod := c.lens.framePeriod }
      ∧ t.cp = { notices := t.cp.notices } := by
  obtain ⟨ht, -⟩ := sampleLines_cleared c m s
  rw [hw] at ht
  rw [ht]
  refine ⟨rfl, rfl, rfl, rfl, rfl, rfl, rfl, rfl, rfl, rfl, rfl, rfl, rfl, rfl, ?_, rfl, rfl, fun sl => ?_, ?_, rfl⟩
  · show State.sampledTether (s.cleared c m) = _
    unfold State.sampledTether
    show (if s.lines.linkUp then _ else _) = _
    cases s.lines.linkUp <;> rfl
  · cases sl with
    | a => exact sampled_empty s.lines.cardA
    | b => exact sampled_empty s.lines.cardB
  · show State.sampledLens (s.cleared c m) = _
    unfold State.sampledLens
    show (if (s.lines.lensDetect && true) then _ else _) = _
    cases s.lines.lensDetect <;> rfl

/-- A reset's outcome (R211, R212). -/
theorem exec_resets {c : Instr} (h : c = .powerUpReset ∨ (s.resetReply = true ∧ (c = .replyCollected ∨ c = .commandReset))) :
    exec c s = .next (sampleLines (s.cleared (if c = .powerUpReset then {} else s.numbered)
      (if c = .powerUpReset then [] else s.mem))) := by
  have hcol : s.resetReply = true → collectReply s = resetPart s := by
    unfold State.resetReply collectReply
    cases s.cp.slot with
    | none => nofun
    | some r => exact fun hr => if_pos hr
  rcases h with rfl | ⟨hr, rfl | rfl⟩
  · exact congrArg Host.Outcome.next (powerUpPart_eq s)
  · exact congrArg Host.Outcome.next ((hcol hr).trans (resetPart_eq s))
  · exact congrArg Host.Outcome.next ((if_pos hr).trans (resetPart_eq s))

/-- With every input line inactive no block leaves its resting state (R212). -/
theorem sampleLines_inactive {u : State} {p : List Instr} (hu : u = { State.reset with pending := p }) :
    sampleLines u = u := by
  have hcard : ∀ sl, presentStep sl u = u := fun sl => by
    rw [presentStep_resting (by rw [hu]; cases sl <;> rfl) (by rw [hu]; cases sl <;> rfl) (by rw [hu]; cases sl <;> rfl)
      (by rw [hu]; rfl) (by rw [hu]; rfl) (by rw [hu]; rfl), if_neg]
    rw [hu]
    cases sl <;> nofun
  unfold sampleLines
  rw [hcard, hcard, detectStep_resting (by rw [hu]; rfl) (by rw [hu]; rfl), if_neg (by rw [hu]; nofun),
    linkUpStep_resting (by rw [hu]; rfl), if_neg (by rw [hu]; nofun), filterStart_fresh (by rw [hu]; rfl)]
  have hr : u.filtered = u.rtu := by
    rw [hu]
    simp [State.filtered, State.reset]
  rw [hr]

/-- Settles O60: each reset samples the lines of a cleared part, where every block is at rest. -/
theorem resetsLeave : Obligations.ResetsLeave := by
  refine ⟨fun tag s ha => ?_, fun c s => ⟨fun hr => ?_, fun hc => ?_, ?_⟩⟩
  · exact congrArg Host.Outcome.next (hostCommand_awake ha)
  · show (Host.Outcome.next (if s.resetReply then resetPart s else s) : Host.Outcome State Fault Refusal) = _
    rw [hr]
    rfl
  · obtain ⟨-, hcards, hlens, htether⟩ := sampleLines_cleared (if c = .powerUpReset then {} else s.numbered)
      (if c = .powerUpReset then [] else s.mem) s
    have he := exec_resets hc
    generalize ht : sampleLines (s.cleared (if c = .powerUpReset then {} else s.numbered)
      (if c = .powerUpReset then [] else s.mem)) = t at *
    obtain ⟨h1, h2, h3, h4, h5, h6, h7, h8, h9, h10, h11, h12, h13, h14, h15, h16, h17, h18, h19, h20⟩ :=
      sampleLines_leaves ht
    refine ⟨t, he, h1, h2, h3, h4, h5, h6, ?_, h8, h9, h10, h11, h12, h13, h14, h15, ?_, ?_, ?_, ?_, ?_, ?_, htether, h16,
      h17, fun sl => ⟨h18 sl, ?_⟩, ⟨?_, ?_⟩, ?_⟩
    · rw [h7, h5]
    iterate 5 rw [h15]
    · rw [h15]
      rfl
    · rw [h18 sl]
      exact ⟨rfl, rfl, rfl, rfl, rfl, rfl, rfl, rfl, rfl, rfl, hcards sl⟩
    · rw [h19, h5]
    · rw [h19]
      exact ⟨rfl, rfl, rfl, rfl, rfl, rfl, rfl, rfl, rfl, rfl, rfl, rfl, rfl, rfl, rfl, rfl, rfl, rfl, hlens⟩
    · rw [h20]
      exact ⟨rfl, rfl, rfl, rfl⟩
  · exact congrArg Host.Outcome.next (sampleLines_inactive (p := s.pending) rfl)

end Sys2Proof.Machine
end

section
/-! The card writer at a wake: each slot at its line, and the jobs handed back to it (R26, R151, R161). -/

namespace Sys2Proof.Machine

set_option Elab.async false

open Sys2Proof

variable {s t u w : State} {sl x : Slot} {n : Nat} {k : FileKind}

/-! ## What a wake may raise -/

/-- The kinds of notice by which a wake tells of the lines. -/
def NoticeKind.ofLine : NoticeKind → Bool
  | .cardState | .lensState | .tetherState => true
  | _ => false

/-- A command port that has only raised notices of the lines. -/
structure Announced (c d : CommandPort) : Prop where
  rest : d = { c with notices := d.notices, lost := d.lost }
  lost : c.lost = true → d.lost = true
  keys : c.notices.map (·.key) <+: d.notices.map (·.key)
  kept : ∀ x ∈ c.notices, x.kind.ofLine = false → x ∈ d.notices

theorem Announced.refl (c : CommandPort) : Announced c c := ⟨rfl, id, List.prefix_rfl, fun _ h _ => h⟩

theorem Announced.trans {c d e : CommandPort} (h1 : Announced c d) (h2 : Announced d e) : Announced c e where
  rest := by
    have r2 := h2.rest
    rw [h1.rest] at r2
    exact r2
  lost := fun h => h2.lost (h1.lost h)
  keys := h1.keys.trans h2.keys
  kept := fun x hx hk => h2.kept x (h1.kept x hx hk) hk

theorem announced_raiseIn {kd : NoticeKind} (hk : kd.ofLine = true) (sub : Subject) (v : List Wire) (time : Nat) (c : CommandPort) :
    Announced c (raiseIn kd sub v time c) := by
  unfold raiseIn
  split
  · refine ⟨rfl, id, ?_, fun x hx hx' => List.mem_map.2 ⟨x, hx, if_neg fun hs => ?_⟩⟩
    · show _ <+: (bumpQueue kd sub time v c.notices).map (·.key)
      have e : (bumpQueue kd sub time v c.notices).map (·.key) = c.notices.map (·.key) := by
        unfold bumpQueue
        rw [List.map_map]
        refine List.map_congr_left fun y _ => ?_
        show Notice.key (if sameNotice kd sub y then bumpNotice time v y else y) = y.key
        split <;> rfl
      rw [e]
    · have e : x.kind = kd := by
        simp only [sameNotice, Bool.and_eq_true, beq_iff_eq] at hs
        exact hs.1
      rw [e, hk] at hx'
      cases hx'
  · split
    · exact ⟨rfl, id, by simp, fun x hx _ => List.mem_append_left _ hx⟩
    · exact ⟨rfl, fun _ => rfl, List.prefix_rfl, fun x hx _ => hx⟩

theorem Raises.announced {kd : NoticeKind} {sub : Subject} (h : Raises kd sub s t) (hk : kd.ofLine = true) : Announced s.cp t.cp := by
  rcases h with h | ⟨v, time, h⟩
  · rw [h]
    exact .refl _
  · rw [h]
    exact announced_raiseIn hk _ _ _ _

/-! ## The slots while jobs are handed back -/

/-- The slots of a part that wakes, their lines sampled and some jobs handed back to them. -/
structure Carding (w u : State) : Prop where
  eq : u = { w with cw := u.cw, cp := u.cp }
  overflow : u.cw.overflow = false
  closing : u.cw.closing = false
  slot : ∀ sl, u.slot sl = { w.slot sl with
    hold := .none, extents := [], final := false, lowArmed := true, file := none, queue := (u.slot sl).queue
    state := if w.cardLine sl then (if (u.slot sl).queue = [] then .ready else .starved) else .absent }
  tells : ∀ sl, w.cardLine sl = true → u.TellsCard sl (if (u.slot sl).queue = [] then "INSERTED" else "STARVED") []
  announced : Announced w.cp u.cp

/-- A slot before its line is sampled. -/
def CardSlot.rested (c : CardSlot) : CardSlot := { c with
  state := .absent, hold := .none, extents := [], final := false, lowArmed := true, queue := [], file := none }

theorem sampled_rested (line : Bool) {c : CardSlot} (hc : c = c.rested) : c.sampled line = { c with
    hold := .none, extents := [], final := false, lowArmed := true, file := none, queue := []
    state := if line then .ready else .absent } := by
  rw [hc]
  cases line <;> rfl

/-- The slots sampled at a wake (R161). -/
theorem presentStep_carding (hw : ∀ sl, w.slot sl = (w.slot sl).rested) (ho : w.cw.overflow = false)
    (hc : w.cw.closing = false) :
    Carding w (presentStep .b (presentStep .a w)) ∧ ∀ sl, ((presentStep .b (presentStep .a w)).slot sl).queue = [] := by
  have hst : ∀ sl, (w.slot sl).state = .absent ∧ (w.slot sl).file = none ∧ (w.slot sl).queue = [] ∧ (w.slot sl).final = false := by
    intro sl
    rw [hw sl]
    exact ⟨rfl, rfl, rfl, rfl⟩
  obtain ⟨sa, fa, qa, na⟩ := hst .a
  obtain ⟨sb, fb, qb, -⟩ := hst .b
  obtain ⟨e1, r1, a1⟩ := presentStep_samples sa fa qa ho hc na
  generalize presentStep .a w = w1 at *
  have hfinal : w1.cw.a.final = false := by
    rw [e1]
    show ((w.slot .a).sampled (w.cardLine .a)).final = false
    rw [sampled_rested _ (hw .a)]
  obtain ⟨e2, r2, a2⟩ := presentStep_samples (s := w1) (sl := .b) (by rw [e1]; exact sb) (by rw [e1]; exact fb)
    (by rw [e1]; exact qb) (by rw [e1]; exact ho) (by rw [e1]; exact hc) hfinal
  generalize presentStep .b w1 = w2 at *
  have e : w2 = { w with cp := w2.cp, cw := { w.cw with a := w.cw.a.sampled w.lines.cardA, b := w.cw.b.sampled w.lines.cardB } } := by
    rw [e1] at e2
    exact e2
  have hs : ∀ sl, w2.slot sl = { w.slot sl with
      hold := .none, extents := [], final := false, lowArmed := true, file := none, queue := []
      state := if w.cardLine sl then .ready else .absent } := by
    intro sl
    rw [← sampled_rested _ (hw sl), e]
    cases sl <;> rfl
  have hq : ∀ sl, (w2.slot sl).queue = [] := fun sl => by rw [hs sl]
  refine ⟨⟨by rw [e], by rw [e]; exact ho, by rw [e]; exact hc, fun sl => ?_, fun sl hl => ?_,
    (r1.announced rfl).trans (r2.announced rfl)⟩, hq⟩
  · rw [hq sl, if_pos rfl, hs sl]
  · rw [hq sl, if_pos rfl]
    cases sl with
    | a =>
      have h := a1 hl
      unfold State.TellsCard at h ⊢
      have es : w2.slot .a = w1.slot .a := by rw [e2]; rfl
      rw [es]
      exact r2.tells h (by decide)
    | b => exact a2 (by rw [e1]; exact hl)

/-! ## A job handed back -/

/-- A slot with work and no extents, between files: READY leads to STARVED (R151). -/
theorem slotRest_hungry (hf : (s.slot sl).file = none) (hc : s.cw.closing = false) (hh : (s.slot sl).hold = .none)
    (he : (s.slot sl).extents = []) (hq : (s.slot sl).queue ≠ []) :
    ((s.slot sl).state = .ready → slotRest sl s = starve sl s)
      ∧ ((s.slot sl).state = .starved ∨ (s.slot sl).state = .absent → slotRest sl s = s) := by
  refine ⟨fun hst => ?_, ?_⟩
  · simp [slotRest, hf, hc, hh, he, hq, hst]
  · rintro (hst | hst) <;> simp [slotRest, hf, hc, hh, he, hq, hst]

/-- Without a final list the overflow move does not follow (R152). -/
theorem overflowTest_unfinal (h : s.cw.a.final = false) : overflowTest s = s := by
  unfold overflowTest
  rw [if_neg]
  rw [h]
  simp

/-- One slot has got work; a card there is told STARVED. -/
theorem Carding.extend {v : State} (h : Carding w u) (eq : v = { u with cw := v.cw, cp := v.cp })
    (ho : v.cw.overflow = u.cw.overflow) (hc : v.cw.closing = u.cw.closing) (hq : (v.slot sl).queue ≠ [])
    (hs : v.slot sl = { u.slot sl with
      queue := (v.slot sl).queue, state := if w.cardLine sl then .starved else .absent })
    (hother : ∀ x, x ≠ sl → v.slot x = u.slot x) (ht : w.cardLine sl = true → v.TellsCard sl "STARVED" [])
    (hr : Raises .cardState (.slot sl) u v) : Carding w v where
  eq := by
    have e := h.eq
    rw [e] at eq
    exact eq
  overflow := ho.trans h.overflow
  closing := hc.trans h.closing
  slot := fun x => by
    by_cases hx : x = sl
    · rw [hx, if_neg hq]
      have e := h.slot sl
      rw [e] at hs
      exact hs
    · rw [hother x hx]
      exact h.slot x
  tells := fun x hl => by
    by_cases hx : x = sl
    · rw [hx] at hl ⊢
      rw [if_neg hq]
      exact ht hl
    · have e := h.tells x hl
      unfold State.TellsCard at e ⊢
      rw [hother x hx]
      exact hr.tells e fun c => hx (Subject.slot.inj (Prod.mk.inj c).2).symm
  announced := h.announced.trans (hr.announced rfl)

/-- A job joins its slot's queue, and a slot with a card is then STARVED, for it has no extents yet (R143, R151). -/
theorem Carding.joins (h : Carding w u) (sl : Slot) (j : FileJob) :
    Carding w (slotSettle sl (modSlot sl (fun x => { x with queue := x.queue ++ [j] }) u))
      ∧ ∀ x, ((slotSettle sl (modSlot sl (fun x => { x with queue := x.queue ++ [j] }) u)).slot x).queue
          = (u.slot x).queue ++ if x = sl then [j] else [] := by
  have hqueue : ∀ x, ((slotRest sl (modSlot sl (fun x => { x with queue := x.queue ++ [j] }) u)).slot x).queue
      = (u.slot x).queue ++ if x = sl then [j] else [] := by
    intro x
    rw [slotRest_queue]
    cases sl <;> cases x <;> simp [modSlot, State.slot]
  obtain ⟨m, hm⟩ : ∃ m, modSlot sl (fun x => { x with queue := x.queue ++ [j] }) u = m := ⟨_, rfl⟩
  have em : m.slot sl = { u.slot sl with queue := (u.slot sl).queue ++ [j] } := by rw [← hm]; cases sl <;> rfl
  have eo : ∀ x, x ≠ sl → m.slot x = u.slot x := fun x hx => by
    rw [← hm]
    cases sl <;> cases x <;> first | rfl | exact absurd rfl hx
  rw [hm] at hqueue ⊢
  have hu := h.slot sl
  have hfinal : m.cw.a.final = false := by
    have ha := h.slot .a
    show (m.slot .a).final = false
    by_cases hx : Slot.a = sl
    · rw [hx, em, hu]
    · rw [eo _ hx, ha]
  have hc : m.cw.closing = false := by rw [← hm]; cases sl <;> exact h.closing
  have hov : m.cw.overflow = false := by rw [← hm]; cases sl <;> exact h.overflow
  obtain ⟨hready, hrest⟩ := slotRest_hungry (s := m) (sl := sl) (by rw [em, hu]) hc (by rw [em, hu]) (by rw [em, hu])
    (by rw [em]; simp)
  have hv : slotSettle sl m = slotRest sl m := by
    rw [slotSettle, overflowTest_unfinal]
    show ((slotRest sl m).slot .a).final = false
    obtain ⟨st, hd, c, er⟩ := slotRest_eq sl m
    rw [er]
    cases sl <;> exact hfinal
  rw [hv]
  refine ⟨?_, hqueue⟩
  have hne : ((slotRest sl m).slot sl).queue ≠ [] := by rw [hqueue, if_pos rfl]; simp
  have hother : ∀ x, x ≠ sl → (slotRest sl m).slot x = u.slot x := fun x hx => by
    obtain ⟨st, hd, c, er⟩ := slotRest_eq sl m
    rw [← eo x hx, er]
    cases sl <;> cases x <;> first | rfl | exact absurd rfl hx
  by_cases hs : w.cardLine sl = true ∧ (u.slot sl).queue = []
  · obtain ⟨hl, hq⟩ := hs
    have hst : (m.slot sl).state = .ready := by rw [em, hu, hl, hq]; rfl
    rw [hready hst] at hqueue hne hother ⊢
    refine h.extend ?_ ?_ ?_ hne ?_ hother (fun _ => raise_tells _ _ _ _) ?_
    · rw [← hm]
      cases sl <;> rfl
    · rw [← hm]
      cases sl <;> rfl
    · rw [← hm]
      cases sl <;> rfl
    · rw [hl, ← hm]
      cases sl <;> rfl
    · rw [← hm]
      cases sl <;> exact .inr ⟨_, _, rfl⟩
  · have hst : (u.slot sl).state = if w.cardLine sl then .starved else .absent := by
      rw [hu]
      cases hl : w.cardLine sl with
      | false => rfl
      | true => exact if_neg fun hq => hs ⟨hl, hq⟩
    have hrests : (m.slot sl).state = .starved ∨ (m.slot sl).state = .absent := by
      rw [em]
      show (u.slot sl).state = _ ∨ (u.slot sl).state = _
      rw [hst]
      split
      · exact .inl rfl
      · exact .inr rfl
    rw [hrest hrests] at hqueue hne hother ⊢
    have hr : Raises .cardState (.slot sl) u m := .inl (by rw [← hm]; cases sl <;> rfl)
    refine h.extend (by rw [← hm]; cases sl <;> rfl) (by rw [← hm]; cases sl <;> rfl) (by rw [← hm]; cases sl <;> rfl) hne
      (by rw [← hst, em]) hother (fun hl => ?_) hr
    have e := h.tells sl hl
    rw [if_neg fun hq => hs ⟨hl, hq⟩] at e
    unfold State.TellsCard at e ⊢
    rw [em]
    exact e.of_cp (by rw [← hm]; cases sl <;> rfl)

/-! ## A duty handed back -/

/-- Whether a shot owes a slot a job: a PENDING duty, a proof's only once the proof is done (R12). -/
def Shot.owesCard (h : Shot) (sl : Slot) (k : FileKind) : Bool :=
  h.dutyState (.card k sl) == some .pending && (k != .proof || h.proofReady)

theorem Carding.same_held (h : Carding w u) (n : Nat) : u.held n = w.held n := by
  rw [h.eq]
  rfl

theorem Carding.handCard (h : Carding w u) (n : Nat) (k : FileKind) (sl : Slot) :
    Carding w (handCard n k sl u) ∧ ∀ x, ((handCard n k sl u).slot x).queue = (u.slot x).queue
      ++ if x = sl ∧ w.dutyOf n (.card k sl) = some .pending ∧ ⟨n, k⟩ ∉ (u.slot sl).queue then [⟨n, k⟩] else [] := by
  have hd : u.dutyOf n (.card k sl) = w.dutyOf n (.card k sl) := by
    unfold State.dutyOf
    rw [h.same_held]
  by_cases hno : w.dutyOf n (.card k sl) ≠ some .pending ∨ ⟨n, k⟩ ∈ (u.slot sl).queue
  · have e : Machine.handCard n k sl u = u := by
      unfold Machine.handCard
      rw [hd]
      exact if_pos hno
    rw [e]
    refine ⟨h, fun x => ?_⟩
    rw [if_neg, List.append_nil]
    rintro ⟨_, hp, hm⟩
    exact hno.elim (fun c => c hp) hm
  · have e : Machine.handCard n k sl u = slotSettle sl (modSlot sl (fun x => { x with queue := x.queue ++ [⟨n, k⟩] }) u) := by
      unfold Machine.handCard
      rw [hd, h.overflow]
      simp only [Bool.and_false, Bool.false_and, Bool.false_eq_true, if_false]
      exact if_neg hno
    rw [e]
    obtain ⟨hp, hm⟩ := not_or.1 hno
    obtain ⟨hj, hq⟩ := h.joins sl ⟨n, k⟩
    refine ⟨hj, fun x => (hq x).trans (congrArg _ (if_congr ?_ rfl rfl))⟩
    exact ⟨fun hx => ⟨hx, not_not.1 hp, hm⟩, And.left⟩

theorem handDuty_card {y : Shot} (hy : s.held n = some y) (k : FileKind) (sl : Slot) :
    handDuty n (.card k sl) s = if k != .proof || y.proofReady then handCard n k sl s else s := by
  unfold handDuty
  rw [hy]
  cases k <;> rfl

/-- A card duty handed back: its job joins its slot's queue once (R161). -/
theorem Carding.handDuty (h : Carding w u) (n : Nat) (k : FileKind) (sl : Slot) :
    Carding w (handDuty n (.card k sl) u)
      ∧ (∀ x, x ≠ sl → ((handDuty n (.card k sl) u).slot x).queue = (u.slot x).queue)
      ∧ ∀ y, w.held n = some y → ⟨n, k⟩ ∉ (u.slot sl).queue → ((handDuty n (.card k sl) u).slot sl).queue
          = (u.slot sl).queue ++ if y.owesCard sl k then [⟨n, k⟩] else [] := by
  cases hh : w.held n with
  | none =>
    have e : Machine.handDuty n (.card k sl) u = u := by
      unfold Machine.handDuty
      rw [h.same_held, hh]
    rw [e]
    exact ⟨h, fun _ _ => rfl, fun _ hc => nomatch hc⟩
  | some y =>
    rw [handDuty_card ((h.same_held n).trans hh)]
    cases hr : k != .proof || y.proofReady with
    | false =>
      rw [if_neg Bool.false_ne_true]
      refine ⟨h, fun _ _ => rfl, fun z hz _ => ?_⟩
      obtain rfl := Option.some.inj hz
      unfold Shot.owesCard
      rw [hr, Bool.and_false]
      exact (List.append_nil _).symm
    | true =>
      obtain ⟨hc, hq⟩ := h.handCard n k sl
      rw [if_pos rfl]
      refine ⟨hc, fun x hx => by rw [hq, if_neg fun c => hx c.1, List.append_nil], fun z hz hm => ?_⟩
      obtain rfl := Option.some.inj hz
      rw [hq, dutyOf_held hh]
      refine congrArg _ (if_congr ?_ rfl rfl)
      unfold Shot.owesCard
      rw [hr, Bool.and_true, beq_iff_eq]
      exact ⟨fun c => c.2.1, fun c => ⟨rfl, c, hm⟩⟩

/-! ## The duties of every shot handed back -/

/-- The jobs that a shot owes a slot, in the order of the kinds (R161). -/
def Shot.cardJobs (sl : Slot) (h : Shot) : List FileJob :=
  (sendKinds.filter (h.owesCard sl)).map (fun k => ⟨h.number, k⟩)

/-- One kind of a shot's card duties handed back, if it is PENDING. -/
def handKind (y : Shot) (sl : Slot) (u : State) (k : FileKind) : State :=
  if y.dutyState (.card k sl) = some .pending then handDuty y.number (.card k sl) u else u

theorem Carding.handKind {y : Shot} (h : Carding w u) (sl : Slot) (k : FileKind) :
    Carding w (handKind y sl u k) ∧ (∀ x, x ≠ sl → ((handKind y sl u k).slot x).queue = (u.slot x).queue)
      ∧ (w.held y.number = some y → ⟨y.number, k⟩ ∉ (u.slot sl).queue → ((handKind y sl u k).slot sl).queue
          = (u.slot sl).queue ++ if y.owesCard sl k then [⟨y.number, k⟩] else []) := by
  unfold Machine.handKind
  split
  · obtain ⟨h1, h2, h3⟩ := h.handDuty y.number k sl
    exact ⟨h1, h2, h3 y⟩
  · rename_i hp
    refine ⟨h, fun _ _ => rfl, fun _ _ => ?_⟩
    simp [Shot.owesCard, hp]

/-- Card duties of one shot and slot handed back in turn. -/
theorem Carding.handKinds {y : Shot} (sl : Slot) : ∀ (ks : List FileKind) {u : State},
    Carding w u → Carding w (ks.foldl (Machine.handKind y sl) u)
      ∧ (∀ x, x ≠ sl → ((ks.foldl (Machine.handKind y sl) u).slot x).queue = (u.slot x).queue)
      ∧ (w.held y.number = some y → ks.Nodup → (∀ k ∈ ks, ⟨y.number, k⟩ ∉ (u.slot sl).queue) → ((ks.foldl (Machine.handKind y sl) u).slot sl).queue
          = (u.slot sl).queue ++ (ks.filter (y.owesCard sl)).map (fun k => ⟨y.number, k⟩))
  | [], u, h => ⟨h, fun _ _ => rfl, fun _ _ _ => (List.append_nil _).symm⟩
  | k :: ks, u, h => by
    obtain ⟨h1, h2, h3⟩ := h.handKind (y := y) sl k
    obtain ⟨i1, i2, i3⟩ := Carding.handKinds (y := y) sl ks h1
    refine ⟨i1, fun x hx => (i2 x hx).trans (h2 x hx), fun hy hn hq => ?_⟩
    obtain ⟨hk, hn'⟩ := List.nodup_cons.1 hn
    have hu := h3 hy (hq k List.mem_cons_self)
    refine (i3 hy hn' fun f hf => ?_).trans ?_
    · rw [hu]
      refine fun hm => (List.mem_append.1 hm).elim (hq f (List.mem_cons_of_mem _ hf)) fun hm => ?_
      split at hm
      · have e : f = k := (FileJob.mk.inj (List.mem_singleton.1 hm)).2
        exact hk (e ▸ hf)
      · exact nomatch hm
    · rw [hu, List.append_assoc, List.filter_cons]
      split <;> rfl

theorem handCardDuties_eq (sl : Slot) (y : Shot) (s : State) : handCardDuties sl y s = sendKinds.foldl (handKind y sl) s := rfl

/-- One shot's card duties of both slots handed back (R161). -/
def handCards (u : State) (y : Shot) : State := handCardDuties .b y (handCardDuties .a y u)

theorem Carding.handCards {y : Shot} (h : Carding w u) : Carding w (handCards u y)
      ∧ ∀ sl, w.held y.number = some y → (∀ j ∈ (u.slot sl).queue, j.shot ≠ y.number) →
          ((handCards u y).slot sl).queue = (u.slot sl).queue ++ y.cardJobs sl := by
  obtain ⟨a1, a2, a3⟩ := Carding.handKinds (y := y) .a sendKinds h
  obtain ⟨b1, b2, b3⟩ := Carding.handKinds (y := y) .b sendKinds a1
  refine ⟨b1, fun sl hy hj => ?_⟩
  have hnew : ∀ k ∈ sendKinds, (⟨y.number, k⟩ : FileJob) ∉ (u.slot sl).queue := fun k _ hm => hj _ hm rfl
  cases sl with
  | a => exact (b2 .a nofun).trans (a3 hy (by decide) hnew)
  | b =>
    have e := a2 .b nofun
    exact (b3 hy (by decide) (fun k hk => by rw [e]; exact hnew k hk)).trans (congrArg (· ++ _) e)

/-- Every shot's card duties handed back: each queue holds the shots' jobs in their order (R161). -/
theorem Carding.handShots : ∀ (l : List Shot) {u : State}, Carding w u →
    Carding w (l.foldl Machine.handCards u)
      ∧ ∀ sl, (∀ y ∈ l, w.held y.number = some y) → (l.map (·.number)).Nodup → (∀ j ∈ (u.slot sl).queue, j.shot ∉ l.map (·.number)) →
          ((l.foldl Machine.handCards u).slot sl).queue = (u.slot sl).queue ++ l.flatMap (Shot.cardJobs sl)
  | [], u, h => ⟨h, fun _ _ _ _ => (List.append_nil _).symm⟩
  | y :: l, u, h => by
    obtain ⟨h1, h2⟩ := h.handCards (y := y)
    obtain ⟨i1, i2⟩ := Carding.handShots l h1
    refine ⟨i1, fun sl hl hn hq => ?_⟩
    obtain ⟨hy, hn'⟩ := List.nodup_cons.1 hn
    have hu := h2 sl (hl y List.mem_cons_self) fun j hj c => hq j hj (List.mem_cons.2 (.inl c))
    refine (i2 sl (fun z hz => hl z (List.mem_cons_of_mem _ hz)) hn' fun j hj => ?_).trans ?_
    · rw [hu] at hj
      rcases List.mem_append.1 hj with hj | hj
      · exact fun c => hq j hj (List.mem_cons_of_mem _ c)
      · obtain ⟨k, -, rfl⟩ := List.mem_map.1 hj
        exact hy
    · rw [hu, List.append_assoc]
      rfl

end Sys2Proof.Machine
end

section
/-! The development engine's and the tether port's queues at a held wake (R26, R137, R185). -/

namespace Sys2Proof.Machine

set_option Elab.async false

open Sys2Proof

variable {s t u v w : State} {n : Nat} {k : FileKind}

/-! ## Develop duties handed back -/

/-- One shot's DEVELOP duty handed back, if it is PENDING (R137). -/
def handDevelops (u : State) (t : Shot) : State :=
  match t.duty .develop with
  | some d => if d.state = .pending then joinDevelop t.number t.serial (d.urgent || t.urgent) u else u
  | none => u

/-- The entry of a shot's PENDING DEVELOP duty (R137). -/
def Shot.developEntry (t : Shot) : Option DevEntry :=
  (t.duty .develop).bind fun d => if d.state = .pending then some ⟨t.number, t.serial, d.urgent || t.urgent⟩ else none

theorem handDevelops_queue (u : State) (y : Shot) : ∃ q, handDevelops u y = { u with de := { u.de with queue := q } } := by
  unfold handDevelops joinDevelop
  split
  · split
    · split
      · exact ⟨_, rfl⟩
      · exact ⟨_, rfl⟩
    · exact ⟨_, rfl⟩
  · exact ⟨_, rfl⟩

/-- A shot that is not in the queue yet adds its entry. -/
theorem handDevelops_adds {y : Shot} (hy : u.held y.number = some y) (hp : u.de.phase ≠ .halted)
    (hq : ∀ e ∈ u.de.queue, e.shot ≠ y.number) (hs : u.de.queue.Pairwise inDevelopOrder) :
    (handDevelops u y).de.queue.Perm (u.de.queue ++ y.developEntry.toList)
      ∧ (handDevelops u y).de.queue.Pairwise inDevelopOrder := by
  unfold handDevelops Shot.developEntry
  cases hd : y.duty .develop with
  | none => exact ⟨by simp, hs⟩
  | some d =>
    rw [Option.bind_some]
    dsimp only
    split
    · rename_i hpend
      have hduty : u.dutyOf y.number .develop = some .pending := by
        rw [dutyOf_held hy]
        unfold Shot.dutyState
        rw [hd, Option.map_some, hpend]
      unfold joinDevelop
      rw [hduty, if_neg (by simp [hp])]
      have hf : u.de.queue.filter (fun e => e.shot != y.number) = u.de.queue :=
        List.filter_eq_self.2 fun e he => by simpa using hq e he
      dsimp only
      rw [hf]
      exact ⟨sortDevelop_perm _, sortDevelop_pairwise _⟩
    · exact ⟨by simp, hs⟩

theorem developEntry_shot {y : Shot} {e : DevEntry} (h : e ∈ y.developEntry.toList) : e.shot = y.number := by
  simp only [Shot.developEntry, Option.mem_toList, Option.bind_eq_some_iff] at h
  obtain ⟨d, -, hd⟩ := h
  split at hd
  · cases hd
    rfl
  · cases hd

/-- Every shot's DEVELOP duty handed back (R137). -/
theorem handDevelops_all : ∀ (l : List Shot) (u : State),
    (∃ q, l.foldl handDevelops u = { u with de := { u.de with queue := q } })
      ∧ ((∀ y ∈ l, u.held y.number = some y) → u.de.phase ≠ .halted → (l.map (·.number)).Nodup →
          (∀ e ∈ u.de.queue, e.shot ∉ l.map (·.number)) → u.de.queue.Pairwise inDevelopOrder →
          (l.foldl handDevelops u).de.queue.Perm (u.de.queue ++ l.flatMap (fun y => y.developEntry.toList))
            ∧ (l.foldl handDevelops u).de.queue.Pairwise inDevelopOrder)
  | [], u => ⟨⟨_, rfl⟩, fun _ _ _ _ hs => ⟨by simp, hs⟩⟩
  | y :: l, u => by
    obtain ⟨q, hq⟩ := handDevelops_queue u y
    obtain ⟨⟨r, hr⟩, hrest⟩ := handDevelops_all l (handDevelops u y)
    refine ⟨⟨r, by rw [List.foldl_cons, hr, hq]⟩, fun hl hp hn hd hs => ?_⟩
    obtain ⟨hy, hn'⟩ := List.nodup_cons.1 hn
    obtain ⟨h1, h2⟩ := handDevelops_adds (hl y List.mem_cons_self) hp
      (fun e he c => hd e he (List.mem_cons.2 (.inl c))) hs
    have hnew : ∀ e ∈ (handDevelops u y).de.queue, e.shot ∉ l.map (·.number) := by
      intro e he
      rcases List.mem_append.1 (h1.mem_iff.1 he) with he | he
      · exact fun c => hd e he (List.mem_cons_of_mem _ c)
      · rw [developEntry_shot he]
        exact hy
    obtain ⟨i1, i2⟩ := hrest (fun z hz => by rw [hq]; exact hl z (List.mem_cons_of_mem _ hz)) (by rw [hq]; exact hp) hn'
      hnew h2
    refine ⟨i1.trans ?_, i2⟩
    rw [List.flatMap_cons, ← List.append_assoc]
    exact h1.append_right _

/-! ## Send duties handed back -/

/-- What a send duty is but for its deferral. -/
def State.sendMark (s : State) (n : Nat) (k : FileKind) : Option (DutyState × Bool × Nat) :=
  (s.sendDuty n k).map (fun d => (d.state, d.urgent, d.resume))

theorem dutyOf_mark (n : Nat) (k : FileKind) (s : State) : s.dutyOf n (.send k) = (s.sendMark n k).map (·.1) := by
  unfold State.dutyOf State.sendMark State.sendDuty
  cases s.held n with
  | none => rfl
  | some y =>
    show (y.duty (.send k)).map _ = _
    rw [Option.map_map]
    rfl

theorem urgent_mark (n : Nat) (k : FileKind) (s : State) :
    (s.sendDuty n k).map (·.urgent) = (s.sendMark n k).map (fun m => m.2.1) := by
  unfold State.sendMark
  rw [Option.map_map]
  rfl

/-- A table but for its duties. -/
def bare (l : List Shot) : List Shot := l.map (fun x => { x with duties := [] })

/-- What the duties' return to the tether port leaves: the table but for the duties' deferral, and the queue. -/
structure Queues (u v : State) : Prop where
  eq : v = { u with
    ss := { u.ss with table := v.ss.table }
    tp := { u.tp with queue := v.tp.queue, deferred := v.tp.deferred, nextOrder := v.tp.nextOrder } }
  table : bare v.ss.table = bare u.ss.table
  marks : ∀ n k, v.sendMark n k = u.sendMark n k

theorem Queues.refl (u : State) : Queues u u := ⟨rfl, rfl, fun _ _ => rfl⟩

theorem Queues.trans (h1 : Queues u v) (h2 : Queues v w) : Queues u w where
  eq := by
    have e2 := h2.eq
    rw [h1.eq] at e2
    exact e2
  table := h2.table.trans h1.table
  marks := fun n k => (h2.marks n k).trans (h1.marks n k)

/-- A duty deferred. -/
def defer (d : Duty) : Duty := { d with deferred := true }

theorem bare_updateFirst {p : Shot → Bool} {f : Shot → Shot} (hf : ∀ x, { f x with duties := [] } = { x with duties := [] }) :
    ∀ l, bare (updateFirst p f l) = bare l
  | [] => rfl
  | x :: l => by
    unfold updateFirst
    split
    · exact congrArg (· :: bare l) (hf x)
    · exact congrArg (_ :: ·) (bare_updateFirst hf l)

theorem sendMark_defer (n m : Nat) (k j : FileKind) (s : State) : (setDuty n (.send k) defer s).sendMark m j = s.sendMark m j := by
  unfold State.sendMark State.sendDuty setDuty
  by_cases hm : m = n
  · subst hm
    rw [held_modHeld_map (f := Shot.setDuty (.send k) defer) (fun _ h => h)]
    cases s.held m with
    | none => rfl
    | some y =>
      show ((y.setDuty (.send k) defer).duty (.send j)).map _ = (y.duty (.send j)).map _
      rw [duty_setDuty (g := defer) (fun _ => rfl)]
      split
      · rename_i e
        rw [e, Option.map_map]
        rfl
      · rfl
  · rw [held_modHeld_other hm fun x hx => by
      have e := (isHeld_iff.1 hx).2
      simp [isHeld, Shot.setDuty, e, Ne.symm hm]]

theorem joinTether_queues (n : Nat) (k : FileKind) (s : State) : Queues s (joinTether false n k s) := by
  unfold joinTether
  dsimp only
  split
  · exact .refl s
  · split
    · exact .refl s
    · split
      · exact ⟨rfl, bare_updateFirst (f := Shot.setDuty (.send k) defer) (fun _ => rfl) _, fun m j => sendMark_defer n m k j s⟩
      · exact ⟨rfl, rfl, fun _ _ => rfl⟩

/-- Send duties handed back in turn (R185). -/
def handSends (u : State) (p : Nat × FileKind) : State := joinTether false p.1 p.2 u

theorem handSends_queues : ∀ (ps : List (Nat × FileKind)) (u : State), Queues u (ps.foldl handSends u)
  | [], u => .refl u
  | p :: ps, u => (joinTether_queues p.1 p.2 u).trans (handSends_queues ps _)

/-- The entries of send duties that join an empty queue in order. -/
def State.sendEntries (u : State) (qs : List (Nat × FileKind)) : List Entry :=
  qs.zipIdx.map (fun p => ⟨p.1.1, p.1.2, ((u.sendDuty p.1.1 p.1.2).map (·.urgent)).getD false, u.tp.nextOrder + p.2⟩)

/-- The transfer queue once send duties have joined it in order, the duties beyond 256 deferred. -/
structure Sends (u : State) (qs : List (Nat × FileKind)) (v : State) : Prop where
  queues : Queues u v
  queue : v.tp.queue.Perm (u.sendEntries (qs.take 256))
  sorted : v.tp.queue.Pairwise inTetherOrder
  deferred : v.tp.deferred = qs.length - 256
  next : v.tp.nextOrder = u.tp.nextOrder + min 256 qs.length

theorem sendEntries_append (qs : List (Nat × FileKind)) (p : Nat × FileKind) : u.sendEntries (qs ++ [p])
    = u.sendEntries qs ++ [⟨p.1, p.2, ((u.sendDuty p.1 p.2).map (·.urgent)).getD false, u.tp.nextOrder + qs.length⟩] := by
  unfold State.sendEntries
  rw [List.zipIdx_append, List.map_append]
  simp

theorem Sends.join {qs : List (Nat × FileKind)} {p : Nat × FileKind} (h : Sends u qs v) (hp : p ∉ qs)
    (ha : u.cp.power = .active) (hd : u.dutyOf p.1 (.send p.2) = some .pending) : Sends u (qs ++ [p]) (handSends v p) := by
  have hmark := h.queues.marks p.1 p.2
  have hcp : v.cp = u.cp := by rw [h.queues.eq]
  have hpend : v.dutyOf p.1 (.send p.2) = some .pending := by
    rw [dutyOf_mark] at hd ⊢
    rw [hmark]
    exact hd
  have hurgent : (v.sendDuty p.1 p.2).map (·.urgent) = (u.sendDuty p.1 p.2).map (·.urgent) := by
    rw [urgent_mark, urgent_mark, hmark]
  have hmay : v.MayJoin p.1 p.2 := by
    refine ⟨hcp ▸ ha, hpend, fun e he hk => hp ?_⟩
    have hm := h.queue.mem_iff.1 he
    obtain ⟨⟨q, i⟩, hq, rfl⟩ := List.mem_map.1 hm
    have hq' := List.mem_of_mem_take (List.fst_mem_of_mem_zipIdx hq)
    have e : q = p := Prod.ext hk.1 hk.2
    exact e ▸ hq'
  have hlen : v.tp.queue.length = min 256 qs.length := by
    rw [h.queue.length_eq]
    simp [State.sendEntries]
  by_cases hroom : qs.length < 256
  · have e := joinTether_room hmay (by omega)
    have hq : (handSends v p).tp.queue = sortTether (v.tp.queue
        ++ [⟨p.1, p.2, ((v.sendDuty p.1 p.2).map (·.urgent)).getD false, v.tp.nextOrder⟩]) := by
      unfold handSends
      rw [e]
    refine ⟨h.queues.trans (joinTether_queues _ _ _), ?_, ?_, ?_, ?_⟩
    · rw [hq, hurgent, h.next, List.take_of_length_le (by simp; omega), sendEntries_append]
      refine (sortTether_perm _).trans ?_
      have hperm := h.queue
      rw [List.take_of_length_le (by omega)] at hperm
      have en : min 256 qs.length = qs.length := by omega
      rw [en]
      exact hperm.append_right _
    · rw [hq]
      exact sortTether_pairwise _
    · have : (handSends v p).tp.deferred = v.tp.deferred := by
        unfold handSends
        rw [e]
      rw [this, h.deferred, List.length_append, List.length_singleton]
      omega
    · have : (handSends v p).tp.nextOrder = v.tp.nextOrder + 1 := by
        unfold handSends
        rw [e]
      rw [this, h.next, List.length_append, List.length_singleton]
      omega
  · have e := joinTether_full hmay (by omega) false
    have hq : (handSends v p).tp = { v.tp with deferred := v.tp.deferred + 1 } := by
      unfold handSends
      rw [e]
    refine ⟨h.queues.trans (joinTether_queues _ _ _), ?_, ?_, ?_, ?_⟩
    · rw [hq, List.take_append_of_le_length (by omega)]
      exact h.queue
    · rw [hq]
      exact h.sorted
    · rw [hq, List.length_append, List.length_singleton]
      show v.tp.deferred + 1 = _
      rw [h.deferred]
      omega
    · rw [hq, List.length_append, List.length_singleton]
      show v.tp.nextOrder = _
      rw [h.next]
      omega

/-- All send duties handed back in turn (R185). -/
theorem Sends.all (ha : u.cp.power = .active) : ∀ (ps qs : List (Nat × FileKind)) {v : State}, Sends u qs v → (qs ++ ps).Nodup →
    (∀ p ∈ ps, u.dutyOf p.1 (.send p.2) = some .pending) → Sends u (qs ++ ps) (ps.foldl handSends v)
  | [], qs, v, h, _, _ => by
    rw [List.append_nil]
    exact h
  | p :: ps, qs, v, h, hn, hd => by
    rw [List.append_cons] at hn ⊢
    have hp : p ∉ qs := fun c => by
      have hn' := (List.nodup_append.1 hn).1
      exact (List.nodup_append.1 hn').2.2 p c p (List.mem_singleton_self p) rfl
    exact Sends.all ha ps (qs ++ [p]) (h.join hp ha (hd p List.mem_cons_self)) hn
      fun q hq => hd q (List.mem_cons_of_mem _ hq)

end Sys2Proof.Machine
end

section
/-! The order in which the send duties of the HELD shots are handed back at a wake (R164, R185). -/

namespace Sys2Proof.Machine

set_option Elab.async false

open Sys2Proof

variable {s t u : State} {n : Nat} {k : FileKind} {l : List Shot}

/-! ## Shots in the order of their numbers -/

theorem bySerial_perm (l : List Shot) : (bySerial l).Perm l := List.perm_insertionSort _ l

theorem bySerial_pairwise (l : List Shot) : (bySerial l).Pairwise (fun x y => x.serial ≤ y.serial) := by
  have : Std.Total (fun x y : Shot => x.serial ≤ y.serial) := ⟨fun x y => Nat.le_total _ _⟩
  have : IsTrans Shot (fun x y : Shot => x.serial ≤ y.serial) := ⟨fun _ _ _ => Nat.le_trans⟩
  exact List.pairwise_insertionSort (fun x y : Shot => x.serial ≤ y.serial) l

/-- The place of a kind in the order of the kinds. -/
def kindRank (k : FileKind) : Nat := sendKinds.idxOf k

theorem sendKinds_pairwise : sendKinds.Pairwise (fun x y => kindRank x < kindRank y) := by decide

theorem mem_sendKinds (k : FileKind) : k ∈ sendKinds := by cases k <;> decide

/-! ## The pending send duties of one shot -/

/-- Whether a shot's send duty is PENDING and in a class. -/
def Shot.sendsIn (h : Shot) (urgent : Bool) (k : FileKind) : Bool :=
  (h.duty (.send k)).any (fun d => d.state == .pending && d.urgent == urgent)

/-- The PENDING send duties of a class, of one shot. -/
def Shot.classSends (urgent : Bool) (h : Shot) : List (Nat × FileKind) :=
  (sendKinds.filter (h.sendsIn urgent)).map (fun k => (h.number, k))

theorem pendingSends_class (p : Duty → Bool) (urgent : Bool) (hp : ∀ d, p d = (d.urgent == urgent)) (h : Shot) :
    h.pendingSends p = h.classSends urgent := by
  unfold Shot.pendingSends Shot.classSends
  induction sendKinds with
  | nil => rfl
  | cons k ks ih =>
    rw [List.filterMap_cons, List.filter_cons, ih]
    unfold Shot.sendsIn
    cases h.duty (.send k) with
    | none => rfl
    | some d =>
      rw [Option.any_some, ← hp]
      dsimp only
      cases (d.state == .pending && p d) <;> rfl

theorem sendsInOrder_eq (s : State) : s.sendsInOrder (fun _ => true)
    = (bySerial s.heldShots).flatMap (Shot.classSends true) ++ (bySerial s.heldShots).flatMap (Shot.classSends false) := by
  unfold State.sendsInOrder
  dsimp only
  rw [funext fun h => pendingSends_class (fun d => true && d.urgent) true (fun d => by simp) h,
    funext fun h => pendingSends_class (fun d => true && !d.urgent) false (fun d => by cases d.urgent <;> rfl) h]

theorem sendsIn_iff {h : Shot} {b : Bool} : h.sendsIn b k = true
    ↔ ∃ d, h.duty (.send k) = some d ∧ d.state = .pending ∧ d.urgent = b := by
  unfold Shot.sendsIn
  rw [Option.any_eq_true]
  simp

theorem mem_classSends {h : Shot} {b : Bool} {p : Nat × FileKind} : p ∈ h.classSends b
    ↔ h.number = p.1 ∧ h.sendsIn b p.2 = true := by
  unfold Shot.classSends
  rw [List.mem_map]
  constructor
  · rintro ⟨k, hk, rfl⟩
    exact ⟨rfl, (List.mem_filter.1 hk).2⟩
  · rintro ⟨h1, h2⟩
    exact ⟨p.2, List.mem_filter.2 ⟨mem_sendKinds _, h2⟩, Prod.ext h1 rfl⟩

/-! ## All of them -/

/-- The order of two send duties of one class: by the shots' numbers, and in a shot by the kinds. -/
def beforeIn (l : List Shot) (p q : Nat × FileKind) : Prop :=
  p ≠ q ∧ ∀ h ∈ l, ∀ g ∈ l, h.number = p.1 → g.number = q.1 → h.serial ≤ g.serial ∧ (p.1 = q.1 → kindRank p.2 < kindRank q.2)

/-- Shots with distinct numbers: of one number there is one shot. -/
theorem eq_of_number (hn : (l.map (·.number)).Nodup) {h g : Shot} (hh : h ∈ l) (hg : g ∈ l) (e : h.number = g.number) : h = g :=
  List.inj_on_of_nodup_map hn hh hg e

theorem flatMap_jobs_pairwise {f : Shot → List (Nat × FileKind)} (hn : (l.map (·.number)).Nodup)
    (hs : l.Pairwise (fun x y => x.serial ≤ y.serial)) (hnum : ∀ h, ∀ p ∈ f h, h.number = p.1)
    (hk : ∀ h, (f h).Pairwise (fun p q => kindRank p.2 < kindRank q.2)) : (l.flatMap f).Pairwise (beforeIn l) := by
  refine List.pairwise_flatMap.2 ⟨fun h hh => ?_, ?_⟩
  · refine (List.pairwise_iff_forall_sublist).2 fun {p q} hpq => ?_
    have hlt := (List.pairwise_iff_forall_sublist).1 (hk h) hpq
    have hp := hnum h p (hpq.subset List.mem_cons_self)
    have hq := hnum h q (hpq.subset (List.mem_cons_of_mem _ List.mem_cons_self))
    refine ⟨fun e => absurd hlt (by rw [e]; exact Nat.lt_irrefl _), fun x hx y hy ex ey => ?_⟩
    have e1 := eq_of_number hn hx hh (ex.trans hp.symm)
    have e2 := eq_of_number hn hy hh (ey.trans hq.symm)
    rw [e1, e2]
    exact ⟨Nat.le_refl _, fun _ => hlt⟩
  · have hboth := (List.pairwise_map.1 hn).and hs
    refine hboth.imp_of_mem fun {h g} hh hg hr p hp q hq => ?_
    have ep := hnum h p hp
    have eq := hnum g q hq
    refine ⟨fun e => hr.1 (by rw [ep, eq, e]), fun x hx y hy ex ey => ?_⟩
    rw [eq_of_number hn hx hh (ex.trans ep.symm), eq_of_number hn hy hg (ey.trans eq.symm)]
    exact ⟨hr.2, fun e => absurd (by rw [ep, eq, e]) hr.1⟩

theorem classSends_rank (b : Bool) (h : Shot) : (h.classSends b).Pairwise (fun p q => kindRank p.2 < kindRank q.2) :=
  List.pairwise_map.2 (sendKinds_pairwise.filter _)

theorem classSends_pairwise (hn : (l.map (·.number)).Nodup) (hs : l.Pairwise (fun x y => x.serial ≤ y.serial)) (b : Bool) :
    (l.flatMap (Shot.classSends b)).Pairwise (beforeIn l) :=
  flatMap_jobs_pairwise hn hs (fun _ _ hp => (mem_classSends.1 hp).1) (classSends_rank b)

/-- The send duties of both classes, URGENT first. -/
def allSends (l : List Shot) : List (Nat × FileKind) := l.flatMap (Shot.classSends true) ++ l.flatMap (Shot.classSends false)

/-- Whether the PENDING send duty of a pair is of the URGENT class. -/
def classOf (l : List Shot) (p : Nat × FileKind) (b : Bool) : Prop := ∃ h ∈ l, h.number = p.1 ∧ h.sendsIn b p.2 = true

theorem mem_classes {p : Nat × FileKind} {b : Bool} : p ∈ l.flatMap (Shot.classSends b) ↔ classOf l p b := by
  rw [List.mem_flatMap]
  exact exists_congr fun h => and_congr_right fun _ => mem_classSends

theorem classOf_unique (hn : (l.map (·.number)).Nodup) {p : Nat × FileKind} {b c : Bool} (hb : classOf l p b)
    (hc : classOf l p c) : b = c := by
  obtain ⟨h, hh, hp, hs⟩ := hb
  obtain ⟨g, hg, gp, gs⟩ := hc
  obtain rfl := eq_of_number hn hh hg (hp.trans gp.symm)
  obtain ⟨d, hd, -, rfl⟩ := sendsIn_iff.1 hs
  obtain ⟨e, he, -, rfl⟩ := sendsIn_iff.1 gs
  rw [hd] at he
  cases he
  rfl

theorem mem_allSends {p : Nat × FileKind} : p ∈ allSends l ↔ ∃ b, classOf l p b := by
  unfold allSends
  rw [List.mem_append, mem_classes, mem_classes]
  exact ⟨fun h => h.elim (fun c => ⟨_, c⟩) (fun c => ⟨_, c⟩), fun ⟨b, c⟩ => by cases b <;> simp [c]⟩

/-- The order of all of them (R185). -/
theorem allSends_pairwise (hn : (l.map (·.number)).Nodup) (hs : l.Pairwise (fun x y => x.serial ≤ y.serial)) :
    (allSends l).Pairwise (fun p q => p ≠ q ∧ ∀ b c, classOf l p b → classOf l q c →
      (b = true ∧ c = false) ∨ (b = c ∧ beforeIn l p q)) := by
  refine List.pairwise_append.2 ⟨?_, ?_, ?_⟩
  · refine (classSends_pairwise hn hs true).imp_of_mem fun {p q} hp hq hr => ⟨hr.1, fun b c hb hc => .inr ⟨?_, hr⟩⟩
    exact (classOf_unique hn hb (mem_classes.1 hp)).trans (classOf_unique hn (mem_classes.1 hq) hc)
  · refine (classSends_pairwise hn hs false).imp_of_mem fun {p q} hp hq hr => ⟨hr.1, fun b c hb hc => .inr ⟨?_, hr⟩⟩
    exact (classOf_unique hn hb (mem_classes.1 hp)).trans (classOf_unique hn (mem_classes.1 hq) hc)
  · intro p hp q hq
    refine ⟨fun e => ?_, fun b c hb hc => .inl ⟨classOf_unique hn hb (mem_classes.1 hp),
      classOf_unique hn hc (mem_classes.1 hq)⟩⟩
    rw [e] at hp
    exact absurd (classOf_unique hn (mem_classes.1 hp) (mem_classes.1 hq)) (by decide)

/-- A list counted in two parts. -/
theorem length_filter_parts {α : Type} {p q r : α → Bool} (h : ∀ a, (p a).toNat + (q a).toNat = (r a).toNat) :
    ∀ l : List α, (l.filter p).length + (l.filter q).length = (l.filter r).length
  | [] => rfl
  | a :: l => by
    have ha := h a
    have ih := length_filter_parts h l
    rw [List.filter_cons, List.filter_cons, List.filter_cons]
    revert ha
    cases p a <;> cases q a <;> cases r a <;> simp <;> omega

theorem sendsIn_parts (h : Shot) (k : FileKind) :
    (h.sendsIn true k).toNat + (h.sendsIn false k).toNat = (h.dutyState (.send k) == some .pending).toNat := by
  unfold Shot.sendsIn Shot.dutyState
  cases h.duty (.send k) with
  | none => rfl
  | some d =>
    rw [Option.any_some, Option.any_some, Option.map_some]
    cases d.state <;> cases d.urgent <;> rfl

/-- How many there are. -/
theorem allSends_length (l : List Shot) : (allSends l).length
    = (l.flatMap (fun h => sendKinds.filter (fun k => h.dutyState (.send k) == some .pending))).length := by
  have hone : ∀ h : Shot, (h.classSends true).length + (h.classSends false).length
      = (sendKinds.filter (fun k => h.dutyState (.send k) == some .pending)).length := by
    intro h
    unfold Shot.classSends
    rw [List.length_map, List.length_map]
    exact length_filter_parts (sendsIn_parts h) sendKinds
  unfold allSends
  induction l with
  | nil => rfl
  | cons h l ih =>
    simp only [List.flatMap_cons, List.length_append] at ih ⊢
    have := hone h
    omega

end Sys2Proof.Machine
end

section
/-! The wake: the part before its lines are sampled, what is handed back, and the statement (R210). -/

namespace Sys2Proof.Machine

set_option Elab.async false

open Sys2Proof

variable {s t u v w : State} {n : Nat} {k : FileKind}

/-! ## What is handed back -/

theorem handBack_eq (s : State) : handBack s = ((((bySerial s.heldShots).foldl handDevelops
    ((bySerial s.heldShots).foldl handCards s)).sendsInOrder (fun _ => true)).foldl handSends
      ((bySerial s.heldShots).foldl handDevelops ((bySerial s.heldShots).foldl handCards s))) := rfl

/-- A part that wakes, its cards sampled and its duties handed back. -/
structure Woken (w v : State) : Prop where
  eq : v = { w with
    ss := { w.ss with table := v.ss.table }, cw := v.cw, cp := v.cp, de := { w.de with queue := v.de.queue }
    tp := { w.tp with queue := v.tp.queue, deferred := v.tp.deferred, nextOrder := v.tp.nextOrder } }
  table : bare v.ss.table = bare w.ss.table
  cards : Carding w { w with cw := v.cw, cp := v.cp }

theorem Carding.woken (h : Carding w u) : Woken w u where
  eq := by
    have e := h.eq
    generalize u.cw = c, u.cp = p at e
    rw [e]
  table := by rw [h.eq]
  cards := by
    have e := h.eq
    rw [← e]
    exact h

theorem Carding.handBack (h : Carding w u) : Woken w (handBack u) := by
  rw [handBack_eq]
  obtain ⟨h1, -⟩ := Carding.handShots (bySerial u.heldShots) h
  generalize (bySerial u.heldShots).foldl Machine.handCards u = c1 at *
  obtain ⟨⟨q, h2⟩, -⟩ := handDevelops_all (bySerial u.heldShots) c1
  generalize (bySerial u.heldShots).foldl handDevelops c1 = c2 at *
  have h3 := handSends_queues (c2.sendsInOrder (fun _ => true)) c2
  generalize (c2.sendsInOrder (fun _ => true)).foldl handSends c2 = v at *
  have e1 := h1.eq
  have e3 := h3.eq
  have e : v = { w with
      ss := { w.ss with table := v.ss.table }, cw := v.cw, cp := v.cp, de := { w.de with queue := v.de.queue }
      tp := { w.tp with queue := v.tp.queue, deferred := v.tp.deferred, nextOrder := v.tp.nextOrder } } := by
    rw [e3, h2, e1]
  have ec : v.cw = c1.cw ∧ v.cp = c1.cp := by
    rw [e3, h2]
    exact ⟨rfl, rfl⟩
  refine ⟨e, h3.table.trans (by rw [h2, e1]), ?_⟩
  rw [ec.1, ec.2, ← e1]
  exact h1

/-- What the queues hold once all duties are handed back, where the HELD shots' numbers are distinct. -/
theorem Carding.handBack_holds (h : Carding w u) (hq : ∀ sl, (u.slot sl).queue = [])
    (hn : (w.heldShots.map (·.number)).Nodup) (hd : w.de.queue = []) (hp : w.de.phase ≠ .halted) (ha : w.cp.power = .active)
    (hq0 : w.tp.queue = []) (hd0 : w.tp.deferred = 0) :
    (∀ sl, ((Machine.handBack u).slot sl).queue = (bySerial w.heldShots).flatMap (Shot.cardJobs sl))
      ∧ (Machine.handBack u).de.queue.Perm ((bySerial w.heldShots).flatMap (fun y => y.developEntry.toList))
      ∧ (Machine.handBack u).de.queue.Pairwise inDevelopOrder
      ∧ ∃ v, Sends v (allSends (bySerial w.heldShots)) (Machine.handBack u) ∧ ∀ n, v.held n = w.held n := by
  have hu : u.heldShots = w.heldShots := by
    rw [h.eq]
    rfl
  have hperm := bySerial_perm w.heldShots
  have hnum : ((bySerial w.heldShots).map (·.number)).Nodup := (hperm.map (·.number)).nodup_iff.2 hn
  have hheld : ∀ y ∈ bySerial w.heldShots, w.held y.number = some y := fun y hy => by
    obtain ⟨hm, hs⟩ := List.mem_filter.1 (hperm.mem_iff.1 hy)
    exact held_of_mem hn hm (beq_iff_eq.1 hs)
  rw [handBack_eq, hu]
  obtain ⟨h1, g1⟩ := Carding.handShots (bySerial w.heldShots) h
  generalize (bySerial w.heldShots).foldl Machine.handCards u = c1 at *
  have e1 := h1.eq
  obtain ⟨⟨q, h2⟩, g2⟩ := handDevelops_all (bySerial w.heldShots) c1
  generalize (bySerial w.heldShots).foldl handDevelops c1 = c2 at *
  obtain ⟨dperm, dsorted⟩ := g2 (fun y hy => by rw [e1]; exact hheld y hy) (by rw [e1]; exact hp) hnum
    (by rw [e1]; show ∀ e ∈ w.de.queue, _; rw [hd]; exact nofun)
    (by rw [e1]; show w.de.queue.Pairwise _; rw [hd]; exact .nil)
  have hheld2 : ∀ n, c2.held n = w.held n := fun n => by
    rw [h2, e1]
    rfl
  have hsends : c2.sendsInOrder (fun _ => true) = allSends (bySerial w.heldShots) := by
    have : c2.heldShots = w.heldShots := by
      rw [h2, e1]
      rfl
    rw [sendsInOrder_eq, this]
    rfl
  have hstart : Sends c2 [] c2 := by
    have e : c2.tp = w.tp := by rw [h2, e1]
    refine ⟨.refl c2, ?_, ?_, ?_, ?_⟩
    · rw [e, hq0]
      exact .nil
    · rw [e, hq0]
      exact .nil
    · rw [e, hd0]
      rfl
    · simp
  have hall : Sends c2 (allSends (bySerial w.heldShots)) ((allSends (bySerial w.heldShots)).foldl handSends c2) := by
    refine Sends.all (by rw [h2]; show c1.cp.power = _; rw [h1.announced.rest]; exact ha) _ [] hstart ?_ ?_
    · exact (allSends_pairwise hnum (bySerial_pairwise _)).imp fun hr => hr.1
    · intro p hp'
      obtain ⟨b, y, hy, hyn, hs⟩ := mem_allSends.1 hp'
      obtain ⟨d, hdu, hst, -⟩ := sendsIn_iff.1 hs
      rw [dutyOf_held ((hheld2 p.1).trans (by rw [← hyn]; exact hheld y hy))]
      unfold Shot.dutyState
      rw [hdu, Option.map_some, hst]
  rw [hsends]
  generalize (allSends (bySerial w.heldShots)).foldl handSends c2 = v at *
  have e3 := hall.queues.eq
  have ecw : v.cw = c1.cw := by
    rw [e3, h2]
  have ede : v.de = c2.de := by
    rw [e3]
  rw [ede]
  refine ⟨fun sl => ?_, ?_, dsorted, c2, hall, hheld2⟩
  · have e := g1 sl hheld hnum (by rw [hq sl]; exact nofun)
    rw [hq sl, List.nil_append] at e
    rw [← e]
    cases sl
    · exact congrArg (fun c : CardWriter => c.a.queue) ecw
    · exact congrArg (fun c : CardWriter => c.b.queue) ecw
  · have e : c1.de.queue = [] := by
      rw [e1]
      exact hd
    rw [e, List.nil_append] at dperm
    exact dperm

/-! ## The transfer queue that the wake builds -/

section
variable {l : List Shot}

theorem mem_sendEntries {qs : List (Nat × FileKind)} {e : Entry} : e ∈ u.sendEntries qs ↔ ∃ i, ∃ h : i < qs.length,
    e = ⟨qs[i].1, qs[i].2, ((u.sendDuty qs[i].1 qs[i].2).map (·.urgent)).getD false, u.tp.nextOrder + i⟩ := by
  unfold State.sendEntries
  rw [List.mem_iff_getElem]
  constructor
  · rintro ⟨i, hi, rfl⟩
    refine ⟨i, by simpa using hi, ?_⟩
    simp
  · rintro ⟨i, hi, rfl⟩
    refine ⟨i, by simpa using hi, ?_⟩
    simp

theorem sendEntries_nodup (qs : List (Nat × FileKind)) : (u.sendEntries qs).Nodup := by
  unfold State.sendEntries
  refine List.pairwise_iff_getElem.2 fun i j hi hj hij => ?_
  simp only [List.getElem_map, List.getElem_zipIdx]
  intro e
  have := congrArg Entry.order e
  simp only at this
  omega

/-- A queued entry: its place among the duties handed back, and its class. -/
theorem Sends.entry (h : Sends u (allSends l) v) (hl : ∀ y ∈ l, u.held y.number = some y) {e : Entry} (he : e ∈ v.tp.queue) :
    ∃ i, ∃ hi : i < (allSends l).length, i < 256 ∧ (allSends l)[i] = (e.shot, e.kind) ∧ e.order = u.tp.nextOrder + i
      ∧ classOf l (e.shot, e.kind) e.urgent := by
  obtain ⟨i, hi, rfl⟩ := mem_sendEntries.1 (h.queue.mem_iff.1 he)
  rw [List.length_take] at hi
  refine ⟨i, by omega, by omega, by simp, rfl, ?_⟩
  simp only [List.getElem_take]
  have hm : (allSends l)[i] ∈ allSends l := List.getElem_mem _
  obtain ⟨b, y, hy, hn, hs⟩ := mem_allSends.1 hm
  obtain ⟨d, hd, hst, hu⟩ := sendsIn_iff.1 hs
  refine ⟨y, hy, hn, ?_⟩
  have e : u.sendDuty (allSends l)[i].1 (allSends l)[i].2 = some d := by
    unfold State.sendDuty
    rw [← hn, hl y hy]
    exact hd
  rw [e, Option.map_some, Option.getD_some, hu]
  exact hs

/-- A duty among the first 256 is queued. -/
theorem Sends.queued (h : Sends u (allSends l) v) {i : Nat} (hi : i < (allSends l).length) (hr : i < 256) :
    ∃ e ∈ v.tp.queue, (e.shot, e.kind) = (allSends l)[i] := by
  refine ⟨_, h.queue.mem_iff.2 (mem_sendEntries.2 ⟨i, by rw [List.length_take]; omega, rfl⟩), ?_⟩
  simp

theorem Sends.pairwise (h : Sends u (allSends l) v) (hl : ∀ y ∈ l, u.held y.number = some y)
    (hn : (l.map (·.number)).Nodup) (hs : l.Pairwise (fun x y => x.serial ≤ y.serial)) :
    v.tp.queue.Pairwise (fun x y => (x.urgent = true ∧ y.urgent = false)
      ∨ (x.urgent = y.urgent ∧ beforeIn l (x.shot, x.kind) (y.shot, y.kind))) := by
  have hnodup : v.tp.queue.Nodup := h.queue.nodup_iff.2 (sendEntries_nodup _)
  refine (h.sorted.and hnodup).imp_of_mem fun {x y} hx hy hr => ?_
  obtain ⟨hord, hne⟩ := hr
  rcases hord with hu | ⟨hu, ho⟩
  · exact .inl hu
  · obtain ⟨i, hi, _, ei, oi, ci⟩ := h.entry hl hx
    obtain ⟨j, hj, _, ej, oj, cj⟩ := h.entry hl hy
    have hij : i < j := by
      rcases Nat.lt_or_ge i j with c | c
      · exact c
      · have hije : i = j := by omega
        subst hije
        have ek := ei.symm.trans ej
        refine absurd ?_ hne
        cases x
        cases y
        simp_all
    have hp := List.pairwise_iff_getElem.1 (allSends_pairwise hn hs) i j hi hj hij
    rw [ei, ej] at hp
    exact hp.2 _ _ ci cj |>.imp id fun c => ⟨hu, c.2⟩

/-- A PENDING duty that is not queued stands behind every entry. -/
theorem Sends.behind (h : Sends u (allSends l) v) (hl : ∀ y ∈ l, u.held y.number = some y)
    (hn : (l.map (·.number)).Nodup) (hs : l.Pairwise (fun x y => x.serial ≤ y.serial)) {p : Nat × FileKind} {b : Bool}
    (hp : classOf l p b) (hq : ∀ e ∈ v.tp.queue, (e.shot, e.kind) ≠ p) {e : Entry} (he : e ∈ v.tp.queue) :
    (e.urgent = true ∧ b = false) ∨ (e.urgent = b ∧ beforeIn l (e.shot, e.kind) p) := by
  obtain ⟨j, hj, ej⟩ := List.getElem_of_mem (mem_allSends.2 ⟨b, hp⟩)
  obtain ⟨i, hi, hi256, ei, -, ci⟩ := h.entry hl he
  have hj256 : 256 ≤ j := by
    by_contra c
    obtain ⟨x, hx, ex⟩ := h.queued hj (by omega)
    exact hq x hx (ex.trans ej)
  have hr := List.pairwise_iff_getElem.1 (allSends_pairwise hn hs) i j hi hj (by omega)
  rw [ei, ej] at hr
  exact hr.2 _ _ ci hp

end

/-! ## What the queues hold, shot by shot -/

section
variable {l : List Shot} {sl : Slot}

theorem owesCard_iff {h : Shot} : h.owesCard sl k = true ↔ h.dutyState (.card k sl) = some .pending
    ∧ (k = .proof → h.dutyState .develop = some .done ∧ h.proof ≠ none) := by
  unfold Shot.owesCard Shot.proofReady
  rw [Bool.and_eq_true, beq_iff_eq]
  refine and_congr_right fun _ => ?_
  cases k <;> simp [Option.isSome_iff_ne_none]

theorem mem_cardJobs {j : FileJob} : j ∈ l.flatMap (Shot.cardJobs sl) ↔ ∃ h ∈ l, h.number = j.shot ∧ h.owesCard sl j.kind = true := by
  rw [List.mem_flatMap]
  refine exists_congr fun h => and_congr_right fun _ => ?_
  unfold Shot.cardJobs
  rw [List.mem_map]
  constructor
  · rintro ⟨k, hk, rfl⟩
    exact ⟨rfl, (List.mem_filter.1 hk).2⟩
  · rintro ⟨h1, h2⟩
    exact ⟨j.kind, List.mem_filter.2 ⟨mem_sendKinds _, h2⟩, by rw [h1]⟩

/-- A slot's queue stands in the order of the shots' numbers, and in a shot in that of the kinds (R161). -/
theorem cardJobs_pairwise (hn : (l.map (·.number)).Nodup) (hs : l.Pairwise (fun x y => x.serial ≤ y.serial)) :
    (l.flatMap (Shot.cardJobs sl)).Pairwise (fun x y => beforeIn l (x.shot, x.kind) (y.shot, y.kind)) := by
  have e : l.flatMap (Shot.cardJobs sl)
      = (l.flatMap (fun h => (sendKinds.filter (h.owesCard sl)).map (fun k => (h.number, k)))).map (fun p => ⟨p.1, p.2⟩) := by
    rw [List.map_flatMap]
    unfold Shot.cardJobs
    simp only [List.map_map]
    rfl
  rw [e]
  refine List.pairwise_map.2 (flatMap_jobs_pairwise hn hs (fun h p hp => ?_)
    (fun h => List.pairwise_map.2 (sendKinds_pairwise.filter _)))
  obtain ⟨k, -, rfl⟩ := List.mem_map.1 hp
  rfl

theorem mem_developEntries {e : DevEntry} : e ∈ l.flatMap (fun y => y.developEntry.toList) ↔ ∃ h d, (h ∈ l
    ∧ h.dutyState .develop = some .pending) ∧ h.duty .develop = some d ∧ e = ⟨h.number, h.serial, h.urgent || d.urgent⟩ := by
  rw [List.mem_flatMap]
  refine exists_congr fun h => ?_
  unfold Shot.developEntry Shot.dutyState
  cases h.duty .develop with
  | none => simp
  | some d =>
    cases hs : d.state <;> simp [hs, Bool.or_comm]

theorem developEntries_distinct (hn : (l.map (·.number)).Nodup) :
    (l.flatMap (fun y => y.developEntry.toList)).Pairwise (fun x y => x.shot ≠ y.shot) := by
  refine List.pairwise_flatMap.2 ⟨fun h _ => ?_, (List.pairwise_map.1 hn).imp fun {x y} hxy e he f hf => ?_⟩
  · cases h.developEntry with
    | none => exact .nil
    | some e => exact List.pairwise_singleton _ _
  · rw [developEntry_shot he, developEntry_shot hf]
    exact hxy

/-- A send duty's mark is that of its shot's record. -/
theorem sendMark_congr (h : s.held n = t.held n) : s.sendMark n k = t.sendMark n k := by
  unfold State.sendMark State.sendDuty
  rw [h]

theorem resume_mark (n : Nat) (k : FileKind) (s : State) :
    (s.sendDuty n k).map (·.resume) = (s.sendMark n k).map (fun m => m.2.2) := by
  unfold State.sendMark
  rw [Option.map_map]
  rfl

end

/-! ## The part before its lines are sampled -/

/-- The store at a wake (R25, R26). -/
def State.wakingStore (s : State) : Store :=
  if s.cp.heldKind then { s.ss with request := none, wheelPos := 0, lastLanded := none }
  else { Store.reset with next := s.numbered.firstShot }

/-- The part at a wake, before its lines are sampled (R210). -/
def State.roused (s : State) : State := { s with
  cp := { s.cp with power := .active }, cfg := s.numbered
  waiting := s.waiting.filter (fun w => w.1 != .firstShotNumber), rtu := {}, sp := {}, ss := s.wakingStore
  mi := { s.mi with phase := .idle, current := none, samples := [], lastFrame := none, latest := none }
  de := { s.de with phase := .idle, job := none, queue := [] }
  tp := { s.tp with phase := .down, queue := [], deferred := 0, credits := 0, transfer := none }
  fe := (focusWake s).fe
  cw := { a := s.cw.a.woken s.cp.heldKind, b := s.cw.b.woken s.cp.heldKind, overflow := false, closing := false } }

/-- The duties handed back at a held wake. -/
def handedBack (held : Bool) (u : State) : State := if held then handBack u else u

theorem wakePart_eq (s : State) : wakePart s = filterStart true (linkUpStep (lensWake
    (handedBack s.cp.heldKind (presentStep .b (presentStep .a s.roused))))) := by
  have ew : applyNumbering { s with cp := { s.cp with power := .active } }
      = { s with
          cp := { s.cp with power := .active }, cfg := s.numbered
          waiting := s.waiting.filter (fun w => w.1 != .firstShotNumber) } := by
    unfold applyNumbering applyWaiting State.numbered
    simp only [numbering_iff]
    rfl
  unfold wakePart handedBack
  dsimp only
  rw [ew]
  unfold cardWake State.roused State.wakingStore
  cases s.cp.heldKind <;> rfl

theorem roused_slot (s : State) (sl : Slot) : s.roused.slot sl = (s.slot sl).woken s.cp.heldKind := by cases sl <;> rfl

theorem roused_carding (s : State) : Carding s.roused (presentStep .b (presentStep .a s.roused))
    ∧ ∀ sl, ((presentStep .b (presentStep .a s.roused)).slot sl).queue = [] := by
  refine presentStep_carding (fun sl => ?_) rfl rfl
  rw [roused_slot]
  rfl

/-- A roused part with its cards sampled and its duties handed back. -/
theorem roused_woken (s : State) : Woken s.roused (handedBack s.cp.heldKind (presentStep .b (presentStep .a s.roused))) := by
  obtain ⟨h, -⟩ := roused_carding s
  unfold handedBack
  split
  · exact h.handBack
  · exact h.woken

/-! ## The lens port, the tether port and the release line at a wake -/

/-- The lens port at a wake, before its line is sampled (R116). -/
def stoppedLens (l : Lens) : Lens := { l with
  phase := .stopped, stopping := none, referenced := false, auxHistory := []
  frames := 0, missing := 0, parity := 0, absent := 0, repeated := 0, drives := 0, homes := 0
  auxReceived := 0, auxDiscards := 0, encErrors := 0 }

theorem lensWake_eq (s : State) : lensWake s = detectStep { s with lp := stoppedLens s.lp } := rfl

/-- The last lines sampled. -/
structure Lined (v t : State) : Prop where
  eq : t = { v with
    lp := ({ v with lp := stoppedLens v.lp } : State).sampledLens, tp := v.sampledTether, rtu := v.filtered, cp := t.cp }
  announced : Announced v.cp t.cp
  cards : ∀ sl vals, v.Tells .cardState (.slot sl) vals → t.Tells .cardState (.slot sl) vals
  lens : v.lines.lensDetect = true → v.lp.enable = true → t.Tells .lensState (.num 0)
    [.word "WAITING", .word "DETECT", .i32 v.lp.counter, .word "UNREFERENCED", flag v.lp.overrun]
  tether : v.lines.linkUp = true → t.Tells .tetherState (.num 0) [.word "IDLE", .word "LINK_UP", .u16 v.tp.queue.length]

theorem lined (hf : v.fe.servo = .idle) (hp : v.tp.phase = .down) (hl : v.rtu.level = none) :
    Lined v (filterStart true (linkUpStep (lensWake v))) := by
  rw [lensWake_eq]
  obtain ⟨e1, r1, a1⟩ := detectStep_samples (s := { v with lp := stoppedLens v.lp }) rfl hf
  generalize detectStep { v with lp := stoppedLens v.lp } = w1 at *
  obtain ⟨e2, r2, a2⟩ := linkUpStep_samples (s := w1) (by rw [e1]; exact hp)
  generalize linkUpStep w1 = w2 at *
  rw [filterStart_fresh (by rw [e2, e1]; exact hl)]
  refine ⟨?_, (r1.announced rfl).trans (r2.announced rfl), fun sl vals hv => ?_, fun h1 h2 => ?_, fun h => ?_⟩
  · generalize w2.cp = p at *
    rw [e2, e1]
    rfl
  · exact State.Tells.of_cp (r2.tells (r1.tells (s := { v with lp := stoppedLens v.lp }) hv nofun) nofun) rfl
  · exact State.Tells.of_cp (r2.tells (a1 h1 h2) nofun) rfl
  · have h2 := a2 (by rw [e1]; exact h)
    rw [e1] at h2
    exact State.Tells.of_cp h2 rfl

/-! ## The configuration at a wake -/

/-- The pending first shot number is the only field that it applies (R3, R205). -/
theorem numbered_rest (s : State) : s.numbered = { s.cfg with firstShot := s.numbered.firstShot } := by
  have hone : ∀ (c : Cfg) (x : CfgVal), c.apply .firstShotNumber x = { c with firstShot := (c.apply .firstShotNumber x).firstShot } := by
    intro c x
    have e : c.put .firstShotNumber x = (numIn 1 4294967295 x).map fun n => { c with firstShot := n } := rfl
    unfold Cfg.apply
    rw [e]
    cases numIn 1 4294967295 x <;> rfl
  unfold State.numbered
  generalize hl : s.waiting.filter (fun w => w.1 == .firstShotNumber) = l
  have hall : ∀ x ∈ l, x.1 = .firstShotNumber := fun x hx => by
    rw [← hl] at hx
    exact beq_iff_eq.1 (List.mem_filter.1 hx).2
  clear hl
  generalize s.cfg = c
  induction l generalizing c with
  | nil => rfl
  | cons x l ih =>
    rw [List.foldl_cons, hall x List.mem_cons_self]
    have e := ih (fun y hy => hall y (List.mem_cons_of_mem _ hy)) (c.apply .firstShotNumber x.2)
    rw [e, hone c x.2]

/-! ## What the wake leaves -/

theorem watcher_started (f : Focus) : (if f.watcher.enabled then f.watcher.started else f.watcher)
    = if f.watcher.enabled then ⟨true, false, 0, none, none, f.watcher.wakes⟩ else f.watcher := by
  cases h : f.watcher.enabled with
  | false => rfl
  | true =>
    rw [if_pos rfl, if_pos rfl, ← h]
    rfl

/-- Settles O59: the roused part's cards sampled, the duties handed back one queue at a time, the last lines sampled. -/
theorem wakeLeaves : Obligations.WakeLeaves := by
  intro s
  refine ⟨fun hp => ?_, fun hp => ?_⟩
  · show (Host.Outcome.next (if s.stopped then wakePart s else s) : Host.Outcome State Fault Refusal) = _
    rw [if_neg]
    unfold State.stopped
    rcases hp with hp | hp <;> rw [hp] <;> decide
  · have he : exec .wakeLine s = .next (wakePart s) := by
      show (Host.Outcome.next (if s.stopped then wakePart s else s) : Host.Outcome State Fault Refusal) = _
      rw [if_pos]
      unfold State.stopped
      rcases hp with hp | hp <;> rw [hp] <;> decide
    obtain ⟨hcards, hempty⟩ := roused_carding s
    have hw := roused_woken s
    have hplain : s.cp.heldKind = false → handedBack s.cp.heldKind (presentStep .b (presentStep .a s.roused))
        = presentStep .b (presentStep .a s.roused) := fun h => by rw [h]; rfl
    have hheld : s.cp.heldKind = true → handedBack s.cp.heldKind (presentStep .b (presentStep .a s.roused))
        = handBack (presentStep .b (presentStep .a s.roused)) := fun h => by rw [h]; rfl
    rw [wakePart_eq] at he
    generalize presentStep .b (presentStep .a s.roused) = c at *
    generalize handedBack s.cp.heldKind c = v at *
    have hv := hw.eq
    have ht := lined (v := v) (by rw [hv]; rfl) (by rw [hv]; rfl) (by rw [hv]; rfl)
    generalize filterStart true (linkUpStep (lensWake v)) = t at *
    have hte := ht.eq
    have hann := hw.cards.announced.trans ht.announced
    have hrest := numbered_rest s
    have hmain : t.time = s.time ∧ t.mem = s.mem ∧ t.lines = s.lines ∧ t.pending = s.pending ∧ t.cfg = s.numbered
        ∧ t.waiting = s.waiting.filter (fun w => w.1 != .firstShotNumber) ∧ t.sp = {} ∧ t.rtu = v.filtered
        ∧ t.fe = (focusWake s).fe ∧ t.lp = ({ v with lp := stoppedLens v.lp } : State).sampledLens
        ∧ t.de = { s.de with phase := .idle, job := none, queue := v.de.queue }
        ∧ t.mi = { s.mi with phase := .idle, current := none, samples := [], lastFrame := none, latest := none }
        ∧ t.cw = v.cw ∧ t.ss = { s.wakingStore with table := v.ss.table } ∧ t.tp = v.sampledTether := by
      rw [hte, hv]
      exact ⟨rfl, rfl, rfl, rfl, rfl, rfl, rfl, rfl, rfl, rfl, rfl, rfl, rfl, rfl, rfl⟩
    obtain ⟨htime, hmem, hlines, hpending, hcfg, hwaiting, hsp, hrtu, hfe, hlp, hde, hmi, hcw, hss, htp⟩ := hmain
    have hvs : v.time = s.time ∧ v.lines = s.lines ∧ v.cfg = s.numbered ∧ v.lp = s.lp ∧ v.rtu = {}
        ∧ v.tp = { s.tp with
            phase := .down, queue := v.tp.queue, deferred := v.tp.deferred, credits := 0, transfer := none
            nextOrder := v.tp.nextOrder } := by
      rw [hv]
      exact ⟨rfl, rfl, rfl, rfl, rfl, rfl⟩
    obtain ⟨vtime, vlines, vcfg, vlp, vrtu, vtp⟩ := hvs
    have hslot : ∀ sl, t.slot sl = v.slot sl := by
      intro sl
      cases sl
      · exact congrArg CardWriter.a hcw
      · exact congrArg CardWriter.b hcw
    have hburst : s.numbered.burst = s.cfg.burst := by rw [hrest]
    have hlens : s.numbered.lens = s.cfg.lens := by rw [hrest]
    refine ⟨t, he, hann.rest, fun hl => hann.lost hl, hann.keys, fun x hx h1 h2 h3 => hann.kept x hx ?_, htime, hmem, hlines,
      hpending, hcfg, hwaiting, hsp, ?_, ?_, ?_, hde.trans ?_, hmi, ?_, ?_, fun h => ?_, fun h => ?_, ?_, fun h => ?_,
      fun sl => ?_, fun h => ?_, fun h hn => ?_⟩
    · cases hk : x.kind <;> first | rfl | exact absurd hk h1 | exact absurd hk h2 | exact absurd hk h3
    · rw [hrtu]
      unfold State.filtered
      rw [vrtu, vcfg, hburst, vtime, vlines]
    · rw [hfe]
      unfold focusWake
      dsimp only
      rw [watcher_started]
    · have e : ({ v with lp := stoppedLens v.lp } : State).sampledLens
          = if s.lines.lensDetect && s.lp.enable then
              { stoppedLens s.lp with
                phase := .waiting, frameFrom := s.time, framePeriod := s.cfg.lens.framePeriod, slot := 0, failRun := 0
                goodRun := 0, lastSeq := none }
            else stoppedLens s.lp := by
        unfold State.sampledLens State.waitingLens
        show (if v.lines.lensDetect && v.lp.enable then { stoppedLens v.lp with
          phase := .waiting, stopping := none, frameFrom := v.time, framePeriod := v.cfg.lens.framePeriod, slot := 0
          failRun := 0, goodRun := 0, lastSeq := none } else stoppedLens v.lp) = _
        rw [vlines, vlp, vtime, vcfg, hlens]
        rfl
      refine ⟨fun h => ?_, fun h1 h2 => ⟨?_, ?_⟩⟩
      · rw [hlp, e, if_neg]
        · rfl
        · rcases h with h | h <;> rw [h] <;> simp
      · rw [hlp, e, if_pos (by rw [h1, h2]; rfl)]
        rfl
      · have hl := ht.lens (by rw [vlines]; exact h1) (by rw [vlp]; exact h2)
        rw [vlp] at hl
        exact hl
    · rw [hde]
    · rw [hcw]
      exact hw.cards.closing
    · rw [hcw]
      exact hw.cards.overflow
    · have e : v.ss = s.wakingStore := by
        rw [hplain h, hcards.eq]
        rfl
      rw [hss, e, hcfg]
      unfold State.wakingStore
      rw [h]
      rfl
    · have e : s.wakingStore = { s.ss with request := none, wheelPos := 0, lastLanded := none } := by
        unfold State.wakingStore
        rw [h]
        rfl
      have hb : bare v.ss.table = bare s.wakingStore.table := hw.table
      rw [hss]
      rw [e] at hb ⊢
      exact ⟨rfl, hb⟩
    · rw [htp]
      unfold State.sampledTether
      rw [vlines]
      cases s.lines.linkUp with
      | false => exact vtp
      | true =>
        generalize v.tp = p at *
        rw [vtp]
        rfl
    · have hq : t.tp.queue = v.tp.queue := by
        rw [htp]
        unfold State.sampledTether
        split <;> rfl
      rw [hq]
      exact ht.tether (by rw [vlines]; exact h)
    · have hs := hw.cards.slot sl
      have hsv : ({ s.roused with cw := v.cw, cp := v.cp } : State).slot sl = v.slot sl := by cases sl <;> rfl
      rw [hsv, roused_slot] at hs
      have hline : s.roused.cardLine sl = s.cardLine sl := by cases sl <;> rfl
      rw [hline] at hs
      rw [hslot]
      refine ⟨hs, fun hl => ?_⟩
      have htell := hw.cards.tells sl (hline.trans hl)
      unfold State.TellsCard at htell ⊢
      rw [hsv] at htell
      rw [hslot]
      exact ht.cards _ _ htell
    · have ec : v = c := hplain h
      have hq : v.tp.queue = [] ∧ v.tp.deferred = 0 ∧ v.de.queue = [] := by
        rw [ec, hcards.eq]
        exact ⟨rfl, rfl, rfl⟩
      obtain ⟨q1, q2, q3⟩ := hq
      have htq : t.tp.queue = v.tp.queue ∧ t.tp.deferred = v.tp.deferred := by
        rw [htp]
        unfold State.sampledTether
        split <;> exact ⟨rfl, rfl⟩
      exact ⟨htq.1.trans q1, htq.2.trans q2, by rw [hde]; exact q3, fun sl => by rw [hslot, ec]; exact hempty sl⟩
    · have htq : t.tp.queue = v.tp.queue ∧ t.tp.deferred = v.tp.deferred := by
        rw [htp]
        unfold State.sampledTether
        split <;> exact ⟨rfl, rfl⟩
      have hdq : t.de.queue = v.de.queue := by rw [hde]
      have hws : s.roused.heldShots = s.heldShots ∧ ∀ n, s.roused.held n = s.held n := by
        unfold State.heldShots State.held
        show s.wakingStore.table.filter _ = _ ∧ ∀ n, s.wakingStore.table.find? _ = _
        unfold State.wakingStore
        rw [h]
        exact ⟨rfl, fun _ => rfl⟩
      obtain ⟨hcard, hdev, hdevs, u, hsends, hu⟩ := hcards.handBack_holds hempty (by rw [hws.1]; exact hn) rfl nofun rfl rfl rfl
      rw [← hheld h, hws.1] at hcard hdev hsends
      rw [← hheld h] at hdevs
      have hmarks : ∀ n k, (t.sendDuty n k).map (·.resume) = (s.sendDuty n k).map (·.resume) := by
        intro n k
        have ht' : t.held n = v.held n := by
          unfold State.held
          rw [hss]
        rw [resume_mark, resume_mark, sendMark_congr ht', hsends.queues.marks n k,
          sendMark_congr ((hu n).trans (hws.2 n))]
      have hperm := bySerial_perm s.heldShots
      have hmem : ∀ y, y ∈ bySerial s.heldShots ↔ y ∈ s.heldShots := fun y => hperm.mem_iff
      have hnum : ((bySerial s.heldShots).map (·.number)).Nodup := (hperm.map (·.number)).nodup_iff.2 hn
      have hser := bySerial_pairwise s.heldShots
      have hsheld : ∀ y ∈ bySerial s.heldShots, s.held y.number = some y := fun y hy => by
        obtain ⟨hm, hs⟩ := List.mem_filter.1 ((hmem y).1 hy)
        exact held_of_mem hn hm (beq_iff_eq.1 hs)
      have hheldu : ∀ y ∈ bySerial s.heldShots, u.held y.number = some y := fun y hy =>
        ((hu y.number).trans (hws.2 y.number)).trans (hsheld y hy)
      have hcount := (allSends_length (bySerial s.heldShots)).trans (hperm.flatMap_right _).length_eq
      dsimp only
      rw [htq.1, htq.2, hdq]
      refine ⟨fun sl => ⟨fun j => ?_, ?_⟩, fun e => ?_, ?_, ?_, ?_, fun e he => ?_, ?_, fun h k d hown hd hno e he => ?_⟩
      · rw [hslot, hcard, mem_cardJobs]
        constructor
        · rintro ⟨y, hy, h1, h2⟩
          obtain ⟨h3, h4⟩ := owesCard_iff.1 h2
          exact ⟨y, ⟨(hmem y).1 hy, h3⟩, h1, h4⟩
        · rintro ⟨y, ⟨hy, h3⟩, h1, h4⟩
          exact ⟨y, (hmem y).2 hy, h1, owesCard_iff.2 ⟨h3, h4⟩⟩
      · rw [hslot, hcard]
        refine (cardJobs_pairwise hnum hser).imp fun {x y} hr => ⟨fun e => hr.1 (by rw [e]), fun h hh g hg => ?_⟩
        exact hr.2 h ((hmem h).2 hh) g ((hmem g).2 hg)
      · rw [hdev.mem_iff, mem_developEntries]
        simp only [hmem]
      · have hdist := (hdev.pairwise_iff (R := fun x y : DevEntry => x.shot ≠ y.shot) fun h => Ne.symm h).2
          (developEntries_distinct hnum)
        exact (hdist.and hdevs).imp fun hr => hr
      · rw [hsends.queue.length_eq, State.sendEntries, List.length_map, List.length_zipIdx, List.length_take]
        exact congrArg (min 256) hcount
      · rw [hsends.deferred]
        exact congrArg (· - 256) hcount
      · obtain ⟨i, hi, -, -, -, y, hy, hyn, hys⟩ := hsends.entry hheldu he
        obtain ⟨d, hd, hst, hcl⟩ := sendsIn_iff.1 hys
        have hown : y.dutyState (.send e.kind) = some .pending := by
          unfold Shot.dutyState
          rw [hd, Option.map_some, hst]
        refine ⟨y, d, ⟨(hmem y).1 hy, hown⟩, hd, hyn.symm, hcl.symm, ?_⟩
        have hyn' : y.number = e.shot := hyn
        rw [hmarks, ← hyn']
        unfold State.sendDuty
        rw [hsheld y hy, Option.bind_some, hd]
        rfl
      · refine (hsends.pairwise hheldu hnum hser).imp fun {x y} hr => hr.imp id fun hr => ⟨hr.1, fun h hh g hg => ?_⟩
        exact hr.2.2 h ((hmem h).2 hh) g ((hmem g).2 hg)
      · have hclass : classOf (bySerial s.heldShots) (h.number, k) d.urgent := by
          refine ⟨h, (hmem h).2 hown.1, rfl, sendsIn_iff.2 ⟨d, hd, ?_, rfl⟩⟩
          have hst := hown.2
          unfold Shot.dutyState at hst
          rw [hd, Option.map_some] at hst
          exact Option.some.inj hst
        have hr := hsends.behind hheldu hnum hser hclass
          (fun x hx c => hno x hx (Prod.mk.inj c).1 (Prod.mk.inj c).2) he
        refine hr.imp id fun hr => ⟨hr.1, fun g hg hgn => ?_⟩
        exact (hr.2.2 g ((hmem g).2 hg) h ((hmem h).2 hown.1) hgn rfl).1

end Sys2Proof.Machine
end

section
/-! A shot in deletion: what each step does to its record, and that steps on other shots leave it (R17, R18, R19). -/

namespace Sys2Proof.Machine

set_option Elab.async false

open Sys2Proof

variable {s t u v : State} {n m : Nat} {k : DutyKey} {x y z h : Shot} {sl : Slot}

/-! ## Steps on other shots -/

/-- A step on other shots: it leaves the record, gives back blocks only, and drops no memo but an ARMED one. -/
structure Away (n : Nat) (s t : State) : Prop where
  held : t.held n = s.held n
  free : ∃ l, t.ss.free = s.ss.free ++ l
  memo : s.mi.phase ≠ .armed → t.mi = s.mi

theorem Away.refl (n : Nat) (s : State) : Away n s s := ⟨rfl, ⟨[], (List.append_nil _).symm⟩, fun _ => rfl⟩

theorem free_trans (h1 : ∃ l, t.ss.free = s.ss.free ++ l) (h2 : ∃ l, u.ss.free = t.ss.free ++ l) :
    ∃ l, u.ss.free = s.ss.free ++ l := by
  obtain ⟨l, hl⟩ := h1
  obtain ⟨l', hl'⟩ := h2
  exact ⟨l ++ l', by rw [hl', hl, List.append_assoc]⟩

theorem memo_trans (h1 : s.mi.phase ≠ .armed → t.mi = s.mi) (h2 : t.mi.phase ≠ .armed → u.mi = t.mi) :
    s.mi.phase ≠ .armed → u.mi = s.mi := fun h => by
  have e := h1 h
  exact (h2 (by rw [e]; exact h)).trans e

theorem Away.trans (h1 : Away n s t) (h2 : Away n t u) : Away n s u :=
  ⟨h2.held.trans h1.held, free_trans h1.free h2.free, memo_trans h1.memo h2.memo⟩

/-- A step that leaves the store and the memo input. -/
theorem Away.of_same (ht : t.ss = s.ss) (hm : t.mi = s.mi) : Away n s t :=
  ⟨held_congr (by rw [ht]), ⟨[], by rw [ht, List.append_nil]⟩, fun _ => hm⟩

theorem away_modHeld (hmn : n ≠ m) {f : Shot → Shot} (hf : ∀ x, isHeld m x = true → isHeld n (f x) = false) :
    Away n s (modHeld m f s) := ⟨held_modHeld_other hmn hf s, ⟨[], (List.append_nil _).symm⟩, fun _ => rfl⟩

/-- A change of a record that keeps its number. -/
theorem away_entry (hmn : n ≠ m) {f : Shot → Shot} (hf : ∀ x, (f x).number = x.number) : Away n s (modHeld m f s) :=
  away_modHeld hmn fun x hx => by
    have e := (isHeld_iff.1 hx).2
    simp [isHeld, hf, e, Ne.symm hmn]

theorem away_give (n : Nat) (l : List Nat) (s : State) : Away n s (giveBlocks l s) := by
  rw [giveBlocks_eq]
  exact ⟨held_congr rfl, ⟨l, rfl⟩, fun _ => rfl⟩

theorem away_setDuty (hmn : n ≠ m) (k : DutyKey) (f : Duty → Duty) : Away n s (setDuty m k f s) := away_entry hmn fun _ => rfl

theorem away_dropPin (hmn : n ≠ m) (r : Reader) : Away n s (dropPin m r s) := away_entry hmn fun _ => rfl

theorem away_dropProof (hmn : n ≠ m) : Away n s (dropProof m s) := by
  unfold dropProof
  split
  · exact (away_entry (f := withoutProof) hmn fun _ => rfl).trans (away_give _ _ _)
  · exact .refl n s

theorem away_proofTest (hmn : n ≠ m) : Away n s (proofTest m s) := by
  unfold proofTest
  split
  · split
    · exact away_dropProof hmn
    · exact .refl n s
  · exact .refl n s

theorem away_abortArmed (n m : Nat) (s : State) : Away n s (abortArmed m s) := by
  obtain ⟨mi, c, e⟩ := abortArmed_eq m s
  refine ⟨by rw [e]; rfl, ⟨[], by rw [e, List.append_nil]⟩, fun hp => by rw [abortArmed_of_not_armed m hp]⟩

theorem away_freeTest (hmn : n ≠ m) : Away n s (freeTest m s) := by
  unfold freeTest
  split
  · split
    · exact ((away_modHeld hmn fun _ _ => rfl).trans (away_give _ _ _)).trans (away_abortArmed _ _ _)
    · exact .refl n s
  · exact .refl n s

theorem away_shotTests (hmn : n ≠ m) : Away n s (shotTests m s) := (away_proofTest hmn).trans (away_freeTest hmn)

theorem away_modSlot (n : Nat) (sl : Slot) (f : CardSlot → CardSlot) (s : State) : Away n s (modSlot sl f s) :=
  .of_same (by cases sl <;> rfl) (by cases sl <;> rfl)

theorem away_slotRest (n : Nat) (sl : Slot) (s : State) : Away n s (slotRest sl s) := by
  obtain ⟨st, hd, c, e⟩ := slotRest_eq sl s
  rw [e]
  exact .of_same (by cases sl <;> rfl) (by cases sl <;> rfl)

theorem away_addRecord (n : Nat) (sl : Slot) (r : FileRecord) (s : State) : Away n s (addRecord sl r s) := by
  unfold addRecord
  dsimp only
  split
  · exact .of_same (by cases sl <;> rfl) (by cases sl <;> rfl)
  · exact .of_same (by cases sl <;> rfl) (by cases sl <;> rfl)

/-! ## Steps on the shot itself -/

/-- No two HELD shots share a number. -/
def State.Uniq (s : State) : Prop := (s.heldShots.map (·.number)).Nodup

/-- The blocks of a shot's proof. -/
def Shot.proofBlocks (x : Shot) : List Nat := (x.proof.map (·.blocks)).getD []

/-- A record in deletion, later: duties stand or are CANCELLED, and pins and the proof may be gone. -/
structure Shot.Fades (x y : Shot) : Prop where
  eq : y = { x with duties := y.duties, pins := y.pins, proof := y.proof } := by rfl
  duties : List.Forall₂ (fun d e : Duty => e.key = d.key ∧ (e.state = d.state ∨ e.state = .cancelled)) x.duties y.duties
  pins : ∀ p ∈ y.pins, p ∈ x.pins

theorem Shot.Fades.refl (x : Shot) : Shot.Fades x x :=
  ⟨rfl, List.forall₂_same.2 fun _ _ => ⟨rfl, .inl rfl⟩, fun _ hp => hp⟩

theorem Shot.Fades.trans (h1 : Shot.Fades x y) (h2 : Shot.Fades y z) : Shot.Fades x z where
  eq := by
    have e2 := h2.eq
    rw [h1.eq] at e2
    exact e2
  duties := forall₂_trans (fun a b c hab hbc => ⟨hbc.1.trans hab.1, hbc.2.elim (fun e => hab.2.imp (e.trans ·) (e.trans ·)) .inr⟩)
    h1.duties h2.duties
  pins := fun p hp => h1.pins p (h2.pins p hp)

/-- What steps on a shot in deletion may do: its record fades, or it is freed with its blocks given back. -/
structure Fade (n : Nat) (s t : State) : Prop where
  kept : ∀ y, t.held n = some y → ∃ x, s.held n = some x ∧ Shot.Fades x y
    ∧ (y.proof = x.proof ∨ y.proof = none ∧ ∀ b ∈ x.proofBlocks, b ∈ t.ss.free)
  gone : ∀ x, s.held n = some x → t.held n = none → ∀ b ∈ x.blocks, b ∈ t.ss.free
  free : ∃ l, t.ss.free = s.ss.free ++ l
  memo : s.mi.phase ≠ .armed → t.mi = s.mi

theorem mem_free {b : Nat} (h : ∃ l, t.ss.free = s.ss.free ++ l) (hb : b ∈ s.ss.free) : b ∈ t.ss.free := by
  obtain ⟨l, e⟩ := h
  rw [e]
  exact List.mem_append_left _ hb

theorem Away.fade (h : Away n s t) : Fade n s t where
  kept := fun y hy => ⟨y, h.held ▸ hy, .refl y, .inl rfl⟩
  gone := fun x hx hn => by
    rw [h.held, hx] at hn
    cases hn
  free := h.free
  memo := h.memo

theorem blocks_eq (x : Shot) : x.blocks = x.raw ++ x.proofBlocks ++ (x.memo.map (·.blocks)).getD [] := rfl

theorem Fade.trans (h1 : Fade n s t) (h2 : Fade n t u) : Fade n s u where
  kept := fun z hz => by
    obtain ⟨y, hy, fy, py⟩ := h2.kept z hz
    obtain ⟨x, hx, fx, px⟩ := h1.kept y hy
    refine ⟨x, hx, fx.trans fy, ?_⟩
    rcases px with px | ⟨px, bx⟩
    · have e : y.proofBlocks = x.proofBlocks := by unfold Shot.proofBlocks; rw [px]
      rw [← px, ← e]
      exact py
    · have hz0 : z.proof = none := py.elim (fun e => e.trans px) And.left
      exact .inr ⟨hz0, fun b hb => mem_free h2.free (bx b hb)⟩
  gone := fun x hx hn b hb => by
    cases hy : t.held n with
    | none => exact mem_free h2.free (h1.gone x hx hy b hb)
    | some y =>
      obtain ⟨x', hx', fx, px⟩ := h1.kept y hy
      obtain rfl := Option.some.inj (hx.symm.trans hx')
      have hall := h2.gone y hy hn
      rw [blocks_eq] at hb hall
      have e := fx.eq
      have er : y.raw = x.raw := by rw [e]
      have em : y.memo = x.memo := by rw [e]
      rw [er, em] at hall
      rcases List.mem_append.1 hb with hb | hb
      · rcases List.mem_append.1 hb with hb | hb
        · exact hall b (List.mem_append_left _ (List.mem_append_left _ hb))
        · rcases px with px | ⟨-, bx⟩
          · have e : y.proofBlocks = x.proofBlocks := by unfold Shot.proofBlocks; rw [px]
            exact hall b (List.mem_append_left _ (List.mem_append_right _ (e ▸ hb)))
          · exact mem_free h2.free (bx b hb)
      · exact hall b (List.mem_append_right _ hb)
  free := free_trans h1.free h2.free
  memo := memo_trans h1.memo h2.memo

/-- A change of the shot's record. -/
theorem fade_entry {f : Shot → Shot} (hf : ∀ x, Shot.Fades x (f x)) (hp : ∀ x, (f x).proof = x.proof) : Fade n s (modHeld n f s) := by
  have hh : (modHeld n f s).held n = (s.held n).map f := held_modHeld_map (fun x hx => by
    obtain ⟨h1, h2⟩ := isHeld_iff.1 hx
    rw [(hf x).eq]
    exact isHeld_iff.2 ⟨h1, h2⟩) s
  refine ⟨fun y hy => ?_, fun x hx hn => ?_, ⟨[], (List.append_nil _).symm⟩, fun _ => rfl⟩
  · rw [hh] at hy
    obtain ⟨x, hx, rfl⟩ := Option.map_eq_some_iff.1 hy
    exact ⟨x, hx, hf x, .inl (hp x)⟩
  · rw [hh, hx] at hn
    cases hn

theorem fade_cancel (n : Nat) (k : DutyKey) (s : State) : Fade n s (setDuty n k (Duty.into .cancelled) s) :=
  fade_entry (fun x => ⟨rfl, List.forall₂_map_right_iff.2 (List.forall₂_same.2 fun d _ => by
    split
    · exact ⟨rfl, .inr rfl⟩
    · exact ⟨rfl, .inl rfl⟩), fun _ hp => hp⟩) (fun _ => rfl)

theorem fade_dropPin (n : Nat) (r : Reader) (s : State) : Fade n s (dropPin n r s) :=
  fade_entry (fun x => ⟨rfl, (Shot.Fades.refl x).duties, fun _ hp => (List.mem_filter.1 hp).1⟩) (fun _ => rfl)

theorem held_dropProof (n : Nat) (s : State) : (dropProof n s).held n = (s.held n).map withoutProof := by
  cases hx : s.held n with
  | none =>
    have e : dropProof n s = s := by
      unfold dropProof
      rw [hx]
      rfl
    rw [e, hx]
    rfl
  | some x =>
    cases hp : x.proof with
    | none =>
      have e : dropProof n s = s := by
        unfold dropProof
        rw [hx, Option.bind_some, hp]
      rw [e, hx, Option.map_some]
      unfold withoutProof
      rw [← hp]
    | some p =>
      have e : dropProof n s = giveBlocks p.blocks (modHeld n withoutProof s) := by
        unfold dropProof
        rw [hx, Option.bind_some, hp]
        rfl
      rw [e, giveBlocks_eq]
      show (modHeld n withoutProof s).held n = _
      rw [held_modHeld_map (f := withoutProof) (fun _ h => h), hx]

theorem fade_dropProof (n : Nat) (s : State) : Fade n s (dropProof n s) := by
  have hh := held_dropProof n s
  have hmain : (∃ l, (dropProof n s).ss.free = s.ss.free ++ l) ∧ (dropProof n s).mi = s.mi
      ∧ ∀ x, s.held n = some x → ∀ b ∈ x.proofBlocks, b ∈ (dropProof n s).ss.free := by
    unfold dropProof
    split
    · rename_i p hp
      rw [giveBlocks_eq]
      refine ⟨⟨p.blocks, rfl⟩, rfl, fun x hx b hb => List.mem_append_right _ ?_⟩
      rw [hx, Option.bind_some] at hp
      unfold Shot.proofBlocks at hb
      rw [hp] at hb
      exact hb
    · rename_i hp
      refine ⟨⟨[], (List.append_nil _).symm⟩, rfl, fun x hx b hb => ?_⟩
      rw [hx, Option.bind_some] at hp
      unfold Shot.proofBlocks at hb
      rw [hp] at hb
      cases hb
  obtain ⟨hfree, hmi, hblocks⟩ := hmain
  refine ⟨fun y hy => ?_, fun x hx hn => ?_, hfree, fun _ => hmi⟩
  · rw [hh] at hy
    obtain ⟨x, hx, rfl⟩ := Option.map_eq_some_iff.1 hy
    exact ⟨x, hx, ⟨rfl, (Shot.Fades.refl x).duties, fun _ hp => hp⟩, .inr ⟨rfl, hblocks x hx⟩⟩
  · rw [hh, hx] at hn
    cases hn

theorem fade_proofTest (n : Nat) (s : State) : Fade n s (proofTest n s) := by
  unfold proofTest
  split
  · split
    · exact fade_dropProof n s
    · exact (Away.refl n s).fade
  · exact (Away.refl n s).fade

/-- The freeing test of the shot frees it with its blocks, or leaves it because it may not be freed (R18). -/
theorem fade_freeTest (hn : s.Uniq) : Fade n s (freeTest n s) := by
  unfold freeTest
  split
  · rename_i x hx
    split
    · have e : (giveBlocks x.blocks (modHeld n (fun _ => {}) s)).held n = none := by
        rw [giveBlocks_eq]
        exact held_clear hn
      have ha := away_abortArmed n n (giveBlocks x.blocks (modHeld n (fun _ => {}) s))
      have hg := ha.held.trans e
      rw [giveBlocks_eq] at ha hg ⊢
      refine ⟨fun y hy => ?_, fun z hz _ b hb => ?_, free_trans ⟨x.blocks, rfl⟩ ha.free, ha.memo⟩
      · rw [hg] at hy
        cases hy
      · obtain rfl := Option.some.inj (hx.symm.trans hz)
        exact mem_free ha.free (List.mem_append_right _ hb)
    · exact (Away.refl n s).fade
  · exact (Away.refl n s).fade

theorem fade_shotTests (hn : s.Uniq) : Fade n s (shotTests n s) :=
  (fade_proofTest n s).trans (fade_freeTest ((proofTest_serves (w := true) (.refl)).nodup hn))

end Sys2Proof.Machine
end

section
/-! The card slots and the tether port while a shot is deleted: they settle without it (R19, R143, R152, R166). -/

namespace Sys2Proof.Machine

set_option Elab.async false

open Sys2Proof

variable {s t u v : State} {n m : Nat} {k : DutyKey} {x y z h : Shot} {sl : Slot}

/-! ## The slots without the shot -/

/-- No slot's queue holds a job of the shot. -/
def State.NoJobs (n : Nat) (s : State) : Prop := ∀ sl, ∀ j ∈ (s.slot sl).queue, j.shot ≠ n

/-- The slot's active file is not of the shot. -/
def State.NoFile (n : Nat) (sl : Slot) (s : State) : Prop := ∀ f, (s.slot sl).file = some f → f.shot ≠ n

/-- The shot has no PENDING duty. -/
def State.NoPending (n : Nat) (s : State) : Prop := ∀ y, s.held n = some y → ∀ d ∈ y.duties, d.state ≠ .pending

theorem Fade.noPending (h : Fade n s t) (hs : s.NoPending n) : t.NoPending n := by
  intro y hy d hd hp
  obtain ⟨x, hx, hf, -⟩ := h.kept y hy
  obtain ⟨e, he, -, hst⟩ := forall₂_mem_right hf.duties hd
  rcases hst with hst | hst
  · exact hs x hx e he (hst.symm.trans hp)
  · rw [hst] at hp
    cases hp

/-- A step that keeps the slots' queues and files. -/
structure SameWork (s t : State) : Prop where
  queue : ∀ sl, (t.slot sl).queue = (s.slot sl).queue
  file : ∀ sl, (t.slot sl).file = (s.slot sl).file

theorem SameWork.noJobs (h : SameWork s t) (hs : s.NoJobs n) : t.NoJobs n := fun sl j hj => hs sl j (by rw [← h.queue]; exact hj)

theorem SameWork.noFile (h : SameWork s t) (hs : s.NoFile n sl) : t.NoFile n sl := fun f hf => hs f (by rw [← h.file]; exact hf)

theorem SameWork.of_cw (h : t.cw = s.cw) : SameWork s t where
  queue := fun sl => by cases sl <;> simp [State.slot, h]
  file := fun sl => by cases sl <;> simp [State.slot, h]

theorem SameWork.trans (h1 : SameWork s t) (h2 : SameWork t u) : SameWork s u :=
  ⟨fun sl => (h2.queue sl).trans (h1.queue sl), fun sl => (h2.file sl).trans (h1.file sl)⟩

theorem slotRest_sameWork (sl : Slot) (s : State) : SameWork s (slotRest sl s) := by
  obtain ⟨st, hd, c, e⟩ := slotRest_eq sl s
  rw [e]
  constructor <;> intro x <;> cases sl <;> cases x <;> rfl

theorem addRecord_sameWork (sl : Slot) (r : FileRecord) (s : State) : SameWork s (addRecord sl r s) := by
  unfold addRecord
  dsimp only
  split <;> constructor <;> intro x <;> cases sl <;> cases x <;> rfl

/-! ## The overflow move goes by the shot -/

/-- A step that goes by the shot: its record, its files and its jobs are as they were, or not there as before. -/
structure GoesBy (n : Nat) (s t : State) : Prop where
  away : Away n s t
  jobs : s.NoJobs n → t.NoJobs n
  file : ∀ sl, s.NoFile n sl → t.NoFile n sl

theorem GoesBy.refl (n : Nat) (s : State) : GoesBy n s s := ⟨.refl n s, id, fun _ => id⟩

theorem GoesBy.trans (h1 : GoesBy n s t) (h2 : GoesBy n t u) : GoesBy n s u :=
  ⟨h1.away.trans h2.away, fun h => h2.jobs (h1.jobs h), fun sl h => h2.file sl (h1.file sl h)⟩

theorem Away.goesBy (h : Away n s t) (hw : SameWork s t) : GoesBy n s t := ⟨h, hw.noJobs, fun _ => hw.noFile⟩

theorem GoesBy.noPending (h : GoesBy n s t) (hs : s.NoPending n) : t.NoPending n := h.away.fade.noPending hs

theorem slotRest_goesBy (n : Nat) (sl : Slot) (s : State) : GoesBy n s (slotRest sl s) :=
  (away_slotRest n sl s).goesBy (slotRest_sameWork sl s)

theorem retarget_goesBy {j : FileJob} (hj : j.shot ≠ n) : GoesBy n s (retarget j s) :=
  (away_setDuty (Ne.symm hj) _ _).goesBy (.of_cw rfl)

theorem moveJob_goesBy {j : FileJob} (hj : j.shot ≠ n) : GoesBy n s (moveJob s j) := by
  unfold moveJob
  split
  · refine (retarget_goesBy hj).trans ⟨.of_same rfl rfl, fun h sl i hi => ?_, fun sl h f hf => ?_⟩
    · cases sl with
      | a => exact h .a i (List.mem_filter.1 hi).1
      | b =>
        rcases List.mem_append.1 hi with hi | hi
        · exact h .b i hi
        · rw [List.mem_singleton.1 hi]
          exact hj
    · cases sl <;> exact h f hf
  · exact .refl n s

theorem foldl_goesBy {α : Type} {f : State → α → State} {P : α → Prop} (hf : ∀ t a, P a → GoesBy n t (f t a)) :
    ∀ (l : List α) (s : State), (∀ a ∈ l, P a) → GoesBy n s (l.foldl f s)
  | [], s, _ => .refl n s
  | a :: l, s, h => (hf s a (h a List.mem_cons_self)).trans
    (foldl_goesBy hf l _ fun b hb => h b (List.mem_cons_of_mem _ hb))

theorem moveWaiting_goesBy {j : FileJob} (hj : j.shot ≠ n) : GoesBy n s (moveWaiting s j) := by
  unfold moveWaiting
  split
  · exact retarget_goesBy hj
  · exact .refl n s

/-- The duty and the pin of another shot's file abandoned for the move (R154). -/
theorem abandonDuty_overflow_goesBy {f : CardFile} (hm : f.shot ≠ n) : GoesBy n s (abandonDuty .a .overflow f s) := by
  have hjob : GoesBy n s (modSlot .a (fun x => { x with queue := ⟨f.shot, f.kind⟩ :: x.queue }) s) := by
    refine ⟨.of_same rfl rfl, fun h sl i hi => ?_, fun sl h => by cases sl <;> exact h⟩
    cases sl with
    | a =>
      rcases List.mem_cons.1 hi with rfl | hi
      · exact hm
      · exact h .a i hi
    | b => exact h .b i hi
  refine hjob.trans ((((away_setDuty (Ne.symm hm) _ _).trans (away_dropPin (Ne.symm hm) .a)).trans
    (away_shotTests (Ne.symm hm))).goesBy (.of_cw ?_))
  exact shotTests_cw _ _

/-- A slot whose active file is abandoned: the file gone and the abandonment counted (R154). -/
def CardSlot.abandons (c : Cause) (x : CardSlot) : CardSlot := { x with
  file := none, abandoned := if c.fails then x.abandoned else sat32 x.abandoned
  failed := if c.fails then sat32 x.failed else x.failed }

/-- The record of an abandoned file, if it consumed a sector (R154). -/
def recordFile (sl : Slot) (c : Cause) (f : CardFile) (s : State) : State :=
  if f.fragments = [] then s else addRecord sl
    ⟨f.shot, f.kind, some c, Config.sectorBytes + f.payload, sectorsOf f.fragments, f.fragments⟩ s

theorem abandon_none {c : Cause} (h : (s.slot sl).file = none) : abandon sl c s = s := by
  unfold abandon
  rw [h]

theorem abandon_some {c : Cause} {f : CardFile} (h : (s.slot sl).file = some f) :
    abandon sl c s = abandonDuty sl c f (recordFile sl c f (modSlot sl (CardSlot.abandons c) s)) := by
  unfold abandon
  rw [h]
  rfl

theorem recordFile_goesBy (n : Nat) (sl : Slot) (c : Cause) (f : CardFile) (s : State) : GoesBy n s (recordFile sl c f s) := by
  unfold recordFile
  split
  · exact .refl n s
  · exact (away_addRecord n _ _ _).goesBy (addRecord_sameWork _ _ _)

theorem modSlot_queue {f : CardSlot → CardSlot} (hf : ∀ c, (f c).queue = c.queue) (x : Slot) :
    ((modSlot sl f s).slot x).queue = (s.slot x).queue := by
  cases sl <;> cases x <;> first | exact hf _ | rfl

/-- The slot that has abandoned its file. -/
theorem abandons_goesBy (n : Nat) (sl : Slot) (c : Cause) (s : State) : GoesBy n s (modSlot sl (CardSlot.abandons c) s) :=
  ⟨away_modSlot n sl _ s, fun h x j hj => h x j (by rw [← modSlot_queue (f := CardSlot.abandons c) (fun _ => rfl)]; exact hj),
    fun x h f hf => by cases sl <;> cases x <;> first | exact h f hf | cases hf⟩

/-- The active file of another shot abandoned for the move (R152). -/
theorem abandonOverflow_goesBy (hf : s.NoFile n .a) : GoesBy n s (abandon .a .overflow s) := by
  cases hfile : (s.slot .a).file with
  | none =>
    rw [abandon_none hfile]
    exact .refl n s
  | some f =>
    rw [abandon_some hfile]
    exact ((abandons_goesBy n _ _ s).trans (recordFile_goesBy n _ _ f _)).trans (abandonDuty_overflow_goesBy (hf f hfile))

/-- The PROOF duties that wait on slot A are PENDING duties of HELD shots. -/
theorem waitingProofs_pending {j : FileJob} (hu : s.Uniq) (h : j ∈ s.waitingProofs) :
    ∃ y, s.held j.shot = some y ∧ y.dutyState (.card .proof .a) = some .pending := by
  unfold State.waitingProofs at h
  obtain ⟨y, hy, rfl⟩ := List.mem_map.1 (List.mem_filter.1 h).1
  obtain ⟨hm, hs⟩ := List.mem_filter.1 hy
  obtain ⟨ht, hst⟩ := List.mem_filter.1 ((bySerial_perm _).mem_iff.1 hm)
  exact ⟨y, held_of_mem hu ht (beq_iff_eq.1 hst), beq_iff_eq.1 hs⟩

/-- A duty found PENDING is one of the shot's. -/
theorem State.NoPending.not_pending (hp : s.NoPending n) (hx : s.held n = some x) (k : DutyKey) : x.dutyState k ≠ some .pending := by
  intro e
  unfold Shot.dutyState Shot.duty at e
  obtain ⟨d, hd, hst⟩ := Option.map_eq_some_iff.1 e
  exact hp x hx d (List.mem_of_find?_eq_some hd) hst

/-- The queued jobs and the waiting proofs of other shots moved (R152). -/
theorem overflowMove_goesBy (hu : s.Uniq) (hf : s.NoFile n .a) (hj : s.NoJobs n) (hp : s.NoPending n) : GoesBy n s (overflowMove s) := by
  unfold overflowMove
  extract_lets file s1 s2 s3 s4
  have h1 : GoesBy n s s1 := abandonOverflow_goesBy hf
  have h2 : GoesBy n s1 s2 :=
    foldl_goesBy (P := fun j : FileJob => j.shot ≠ n) (fun _ _ => moveJob_goesBy) _ _ (h1.jobs hj .a)
  have hs1 : Serves true s s1 := abandon_serves .refl
  have hs2 : Serves true s s2 := foldl_serves moveJob (fun _ _ => moveJob_serves) s1.cw.a.queue hs1
  have hu2 : s2.Uniq := hs2.nodup hu
  clear_value s2 s1
  have h3 : GoesBy n s2 s3 := by
    refine foldl_goesBy (P := fun j : FileJob => j.shot ≠ n) (fun _ _ => moveWaiting_goesBy) _ _ fun j hjm e => ?_
    obtain ⟨y, hy, hst⟩ := waitingProofs_pending hu2 hjm
    rw [e] at hy
    exact ((h1.trans h2).noPending hp).not_pending hy _ hst
  clear_value s3
  have h4 : GoesBy n s3 (raiseCard .a "OVERFLOW" (fileWires file) { s4 with cw := { s4.cw with overflow := true } }) :=
    ⟨.of_same rfl rfl, fun h sl => match sl with | .a => h .a | .b => h .b, fun sl => match sl with | .a => id | .b => id⟩
  exact ((h1.trans h2).trans (h3.trans h4)).trans (slotRest_goesBy n .b _)

/-- The slot settles, with a move or without, by the shot (R145, R152). -/
theorem slotSettle_goesBy (sl : Slot) (hu : s.Uniq) (hf : s.NoFile n .a) (hj : s.NoJobs n) (hp : s.NoPending n) :
    GoesBy n s (slotSettle sl s) := by
  have h1 := slotRest_goesBy n sl s
  have hu1 : (slotRest sl s).Uniq := (slotRest_serves (w := true) .refl).nodup hu
  unfold slotSettle overflowTest
  split
  · exact h1.trans (overflowMove_goesBy hu1 (h1.file .a hf) (h1.jobs hj) (h1.noPending hp))
  · exact h1

end Sys2Proof.Machine
end

section
/-! SHOT_DELETE: its steps in turn, and the statement (R18, R19). -/

namespace Sys2Proof.Machine

set_option Elab.async false

open Sys2Proof

variable {s t u v : State} {n m : Nat} {k : DutyKey} {x y z h : Shot} {sl : Slot}

/-! ## A file of the shot abandoned -/

/-- The duty of a deleted shot's file CANCELLED, its pin dropped and the tests applied (R154). -/
theorem abandonDuty_deleted (sl : Slot) (f : CardFile) (s : State) : abandonDuty sl .deleted f s
    = shotTests f.shot (dropPin f.shot (slotReader sl) (setDuty f.shot (.card f.kind sl) (Duty.into .cancelled) s)) := rfl

/-- A duty that the shot has, if any, is CANCELLED. -/
def State.Cancels (s : State) (n : Nat) (k : DutyKey) : Prop :=
  ∀ y, s.held n = some y → ∀ d, y.dutyState k = some d → d = .cancelled

theorem Shot.Fades.dutyState (h : Shot.Fades x y) (k : DutyKey) :
    (x.dutyState k = none ∧ y.dutyState k = none)
      ∨ ∃ d, x.dutyState k = some d ∧ (y.dutyState k = some d ∨ y.dutyState k = some .cancelled) := by
  have hd := h.duties
  unfold Shot.dutyState Shot.duty
  generalize x.duties = l, y.duties = l' at hd
  induction hd with
  | nil => exact .inl ⟨rfl, rfl⟩
  | @cons a b l l' hab _ ih =>
    rw [List.find?_cons, List.find?_cons, hab.1]
    cases a.key == k with
    | false => exact ih
    | true =>
      refine .inr ⟨a.state, rfl, ?_⟩
      exact hab.2.imp (fun e => congrArg some e) (fun e => congrArg some e)

theorem Fade.cancels (hf : Fade n s t) (hs : s.Cancels n k) : t.Cancels n k := by
  intro y hy d hd
  obtain ⟨x, hx, fx, -⟩ := hf.kept y hy
  rcases fx.dutyState k with ⟨-, e⟩ | ⟨e, hx', hy'⟩
  · rw [e] at hd
    cases hd
  · have := hs x hx e hx'
    rcases hy' with hy' | hy'
    · rw [hy'] at hd
      cases hd
      exact this
    · rw [hy'] at hd
      cases hd
      rfl

theorem setDuty_cancels (n : Nat) (k : DutyKey) (s : State) : (setDuty n k (Duty.into .cancelled) s).Cancels n k := by
  intro y hy d hd
  have hh : (setDuty n k (Duty.into .cancelled) s).held n = (s.held n).map (Shot.setDuty k (Duty.into .cancelled)) :=
    held_modHeld_map (f := Shot.setDuty k (Duty.into .cancelled)) (fun _ h => h) s
  rw [hh] at hy
  obtain ⟨x, -, rfl⟩ := Option.map_eq_some_iff.1 hy
  rw [dutyState_setDuty (into_key .cancelled), if_pos rfl] at hd
  obtain ⟨e, -, he⟩ := Option.map_eq_some_iff.1 hd
  exact he.symm.trans (into_state .cancelled e)

/-- A step of the delete: the shot fades, and others' records are as they were. -/
structure Own (n : Nat) (s t : State) : Prop where
  fade : Fade n s t
  others : ∀ m, m ≠ n → Away m s t

theorem Own.trans (h1 : Own n s t) (h2 : Own n t u) : Own n s u :=
  ⟨h1.fade.trans h2.fade, fun m hm => (h1.others m hm).trans (h2.others m hm)⟩

theorem Own.of_same (ht : t.ss = s.ss) (hm : t.mi = s.mi) : Own n s t :=
  ⟨(Away.of_same ht hm).fade, fun _ _ => .of_same ht hm⟩

theorem own_cancel (n : Nat) (k : DutyKey) (s : State) : Own n s (setDuty n k (Duty.into .cancelled) s) :=
  ⟨fade_cancel n k s, fun _ hm => away_setDuty hm k _⟩

theorem own_dropPin (n : Nat) (r : Reader) (s : State) : Own n s (dropPin n r s) :=
  ⟨fade_dropPin n r s, fun _ hm => away_dropPin hm r⟩

theorem own_dropProof (n : Nat) (s : State) : Own n s (dropProof n s) := ⟨fade_dropProof n s, fun _ hm => away_dropProof hm⟩

theorem own_proofTest (n : Nat) (s : State) : Own n s (proofTest n s) := ⟨fade_proofTest n s, fun _ hm => away_proofTest hm⟩

theorem own_shotTests (hu : s.Uniq) : Own n s (shotTests n s) := ⟨fade_shotTests hu, fun _ hm => away_shotTests hm⟩

/-- The shot's file abandoned: its duty CANCELLED, the file gone (R154). -/
theorem abandon_own (hu : s.Uniq) {f : CardFile} (hf : (s.slot sl).file = some f) (hn : f.shot = n) :
    Own n s (abandon sl .deleted s) ∧ (abandon sl .deleted s).Cancels n (.card f.kind sl)
      ∧ (s.NoJobs n → (abandon sl .deleted s).NoJobs n) ∧ ∀ x, x ≠ sl → s.NoFile n x → (abandon sl .deleted s).NoFile n x := by
  rw [abandon_some hf, abandonDuty_deleted, hn]
  have h1 := (abandons_goesBy n sl .deleted s).trans (recordFile_goesBy n sl .deleted f _)
  have o1 : Own n s (recordFile sl .deleted f (modSlot sl (CardSlot.abandons .deleted) s)) :=
    ⟨h1.away.fade, fun m _ => ((abandons_goesBy m sl .deleted s).trans (recordFile_goesBy m sl .deleted f _)).away⟩
  have v1 : Serves true s (recordFile sl .deleted f (modSlot sl (CardSlot.abandons .deleted) s)) := by
    unfold recordFile
    split
    · exact modSlot_serves .refl
    · exact addRecord_serves (modSlot_serves .refl)
  generalize recordFile sl .deleted f (modSlot sl (CardSlot.abandons .deleted) s) = s1 at *
  have v3 : Serves true s (dropPin n (slotReader sl) (setDuty n (.card f.kind sl) (Duty.into .cancelled) s1)) :=
    dropPin_serves (intoCard_serves v1)
  have o3 := (own_dropPin n (slotReader sl) (setDuty n (.card f.kind sl) (Duty.into .cancelled) s1)).trans
    (own_shotTests (v3.nodup hu))
  have hw : SameWork s1 (shotTests n (dropPin n (slotReader sl) (setDuty n (.card f.kind sl) (Duty.into .cancelled) s1))) :=
    .of_cw (shotTests_cw _ _)
  exact ⟨(o1.trans (own_cancel n _ s1)).trans o3, o3.fade.cancels (setDuty_cancels n _ s1), fun hj => hw.noJobs (h1.jobs hj),
    fun x _ hx => hw.noFile (h1.file x hx)⟩

/-! ## Steps where no overflow move follows -/

/-- The overflow move cannot follow (R152). -/
def State.NoMove (s : State) : Prop := s.cw.overflow = true ∨ s.cfg.plans.card ≠ .overflow ∨ s.cw.a.final = false

/-- A step that leaves what the overflow move asks for but the slot's state. -/
structure SameSwitch (s t : State) : Prop where
  overflow : t.cw.overflow = s.cw.overflow
  cfg : t.cfg = s.cfg
  final : t.cw.a.final = s.cw.a.final

theorem SameSwitch.noMove (h : SameSwitch s t) (hs : s.NoMove) : t.NoMove := by
  unfold State.NoMove at *
  rw [h.overflow, h.cfg, h.final]
  exact hs

theorem SameSwitch.trans (h1 : SameSwitch s t) (h2 : SameSwitch t u) : SameSwitch s u :=
  ⟨h2.overflow.trans h1.overflow, h2.cfg.trans h1.cfg, h2.final.trans h1.final⟩

theorem SameSwitch.of_cw (h : t.cw = s.cw) (hc : t.cfg = s.cfg) : SameSwitch s t := ⟨by rw [h], hc, by rw [h]⟩

theorem slotRest_sameSwitch (sl : Slot) (s : State) : SameSwitch s (slotRest sl s) := by
  obtain ⟨st, hd, c, e⟩ := slotRest_eq sl s
  rw [e]
  cases sl <;> exact ⟨rfl, rfl, rfl⟩

theorem slotSettle_still (hs : s.NoMove) : slotSettle sl s = slotRest sl s := by
  have h := (slotRest_sameSwitch sl s).noMove hs
  unfold slotSettle overflowTest
  rw [if_neg]
  rintro ⟨h1, h2, -, h4⟩
  rcases h with h | h | h
  · rw [h] at h2
    cases h2
  · exact h h1
  · rw [h] at h4
    cases h4

theorem recordFile_sameSwitch (sl : Slot) (c : Cause) (f : CardFile) (s : State) : SameSwitch s (recordFile sl c f s) := by
  unfold recordFile addRecord
  dsimp only
  split
  · exact ⟨rfl, rfl, rfl⟩
  · split <;> cases sl <;> exact ⟨rfl, rfl, rfl⟩

theorem abandon_sameSwitch (sl : Slot) (s : State) : SameSwitch s (abandon sl .deleted s) := by
  cases hf : (s.slot sl).file with
  | none =>
    rw [abandon_none hf]
    exact ⟨rfl, rfl, rfl⟩
  | some f =>
    rw [abandon_some hf, abandonDuty_deleted]
    have h1 : SameSwitch s (modSlot sl (CardSlot.abandons .deleted) s) := by cases sl <;> exact ⟨rfl, rfl, rfl⟩
    refine (h1.trans (recordFile_sameSwitch sl .deleted f _)).trans (.of_cw (shotTests_cw _ _) ?_)
    exact (shotTests_serves (w := true) (dropPin_serves (intoCard_serves .refl))).cfg

/-! ## The other slot's file -/

theorem slot_congr_cw (h : t.cw = s.cw) (x : Slot) : t.slot x = s.slot x := by cases x <;> simp [State.slot, h]

theorem abandonDuty_fileB (f : CardFile) (c : Cause) (s : State) : (abandonDuty .a c f s).cw.b.file = s.cw.b.file := by
  have hpin : ∀ (n : Nat) (r : Reader) (u : State), (dropPin n r u).cw = u.cw := fun _ _ _ => rfl
  unfold abandonDuty
  cases c <;> simp only [shotTests_cw, failDuty_cw, hpin] <;> rfl

theorem abandon_fileB (c : Cause) (s : State) : (abandon .a c s).cw.b.file = s.cw.b.file := by
  cases hf : (s.slot .a).file with
  | none => rw [abandon_none hf]
  | some f =>
    rw [abandon_some hf, abandonDuty_fileB]
    unfold recordFile
    split
    · rfl
    · exact addRecord_file .a _ _ .b

theorem overflowMove_fileB (s : State) : (overflowMove s).cw.b.file = s.cw.b.file := by
  have hjobs : ∀ (l : List FileJob) (u : State), (l.foldl moveJob u).cw.b.file = u.cw.b.file := by
    intro l
    induction l with
    | nil => exact fun _ => rfl
    | cons j l ih =>
      intro u
      rw [List.foldl_cons, ih]
      unfold moveJob
      split <;> rfl
  have hwait : ∀ (l : List FileJob) (u : State), (l.foldl moveWaiting u).cw.b.file = u.cw.b.file := by
    intro l
    induction l with
    | nil => exact fun _ => rfl
    | cons j l ih =>
      intro u
      rw [List.foldl_cons, ih]
      unfold moveWaiting
      split <;> rfl
  unfold overflowMove
  extract_lets file s1 s2 s3 s4
  have e3 : s3.cw.b.file = s.cw.b.file := (hwait _ _).trans ((hjobs _ _).trans (abandon_fileB .overflow s))
  exact ((slotRest_sameWork .b _).file .b).trans e3

theorem slotSettle_fileB (sl : Slot) (s : State) : (slotSettle sl s).cw.b.file = s.cw.b.file := by
  have h := (slotRest_sameWork sl s).file .b
  unfold slotSettle overflowTest
  split
  · exact (overflowMove_fileB _).trans h
  · exact h

/-! ## The slots while the shot is deleted -/

/-- What a slot's step of the delete keeps: the shot fades, no job of it is queued, and without a move the others' records
are as they were. -/
structure Drops (n : Nat) (s t : State) : Prop where
  fade : Fade n s t
  jobs : s.NoJobs n → t.NoJobs n
  file : ∀ x, s.NoFile n x → t.NoFile n x
  still : s.NoMove → t.NoMove ∧ ∀ m, m ≠ n → Away m s t

theorem Drops.trans (h1 : Drops n s t) (h2 : Drops n t u) : Drops n s u where
  fade := h1.fade.trans h2.fade
  jobs := fun h => h2.jobs (h1.jobs h)
  file := fun x h => h2.file x (h1.file x h)
  still := fun h => by
    obtain ⟨a1, b1⟩ := h1.still h
    obtain ⟨a2, b2⟩ := h2.still a1
    exact ⟨a2, fun m hm => (b1 m hm).trans (b2 m hm)⟩

theorem Drops.refl (n : Nat) (s : State) : Drops n s s :=
  ⟨(Away.refl n s).fade, id, fun _ => id, fun h => ⟨h, fun m _ => .refl m s⟩⟩

theorem slotSettle_drops (sl : Slot) (hu : s.Uniq) (hf : s.NoFile n .a) (hj : s.NoJobs n) (hp : s.NoPending n) :
    Drops n s (slotSettle sl s) := by
  have h := slotSettle_goesBy sl hu hf hj hp
  refine ⟨h.away.fade, h.jobs, h.file, fun hs => ?_⟩
  rw [slotSettle_still hs]
  exact ⟨(slotRest_sameSwitch sl s).noMove hs, fun m _ => away_slotRest m sl s⟩

/-- A slot abandons the shot's file and settles, or stands (R19). -/
theorem deleteFile_drops (sl : Slot) (hu : s.Uniq) (hj : s.NoJobs n) (hp : s.NoPending n) (ha : sl ≠ .a → s.NoFile n .a) :
    Drops n s (deleteFile n sl s) ∧ (deleteFile n sl s).NoFile n sl
      ∧ ∀ f, (s.slot sl).file = some f → f.shot = n → (deleteFile n sl s).Cancels n (.card f.kind sl) := by
  unfold deleteFile
  cases hf : (s.slot sl).file with
  | none =>
    rw [if_neg (by simp)]
    refine ⟨.refl n s, fun f hf' => ?_, fun f hf' => nomatch hf'⟩
    rw [hf] at hf'
    cases hf'
  | some f =>
    by_cases hn : f.shot = n
    · rw [if_pos (by simp [hn])]
      obtain ⟨own, hcancel, hjobs, hfile⟩ := abandon_own hu hf hn
      have hgone : (abandon sl .deleted s).NoFile n sl := fun g hg => by
        rw [abandon_file] at hg
        cases hg
      have hnoA : (abandon sl .deleted s).NoFile n .a := by
        by_cases hsl : sl = .a
        · rw [hsl] at hgone
          rw [hsl]
          exact hgone
        · exact hfile .a (Ne.symm hsl) (ha hsl)
      have hu1 : (abandon sl .deleted s).Uniq := (abandon_serves (w := true) .refl).nodup hu
      have hset := slotSettle_drops sl hu1 hnoA (hjobs hj) (own.fade.noPending hp)
      have hab : Drops n s (abandon sl .deleted s) := ⟨own.fade, hjobs, fun x hx => by
        by_cases hsl : x = sl
        · rw [hsl]
          exact hgone
        · exact hfile x hsl hx, fun hs => ⟨(abandon_sameSwitch sl s).noMove hs, own.others⟩⟩
      refine ⟨hab.trans hset, hset.file sl hgone, fun g hg _ => ?_⟩
      obtain rfl := Option.some.inj hg
      exact hset.fade.cancels hcancel
    · rw [if_neg (by simp [hn])]
      refine ⟨.refl n s, fun g hg => ?_, fun g hg hg' => ?_⟩
      · rw [hf] at hg
        cases hg
        exact hn
      · cases hg
        exact absurd hg' hn

end Sys2Proof.Machine
end

section
/-! SHOT_DELETE: the transfer queue goes on without the shot, its work is aborted, and the statement (R18, R19). -/

namespace Sys2Proof.Machine

set_option Elab.async false

open Sys2Proof

variable {s t u v : State} {n m : Nat} {k : DutyKey} {x y z h : Shot} {sl : Slot}

/-! ## The transfer queue refilled without the shot -/

/-- A record but for the marks of its deferred duties. -/
def Shot.undeferred (x : Shot) : Shot := { x with duties := x.duties.map (fun d => { d with deferred := false }) }

/-- A shot's record but for the marks of its deferred duties. -/
def State.plain (s : State) (m : Nat) : Option Shot := (s.held m).map Shot.undeferred

theorem Away.plain (h : Away m s t) : t.plain m = s.plain m := by
  unfold State.plain
  rw [h.held]

theorem plain_setDuty {g : Duty → Duty} (hg : ∀ d : Duty, { g d with deferred := false } = { d with deferred := false }) (n : Nat)
    (k : DutyKey) (m : Nat) (s : State) : (setDuty n k g s).plain m = s.plain m := by
  by_cases hm : m = n
  · subst hm
    have hh : (setDuty m k g s).held m = (s.held m).map (Shot.setDuty k g) :=
      held_modHeld_map (f := Shot.setDuty k g) (fun _ h => h) s
    unfold State.plain
    rw [hh, Option.map_map]
    refine congrArg (fun f => Option.map f (s.held m)) (funext fun x => ?_)
    show ({ x with duties := (x.duties.map _).map _ } : Shot) = { x with duties := x.duties.map _ }
    rw [List.map_map]
    refine congrArg (fun l => { x with duties := l }) (List.map_congr_left fun d _ => ?_)
    show ({ (if d.key == k then g d else d) with deferred := false } : Duty) = _
    split
    · exact hg d
    · rfl
  · exact (away_setDuty hm k g).plain

/-- A step on the tether port's queue that goes by the shot. -/
structure Refills (n : Nat) (s t : State) : Prop where
  away : Away n s t
  plain : ∀ m, t.plain m = s.plain m
  entries : (∀ e ∈ s.tp.queue, e.shot ≠ n) → ∀ e ∈ t.tp.queue, e.shot ≠ n
  rest : t.cw = s.cw ∧ t.de = s.de ∧ t.mi = s.mi

theorem Refills.refl (n : Nat) (s : State) : Refills n s s := ⟨.refl n s, fun _ => rfl, id, rfl, rfl, rfl⟩

theorem Refills.trans (h1 : Refills n s t) (h2 : Refills n t u) : Refills n s u :=
  ⟨h1.away.trans h2.away, fun m => (h2.plain m).trans (h1.plain m), fun h => h2.entries (h1.entries h),
    h2.rest.1.trans h1.rest.1, h2.rest.2.1.trans h1.rest.2.1, h2.rest.2.2.trans h1.rest.2.2⟩

/-- A duty's mark of deferral set or cleared. -/
def remark (b : Bool) (d : Duty) : Duty := { d with deferred := b }

theorem remark_refills (hm : n ≠ m) (f : FileKind) (b : Bool) (p : Tether) (hq : p.queue = s.tp.queue) :
    Refills n s { setDuty m (.send f) (remark b) s with tp := p } where
  away := (away_setDuty hm (.send f) (remark b)).trans (.of_same rfl rfl)
  plain := fun i => plain_setDuty (g := remark b) (fun _ => rfl) m (.send f) i s
  entries := fun he e hmem => he e (by rw [← hq]; exact hmem)
  rest := ⟨rfl, rfl, rfl⟩

theorem joinTether_refills (hm : n ≠ m) (atHead : Bool) (f : FileKind) : Refills n s (joinTether atHead m f s) := by
  unfold joinTether
  dsimp only
  split
  · exact .refl n s
  · split
    · exact .refl n s
    · split
      · exact remark_refills hm f true _ rfl
      · refine ⟨.of_same rfl rfl, fun _ => rfl, fun he e hmem => ?_, rfl, rfl, rfl⟩
        rcases List.mem_append.1 (mem_sortTether.1 hmem) with hmem | hmem
        · exact he e hmem
        · rw [List.mem_singleton.1 hmem]
          exact Ne.symm hm

theorem queueDeferred_refills {p : Nat × FileKind} (hp : p.1 ≠ n) : Refills n s (queueDeferred s p) := by
  have h1 := remark_refills (s := s) (Ne.symm hp) p.2 false { s.tp with deferred := s.tp.deferred - 1 } rfl
  exact h1.trans (joinTether_refills (Ne.symm hp) false p.2)

/-- The deferred duties that are queued are PENDING duties of HELD shots. -/
theorem sendsInOrder_pending (hu : s.Uniq) {p : Duty → Bool} {q : Nat × FileKind} (h : q ∈ s.sendsInOrder p) :
    ∃ y, s.held q.1 = some y ∧ y.dutyState (.send q.2) = some .pending := by
  have hone : ∀ (r : Duty → Bool), q ∈ (bySerial s.heldShots).flatMap (Shot.pendingSends r) →
      ∃ y, s.held q.1 = some y ∧ y.dutyState (.send q.2) = some .pending := by
    intro r hq
    obtain ⟨y, hy, hyq⟩ := List.mem_flatMap.1 hq
    obtain ⟨hm, hst⟩ := List.mem_filter.1 ((bySerial_perm _).mem_iff.1 hy)
    obtain ⟨f, -, hf⟩ := List.mem_filterMap.1 hyq
    cases hd : y.duty (.send f) with
    | none => rw [hd] at hf; cases hf
    | some d =>
      rw [hd] at hf
      dsimp only at hf
      split at hf
      · rename_i hc
        cases hf
        refine ⟨y, held_of_mem hu hm (beq_iff_eq.1 hst), ?_⟩
        unfold Shot.dutyState
        rw [hd, Option.map_some, beq_iff_eq.1 (Bool.and_eq_true_iff.1 hc).1]
      · cases hf
  unfold State.sendsInOrder at h
  exact (List.mem_append.1 h).elim (hone _) (hone _)

theorem refill_refills (hu : s.Uniq) (hp : s.NoPending n) : Refills n s (refill s) := by
  have hall : ∀ (l : List (Nat × FileKind)) (u : State), (∀ p ∈ l, p.1 ≠ n) → Refills n u (l.foldl queueDeferred u) := by
    intro l
    induction l with
    | nil => exact fun u _ => .refl n u
    | cons p l ih =>
      exact fun u h => (queueDeferred_refills (h p List.mem_cons_self)).trans (ih _ fun q hq => h q (List.mem_cons_of_mem _ hq))
  refine hall _ s fun p hmem e => ?_
  obtain ⟨y, hy, hst⟩ := sendsInOrder_pending hu (List.mem_of_mem_take hmem)
  rw [e] at hy
  exact hp.not_pending hy _ hst

/-! ## The shot's work aborted -/

theorem dropProof_cw (n : Nat) (s : State) : (dropProof n s).cw = s.cw := by
  unfold dropProof
  split
  · rw [giveBlocks_eq]
    rfl
  · rfl

theorem proofTest_cw (n : Nat) (s : State) : (proofTest n s).cw = s.cw := by
  unfold proofTest
  split
  · split
    · exact dropProof_cw n s
    · rfl
  · rfl

theorem abortJob_other (h : ∀ j, s.de.job = some j → j.shot ≠ n) : abortJob n s = s := by
  unfold abortJob
  split
  · rename_i j hj
    exact if_neg (h j hj)
  · rfl

theorem abortJob_job {j : Job} (hj : s.de.job = some j) (hn : j.shot = n) :
    abortJob n s = { setDuty n .develop (Duty.into .cancelled) (clearJob j s) with
      de := { (clearJob j s).de with phase := .idle, aborts := sat32 (clearJob j s).de.aborts } } := by
  unfold abortJob
  rw [hj]
  exact if_pos hn

/-- What the job holds given back (R134). -/
theorem clearJob_own {j : Job} (hn : j.shot = n) : Own n s (clearJob j s) ∧ (clearJob j s).cw = s.cw
    ∧ (clearJob j s).tp = s.tp ∧ (clearJob j s).mi = s.mi ∧ (clearJob j s).de = { s.de with job := none }
    ∧ (s.de.phase = .developing → ∀ y, (clearJob j s).held n = some y → y.proof = none) := by
  unfold clearJob
  by_cases hp : s.de.phase = .developing
  · rw [if_pos hp, hn]
    have hport := (dropProof_serves (n := n) (dropPin_serves (n := n) (r := .d) (w := false) (.refl (a := s)))).port_engine
    have hmi : (dropProof n (dropPin n .d s)).mi = s.mi := by
      unfold dropProof
      split
      · rw [giveBlocks_eq]
        rfl
      · rfl
    have hown := (own_dropPin n .d s).trans (own_dropProof n (dropPin n .d s))
    refine ⟨hown.trans (.of_same rfl rfl), dropProof_cw n _, hport.1, hmi, by dsimp only; rw [hport.2], fun _ y hy => ?_⟩
    have hy' : (dropProof n (dropPin n .d s)).held n = some y := hy
    rw [held_dropProof] at hy'
    obtain ⟨x, -, rfl⟩ := Option.map_eq_some_iff.1 hy'
    rfl
  · rw [if_neg hp]
    exact ⟨.of_same rfl rfl, rfl, rfl, rfl, rfl, fun h => absurd h hp⟩

/-- The development job of the shot aborted (R134). -/
theorem abortJob_own (n : Nat) (s : State) : Own n s (abortJob n s) ∧ (abortJob n s).cw = s.cw ∧ (abortJob n s).tp = s.tp
    ∧ (abortJob n s).mi = s.mi ∧ (abortJob n s).de.queue = s.de.queue ∧ (∀ j, (abortJob n s).de.job = some j → j.shot ≠ n)
    ∧ ∀ j, s.de.job = some j → j.shot = n → (abortJob n s).Cancels n .develop
      ∧ (s.de.phase = .developing → ∀ y, (abortJob n s).held n = some y → y.proof = none) := by
  by_cases hjob : ∀ j, s.de.job = some j → j.shot ≠ n
  · rw [abortJob_other hjob]
    exact ⟨.of_same rfl rfl, rfl, rfl, rfl, rfl, hjob, fun j hj hn => absurd hn (hjob j hj)⟩
  · simp only [not_forall, ne_eq, not_not] at hjob
    obtain ⟨j, hj, hn⟩ := hjob
    rw [abortJob_job hj hn]
    obtain ⟨hown, hcw, htp, hmi, hde, hproof⟩ := clearJob_own (s := s) hn
    generalize clearJob j s = s1 at *
    have ho := own_cancel n .develop s1
    have hc := setDuty_cancels n .develop s1
    have hnone : s1.de.job = none := congrArg Develop.job hde
    have hqueue : s1.de.queue = s.de.queue := by rw [hde]
    refine ⟨(hown.trans ho).trans (.of_same rfl rfl), hcw, htp, hmi, hqueue, fun i hi => ?_, fun i _ _ =>
      ⟨hc, fun hp y hy => ?_⟩⟩
    · have hi' : s1.de.job = some i := hi
      rw [hnone] at hi'
      cases hi'
    · obtain ⟨x, hx, -, hpr⟩ := ho.fade.kept y hy
      exact hpr.elim (fun e => e.trans (hproof hp x hx)) And.left

theorem abortTransfer_own {x : Transfer} (hn : x.shot = n) (r : AbortReason) : Own n s (abortTransfer x r s) := by
  have h1 : Own n s (sendFrame (.abort x.id r) s) := .of_same rfl rfl
  have h2 := own_dropPin n .t (sendFrame (.abort x.id r) s)
  have h3 : Own n (dropPin n .t (sendFrame (.abort x.id r) s)) (abortTransfer x r s) := by
    rw [← hn]
    exact .of_same rfl rfl
  exact (h1.trans h2).trans h3

/-- The transfer of the shot aborted (R176). -/
theorem deleteTransfer_own (n : Nat) (s : State) : Own n s (deleteTransfer n s) ∧ (deleteTransfer n s).cw = s.cw
    ∧ (deleteTransfer n s).de = s.de ∧ (deleteTransfer n s).mi = s.mi ∧ (deleteTransfer n s).tp.queue = s.tp.queue
    ∧ (∀ x, (deleteTransfer n s).tp.transfer = some x → x.shot ≠ n)
    ∧ ∀ x, s.tp.transfer = some x → x.shot = n → (deleteTransfer n s).Cancels n (.send x.kind) := by
  by_cases hx : ∀ x, s.tp.transfer = some x → x.shot ≠ n
  · have e : deleteTransfer n s = s := by
      unfold deleteTransfer
      split
      · rename_i x hx'
        exact if_neg (hx x hx')
      · rfl
    rw [e]
    exact ⟨.of_same rfl rfl, rfl, rfl, rfl, rfl, hx, fun x hx' hn => absurd hn (hx x hx')⟩
  · simp only [not_forall, ne_eq, not_not] at hx
    obtain ⟨x, hx, hn⟩ := hx
    have e : deleteTransfer n s = setDuty n (.send x.kind) (Duty.into .cancelled) (abortTransfer x .deleted s) := by
      unfold deleteTransfer
      rw [hx]
      exact if_pos hn
    rw [e]
    have hown := abortTransfer_own (s := s) hn .deleted
    refine ⟨hown.trans (own_cancel n _ _), rfl, rfl, rfl, rfl, fun y hy => ?_, fun y hy _ => ?_⟩
    · have hy' : (none : Option Transfer) = some y := hy
      cases hy'
    · rw [hx] at hy
      cases hy
      exact setDuty_cancels n _ _

/-- The memo of the shot ended (R195): a recording's blocks go back. -/
theorem abortMemo_ends (n : Nat) (s : State) : (abortMemo n s).ss.table = s.ss.table
    ∧ (∃ l, (abortMemo n s).ss.free = s.ss.free ++ l) ∧ (abortMemo n s).cw = s.cw ∧ (abortMemo n s).de = s.de
    ∧ (abortMemo n s).tp = s.tp ∧ (∀ m, (abortMemo n s).mi.current = some m → m.shot ≠ n)
    ∧ ∀ m, s.mi.current = some m → m.shot = n → s.mi.phase = .recording → ∀ b ∈ m.blocks, b ∈ (abortMemo n s).ss.free := by
  unfold abortMemo
  split
  · rename_i m hm
    split
    · rename_i hn
      refine ⟨rfl, ⟨[], (List.append_nil _).symm⟩, rfl, rfl, rfl, fun i hi => ?_, fun i hi hi' => ?_⟩
      · rw [hm] at hi
        cases hi
        exact hn
      · rw [hm] at hi
        cases hi
        exact absurd hi' hn
    · dsimp only
      split
      · rw [giveBlocks_eq]
        refine ⟨rfl, ⟨m.blocks, rfl⟩, rfl, rfl, rfl, fun i hi => ?_, fun i hi _ _ b hb => ?_⟩
        · have hi' : (none : Option MemoRec) = some i := hi
          cases hi'
        · rw [hm] at hi
          cases hi
          exact List.mem_append_right _ hb
      · rename_i hp
        refine ⟨rfl, ⟨[], (List.append_nil _).symm⟩, rfl, rfl, rfl, fun i hi => ?_, fun _ _ _ hr => absurd hr hp⟩
        have hi' : (none : Option MemoRec) = some i := hi
        cases hi'
  · rename_i hm
    refine ⟨rfl, ⟨[], (List.append_nil _).symm⟩, rfl, rfl, rfl, fun i hi => ?_, fun i hi => ?_⟩
    · rw [hm] at hi
      cases hi
    · rw [hm] at hi
      cases hi

/-! ## The shot marked for deletion -/

/-- The shot marked, its entries gone (R19). -/
def State.doomed (n : Nat) (s : State) : State := modHeld n Shot.forDelete (dropEntries n s)

theorem deleteShot_eq (n : Nat) (s : State) : deleteShot n s = shotTests n (abortMemo n (proofTest n (deleteTransfer n (abortJob n
    (refill (slotSettle .b (slotSettle .a (deleteFile n .b (deleteFile n .a (proofTest n (s.doomed n))))))))))) := rfl

/-- The work of the shot is no more in the queues, and its record is marked. -/
theorem doomed_spec (hh : s.held n = some h) : (s.doomed n).held n = some h.forDelete
    ∧ (∀ m, m ≠ n → Away m s (s.doomed n)) ∧ (s.doomed n).NoJobs n ∧ (s.doomed n).NoPending n
    ∧ (∀ e ∈ (s.doomed n).tp.queue, e.shot ≠ n) ∧ (∀ e ∈ (s.doomed n).de.queue, e.shot ≠ n) := by
  have hheld : (s.doomed n).held n = some h.forDelete := by
    have e : (s.doomed n).held n = ((dropEntries n s).held n).map Shot.forDelete :=
      held_modHeld_map (f := Shot.forDelete) (fun _ h => h) _
    have e' : (dropEntries n s).held n = s.held n := rfl
    rw [e, e', hh, Option.map_some]
  refine ⟨hheld, fun m hm => ?_, fun sl j hj => ?_, fun y hy d hd => ?_, fun e he => ?_, fun e he => ?_⟩
  · have h1 : Away m s (dropEntries n s) := .of_same rfl rfl
    exact h1.trans (away_entry hm fun _ => rfl)
  · have hj' : j ∈ ((s.slot sl).without n).queue := by cases sl <;> exact hj
    exact bne_iff_ne.1 (List.mem_filter.1 hj').2
  · rw [hheld] at hy
    cases hy
    obtain ⟨e, -, rfl⟩ := List.mem_map.1 hd
    dsimp only
    by_cases hp : e.state = .pending
    · rw [if_pos (beq_iff_eq.2 hp)]
      show (e.into .cancelled).state ≠ _
      rw [into_state]
      decide
    · rw [if_neg (by simpa using hp)]
      exact hp
  · exact bne_iff_ne.1 (List.mem_filter.1 he).2
  · exact bne_iff_ne.1 (List.mem_filter.1 he).2

/-- What the deleting record keeps of each duty: its state, or CANCELLED where it was PENDING (R19). -/
theorem forDelete_dutyState (h : Shot) (k : DutyKey) : h.forDelete.dutyState k
    = (h.dutyState k).map (fun d => if d = .pending then .cancelled else d) := by
  have hk : ∀ d : Duty, ({ (if d.state == .pending then d.into .cancelled else d) with deferred := false } : Duty).key = d.key := by
    intro d
    dsimp only
    split
    · exact into_key .cancelled d
    · rfl
  unfold Shot.dutyState Shot.duty Shot.forDelete
  dsimp only
  rw [find_mapDuty hk, Option.map_map, Option.map_map]
  refine congrArg (fun f => Option.map f _) (funext fun d => ?_)
  show (if d.state == .pending then d.into .cancelled else d : Duty).state = if d.state = .pending then _ else _
  by_cases hp : d.state = .pending
  · rw [if_pos (beq_iff_eq.2 hp), if_pos hp, into_state]
  · rw [if_neg (by simpa using hp), if_neg hp]

/-! ## The delete as a whole -/

/-- What the delete comes to, from the marked record to the end (R19). -/
structure Deleted (n : Nat) (s t : State) : Prop where
  fade : ∃ mi, Fade n { s.doomed n with mi := mi } t
  left : ∀ u, t.held n = some u → u.freeable = false
  jobs : t.NoJobs n
  file : ∀ sl, t.NoFile n sl
  entries : ∀ e ∈ t.tp.queue, e.shot ≠ n
  develop : ∀ e ∈ t.de.queue, e.shot ≠ n
  job : ∀ j, t.de.job = some j → j.shot ≠ n
  transfer : ∀ x, t.tp.transfer = some x → x.shot ≠ n
  memo : ∀ m, t.mi.current = some m → m.shot ≠ n
  cancelled : ∀ k, ((∃ f ∈ s.cw.a.file, f.shot = n ∧ k = .card f.kind .a) ∨ (∃ f ∈ s.cw.b.file, f.shot = n ∧ k = .card f.kind .b)
    ∨ (∃ j ∈ s.de.job, j.shot = n ∧ k = .develop) ∨ (∃ x ∈ s.tp.transfer, x.shot = n ∧ k = .send x.kind)) → t.Cancels n k
  proof : s.de.phase = .developing → (∃ j ∈ s.de.job, j.shot = n) → ∀ u, t.held n = some u → u.proof = none
  blocks : ∀ m, s.mi.current = some m → m.shot = n → s.mi.phase = .recording → ∀ b ∈ m.blocks, b ∈ t.ss.free
  plain : s.NoMove → ∀ m, m ≠ n → t.plain m = s.plain m

/-- The memo input plays no part in what becomes of the record. -/
theorem Fade.with_memo (h : Fade n s t) (mi : Memo) : Fade n { s with mi := mi } { t with mi := mi } :=
  ⟨h.kept, h.gone, h.free, fun _ => rfl⟩

/-- The tests leave a shot that may not be freed. -/
theorem freeTest_left (hr : s.recordsInto n = false) (hu : s.Uniq) (hx : (freeTest n s).held n = some x) : x.freeable = false := by
  unfold freeTest at hx
  cases hh : s.held n with
  | none =>
    rw [hh] at hx
    dsimp only at hx
    rw [hh] at hx
    cases hx
  | some y =>
    rw [hh] at hx
    dsimp only at hx
    cases hf : y.freeable with
    | false =>
      rw [hf, Bool.false_and, if_neg Bool.false_ne_true, hh] at hx
      cases hx
      exact hf
    | true =>
      rw [hf, hr, Bool.not_false, Bool.and_true, if_pos rfl] at hx
      have ha := away_abortArmed n n (giveBlocks y.blocks (modHeld n (fun _ => {}) s))
      rw [ha.held, giveBlocks_eq] at hx
      have e := held_clear (n := n) hu
      exact nomatch e.symm.trans hx

theorem proofTest_mi (n : Nat) (s : State) : (proofTest n s).mi = s.mi := by
  unfold proofTest dropProof
  split
  · split
    · split
      · rw [giveBlocks_eq]
        rfl
      · rfl
    · rfl
  · rfl

/-- The tests leave no memo that was not in hand. -/
theorem shotTests_current {p : MemoRec → Prop} (h : ∀ m, s.mi.current = some m → p m) :
    ∀ m, (shotTests n s).mi.current = some m → p m := by
  have harmed : ∀ u : State, (abortArmed n u).mi.current = u.mi.current ∨ (abortArmed n u).mi.current = none := by
    intro u
    unfold abortArmed
    split
    · split
      · exact .inr rfl
      · exact .inl rfl
    · exact .inl rfl
  rw [← proofTest_mi n s] at h
  unfold shotTests freeTest
  generalize proofTest n s = u at *
  split
  · split
    · intro m hm
      rcases harmed (giveBlocks (Shot.blocks ‹Shot›) (modHeld n (fun _ => {}) u)) with e | e
      · rw [e, giveBlocks_eq] at hm
        exact h m hm
      · rw [e] at hm
        cases hm
    · exact h
  · exact h

theorem Deleted.of_shot (hu : s.Uniq) (hh : s.held n = some h) : Deleted n s (deleteShot n s) := by
  rw [deleteShot_eq]
  obtain ⟨hheld, hothers, hj0, hp0, he0, hd0⟩ := doomed_spec hh
  have v0 : Serves true s (s.doomed n) := (dropEntries_serves .refl).entry fun _ => {}
  have hu0 : (s.doomed n).Uniq := v0.nodup hu
  have hfile0 : ∀ sl, ((s.doomed n).slot sl).file = (s.slot sl).file := fun sl => by cases sl <;> rfl
  have hrest0 : (s.doomed n).de.job = s.de.job ∧ (s.doomed n).de.phase = s.de.phase ∧ (s.doomed n).tp.transfer = s.tp.transfer
      ∧ (s.doomed n).mi = s.mi ∧ ((s.doomed n).NoMove ↔ s.NoMove) := ⟨rfl, rfl, rfl, rfl, Iff.rfl⟩
  generalize hs0 : s.doomed n = s0 at *
  -- the proof test, and the slots
  have o1 := own_proofTest n s0
  have w1 : SameWork s0 (proofTest n s0) := .of_cw (proofTest_cw n s0)
  have n1 : SameSwitch s0 (proofTest n s0) := .of_cw (proofTest_cw n s0) (proofTest_serves (w := true) .refl).cfg
  have v1 : Serves false s0 (proofTest n s0) := proofTest_serves .refl
  generalize proofTest n s0 = s1 at *
  have hj1 := w1.noJobs hj0
  have hp1 := o1.fade.noPending hp0
  have d1 : Drops n s0 s1 := ⟨o1.fade, w1.noJobs, fun _ => w1.noFile, fun h => ⟨n1.noMove h, o1.others⟩⟩
  obtain ⟨d2, f2, c2⟩ := deleteFile_drops .a (v1.nodup hu0) hj1 hp1 (fun h => absurd rfl h)
  have b2 : (deleteFile n .a s1).cw.b.file = s1.cw.b.file := by
    unfold deleteFile
    split
    · exact (slotSettle_fileB _ _).trans (abandon_fileB _ _)
    · rfl
  have v2 : Serves false s0 (deleteFile n .a s1) := deleteFile_serves v1
  generalize deleteFile n .a s1 = s2 at *
  have hj2 := d2.jobs hj1
  obtain ⟨d3, f3, c3⟩ := deleteFile_drops .b (v2.nodup hu0) hj2 (d2.fade.noPending hp1) (fun _ => f2)
  have v3 : Serves false s0 (deleteFile n .b s2) := deleteFile_serves v2
  generalize deleteFile n .b s2 = s3 at *
  have hp3 := d3.fade.noPending (d2.fade.noPending hp1)
  have d4 := slotSettle_drops .a (v3.nodup hu0) (d3.file .a f2) (d3.jobs hj2) hp3
  have v4 : Serves false s0 (slotSettle .a s3) := slotSettle_serves v3
  generalize slotSettle .a s3 = s4 at *
  have hp4 := d4.fade.noPending hp3
  have d5 := slotSettle_drops .b (v4.nodup hu0) (d4.file .a (d3.file .a f2)) (d4.jobs (d3.jobs hj2)) hp4
  have v5 : Serves false s0 (slotSettle .b s4) := slotSettle_serves v4
  generalize slotSettle .b s4 = s5 at *
  have hp5 := d5.fade.noPending hp4
  have d25 := d3.trans (d4.trans d5)
  have d05 : Drops n s0 s5 := d1.trans (d2.trans d25)
  have hport := v5.port_engine
  -- the transfer queue
  have r6 := refill_refills (v5.nodup hu0) hp5
  have x6 := refill_transfer s5
  have v6 : Serves true s5 (refill s5) := refill_serves .refl
  generalize refill s5 = s6 at *
  have d06 : Fade n s0 s6 := d05.fade.trans r6.away.fade
  have w6 : SameWork s5 s6 := .of_cw r6.rest.1
  -- the work aborted
  obtain ⟨o7, cw7, tp7, mi7, dq7, dj7, dc7⟩ := abortJob_own n s6
  have v7 : Serves true s5 (abortJob n s6) := abortJob_serves v6
  generalize abortJob n s6 = s7 at *
  obtain ⟨o8, cw8, de8, mi8, tq8, tt8, tc8⟩ := deleteTransfer_own n s7
  have v8 : Serves true s5 (deleteTransfer n s7) := deleteTransfer_serves v7
  generalize deleteTransfer n s7 = s8 at *
  have o9 := own_proofTest n s8
  have cw9 := proofTest_cw n s8
  have pe9 := (proofTest_serves (n := n) (w := false) (.refl (a := s8))).port_engine
  have v9 : Serves true s5 (proofTest n s8) := proofTest_serves v8
  generalize proofTest n s8 = s9 at *
  have o69 : Own n s6 s9 := (o7.trans o8).trans o9
  obtain ⟨tb10, fr10, cw10, de10, tp10, mi10, bl10⟩ := abortMemo_ends n s9
  have v10 : Serves true s5 (abortMemo n s9) := abortMemo_serves v9
  generalize abortMemo n s9 = s10 at *
  have hu10 : s10.Uniq := v10.nodup (v5.nodup hu0)
  have o11 := own_shotTests (n := n) hu10
  have cw11 := shotTests_cw n s10
  have pe11 := (shotTests_serves (n := n) (w := false) (.refl (a := s10))).port_engine
  have hmemo : ∀ m, (shotTests n s10).mi.current = some m → m.shot ≠ n := shotTests_current mi10
  have hleft : ∀ u, (shotTests n s10).held n = some u → u.freeable = false := by
    intro u hu'
    refine freeTest_left (s := proofTest n s10) ?_ ((proofTest_serves (w := true) .refl).nodup hu10) hu'
    have hmi : (proofTest n s10).mi = s10.mi := proofTest_mi n s10
    unfold State.recordsInto
    rw [hmi]
    cases hc : s10.mi.current with
    | none => simp
    | some m => simp [mi10 m hc]
  generalize shotTests n s10 = t at *
  have hmi5 : s0.mi.phase ≠ .armed → s6.mi = s0.mi := d06.memo
  have a9 : Away n { s9 with mi := s10.mi } s10 := ⟨held_congr tb10, fr10, fun _ => rfl⟩
  have f9t : Fade n { s9 with mi := s10.mi } t := a9.fade.trans o11.fade
  have f0t : Fade n { s0 with mi := s10.mi } t := ((d06.trans o69.fade).with_memo s10.mi).trans f9t
  have f7t : Fade n { s7 with mi := s10.mi } t := ((o8.trans o9).fade.with_memo s10.mi).trans f9t
  have f8t : Fade n { s8 with mi := s10.mi } t := (o9.fade.with_memo s10.mi).trans f9t
  have f6t : Fade n { s6 with mi := s10.mi } t := (o69.fade.with_memo s10.mi).trans f9t
  have ecw : t.cw = s6.cw := by rw [cw11, cw10, cw9, cw8, cw7]
  have ede : t.de = s7.de := by rw [pe11.2, de10, pe9.2, de8]
  have etp : t.tp = s8.tp := by rw [pe11.1, tp10, pe9.1]
  have wt : SameWork s5 t := w6.trans (.of_cw ecw)
  obtain ⟨hjob0, hphase0, htransfer0, hmi0, hmove0⟩ := hrest0
  have e6job : s6.de = s0.de := r6.rest.2.1.trans hport.2
  have e6tp : s6.tp.transfer = s0.tp.transfer := x6.trans (congrArg Tether.transfer hport.1)
  refine ⟨⟨s10.mi, hs0 ▸ f0t⟩, hleft, wt.noJobs (d05.jobs hj0), fun sl => wt.noFile ?_, ?_, ?_, ?_, ?_, hmemo, ?_, ?_, ?_, ?_⟩
  · cases sl with
    | a => exact d25.file .a f2
    | b => exact (d4.trans d5).file .b f3
  · rw [etp, tq8, tp7]
    exact r6.entries (by rw [hport.1]; exact he0)
  · rw [ede, dq7, e6job]
    exact hd0
  · rw [ede]
    exact dj7
  · rw [etp]
    exact tt8
  · rintro k (⟨f, hf, hfn, rfl⟩ | ⟨f, hf, hfn, rfl⟩ | ⟨j, hj, hjn, rfl⟩ | ⟨x, hx, hxn, rfl⟩)
    · have hf1 : (s1.slot .a).file = some f := (w1.file .a).trans ((hfile0 .a).trans hf)
      exact f6t.cancels ((d25.fade.trans r6.away.fade).cancels (c2 f hf1 hfn))
    · have hf2 : (s2.slot .b).file = some f := b2.trans ((w1.file .b).trans ((hfile0 .b).trans hf))
      exact f6t.cancels (((d4.trans d5).fade.trans r6.away.fade).cancels (c3 f hf2 hfn))
    · exact f7t.cancels (dc7 j (by rw [e6job, hjob0]; exact hj) hjn).1
    · exact f8t.cancels (tc8 x (by rw [tp7, e6tp, htransfer0]; exact hx) hxn)
  · rintro hp ⟨j, hj, hjn⟩ u hu'
    obtain ⟨y, hy, -, hpr⟩ := f7t.kept u hu'
    have hy0 := (dc7 j (by rw [e6job, hjob0]; exact hj) hjn).2 (by rw [e6job, hphase0]; exact hp) y hy
    exact hpr.elim (fun e => e.trans hy0) And.left
  · intro m hm hmn hp b hb
    have hna : s0.mi.phase ≠ .armed := by
      rw [hmi0, hp]
      decide
    have e9 : s9.mi = s.mi := ((d06.trans o69.fade).memo hna).trans hmi0
    exact mem_free o11.fade.free (bl10 m (by rw [e9]; exact hm) hmn (by rw [e9]; exact hp) b hb)
  · intro hs m hm
    have p1 : s5.plain m = s.plain m := by
      rw [((d05.still (hmove0.2 hs)).2 m hm).plain, (hothers m hm).plain]
    have p2 : s9.plain m = s6.plain m := (o69.others m hm).plain
    have p3 : s10.plain m = s9.plain m := by
      unfold State.plain
      rw [held_congr tb10]
    rw [(o11.others m hm).plain, p3, p2, r6.plain m, p1]

end Sys2Proof.Machine
end

section
/-! The statement of SHOT_DELETE (R18, R19). -/

namespace Sys2Proof.Machine

set_option Elab.async false

open Sys2Proof

variable {s t : State} {n m : Nat} {k : DutyKey} {h u : Shot}

/-- The deleting record at the end: what it still is, and what became of its duties. -/
theorem Deleted.record (hd : Deleted n s t) (hh : s.held n = some h) (hu : t.held n = some u) :
    Shot.Fades h.forDelete u ∧ (u.proof = h.proof ∨ u.proof = none ∧ ∀ b ∈ h.proofBlocks, b ∈ t.ss.free) := by
  obtain ⟨mi, hf⟩ := hd.fade
  obtain ⟨x, hx, hfx, hpx⟩ := hf.kept u hu
  have hx' : (s.doomed n).held n = some x := hx
  rw [(doomed_spec hh).1] at hx'
  cases hx'
  exact ⟨hfx, hpx⟩

theorem Shot.Fades.keys {x y : Shot} (h : Shot.Fades x y) : y.duties.map (·.key) = x.duties.map (·.key) := by
  have hd := h.duties
  generalize x.duties = l, y.duties = l' at hd
  induction hd with
  | nil => rfl
  | cons hab _ ih => rw [List.map_cons, List.map_cons, hab.1, ih]

theorem forDelete_keys (h : Shot) : h.forDelete.duties.map (·.key) = h.duties.map (·.key) := by
  show (h.duties.map _).map _ = _
  rw [List.map_map]
  refine List.map_congr_left fun d _ => ?_
  show (if d.state == .pending then d.into .cancelled else d : Duty).key = d.key
  split
  · exact into_key .cancelled d
  · rfl

/-- A record that may not be freed owes a duty, holds a pin or is kept. -/
theorem not_freeable (hk : u.keep = false) (hf : u.freeable = false) (hp : ∀ d ∈ u.duties, d.state ≠ .pending) :
    (∃ d ∈ u.duties, d.state = .active) ∨ u.pins ≠ [] := by
  unfold Shot.freeable at hf
  rw [hk, Bool.not_false, Bool.and_true] at hf
  rcases Bool.and_eq_false_iff.1 hf with hf | hf
  · obtain ⟨d, hd, ho⟩ := List.all_eq_false.1 hf
    refine .inl ⟨d, hd, ?_⟩
    have hne := hp d hd
    unfold Duty.owed at ho
    cases hst : d.state <;> simp_all
  · exact .inr fun e => by rw [e] at hf; cases hf

/-- Settles O22: the record fades through the steps of the delete, and the slots and the transfer queue go by it. -/
theorem shotDelete : Obligations.ShotDelete := by
  intro tag n s ha
  refine ⟨fun hu => ?_, fun h hu hn => ?_⟩
  · refine (exec_plain (act := actShotDelete) tag n ha).trans ?_
    simp [actShotDelete, hu, deny]
  · obtain ⟨hh, hdel⟩ := usable_held hu
    have hd := Deleted.of_shot hn hh
    have hserves : Serves true s (deleteShot n s) := deleteShot_serves .refl
    refine ⟨deleteShot n s, exec_shotDelete tag ha hu, ?_⟩
    generalize deleteShot n s = t at *
    obtain ⟨mi, hfade⟩ := hd.fade
    have hdoom := doomed_spec hh
    have hnp : t.NoPending n := hfade.noPending hdoom.2.2.2.1
    have hblocks : t.held n = none → ∀ b ∈ h.blocks, b ∈ t.ss.free := fun hnone => hfade.gone h.forDelete hdoom.1 hnone
    have hrec : ∀ u, t.held n = some u → u.deleting = true ∧ u.keep = false ∧ u.urgent = false ∧ u.raw = h.raw := by
      intro u hu
      obtain ⟨hf, -⟩ := hd.record hh hu
      rw [hf.eq]
      exact ⟨rfl, rfl, rfl, rfl⟩
    have hactive : ∀ u, t.held n = some u → (∃ d ∈ u.duties, d.state = .active) ∨ u.pins ≠ [] := fun u hu =>
      not_freeable (hrec u hu).2.1 (hd.left u hu) (hnp u hu)
    refine ⟨?_, hd.develop, hd.entries, hd.job, hd.transfer, hd.memo, ?_, ?_, fun u hu => ?_, fun h1 h2 => ?_, hserves.free,
      hblocks, fun hp hj b hb => ?_, hd.blocks, fun hs m x hm hx => ?_⟩
    · have e := hserves.eq
      have es := hserves.store
      rw [← es] at e
      exact e
    · intro j hj
      rcases List.mem_append.1 hj with hj | hj
      · exact hd.jobs .a j hj
      · exact hd.jobs .b j hj
    · intro f hf
      rcases List.mem_append.1 hf with hf | hf
      · exact hd.file .a f (Option.mem_toList.1 hf)
      · exact hd.file .b f (Option.mem_toList.1 hf)
    · obtain ⟨h1, h2, h3, h4⟩ := hrec u hu
      obtain ⟨hf, -⟩ := hd.record hh hu
      refine ⟨h1, h2, h3, hactive u hu, hnp u hu, hf.keys.trans (forDelete_keys h), h4, fun k d hk => ?_⟩
      have hmark := forDelete_dutyState h k
      rw [hk, Option.map_some] at hmark
      rcases hf.dutyState k with ⟨hnone, -⟩ | ⟨e, he, hst⟩
      · rw [hnone] at hmark
        cases hmark
      · rw [he] at hmark
        obtain rfl := Option.some.inj hmark
        refine ⟨?_, ?_⟩
        · by_cases hp : d = .pending
          · rw [if_pos hp, or_self] at hst
            exact .inr hst
          · rw [if_neg hp] at hst
            exact hst
        · rintro (hp | hcause)
          · rw [if_pos hp, or_self] at hst
            exact hst
          · have hc := hd.cancelled k hcause u hu
            rcases hst with hst | hst
            · rw [hst, hc _ hst]
            · exact hst
    · cases hx : t.held n with
      | none => rfl
      | some u =>
        obtain ⟨hf, -⟩ := hd.record hh hx
        rcases hactive u hx with ⟨d, hdm, hst⟩ | hpins
        · obtain ⟨e, he, -, hes⟩ := forall₂_mem_right hf.duties hdm
          obtain ⟨c, hc, rfl⟩ := List.mem_map.1 he
          rw [hst] at hes
          rcases hes with hes | hes
          · refine absurd ?_ (h1 c hc)
            dsimp only at hes
            split at hes
            · rw [into_state] at hes
              cases hes
            · exact hes.symm
          · cases hes
        · refine absurd (List.eq_nil_iff_forall_not_mem.2 fun p hp => ?_) hpins
          have := hf.pins p hp
          rw [show h.forDelete.pins = h.pins from rfl, h2] at this
          cases this
    · cases hx : t.held n with
      | none => exact hblocks hx b (List.mem_append_left _ (List.mem_append_right _ hb))
      | some u =>
        obtain ⟨-, hpr⟩ := hd.record hh hx
        rcases hpr with hpr | ⟨-, hpr⟩
        · rw [← hpr, hd.proof hp hj u hx] at hb
          cases hb
        · exact hpr b hb
    · have hp := hd.plain hs m hm
      unfold State.plain at hp
      rw [hx, Option.map_some] at hp
      obtain ⟨y, hy, e⟩ := Option.map_eq_some_iff.1 hp
      refine ⟨y, hy, ?_, congrArg Shot.duties e⟩
      have e' : ({ y.undeferred with duties := y.duties } : Shot) = { x.undeferred with duties := y.duties } := by rw [e]
      exact e'

end Sys2Proof.Machine
end

section
/-! A shot with a PENDING duty while a card slot settles: it stays, and the overflow move changes its card duties alone
(R152, R153, R154). -/

namespace Sys2Proof.Machine

set_option Elab.async false

open Sys2Proof

variable {s t u v : State} {n : Nat} {k : FileKind} {x y z : Shot} {sl : Slot} {P : Shot → Prop}

/-! ## A record of which something holds -/

/-- The shot is HELD, with a record of which something holds. -/
def State.Has (s : State) (n : Nat) (P : Shot → Prop) : Prop := ∃ y, s.held n = some y ∧ P y

/-- A duty whose target has become card B. -/
def toCardB (k : FileKind) (d : Duty) : Duty := { d with key := .card k .b }

/-- What an abandoned file and the tests do not take away from a record: a PENDING duty among others. -/
structure Robust (P : Shot → Prop) : Prop where
  owed : ∀ y, P y → ∃ d ∈ y.duties, d.state = .pending
  back : ∀ k y, P y → P (y.setDuty (.card k .a) (Duty.into .pending))
  held : ∀ y z : Shot, z = { y with pins := z.pins, proof := z.proof } → P y → P z

theorem State.Has.same (h : s.Has n P) (ht : t.held n = s.held n) : t.Has n P := by
  obtain ⟨y, hy, hp⟩ := h
  exact ⟨y, ht.trans hy, hp⟩

theorem Away.has (h : Away n s t) (hs : s.Has n P) : t.Has n P := hs.same h.held

/-- A change of the record. -/
theorem State.Has.entry (h : s.Has n P) {f : Shot → Shot} (hf : ∀ y, (f y).state = y.state ∧ (f y).number = y.number)
    (hp : ∀ y, P y → P (f y)) : (modHeld n f s).Has n P := by
  obtain ⟨y, hy, hpy⟩ := h
  refine ⟨f y, ?_, hp y hpy⟩
  rw [held_modHeld_map (f := f) (fun z hz => ?_) s, hy, Option.map_some]
  obtain ⟨h1, h2⟩ := isHeld_iff.1 hz
  exact isHeld_iff.2 ⟨(hf z).1.trans h1, (hf z).2.trans h2⟩

theorem proofTest_has (hr : Robust P) (h : s.Has n P) (m : Nat) : (proofTest m s).Has n P := by
  by_cases hm : n = m
  · subst hm
    unfold proofTest
    split
    · split
      · obtain ⟨y, hy, hp⟩ := h
        exact ⟨withoutProof y, by rw [held_dropProof, hy, Option.map_some], hr.held y _ rfl hp⟩
      · exact h
    · exact h
  · exact (away_proofTest hm).has h

theorem not_freeable_of_pending (h : ∃ d ∈ y.duties, d.state = .pending) : y.freeable = false := by
  obtain ⟨d, hd, hs⟩ := h
  have : y.duties.all (fun d => !d.owed) = false := List.all_eq_false.2 ⟨d, hd, by simp [Duty.owed, hs]⟩
  unfold Shot.freeable
  rw [this]
  rfl

theorem freeTest_has (hr : Robust P) (h : s.Has n P) (m : Nat) : (freeTest m s).Has n P := by
  by_cases hm : n = m
  · subst hm
    obtain ⟨y, hy, hp⟩ := h
    have e : freeTest n s = s := by
      unfold freeTest
      rw [hy]
      dsimp only
      rw [not_freeable_of_pending (hr.owed y hp)]
      rfl
    rw [e]
    exact ⟨y, hy, hp⟩
  · exact (away_freeTest hm).has h

theorem shotTests_has (hr : Robust P) (h : s.Has n P) (m : Nat) : (shotTests m s).Has n P :=
  freeTest_has hr (proofTest_has hr h m) m

theorem dropPin_has (hr : Robust P) (h : s.Has n P) (m : Nat) (r : Reader) : (dropPin m r s).Has n P := by
  by_cases hm : n = m
  · subst hm
    exact h.entry (fun _ => ⟨rfl, rfl⟩) fun y hp => hr.held y _ rfl hp
  · exact (away_dropPin hm r).has h

/-- Slot A's file abandoned for the move (R152). -/
theorem abandonOverflow_has (hr : Robust P) (h : s.Has n P) : (abandon .a .overflow s).Has n P := by
  cases hf : (s.slot .a).file with
  | none =>
    rw [abandon_none hf]
    exact h
  | some f =>
    rw [abandon_some hf]
    have h1 := ((abandons_goesBy n .a .overflow s).trans (recordFile_goesBy n .a .overflow f _)).away.has h
    generalize recordFile .a .overflow f (modSlot .a (CardSlot.abandons .overflow) s) = s1 at *
    have h2 : (modSlot .a (fun x => { x with queue := ⟨f.shot, f.kind⟩ :: x.queue }) s1).Has n P := h1.same rfl
    refine shotTests_has hr (dropPin_has hr ?_ f.shot .a) f.shot
    by_cases hm : n = f.shot
    · subst hm
      exact h2.entry (f := Shot.setDuty (.card f.kind .a) (Duty.into .pending)) (fun _ => ⟨rfl, rfl⟩) (hr.back f.kind)
    · exact (away_setDuty hm _ _).has h2

theorem retarget_has {j : FileJob} (hp : j.shot = n → ∀ y, P y → P (y.setDuty (.card j.kind .a) (toCardB j.kind))) (h : s.Has n P) :
    (retarget j s).Has n P := by
  by_cases hm : n = j.shot
  · subst hm
    exact h.entry (f := Shot.setDuty (.card j.kind .a) (toCardB j.kind)) (fun _ => ⟨rfl, rfl⟩) (hp rfl)
  · exact (away_setDuty hm _ _).has h

theorem moveJob_has {j : FileJob} (hp : j.shot = n → ∀ y, P y → P (y.setDuty (.card j.kind .a) (toCardB j.kind))) (h : s.Has n P) :
    (moveJob s j).Has n P := by
  unfold moveJob
  split
  · exact (retarget_has hp h).same rfl
  · exact h

theorem moveWaiting_has {j : FileJob} (hp : j.shot = n → ∀ y, P y → P (y.setDuty (.card j.kind .a) (toCardB j.kind)))
    (h : s.Has n P) : (moveWaiting s j).Has n P := by
  unfold moveWaiting
  split
  · exact retarget_has hp h
  · exact h

theorem foldl_has {α : Type} {f : State → α → State} (hf : ∀ t a, t.Has n P → (f t a).Has n P) :
    ∀ (l : List α) {s : State}, s.Has n P → (l.foldl f s).Has n P
  | [], _, h => h
  | a :: l, _, h => foldl_has hf l (hf _ a h)

theorem slotRest_has (h : s.Has n P) (sl : Slot) : (slotRest sl s).Has n P := (away_slotRest n sl s).has h

/-- The overflow move, where the property stands each change of a target. -/
theorem overflowMove_has (hr : Robust P) (hp : ∀ k y, P y → P (y.setDuty (.card k .a) (toCardB k))) (h : s.Has n P) :
    (overflowMove s).Has n P := by
  unfold overflowMove
  extract_lets file s1 s2 s3 s4
  have h1 : s1.Has n P := abandonOverflow_has hr h
  have h2 : s2.Has n P := foldl_has (fun _ j => moveJob_has (fun _ => hp j.kind)) _ h1
  have h3 : s3.Has n P := foldl_has (fun _ j => moveWaiting_has (fun _ => hp j.kind)) _ h2
  clear_value s3
  exact slotRest_has (s := raiseCard .a "OVERFLOW" (fileWires file) { s4 with cw := { s4.cw with overflow := true } })
    (h3.same rfl) .b

theorem slotSettle_has (hr : Robust P) (hp : ∀ k y, P y → P (y.setDuty (.card k .a) (toCardB k))) (h : s.Has n P) (sl : Slot) :
    (slotSettle sl s).Has n P := by
  unfold slotSettle overflowTest
  split
  · exact overflowMove_has hr hp (slotRest_has h sl)
  · exact slotRest_has h sl

/-- A card duty handed to its slot. -/
theorem handCard_has (hr : Robust P) (hp : ∀ k y, P y → P (y.setDuty (.card k .a) (toCardB k))) (h : s.Has n P) (m : Nat)
    (k : FileKind) (sl : Slot) : (handCard m k sl s).Has n P := by
  unfold handCard
  dsimp only
  split
  · exact h
  · refine slotSettle_has hr hp ?_ _
    have h1 : ((if sl == .a && s.cw.overflow && s.mayMove ⟨m, k⟩ then retarget ⟨m, k⟩ s else s)).Has n P := by
      split
      · exact retarget_has (fun _ => hp k) h
      · exact h
    exact (away_modSlot n _ _ _).has h1

/-! ## What the move leaves of a record -/

/-- A record whose card duties may have been set back or aimed at card B, and which has a PENDING duty. -/
structure Shot.Moved (x y : Shot) : Prop where
  eq : y = { x with duties := y.duties, pins := y.pins, proof := y.proof }
  duties : List.Forall₂ (fun d e : Duty => e = d ∨ ∃ k sl sl', d.key = .card k sl ∧ e.key = .card k sl') x.duties y.duties
  owed : ∃ d ∈ y.duties, d.state = .pending

theorem moved_setDuty (h : Shot.Moved x y) {k : FileKind} {g : Duty → Duty} (hg : ∀ d, d.key = .card k .a → ∃ sl, (g d).key = .card k sl)
    (hs : ∀ d : Duty, d.state = .pending → (g d).state = .pending) : Shot.Moved x (y.setDuty (.card k .a) g) where
  eq := by
    have e := h.eq
    rw [e]
    rfl
  duties := by
    have hd : List.Forall₂ Duty.Carded y.duties (y.setDuty (.card k .a) g).duties :=
      List.forall₂_map_right_iff.2 (List.forall₂_same.2 fun d _ => by
        split
        · rename_i hk
          obtain ⟨sl, e⟩ := hg d (eq_of_beq hk)
          exact .inr ⟨k, .a, sl, eq_of_beq hk, e⟩
        · exact .refl d)
    exact forall₂_trans (R := Duty.Carded) (fun _ _ _ => Duty.Carded.trans) h.duties hd
  owed := by
    obtain ⟨d, hd, hst⟩ := h.owed
    refine ⟨_, List.mem_map_of_mem hd, ?_⟩
    split
    · exact hs d hst
    · exact hst

theorem robust_moved (x : Shot) : Robust (Shot.Moved x) where
  owed := fun _ h => h.owed
  back := fun k y h => moved_setDuty h (fun d hd => ⟨.a, (into_key .pending d).trans hd⟩) (fun d _ => into_state .pending d)
  held := fun y z e h => ⟨by rw [e, h.eq], by rw [e]; exact h.duties, by rw [e]; exact h.owed⟩

theorem moved_toCardB (k : FileKind) (h : Shot.Moved x y) : Shot.Moved x (y.setDuty (.card k .a) (toCardB k)) :=
  moved_setDuty h (fun _ _ => ⟨.b, rfl⟩) (fun _ hs => hs)

/-- A duty of no card stands through a move. -/
theorem Shot.Moved.duty (h : Shot.Moved x y) {j : DutyKey} (hj : j.onCard = false) : y.duty j = x.duty j := by
  have hd := h.duties
  unfold Shot.duty
  generalize x.duties = l, y.duties = l' at hd
  induction hd with
  | nil => rfl
  | @cons d e l l' hde _ ih =>
    rw [List.find?_cons, List.find?_cons, ih]
    rcases hde with rfl | ⟨k, sl, sl', hd, he⟩
    · rfl
    · have h1 : (d.key == j) = false := beq_eq_false_iff_ne.2 fun c => by rw [hd] at c; rw [← c] at hj; cases hj
      have h2 : (e.key == j) = false := beq_eq_false_iff_ne.2 fun c => by rw [he] at c; rw [← c] at hj; cases hj
      rw [h1, h2]

end Sys2Proof.Machine
end

section
/-! A PENDING duty of card A while the overflow move takes its job to card B (R152, R153). -/

namespace Sys2Proof.Machine

set_option Elab.async false

open Sys2Proof

variable {s t u v : State} {n : Nat} {k f : FileKind} {x y z : Shot} {sl : Slot} {P Q : Shot → Prop}

/-! ## When the move is due -/

/-- The overflow move's conditions hold (R152). -/
def State.MoveDue (s : State) : Prop :=
  s.cfg.plans.card = .overflow ∧ s.cw.overflow = false ∧ s.cw.a.state = .starved ∧ s.cw.a.final = true

theorem overflowTest_due (h : s.MoveDue) : overflowTest s = overflowMove s := by
  obtain ⟨h1, h2, h3, h4⟩ := h
  exact if_pos ⟨h1, by rw [h2]; rfl, h3, h4⟩

theorem overflowTest_undue (h : ¬ s.MoveDue) : overflowTest s = s :=
  if_neg fun ⟨h1, h2, h3, h4⟩ => h ⟨h1, by simpa using h2, h3, h4⟩

theorem moveDue_congr (hc : t.cfg = s.cfg) (ho : t.cw.overflow = s.cw.overflow) (ha : t.cw.a = s.cw.a) : t.MoveDue ↔ s.MoveDue := by
  unfold State.MoveDue
  rw [hc, ho, ha]

theorem slotRest_b_due : (slotRest .b s).MoveDue ↔ s.MoveDue := by
  obtain ⟨st, hd, c, e⟩ := slotRest_eq .b s
  rw [e]
  exact moveDue_congr rfl rfl rfl

/-! ## A duty on card A and on card B -/

/-- The record has the kind's duty PENDING for card A, and none for card B. -/
def Shot.OnA (k : FileKind) (y : Shot) : Prop := y.dutyState (.card k .a) = some .pending ∧ y.dutyState (.card k .b) = none

/-- The record has the kind's duty PENDING for card B, and none for card A. -/
def Shot.OnB (k : FileKind) (y : Shot) : Prop := y.dutyState (.card k .a) = none ∧ y.dutyState (.card k .b) = some .pending

theorem setDuty_absent {j : DutyKey} {g : Duty → Duty} (h : y.duty j = none) : y.setDuty j g = y := by
  have e : y.duties.map (fun d => if d.key == j then g d else d) = y.duties := by
    refine (List.map_congr_left fun d hd => if_neg ?_).trans (List.map_id' _)
    exact List.find?_eq_none.1 h d hd
  unfold Shot.setDuty
  rw [e]

/-- The duties of another kind, or of no card, stand when a duty's target becomes card B. -/
theorem duty_toCardB_other {j : DutyKey} (hj : ∀ sl, j ≠ .card f sl) : (y.setDuty (.card f .a) (toCardB f)).duty j = y.duty j := by
  unfold Shot.setDuty Shot.duty
  dsimp only
  induction y.duties with
  | nil => rfl
  | cons d l ih =>
    rw [List.map_cons, List.find?_cons, List.find?_cons, ih]
    by_cases hd : d.key = .card f .a
    · have h1 : (d.key == j) = false := by rw [hd]; exact beq_eq_false_iff_ne.2 (Ne.symm (hj .a))
      rw [if_pos (beq_iff_eq.2 hd), h1]
      have h2 : ((toCardB f d).key == j) = false := beq_eq_false_iff_ne.2 (Ne.symm (hj .b))
      rw [h2]
    · rw [if_neg (by simpa using hd)]

theorem dutyState_toCardB_other {j : DutyKey} (hj : ∀ sl, j ≠ .card f sl) :
    (y.setDuty (.card f .a) (toCardB f)).dutyState j = y.dutyState j := congrArg (Option.map Duty.state) (duty_toCardB_other hj)

theorem pending_mem {j : DutyKey} (h : y.dutyState j = some .pending) : ∃ d ∈ y.duties, d.state = .pending := by
  obtain ⟨d, hd, hs⟩ := Option.map_eq_some_iff.1 h
  exact ⟨d, List.mem_of_find?_eq_some hd, hs⟩

theorem onA_onB (h : y.OnA k) : (y.setDuty (.card k .a) (toCardB k)).OnB k := by
  obtain ⟨ha, hb⟩ := h
  have e := duty_retarget (dutyState_eq_none.1 hb)
  exact ⟨(e _).trans ((if_neg (by simp)).trans (if_pos rfl)), (e _).trans ((if_pos rfl).trans ha)⟩

theorem onA_toCardB (hf : f ≠ k) (h : y.OnA k) : (y.setDuty (.card f .a) (toCardB f)).OnA k := by
  have e : ∀ x, (y.setDuty (.card f .a) (toCardB f)).dutyState (.card k x) = y.dutyState (.card k x) := fun x =>
    dutyState_toCardB_other fun sl c => hf (by cases c; rfl)
  exact ⟨(e _).trans h.1, (e _).trans h.2⟩

theorem onB_toCardB (f : FileKind) (h : y.OnB k) : (y.setDuty (.card f .a) (toCardB f)).OnB k := by
  by_cases hf : f = k
  · subst hf
    rw [setDuty_absent (dutyState_eq_none.1 h.1)]
    exact h
  · have e : ∀ x, (y.setDuty (.card f .a) (toCardB f)).dutyState (.card k x) = y.dutyState (.card k x) := fun x =>
      dutyState_toCardB_other fun sl c => hf (by cases c; rfl)
    exact ⟨(e _).trans h.1, (e _).trans h.2⟩

theorem dutyState_back (j i : DutyKey) : (y.setDuty j (Duty.into .pending)).dutyState i
    = if i = j then (y.duty j).map (fun _ => .pending) else y.dutyState i := by
  rw [dutyState_setDuty (into_key .pending)]
  simp only [into_state]

theorem robust_onA (k : FileKind) : Robust (Shot.OnA k) where
  owed := fun _ h => pending_mem h.1
  back := fun f y h => by
    obtain ⟨ha, hb⟩ := h
    refine ⟨?_, ?_⟩
    · rw [dutyState_back]
      split
      · rename_i e
        rw [← e]
        obtain ⟨d, hd, -⟩ := Option.map_eq_some_iff.1 ha
        rw [hd]
        rfl
      · exact ha
    · rw [dutyState_back, if_neg (by simp)]
      exact hb
  held := fun y z e h => by rw [e]; exact h

theorem robust_onB (k : FileKind) : Robust (Shot.OnB k) where
  owed := fun _ h => pending_mem h.2
  back := fun f y h => by
    obtain ⟨ha, hb⟩ := h
    refine ⟨?_, ?_⟩
    · rw [dutyState_back]
      split
      · rename_i e
        rw [← e, dutyState_eq_none.1 ha]
        rfl
      · exact ha
    · rw [dutyState_back, if_neg (by simp)]
      exact hb
  held := fun y z e h => by rw [e]; exact h

/-! ## The queues in the move -/

theorem addRecord_queue (sl : Slot) (r : FileRecord) (s : State) (x : Slot) : ((addRecord sl r s).slot x).queue = (s.slot x).queue := by
  unfold addRecord holdFull raiseCard
  dsimp only
  split <;> cases sl <;> cases x <;> rfl

/-- A queued job of slot A is queued behind the abandonment. -/
theorem abandonOverflow_queue {j : FileJob} (hj : j ∈ s.cw.a.queue) : j ∈ (abandon .a .overflow s).cw.a.queue := by
  cases hf : (s.slot .a).file with
  | none =>
    rw [abandon_none hf]
    exact hj
  | some f =>
    rw [abandon_some hf]
    have h1 : j ∈ (recordFile .a .overflow f (modSlot .a (CardSlot.abandons .overflow) s)).cw.a.queue := by
      have hm : j ∈ (modSlot .a (CardSlot.abandons .overflow) s).cw.a.queue := hj
      unfold recordFile
      split
      · exact hm
      · have e := addRecord_queue .a ⟨f.shot, f.kind, some .overflow, Config.sectorBytes + f.payload, sectorsOf f.fragments, f.fragments⟩
          (modSlot .a (CardSlot.abandons .overflow) s) .a
        exact (congrArg (j ∈ ·) e).mpr hm
    unfold abandonDuty
    dsimp only
    rw [shotTests_cw]
    exact List.mem_cons_of_mem _ h1

theorem moveJob_b {j i : FileJob} (hj : j ∈ s.cw.b.queue) : j ∈ (moveJob s i).cw.b.queue := by
  unfold moveJob
  split
  · exact List.mem_append_left _ hj
  · exact hj

theorem foldl_moveJob_b {j : FileJob} : ∀ (l : List FileJob) {s : State}, j ∈ s.cw.b.queue → j ∈ (l.foldl moveJob s).cw.b.queue
  | [], _, h => h
  | _ :: l, _, h => foldl_moveJob_b l (moveJob_b h)

theorem moveWaiting_cw (s : State) (j : FileJob) : (moveWaiting s j).cw = s.cw := by
  unfold moveWaiting
  split <;> rfl

theorem foldl_moveWaiting_cw : ∀ (l : List FileJob) (s : State), (l.foldl moveWaiting s).cw = s.cw
  | [], _ => rfl
  | j :: l, s => (foldl_moveWaiting_cw l _).trans (moveWaiting_cw s j)

/-! ## The move -/

theorem mayMove_onA (hy : s.held n = some y) (hon : y.OnA k) : s.mayMove ⟨n, k⟩ = true := by
  unfold State.mayMove
  dsimp only
  rw [hy]
  dsimp only
  rw [dutyState_eq_none.1 hon.2]
  rfl

/-- A move of the duty's own job. -/
theorem moveJob_moves (h : s.Has n (Shot.OnA k)) : (moveJob s ⟨n, k⟩).Has n (Shot.OnB k) ∧ ⟨n, k⟩ ∈ (moveJob s ⟨n, k⟩).cw.b.queue := by
  obtain ⟨y, hy, hon⟩ := h
  unfold moveJob
  rw [if_pos (mayMove_onA hy hon)]
  refine ⟨⟨_, ?_, onA_onB hon⟩, List.mem_append_right _ (List.mem_singleton.2 rfl)⟩
  have e : (retarget ⟨n, k⟩ s).held n = (s.held n).map (Shot.setDuty (.card k .a) (toCardB k)) :=
    held_modHeld_map (f := Shot.setDuty (.card k .a) (toCardB k)) (fun _ h => h) s
  exact e.trans (by rw [hy]; rfl)

/-- The queued jobs moved in turn: the duty's own is one of them. -/
theorem foldl_moveJob_moves : ∀ (l : List FileJob) {s : State}, ⟨n, k⟩ ∈ l → s.Has n (Shot.OnA k) →
    (l.foldl moveJob s).Has n (Shot.OnB k) ∧ ⟨n, k⟩ ∈ (l.foldl moveJob s).cw.b.queue
  | [], _, hl, _ => nomatch hl
  | j :: l, s, hl, h => by
    rw [List.foldl_cons]
    by_cases hj : j = ⟨n, k⟩
    · subst hj
      obtain ⟨h1, h2⟩ := moveJob_moves h
      exact ⟨foldl_has (fun t i => moveJob_has (fun _ => fun _ => onB_toCardB i.kind)) l h1, foldl_moveJob_b l h2⟩
    · refine foldl_moveJob_moves l ((List.mem_cons.1 hl).resolve_left (Ne.symm hj)) ?_
      exact moveJob_has (fun e => fun _ => onA_toCardB fun c => hj (by cases j; cases e; cases c; rfl)) h

/-- The overflow move takes a queued job of slot A, and its duty, to card B (R152). -/
theorem overflowMove_moves (h : s.Has n (Shot.OnA k)) (hj : ⟨n, k⟩ ∈ s.cw.a.queue) :
    (overflowMove s).Has n (Shot.OnB k) ∧ ⟨n, k⟩ ∈ (overflowMove s).cw.b.queue := by
  unfold overflowMove
  extract_lets file s1 s2 s3 s4
  obtain ⟨h2, hq⟩ := foldl_moveJob_moves s1.cw.a.queue (abandonOverflow_queue hj) (abandonOverflow_has (robust_onA k) h)
  have h3 : s3.Has n (Shot.OnB k) := foldl_has (fun _ i => moveWaiting_has (fun _ => fun _ => onB_toCardB i.kind)) _ h2
  have hq3 : ⟨n, k⟩ ∈ s3.cw.b.queue := (congrArg (fun c : CardWriter => ⟨n, k⟩ ∈ c.b.queue) (foldl_moveWaiting_cw _ s2)).mpr hq
  clear_value s3
  have h4 : (raiseCard .a "OVERFLOW" (fileWires file) { s4 with cw := { s4.cw with overflow := true } }).Has n (Shot.OnB k) := h3.same rfl
  refine ⟨slotRest_has h4 .b, ?_⟩
  have e := slotRest_queue .b .b (raiseCard .a "OVERFLOW" (fileWires file) { s4 with cw := { s4.cw with overflow := true } })
  exact (congrArg (⟨n, k⟩ ∈ ·) e).mpr hq3

/-! ## A card duty handed out under the switch -/

/-- The state with a job at the tail of a slot's queue. -/
def State.queued (s : State) (sl : Slot) (j : FileJob) : State := modSlot sl (fun x => { x with queue := x.queue ++ [j] }) s

theorem State.Has.queued (h : s.Has n P) (sl : Slot) (j : FileJob) : (s.queued sl j).Has n P := (away_modSlot n sl _ s).has h

theorem queued_overflow (sl : Slot) (j : FileJob) : (s.queued sl j).cw.overflow = s.cw.overflow := by cases sl <;> rfl

theorem mem_rest_queued (sl : Slot) (j : FileJob) (s : State) : j ∈ ((slotRest sl (s.queued sl j)).slot sl).queue := by
  rw [slotRest_queue]
  unfold State.queued
  rw [modSlot_slot]
  exact List.mem_append_right _ (List.mem_singleton.2 rfl)

/-- A PENDING duty whose job is not queued joins its slot's queue, or slot B's, and the slot settles (R143, R153). -/
theorem handCard_settles (hp : s.dutyOf n (.card k sl) = some .pending) (hj : ⟨n, k⟩ ∉ (s.slot sl).queue) :
    handCard n k sl s = slotSettle (if s.diverts ⟨n, k⟩ sl then .b else sl)
      ((s.aimed ⟨n, k⟩ sl).queued (if s.diverts ⟨n, k⟩ sl then .b else sl) ⟨n, k⟩) :=
  if_neg (not_or.2 ⟨fun c => c hp, hj⟩)

/-- Where the job is not to go to slot B instead. -/
theorem handCard_settles_own (hp : s.dutyOf n (.card k sl) = some .pending) (hj : ⟨n, k⟩ ∉ (s.slot sl).queue)
    (hd : s.diverts ⟨n, k⟩ sl = false) : handCard n k sl s = slotSettle sl (s.queued sl ⟨n, k⟩) := by
  have e := handCard_settles hp hj
  unfold State.aimed at e
  rw [hd] at e
  exact e

/-- What a duty handed to slot A becomes where the overflow switch is set behind it: card B's, and queued there (R152, R153). -/
theorem handCard_toB (h : s.Has n (Shot.OnA k)) (hj : ⟨n, k⟩ ∉ s.cw.a.queue) (ht : (handCard n k .a s).cw.overflow = true) :
    (handCard n k .a s).Has n (Shot.OnB k) ∧ ⟨n, k⟩ ∈ (handCard n k .a s).cw.b.queue := by
  obtain ⟨y, hy, hon⟩ := h
  have hp : s.dutyOf n (.card k .a) = some .pending := by
    unfold State.dutyOf
    rw [hy]
    exact hon.1
  have hd : s.diverts ⟨n, k⟩ .a = s.cw.overflow := by
    unfold State.diverts
    rw [mayMove_onA hy hon]
    simp
  cases ho : s.cw.overflow with
  | true =>
    have e0 := handCard_settles hp hj
    unfold State.aimed at e0
    rw [hd, ho, if_pos rfl, if_pos rfl, slotSettle_still (s := (retarget ⟨n, k⟩ s).queued .b ⟨n, k⟩) (.inl ho)] at e0
    have e : (retarget ⟨n, k⟩ s).held n = (s.held n).map (Shot.setDuty (.card k .a) (toCardB k)) :=
      held_modHeld_map (f := Shot.setDuty (.card k .a) (toCardB k)) (fun _ h => h) s
    have hb : (retarget ⟨n, k⟩ s).Has n (Shot.OnB k) := ⟨_, e.trans (by rw [hy]; rfl), onA_onB hon⟩
    rw [e0]
    exact ⟨slotRest_has (hb.queued .b ⟨n, k⟩) .b, mem_rest_queued .b ⟨n, k⟩ _⟩
  | false =>
    rw [handCard_settles_own hp hj (hd.trans ho)] at ht ⊢
    unfold slotSettle at ht ⊢
    by_cases hdue : (slotRest .a (s.queued .a ⟨n, k⟩)).MoveDue
    · rw [overflowTest_due hdue]
      have hh : s.Has n (Shot.OnA k) := ⟨y, hy, hon⟩
      exact overflowMove_moves (slotRest_has (hh.queued .a ⟨n, k⟩) .a) (mem_rest_queued .a ⟨n, k⟩ s)
    · rw [overflowTest_undue hdue, slotRest_overflow, queued_overflow, ho] at ht
      cases ht

/-- A duty handed to slot A where the switch stays clear: no move is due behind it. -/
theorem handCard_undue (hp : s.dutyOf n (.card k .a) = some .pending) (hj : ⟨n, k⟩ ∉ s.cw.a.queue)
    (ht : (handCard n k .a s).cw.overflow = false) : ¬ (handCard n k .a s).MoveDue := by
  have ho : s.cw.overflow = false := by
    cases h : s.cw.overflow with
    | false => rfl
    | true =>
      rw [handCard_overflow h] at ht
      cases ht
  have hd : s.diverts ⟨n, k⟩ .a = false := by
    unfold State.diverts
    rw [ho]
    rfl
  rw [handCard_settles_own hp hj hd] at ht ⊢
  unfold slotSettle at ht ⊢
  by_cases hdue : (slotRest .a (s.queued .a ⟨n, k⟩)).MoveDue
  · rw [overflowTest_due hdue, overflowMove_sets] at ht
    cases ht
  · rw [overflowTest_undue hdue]
    exact hdue

/-- A duty handed to slot B brings no move that is not due. -/
theorem handCard_b_undue (h : ¬ s.MoveDue) : (handCard n k .b s).cw.overflow = s.cw.overflow := by
  by_cases hno : s.dutyOf n (.card k .b) ≠ some .pending ∨ ⟨n, k⟩ ∈ (s.slot .b).queue
  · rw [show handCard n k .b s = s from if_pos hno]
  · obtain ⟨hp, hj⟩ := not_or.1 hno
    have hdue : ¬ (slotRest .b (s.queued .b ⟨n, k⟩)).MoveDue := fun c =>
      h ((moveDue_congr (t := s.queued .b ⟨n, k⟩) rfl rfl rfl).1 (slotRest_b_due.1 c))
    rw [handCard_settles_own (not_not.1 hp) hj rfl]
    unfold slotSettle
    rw [overflowTest_undue hdue, slotRest_overflow, queued_overflow]

end Sys2Proof.Machine
end

section
/-! The late caption's step of one card slot (R187). -/

namespace Sys2Proof.Machine

set_option Elab.async false

open Sys2Proof

variable {s t u v : State} {n : Nat} {k f : FileKind} {h x y z : Shot} {sl : Slot} {P Q : Shot → Prop} {b : Bool}

/-! ## A card duty put -/

/-- A record with a duty put that is HELD under its number. -/
theorem held_put (hy : s.held n = some y) (j : DutyKey) (b : Bool) : (modHeld n (Shot.put j b) s).held n = some (y.put j b) := by
  rw [held_modHeld_map (f := Shot.put j b) (fun x hx => by rw [put_eq]; exact hx) s, hy, Option.map_some]

/-- A card duty that is absent, DONE or FAILED is put and handed to its slot (R143, R187, R194). -/
theorem putCard_puts (hy : s.held n = some y) (hk : k ≠ .proof) (ho : ∀ d, y.dutyState (.card k sl) = some d → d.isEnded = true) :
    putDuty DutyState.isEnded n (.card k sl) b s = handCard n k sl (modHeld n (Shot.put (.card k sl) b) s) := by
  rw [putDuty_puts hy ho, handDuty_card (held_put hy _ b)]
  exact if_pos (by simp [hk])

/-- The duty is absent or ended: a late duty of the kind is put again. -/
def Shot.Again (y : Shot) (j : DutyKey) : Prop := y.duty j = none ∨ y.dutyState j = some .done ∨ y.dutyState j = some .failed

theorem Shot.Again.ended {j : DutyKey} (h : y.Again j) {d : DutyState} (hd : y.dutyState j = some d) : d.isEnded = true := by
  rcases h with h | h | h
  · rw [dutyState_eq_none.2 h] at hd
    cases hd
  all_goals
    rw [h] at hd
    cases hd
    rfl

theorem not_again_stands {j : DutyKey} {d : DutyState} (hd : y.dutyState j = some d) (he : d.isEnded = true) : y.Again j := by
  cases d with
  | done => exact .inr (.inl hd)
  | failed => exact .inr (.inr hd)
  | pending | active | cancelled => cases he

/-! ## What the card steps leave of the record -/

/-- A record whose card duties, pins and proof alone may differ. -/
structure Shot.Recarded (x y : Shot) : Prop where
  eq : y = { x with duties := y.duties, pins := y.pins, proof := y.proof }
  duty : ∀ j : DutyKey, j.onCard = false → y.duty j = x.duty j

theorem Shot.Recarded.refl (x : Shot) : Shot.Recarded x x := ⟨rfl, fun _ _ => rfl⟩

theorem Shot.Recarded.trans (h1 : Shot.Recarded x y) (h2 : Shot.Recarded y z) : Shot.Recarded x z :=
  ⟨by rw [h2.eq, h1.eq], fun j hj => (h2.duty j hj).trans (h1.duty j hj)⟩

theorem Shot.Moved.recarded (h : Shot.Moved x y) : Shot.Recarded x y := ⟨h.eq, fun _ hj => h.duty hj⟩

theorem ne_onCard {j : DutyKey} (hj : j.onCard = false) : j ≠ .card k sl := by
  rintro rfl
  cases hj

theorem recarded_put (y : Shot) (k : FileKind) (sl : Slot) (b : Bool) : Shot.Recarded y (y.put (.card k sl) b) :=
  ⟨by rw [put_eq], fun j hj => by rw [duty_put, if_neg (ne_onCard hj)]⟩

theorem moved_refl (h : ∃ d ∈ y.duties, d.state = .pending) : Shot.Moved y y :=
  ⟨rfl, List.forall₂_same.2 fun _ _ => .inl rfl, h⟩

/-- A put card duty handed out: the record is there, its other duties as they were, and the rest of the part but the cards'
is as it was. -/
theorem putCard_recards (hy : s.held n = some y) (hk : k ≠ .proof) (ho : ∀ d, y.dutyState (.card k sl) = some d → d.isEnded = true) :
    (putDuty DutyState.isEnded n (.card k sl) b s).Has n (Shot.Recarded y)
      ∧ (putDuty DutyState.isEnded n (.card k sl) b s).tp = s.tp := by
  rw [putCard_puts hy hk ho]
  have hp : (y.put (.card k sl) b).dutyState (.card k sl) = some .pending := by rw [dutyState_put, if_pos rfl]
  have h1 : (modHeld n (Shot.put (.card k sl) b) s).Has n (Shot.Moved (y.put (.card k sl) b)) :=
    ⟨_, held_put hy _ b, moved_refl (pending_mem hp)⟩
  obtain ⟨z, hz, hm⟩ := handCard_has (robust_moved _) (fun f _ => moved_toCardB f) h1 n k sl
  exact ⟨⟨z, hz, (recarded_put y k sl b).trans hm.recarded⟩,
    (handCard_serves (w := false) (.refl (a := modHeld n (Shot.put (.card k sl) b) s))).port_engine.1⟩

/-- A put card duty is queued, the other duties and queues as they were, where no move happens. -/
theorem putCard_queues (hy : s.held n = some y) (hk : k ≠ .proof) (ho : ∀ d, y.dutyState (.card k sl) = some d → d.isEnded = true)
    (h0 : s.cw.overflow = false) (ht : (putDuty DutyState.isEnded n (.card k sl) b s).cw.overflow = false) :
    (putDuty DutyState.isEnded n (.card k sl) b s).held n = some (y.put (.card k sl) b)
      ∧ ∀ x, ((putDuty DutyState.isEnded n (.card k sl) b s).slot x).queue
        = (s.slot x).queue ++ if x = sl ∧ ⟨n, k⟩ ∉ (s.slot sl).queue then [⟨n, k⟩] else [] := by
  rw [putCard_puts hy hk ho] at ht ⊢
  have hh := held_put hy (.card k sl) b
  have hp : (modHeld n (Shot.put (.card k sl) b) s).dutyOf n (.card k sl) = some .pending := by
    unfold State.dutyOf
    rw [hh, Option.bind_some, dutyState_put, if_pos rfl]
  have h0' : (modHeld n (Shot.put (.card k sl) b) s).cw.overflow = false := h0
  obtain ⟨c, p, e, hq⟩ := handCard_queue h0' ht
  refine ⟨by rw [e]; exact hh, fun x => (hq x).trans ?_⟩
  have : (modHeld n (Shot.put (.card k sl) b) s).slot x = s.slot x := rfl
  have hs : (modHeld n (Shot.put (.card k sl) b) s).slot sl = s.slot sl := rfl
  rw [this, hs]
  simp only [hp, true_and]

/-! ## The late caption on one slot -/

/-- The slot holds a RAW, PROOF or MEMO file of the shot (R187). -/
def Shot.Filed (y : Shot) (sl : Slot) : Prop :=
  ∃ k ∈ [FileKind.raw, .proof, .memo], y.dutyState (.card k sl) = some .active ∨ y.dutyState (.card k sl) = some .done

theorem filedOn_iff : y.filedOn sl = true ↔ y.Filed sl := by
  unfold Shot.filedOn Shot.Filed
  simp only [List.any_eq_true, Bool.or_eq_true, beq_iff_eq]

/-- What becomes of the CAPTION duty of one slot, and of its queue, where no move happens (R187). -/
structure Recaptioned (n : Nat) (sl : Slot) (y z : Shot) (q q' : List FileJob) : Prop where
  stands : ¬ y.Filed sl ∨ y.dutyState (.card .caption sl) = some .pending → z.duty (.card .caption sl) = y.duty (.card .caption sl) ∧ q' = q
  stale : y.Filed sl → y.dutyState (.card .caption sl) = some .active →
    z.duty (.card .caption sl) = (y.duty (.card .caption sl)).map (fun d => { d with stale := true })
  again : y.Filed sl → y.Again (.card .caption sl) →
    z.dutyState (.card .caption sl) = some .pending ∧ (⟨n, .caption⟩ ∉ q → q' = q ++ [⟨n, .caption⟩])

/-- The late caption's cases on a slot (R187): the step changes nothing, marks an ACTIVE duty stale, or puts the duty. -/
theorem captionCard_cases (hy : s.held n = some y) (sl : Slot) :
    (¬ y.Filed sl ∨ (∃ d, y.dutyState (.card .caption sl) = some d ∧ d ≠ .active ∧ d.isEnded = false)) ∧ captionCard n sl s = s
    ∨ (y.Filed sl ∧ y.dutyState (.card .caption sl) = some .active)
      ∧ captionCard n sl s = setDuty n (.card .caption sl) (fun d => { d with stale := true }) s
    ∨ (y.Filed sl ∧ y.Again (.card .caption sl))
      ∧ captionCard n sl s = putDuty DutyState.isEnded n (.card .caption sl) y.urgent s := by
  unfold captionCard
  rw [hy]
  dsimp only
  by_cases hf : y.Filed sl
  · rw [if_neg (by simpa using filedOn_iff.2 hf)]
    by_cases ha : y.dutyState (.card .caption sl) = some .active
    · rw [if_pos ha]
      exact .inr (.inl ⟨⟨hf, ha⟩, rfl⟩)
    · rw [if_neg ha]
      cases hd : y.dutyState (.card .caption sl) with
      | none => exact .inr (.inr ⟨⟨hf, .inl (dutyState_eq_none.1 hd)⟩, rfl⟩)
      | some d =>
        cases he : d.isEnded with
        | true => exact .inr (.inr ⟨⟨hf, not_again_stands hd he⟩, rfl⟩)
        | false => exact .inl ⟨.inr ⟨d, rfl, fun c => ha (by rw [hd, c]), he⟩, putDuty_stands hy hd he⟩
  · rw [if_pos (by simpa using fun c => hf (filedOn_iff.1 c))]
    exact .inl ⟨.inl hf, rfl⟩

theorem held_stale (hy : s.held n = some y) (j : DutyKey) :
    (setDuty n j (fun d => { d with stale := true }) s).held n = some (y.setDuty j (fun d => { d with stale := true })) := by
  have e : (setDuty n j (fun d => { d with stale := true }) s).held n
      = (s.held n).map (Shot.setDuty j (fun d => { d with stale := true })) :=
    held_modHeld_map (f := Shot.setDuty j (fun d => { d with stale := true })) (fun _ hx => hx) s
  rw [e, hy, Option.map_some]

theorem duty_stale (j i : DutyKey) : (y.setDuty j (fun d => { d with stale := true })).duty i
    = if i = j then (y.duty j).map (fun d => { d with stale := true }) else y.duty i :=
  duty_setDuty (g := fun d => { d with stale := true }) (fun _ => rfl) i

/-- The step leaves the record but its card duties, and the tether port. -/
theorem captionCard_recards (hy : s.held n = some y) (sl : Slot) :
    (captionCard n sl s).Has n (Shot.Recarded y) ∧ (captionCard n sl s).tp = s.tp := by
  rcases captionCard_cases hy sl with ⟨-, e⟩ | ⟨-, e⟩ | ⟨⟨-, hag⟩, e⟩ <;> rw [e]
  · exact ⟨⟨y, hy, .refl y⟩, rfl⟩
  · exact ⟨⟨_, held_stale hy _, rfl, fun j hj => by rw [duty_stale, if_neg (ne_onCard hj)]⟩, rfl⟩
  · exact putCard_recards hy (by simp) fun d hd => hag.ended hd

theorem putCard_overflow (hy : s.held n = some y) (hk : k ≠ .proof)
    (ho : ∀ d, y.dutyState (.card k sl) = some d → d.isEnded = true) (h : s.cw.overflow = true) :
    (putDuty DutyState.isEnded n (.card k sl) b s).cw.overflow = true := by
  rw [putCard_puts hy hk ho]
  exact handCard_overflow h

theorem captionCard_overflow (hy : s.held n = some y) (sl : Slot) (h : s.cw.overflow = true) :
    (captionCard n sl s).cw.overflow = true := by
  rcases captionCard_cases hy sl with ⟨-, e⟩ | ⟨-, e⟩ | ⟨⟨-, hag⟩, e⟩ <;> rw [e]
  · exact h
  · exact h
  · exact putCard_overflow hy (by simp) (fun d hd => hag.ended hd) h

/-- Without a move, the step concerns its own slot's CAPTION duty and queue alone. -/
theorem captionCard_quiet (hy : s.held n = some y) (sl : Slot) (h0 : s.cw.overflow = false)
    (ht : (captionCard n sl s).cw.overflow = false) :
    ∃ z, (captionCard n sl s).held n = some z ∧ (∀ j, j ≠ .card .caption sl → z.duty j = y.duty j)
      ∧ (∀ x, x ≠ sl → ((captionCard n sl s).slot x).queue = (s.slot x).queue)
      ∧ Recaptioned n sl y z (s.slot sl).queue ((captionCard n sl s).slot sl).queue := by
  rcases captionCard_cases hy sl with ⟨hno, e⟩ | ⟨⟨hf, ha⟩, e⟩ | ⟨⟨hf, hag⟩, e⟩ <;> rw [e] at ht ⊢
  · refine ⟨y, hy, fun _ _ => rfl, fun _ _ => rfl, fun _ => ⟨rfl, rfl⟩, fun hf ha => ?_, fun hf hag => ?_⟩
    · rcases hno with hno | ⟨d, hd, hna, -⟩
      · exact absurd hf hno
      · exact absurd (Option.some.inj (hd.symm.trans ha)) hna
    · rcases hno with hno | ⟨d, hd, -, he⟩
      · exact absurd hf hno
      · rw [hag.ended hd] at he
        cases he
  · refine ⟨_, held_stale hy _, fun j hj => by rw [duty_stale, if_neg hj], fun _ _ => rfl, fun c => ?_, fun _ _ => by rw [duty_stale, if_pos rfl],
      fun _ hag => ?_⟩
    · rcases c with c | c
      · exact absurd hf c
      · rw [ha] at c
        cases c
    · have := hag.ended ha
      cases this
  · obtain ⟨hh, hq⟩ := putCard_queues (b := y.urgent) hy (by simp) (fun d hd => hag.ended hd) h0 ht
    refine ⟨_, hh, fun j hj => by rw [duty_put, if_neg hj], fun x hx => ?_, fun c => ?_, fun _ ha => ?_, fun _ _ => ⟨?_, fun hj => ?_⟩⟩
    · rw [hq, if_neg (fun c => hx c.1), List.append_nil]
    · rcases c with c | c
      · exact absurd hf c
      · have := hag.ended c
        cases this
    · have := hag.ended ha
      cases this
    · rw [dutyState_put, if_pos rfl]
    · rw [hq, if_pos ⟨rfl, hj⟩]

/-- Where no move is due, slot B's step brings none. -/
theorem captionCard_b_undue (hy : s.held n = some y) (hd : ¬ s.MoveDue) : (captionCard n .b s).cw.overflow = s.cw.overflow := by
  rcases captionCard_cases hy .b with ⟨-, e⟩ | ⟨-, e⟩ | ⟨⟨-, hag⟩, e⟩ <;> rw [e]
  · rfl
  · rw [putCard_puts hy (by simp) fun d hd => hag.ended hd]
    exact handCard_b_undue (s := modHeld n (Shot.put (.card .caption .b) y.urgent) s) fun c => hd ((moveDue_congr rfl rfl rfl).1 c)

/-- Slot B's step leaves a record whose CAPTION duty is PENDING for card B. -/
theorem captionCard_b_onB (hy : s.held n = some y) (hb : y.OnB .caption) : captionCard n .b s = s := by
  rcases captionCard_cases hy .b with ⟨-, e⟩ | ⟨⟨-, ha⟩, -⟩ | ⟨⟨-, hag⟩, -⟩
  · exact e
  · rw [hb.2] at ha
    cases ha
  · have := hag.ended hb.2
    cases this

/-! ## Both slots -/

/-- The two slots' steps under the switch: the CAPTION duty of A is card B's, and queued there (R187, R152, R153). -/
theorem captionCards_toB (hy : s.held n = some y) (hf : y.Filed .a) (hag : y.Again (.card .caption .a))
    (hb : y.duty (.card .caption .b) = none) (hj : ⟨n, .caption⟩ ∉ s.cw.a.queue)
    (ht : (captionCard n .b (captionCard n .a s)).cw.overflow = true) :
    (captionCard n .b (captionCard n .a s)).Has n (Shot.OnB .caption)
      ∧ ⟨n, .caption⟩ ∈ (captionCard n .b (captionCard n .a s)).cw.b.queue := by
  have e : captionCard n .a s = putDuty DutyState.isEnded n (.card .caption .a) y.urgent s := by
    rcases captionCard_cases hy .a with ⟨hno, -⟩ | ⟨⟨-, ha⟩, -⟩ | ⟨-, e⟩
    · rcases hno with hno | ⟨d, hd, -, he⟩
      · exact absurd hf hno
      · rw [hag.ended hd] at he
        cases he
    · have := hag.ended ha
      cases this
    · exact e
  have hh := held_put hy (.card .caption .a) y.urgent
  have hon : (y.put (.card .caption .a) y.urgent).OnA .caption :=
    ⟨by rw [dutyState_put, if_pos rfl], by rw [dutyState_put, if_neg (by simp)]; exact dutyState_eq_none.2 hb⟩
  have hput := putCard_puts (b := y.urgent) hy (k := .caption) (by simp) fun d hd => hag.ended hd
  have hja : ⟨n, .caption⟩ ∉ (modHeld n (Shot.put (.card .caption .a) y.urgent) s).cw.a.queue := hj
  obtain ⟨⟨z, hz, -⟩, -⟩ := captionCard_recards hy .a
  rw [e, hput] at hz ht ⊢
  generalize modHeld n (Shot.put (.card .caption .a) y.urgent) s = s1 at *
  cases ho : (handCard n .caption .a s1).cw.overflow with
  | true =>
    obtain ⟨⟨w, hw, hwb⟩, hq⟩ := handCard_toB ⟨_, hh, hon⟩ hja ho
    rw [captionCard_b_onB hw hwb]
    exact ⟨⟨w, hw, hwb⟩, hq⟩
  | false =>
    have hp : s1.dutyOf n (.card .caption .a) = some .pending := by
      unfold State.dutyOf
      rw [hh]
      exact hon.1
    rw [captionCard_b_undue hz (handCard_undue hp hja ho), ho] at ht
    cases ht

end Sys2Proof.Machine
end

section
/-! The memo input while no memo waits ARMED: the other consumers' steps leave it (R194, R195). -/

namespace Sys2Proof.Machine

set_option Elab.async false

open Sys2Proof

variable {s t u v : State} {n : Nat} {k : FileKind} {sl : Slot} {c : Cause}

/-- A step that leaves the memo input and what MEMO_END has told, unless a memo waits ARMED. -/
structure MemoStands (s t : State) : Prop where
  mi : s.mi.phase ≠ .armed → t.mi = s.mi
  told : s.mi.phase ≠ .armed → ∀ sub v, s.Tells .memoEnd sub v → t.Tells .memoEnd sub v

theorem MemoStands.of_same (h : t.mi = s.mi) (hc : t.cp = s.cp) : MemoStands s t := ⟨fun _ => h, fun _ _ _ ht => ht.of_cp hc⟩

theorem MemoStands.refl (s : State) : MemoStands s s := .of_same rfl rfl

theorem MemoStands.trans (h1 : MemoStands s t) (h2 : MemoStands t u) : MemoStands s u where
  mi := fun h => (h2.mi (by rw [h1.mi h]; exact h)).trans (h1.mi h)
  told := fun h sub v ht => h2.told (by rw [h1.mi h]; exact h) sub v (h1.told h sub v ht)

/-- A notice other than MEMO_END. -/
theorem MemoStands.raise (h : MemoStands s t) {kd : NoticeKind} (hk : kd ≠ .memoEnd) (sub : Subject) (v : List Wire) :
    MemoStands s (Machine.raise kd sub v t) where
  mi := h.mi
  told := fun hs sub' v' ht => (h.told hs sub' v' ht).raise fun c => absurd (Prod.mk.inj c).1 hk

theorem MemoStands.card (h : MemoStands s t) (sl : Slot) (reason : String) (file : List Wire) : MemoStands s (raiseCard sl reason file t) :=
  h.raise (by decide) _ _

theorem modSlot_memo (sl : Slot) (f : CardSlot → CardSlot) (s : State) : MemoStands s (modSlot sl f s) :=
  .of_same (modSlot_mi s sl f) (by cases sl <;> rfl)

theorem freeTest_memo (n : Nat) (s : State) : MemoStands s (freeTest n s) := by
  unfold freeTest
  split
  · split
    · rename_i x _ _
      have e : ∀ u : State, u.mi = s.mi → s.mi.phase ≠ .armed → abortArmed n u = u := fun u hu h =>
        abortArmed_of_not_armed n (by rw [hu]; exact h)
      have h1 : MemoStands s (giveBlocks x.blocks (modHeld n (fun _ => {}) s)) := by
        rw [giveBlocks_eq]
        exact .of_same rfl rfl
      have hmi : (giveBlocks x.blocks (modHeld n (fun _ => {}) s)).mi = s.mi := by
        rw [giveBlocks_eq]
        rfl
      exact ⟨fun h => by rw [e _ hmi h]; exact h1.mi h, fun h => by rw [e _ hmi h]; exact h1.told h⟩
    · exact .refl s
  · exact .refl s

theorem proofTest_memo (n : Nat) (s : State) : MemoStands s (proofTest n s) := by
  refine .of_same (proofTest_mi n s) ?_
  unfold proofTest dropProof
  split
  · split
    · split
      · rw [giveBlocks_eq]
        rfl
      · rfl
    · rfl
  · rfl

theorem shotTests_memo (n : Nat) (s : State) : MemoStands s (shotTests n s) := (proofTest_memo n s).trans (freeTest_memo n _)

theorem failDuty_memo (n : Nat) (j : DutyKey) (s : State) : MemoStands s (failDuty n j s) := by
  unfold failDuty
  split
  · exact .refl s
  · dsimp only
    refine MemoStands.trans ?_ (shotTests_memo n _)
    split
    · have h1 : ∀ f, MemoStands s (modHeld n f (setDuty n j (Duty.into .failed) s)) := fun _ => .of_same rfl rfl
      exact (h1 _).raise (by decide) _ _
    · exact .of_same rfl rfl

theorem addRecord_memo (sl : Slot) (r : FileRecord) (s : State) : MemoStands s (addRecord sl r s) := by
  have h1 := (modSlot_memo sl (fun x => { x with returns := x.returns ++ [r] }) s).raise (kd := .filesWaiting) (by decide)
    (.slot sl) [.u8 ((modSlot sl (fun x => { x with returns := x.returns ++ [r] }) s).slot sl).returns.length]
  unfold addRecord holdFull
  dsimp only
  split
  · exact (h1.trans (modSlot_memo sl _ _)).card sl _ _
  · exact h1

theorem recordFile_memo (sl : Slot) (c : Cause) (f : CardFile) (s : State) : MemoStands s (recordFile sl c f s) := by
  unfold recordFile
  split
  · exact .refl s
  · exact addRecord_memo sl _ s

theorem abandonDuty_memo (sl : Slot) (c : Cause) (f : CardFile) (s : State) : MemoStands s (abandonDuty sl c f s) := by
  have tests : ∀ u : State, MemoStands s u → MemoStands s (shotTests f.shot (dropPin f.shot (slotReader sl) u)) := fun u h =>
    h.trans (MemoStands.trans (t := dropPin f.shot (slotReader sl) u) (.of_same rfl rfl) (shotTests_memo f.shot _))
  have back := tests (setDuty f.shot (.card f.kind sl) (Duty.into .pending)
    (modSlot sl (fun x => { x with queue := ⟨f.shot, f.kind⟩ :: x.queue }) s))
      ((modSlot_memo sl _ s).trans (.of_same rfl rfl))
  unfold abandonDuty
  cases c with
  | deleted => exact tests _ (.of_same rfl rfl)
  | fragmented => exact tests _ (failDuty_memo _ _ s)
  | fault => exact tests _ (failDuty_memo _ _ s)
  | removed | sleep | overflow | replaced => exact back

theorem abandon_memo (sl : Slot) (c : Cause) (s : State) : MemoStands s (abandon sl c s) := by
  cases hf : (s.slot sl).file with
  | none =>
    rw [abandon_none hf]
    exact .refl s
  | some f =>
    rw [abandon_some hf]
    exact ((modSlot_memo sl _ s).trans (recordFile_memo sl c f _)).trans (abandonDuty_memo sl c f _)

theorem slotRest_memo (sl : Slot) (s : State) : MemoStands s (slotRest sl s) := by
  have hm := fun f => modSlot_memo sl f s
  unfold slotRest
  dsimp only
  split
  · exact .refl s
  · split
    · exact .refl s
    · exact .refl s
    · exact (hm _).card sl _ _
    · split
      · split
        · exact .refl s
        · exact hm _
      · split
        · exact .refl s
        · split
          · exact hm _
          · split
            · split
              · exact .refl s
              · exact (hm _).card sl _ _
            · split
              · exact (hm _).card sl _ _
              · exact .refl s

theorem retarget_memo (j : FileJob) (s : State) : MemoStands s (retarget j s) := .of_same rfl rfl

theorem moveJob_memo (s : State) (j : FileJob) : MemoStands s (moveJob s j) := by
  unfold moveJob
  split
  · exact .of_same rfl rfl
  · exact .refl s

theorem moveWaiting_memo (s : State) (j : FileJob) : MemoStands s (moveWaiting s j) := by
  unfold moveWaiting
  split
  · exact .of_same rfl rfl
  · exact .refl s

theorem foldl_memo {α : Type} {f : State → α → State} (hf : ∀ t a, MemoStands t (f t a)) :
    ∀ (l : List α) (s : State), MemoStands s (l.foldl f s)
  | [], s => .refl s
  | a :: l, s => (hf s a).trans (foldl_memo hf l (f s a))

theorem overflowMove_memo (s : State) : MemoStands s (overflowMove s) := by
  unfold overflowMove
  extract_lets file s1 s2 s3 s4
  have h3 : MemoStands s s3 := ((abandon_memo .a .overflow s).trans (foldl_memo moveJob_memo _ s1)).trans (foldl_memo moveWaiting_memo _ s2)
  clear_value s3
  have h4 : MemoStands s { s4 with cw := { s4.cw with overflow := true } } := h3.trans (.of_same rfl rfl)
  exact (h4.card .a _ _).trans (slotRest_memo .b _)

theorem slotSettle_memo (sl : Slot) (s : State) : MemoStands s (slotSettle sl s) := by
  refine (slotRest_memo sl s).trans ?_
  unfold slotSettle overflowTest
  split
  · exact overflowMove_memo _
  · exact .refl _

theorem handCard_memo (n : Nat) (k : FileKind) (sl : Slot) (s : State) : MemoStands s (handCard n k sl s) := by
  unfold handCard
  dsimp only
  split
  · exact .refl s
  · refine (MemoStands.trans ?_ (modSlot_memo _ _ _)).trans (slotSettle_memo _ _)
    split
    · exact retarget_memo _ s
    · exact .refl s

theorem joinTether_memo (b : Bool) (n : Nat) (k : FileKind) (s : State) : MemoStands s (joinTether b n k s) := by
  unfold joinTether
  split
  · exact .refl s
  · split
    · exact .refl s
    · split <;> exact .of_same rfl rfl

/-! ## A memo's end -/

/-- The tests and the settling behind a memo's end leave the memo input IDLE and its notice told (R194). -/
theorem endMemo_tail (n : Nat) (s : State) : MemoStands s (slotSettle .b (slotSettle .a (shotTests n s))) :=
  ((shotTests_memo n s).trans (slotSettle_memo .a _)).trans (slotSettle_memo .b _)

theorem endMemo_samples (r : MemoReason) (m : MemoRec) (s : State) : (endMemo r m s).mi.samples = [] := by
  unfold endMemo
  extract_lets replaced s1 mi s2 s3
  rw [(endMemo_tail m.shot s3).mi (by show MemoPhase.idle ≠ .armed; decide)]
  rfl

/-- The memo input behind a recording that ends with no sample. -/
theorem endMemo_empty {m : MemoRec} (hm : m.samples = 0) (r : MemoReason) :
    (endMemo r m s).mi = { s.mi with
      phase := .idle, current := none, samples := []
      truncated := if r = .truncated then sat32 s.mi.truncated else s.mi.truncated } := by
  unfold endMemo
  rw [if_neg (by omega)]
  extract_lets replaced s1 mi s2 s3
  have e1 : s1.mi = s.mi := by
    show (giveBlocks m.blocks s).mi = s.mi
    rw [giveBlocks_eq]
  have e3 : s3.mi = { s.mi with
      phase := .idle, current := none, samples := []
      truncated := if r = .truncated then sat32 s.mi.truncated else s.mi.truncated } := by
    show { s2.mi with phase := .idle, current := none, samples := [] } = _
    have e2 : s2.mi = if r = .truncated then { s.mi with truncated := sat32 s.mi.truncated } else s.mi := by
      show (if r = .truncated then _ else s1 : State).mi = _
      split
      · show { s1.mi with truncated := sat32 s1.mi.truncated } = _
        rw [e1]
      · exact e1
    rw [e2]
    split <;> rfl
  have hne : s3.mi.phase ≠ .armed := by rw [e3]; nofun
  exact ((endMemo_tail m.shot s3).mi hne).trans e3

end Sys2Proof.Machine
end

section
/-! The caption and memo commands (R186 to R190, R192, R195). -/

namespace Sys2Proof.Machine

set_option Elab.async false

open Sys2Proof

variable {s t u v : State} {n : Nat} {k f : FileKind} {h x y z : Shot} {sl : Slot} {c : List Byte}

/-! ## The late caption on the tether -/

/-- A caption update to the transfer of the shot, by the transfer's phase (R188). -/
theorem captionChanged_eq (n : Nat) (s : State) : ∃ p : Tether, captionChanged n s = { s with tp := p }
    ∧ p.queue = s.tp.queue ∧ p.nextOrder = s.tp.nextOrder
    ∧ ∀ x, s.tp.transfer = some x → x.shot = n →
      (s.tp.phase = .offering → p.out = s.tp.out ++ [.captionUpdate x.id (((s.held n).bind (·.caption)).getD [])])
      ∧ (s.tp.phase = .sending → p.transfer = some { x with captionDue := true }) := by
  unfold captionChanged
  cases hx : s.tp.transfer with
  | none => exact ⟨s.tp, rfl, rfl, rfl, fun _ hx => nomatch hx⟩
  | some x =>
    dsimp only
    by_cases hn : x.shot = n
    · rw [if_neg (not_not.2 hn)]
      cases hp : s.tp.phase with
      | offering =>
        rw [if_pos rfl]
        refine ⟨_, rfl, rfl, rfl, fun y hy _ => ?_⟩
        cases hy
        exact ⟨fun _ => rfl, fun c => nomatch c⟩
      | sending =>
        rw [if_neg (by decide), if_pos rfl]
        refine ⟨_, rfl, rfl, rfl, fun y hy _ => ?_⟩
        cases hy
        exact ⟨fun c => (nomatch c), fun _ => rfl⟩
      | idle | down =>
        rw [if_neg (by decide), if_neg (by decide)]
        exact ⟨s.tp, rfl, rfl, rfl, fun _ _ _ => ⟨fun c => (nomatch c), fun c => (nomatch c)⟩⟩
    · rw [if_pos hn]
      refine ⟨s.tp, rfl, rfl, rfl, fun y hy hyn => ?_⟩
      cases hy
      exact absurd hyn hn

/-- A RAW, PROOF or MEMO send duty of the shot is DONE (R188). -/
def Shot.Sent (y : Shot) : Prop := ∃ k ∈ [FileKind.raw, .proof, .memo], y.dutyState (.send k) = some .done

theorem sentSome_iff : y.sentSome = true ↔ y.Sent := by
  unfold Shot.sentSome Shot.Sent
  simp only [List.any_eq_true, beq_iff_eq]

/-- The late caption on the tether (R188). -/
structure Resent (n : Nat) (s : State) (y z : Shot) (t : State) : Prop where
  stands : ¬ y.Sent ∨ y.dutyState (.send .caption) = some .pending ∨ y.dutyState (.send .caption) = some .active →
    z.duty (.send .caption) = y.duty (.send .caption) ∧ t.tp.queue = s.tp.queue
  again : y.Sent → y.Again (.send .caption) → ∃ d, z.duty (.send .caption) = some d ∧ d.state = .pending ∧ d.resume = 0
    ∧ (y.duty (.send .caption) = none → d.urgent = y.urgent)
    ∧ (s.cp.power = .active → (∀ e ∈ s.tp.queue, e.shot = n → e.kind ≠ .caption) →
      (s.tp.queue.length < 256 → ∃ e ∈ t.tp.queue, e.shot = n ∧ e.kind = .caption ∧ e.urgent = d.urgent)
      ∧ (256 ≤ s.tp.queue.length → d.deferred = true ∧ t.tp.queue = s.tp.queue))

theorem putBack_resume (j : DutyKey) (b : Bool) (o : Option Duty) : (putBack j b o).resume = 0 := by cases o <;> rfl

/-- The tether's step: the record's other duties, the transfer and the frames sent are as they were. -/
theorem captionSend_resends (hy : s.held n = some y) : ∃ z, Puts s n y z (captionSend n s) ∧ z.urgent = y.urgent
    ∧ (∀ j, j ≠ .send .caption → z.duty j = y.duty j) ∧ (captionSend n s).tp.transfer = s.tp.transfer
    ∧ Resent n s y z (captionSend n s) := by
  have still : captionSend n s = s → (y.Sent → y.Again (.send .caption) → False) →
      ∃ z, Puts s n y z (captionSend n s) ∧ z.urgent = y.urgent
        ∧ (∀ j, j ≠ .send .caption → z.duty j = y.duty j) ∧ (captionSend n s).tp.transfer = s.tp.transfer
        ∧ Resent n s y z (captionSend n s) := fun e hno => by
    rw [e]
    exact ⟨y, .refl hy, rfl, fun _ _ => rfl, rfl, fun _ => ⟨rfl, rfl⟩, fun h1 h2 => (hno h1 h2).elim⟩
  have e0 : captionSend n s = if y.sentSome then putDuty DutyState.isEnded n (.send .caption) y.urgent s else s := by
    unfold captionSend
    rw [hy]
  by_cases hs : y.Sent
  · rw [if_pos (sentSome_iff.2 hs)] at e0
    by_cases hend : ∀ d, y.dutyState (.send .caption) = some d → d.isEnded = true
    · obtain ⟨z, hz, hu, hd, hown, -, -, htr, -, hq⟩ := putSend_puts (b := y.urgent) hy (.refl hy) hend
      rw [← e0] at hz htr hq
      refine ⟨z, hz, hu, hd, htr, fun c => ?_, fun _ _ => ?_⟩
      · rcases c with c | c | c
        · exact absurd hs c
        all_goals
          have := hend _ c
          cases this
      · have hst := putBack_state (k := .send .caption) (b := y.urgent) (y.duty (.send .caption))
        have hre := putBack_resume (.send .caption) y.urgent (y.duty (.send .caption))
        have hur : y.duty (.send .caption) = none → (putBack (.send .caption) y.urgent (y.duty (.send .caption))).urgent = y.urgent :=
          fun e => by rw [e]; rfl
        have entry : ∀ d : Duty, d.urgent = (putBack (.send .caption) y.urgent (y.duty (.send .caption))).urgent →
            (256 ≤ s.tp.queue.length → z.duty (.send .caption) = some { putBack (.send .caption) y.urgent (y.duty (.send .caption)) with deferred := true } → d.deferred = true) →
            s.cp.power = .active → (∀ e ∈ s.tp.queue, e.shot = n → e.kind ≠ .caption) →
            (s.tp.queue.length < 256 → ∃ e ∈ (captionSend n s).tp.queue, e.shot = n ∧ e.kind = .caption ∧ e.urgent = d.urgent)
            ∧ (256 ≤ s.tp.queue.length → d.deferred = true ∧ (captionSend n s).tp.queue = s.tp.queue) := by
          intro d hdu hdd hact habs
          obtain ⟨hroom, hfull⟩ := hq hact habs
          refine ⟨fun hl => ?_, fun hl => ?_⟩
          · rw [(hroom hl).1]
            exact ⟨_, mem_sortTether.2 (List.mem_append_right _ (List.mem_singleton.2 rfl)), rfl, rfl, hdu.symm⟩
          · obtain ⟨hqq, -, -, hzd⟩ := hfull hl
            exact ⟨hdd hl hzd, hqq⟩
        rcases hown with hown | hown
        · refine ⟨_, hown, hst, hre, hur, entry _ rfl fun _ hz' => ?_⟩
          rw [hown] at hz'
          exact congrArg Duty.deferred (Option.some.inj hz')
        · exact ⟨_, hown, hst, hre, hur, entry _ rfl fun _ _ => rfl⟩
    · simp only [not_forall] at hend
      obtain ⟨d, hd, he⟩ := hend
      refine still (e0.trans (putDuty_stands hy hd (by simpa using he))) fun _ hag => he (hag.ended hd)
  · rw [if_neg (fun c => hs (sentSome_iff.1 c))] at e0
    exact still e0 fun c _ => hs c

end Sys2Proof.Machine
end

section
/-! The caption and memo commands: the statement (R186 to R190, R192, R195). -/

namespace Sys2Proof.Machine

set_option Elab.async false

open Sys2Proof

variable {s t u v : State} {n : Nat} {k f : FileKind} {h x y z : Shot} {sl : Slot} {c : List Byte}

/-! ## A caption set -/

theorem Recaptioned.congr {q q' : List FileJob} {y' z' : Shot} (h : Recaptioned n sl y z q q')
    (hy : ∀ k, y'.duty (.card k sl) = y.duty (.card k sl)) (hz : z'.duty (.card .caption sl) = z.duty (.card .caption sl)) :
    Recaptioned n sl y' z' q q' := by
  have hs : ∀ k, y'.dutyState (.card k sl) = y.dutyState (.card k sl) := fun k => congrArg (Option.map Duty.state) (hy k)
  have hf : y'.Filed sl ↔ y.Filed sl := by
    unfold Shot.Filed
    simp only [hs]
  refine ⟨fun c => ?_, fun h1 h2 => ?_, fun h1 h2 => ?_⟩
  · rw [hz, hy]
    exact h.stands (c.imp (fun c d => c (hf.2 d)) (fun c => (hs _).symm.trans c))
  · rw [hz, hy]
    exact h.stale (hf.1 h1) ((hs _).symm.trans h2)
  · have hag : y.Again (.card .caption sl) := by
      unfold Shot.Again at *
      rw [hy, hs] at h2
      exact h2
    obtain ⟨h3, h4⟩ := h.again (hf.1 h1) hag
    exact ⟨(congrArg (Option.map Duty.state) hz).trans h3, h4⟩

/-- Both slots' steps where no move happens. -/
theorem captionCards_quiet (hy : s.held n = some y) (h0 : s.cw.overflow = false)
    (ht : (captionCard n .b (captionCard n .a s)).cw.overflow = false) :
    ∃ z, (captionCard n .b (captionCard n .a s)).held n = some z
      ∧ ∀ sl, Recaptioned n sl y z (s.slot sl).queue ((captionCard n .b (captionCard n .a s)).slot sl).queue := by
  obtain ⟨⟨w, hw, -⟩, -⟩ := captionCard_recards hy .a
  have ha : (captionCard n .a s).cw.overflow = false := by
    cases e : (captionCard n .a s).cw.overflow with
    | false => rfl
    | true =>
      rw [captionCard_overflow hw .b e] at ht
      cases ht
  obtain ⟨y1, hy1, hd1, hq1, r1⟩ := captionCard_quiet hy .a h0 ha
  obtain ⟨y2, hy2, hd2, hq2, r2⟩ := captionCard_quiet hy1 .b ha ht
  refine ⟨y2, hy2, fun sl => ?_⟩
  cases sl with
  | a =>
    rw [hq2 .a (by decide)]
    exact r1.congr (fun _ => rfl) (hd2 _ (by simp))
  | b =>
    rw [hq1 .b (by decide)] at r2
    exact r2.congr (fun k => (hd1 _ (by simp)).symm) rfl

/-- What CAPTION_SET leaves of a shot whose caption it replaces (R186 to R188). -/
structure CaptionSet (n : Nat) (c : List Byte) (s : State) (h : Shot) (u : Shot) (t : State) : Prop where
  held : t.held n = some u
  caption : u.caption = some c
  urgent : u.urgent = h.urgent
  keep : u.keep = h.keep
  raw : u.raw = h.raw
  quiet : s.cw.overflow = false → t.cw.overflow = false → ∀ sl, Recaptioned n sl h u (s.slot sl).queue (t.slot sl).queue
  moved : t.cw.overflow = true → h.Filed .a → h.Again (.card .caption .a) → h.duty (.card .caption .b) = none →
    ⟨n, .caption⟩ ∉ s.cw.a.queue → u.OnB .caption ∧ ⟨n, .caption⟩ ∈ t.cw.b.queue
  update : ∀ x, s.tp.transfer = some x → x.shot = n →
    (s.tp.phase = .offering → t.tp.out = s.tp.out ++ [.captionUpdate x.id c])
    ∧ (s.tp.phase = .sending → t.tp.transfer = some { x with captionDue := true })
  resent : Resent n s h u t

theorem setCaption_sets (hh : s.held n = some h) (c : List Byte) : ∃ u, CaptionSet n c s h u (setCaption n c s) := by
  have h1 : (modHeld n (fun t => { t with caption := some c }) s).held n = some { h with caption := some c } := by
    rw [held_modHeld_map (f := fun t : Shot => { t with caption := some c }) (fun _ hx => hx) s, hh, Option.map_some]
  have htp1 : (modHeld n (fun t => { t with caption := some c }) s).tp = s.tp := rfl
  have hcw1 : (modHeld n (fun t => { t with caption := some c }) s).cw = s.cw := rfl
  have hcp1 : (modHeld n (fun t => { t with caption := some c }) s).cp = s.cp := rfl
  unfold setCaption
  dsimp only
  generalize modHeld n (fun t => { t with caption := some c }) s = s1 at *
  obtain ⟨⟨y1, hy1, r1⟩, htpA⟩ := captionCard_recards h1 .a
  obtain ⟨⟨y2, hy2, r2⟩, htpB⟩ := captionCard_recards hy1 .b
  have hquiet := captionCards_quiet h1
  have htoB := captionCards_toB h1
  have hpow : (captionCard n .b (captionCard n .a s1)).cp.power = s1.cp.power :=
    (captionCard_serves (captionCard_serves .refl)).power
  generalize captionCard n .b (captionCard n .a s1) = s2 at *
  have r := r1.trans r2
  have htp2 : s2.tp = s.tp := htpB.trans (htpA.trans htp1)
  have hcap : y2.caption = some c := by rw [r.eq]
  obtain ⟨p, e3, hpq, -, hup⟩ := captionChanged_eq n s2
  have h3 : (captionChanged n s2).held n = some y2 := by rw [e3]; exact hy2
  have hcw3 : (captionChanged n s2).cw = s2.cw := by rw [e3]
  have hpow3 : (captionChanged n s2).cp.power = s.cp.power := by rw [e3]; exact hpow.trans (by rw [hcp1])
  have htp3 : (captionChanged n s2).tp = p := by rw [e3]
  generalize captionChanged n s2 = s3 at *
  obtain ⟨u, hu, huu, hud, htr, hre⟩ := captionSend_resends h3
  have hcw : (captionSend n s3).cw = s2.cw := by rw [hu.eq]; exact hcw3
  have hout : (captionSend n s3).tp.out = p.out := by
    have e := congrArg (fun u : State => u.tp.out) hu.eq
    exact e.trans (by rw [← htp3])
  generalize captionSend n s3 = s4 at *
  have hslot : ∀ x, s4.slot x = s2.slot x := slot_congr_cw hcw
  have hslot1 : ∀ x, s1.slot x = s.slot x := slot_congr_cw hcw1
  have hcard : ∀ k x, u.duty (.card k x) = y2.duty (.card k x) := fun k x => hud _ (by simp)
  have hsend : ∀ f, y2.duty (.send f) = h.duty (.send f) := fun f => r.duty _ rfl
  have hsendS : ∀ f, y2.dutyState (.send f) = h.dutyState (.send f) := fun f => congrArg (Option.map Duty.state) (hsend f)
  have hsent : y2.Sent ↔ h.Sent := by
    unfold Shot.Sent
    simp only [hsendS]
  have hq3 : s3.tp.queue = s.tp.queue := by rw [htp3, hpq, htp2]
  refine ⟨u, ⟨hu.held h3, ?_, ?_, ?_, ?_, fun h0 ht sl => ?_, fun ht hf hag hb hj => ?_, fun x hx hxn => ?_, fun c => ?_, fun c hag => ?_⟩⟩
  · rw [hu.record]
    exact hcap
  · rw [huu, r.eq]
  · rw [hu.record, r.eq]
  · rw [hu.record, r.eq]
  · rw [hcw] at ht
    obtain ⟨z, hz, hzr⟩ := hquiet (by rw [hcw1]; exact h0) ht
    obtain rfl := Option.some.inj (hz.symm.trans hy2)
    rw [hslot, ← hslot1]
    exact (hzr sl).congr (fun _ => rfl) (hcard _ _)
  · rw [hcw] at ht
    obtain ⟨⟨z, hz, hzb⟩, hq⟩ := htoB hf hag hb (by rw [hcw1]; exact hj) ht
    obtain rfl := Option.some.inj (hz.symm.trans hy2)
    have hc := fun x => congrArg (Option.map Duty.state) (hcard .caption x)
    exact ⟨⟨(hc .a).trans hzb.1, (hc .b).trans hzb.2⟩, by rw [hcw]; exact hq⟩
  · obtain ⟨ho, hs⟩ := hup x (by rw [htp2]; exact hx) hxn
    rw [htp2, hy2, Option.bind_some, hcap, Option.getD_some] at ho
    rw [htp2] at hs
    refine ⟨fun hp => hout.trans (ho hp), fun hp => ?_⟩
    rw [htr, htp3]
    exact hs hp
  · rw [← hsend, ← hq3]
    exact hre.stands (c.imp (fun c d => c (hsent.1 d)) (Or.imp (fun c => (hsendS _).trans c) (fun c => (hsendS _).trans c)))
  · have hag2 : y2.Again (.send .caption) := by
      unfold Shot.Again at *
      rw [hsend, hsendS]
      exact hag
    obtain ⟨d, hd, hst, hres, hur, hq⟩ := hre.again (hsent.2 c) hag2
    rw [hpow3, hq3] at hq
    refine ⟨d, hd, hst, hres, fun e => ?_, hq⟩
    rw [hur ((hsend _).trans e), r.eq]

/-! ## The standing caption and the levels -/

theorem captionRight_iff : captionRight c = true ↔ 1 ≤ c.length ∧ c.length ≤ 192 := decide_eq_true_iff

/-- The standing caption made pending, unless it is the applied one (R189). -/
theorem setWaiting_standing (x : Option (List Byte)) (hx : ∀ c, x = some c → 1 ≤ c.length ∧ c.length ≤ 192) (s : State) :
    setWaiting .standingCaption (.text x) s = { s with
    waiting := s.waiting.filter (fun w => w.1 != .standingCaption)
      ++ if s.cfg.plans.standing = x then [] else [(.standingCaption, .text x)] } := by
  have hput : s.cfg.put .standingCaption (.text x) = some s.cfg ↔ s.cfg.plans.standing = x := by
    have e : s.cfg.put .standingCaption (.text x) = some { s.cfg with plans := { s.cfg.plans with standing := x } } := by
      have hv : captionVal (.text x) = some x := by
        cases x with
        | none => rfl
        | some c => exact if_pos (hx c rfl)
      show (captionVal (.text x)).map _ = _
      rw [hv]
      rfl
    rw [e]
    refine ⟨fun hc => ?_, fun hx => by rw [← hx]⟩
    have := congrArg (fun o : Option Cfg => o.map (·.plans.standing)) hc
    exact (Option.some.inj this).symm
  unfold setWaiting
  by_cases hx : s.cfg.plans.standing = x
  · rw [if_pos hx]
    simp only [if_pos (hput.2 hx), List.append_nil]
  · rw [if_neg hx]
    simp only [if_neg (fun c => hx (hput.1 c))]

theorem memoGains_iff (g : Int) : memoGains.contains g = true ↔ ∃ i : Fin 8, g = 6 * (i : Nat) := by
  rw [List.contains_iff_mem]
  constructor
  · intro hg
    simp only [memoGains, List.mem_cons, List.not_mem_nil, or_false] at hg
    refine ⟨⟨g.toNat / 6, by omega⟩, ?_⟩
    show g = 6 * ((g.toNat / 6 : Nat) : Int)
    omega
  · rintro ⟨i, rfl⟩
    simp only [memoGains, List.mem_cons, List.not_mem_nil, or_false]
    omega

/-! ## MEMO_START -/

theorem askBlock_grants {m : MemoRec} (hl : 1 + s.cfg.store.floor ≤ s.ss.free.length) :
    askBlock m s = some ({ m with blocks := m.blocks ++ s.ss.free.take 1 }, (takeBlocks 1 s).2) := by
  unfold askBlock
  rw [if_pos (show mayAllocate 1 s = true from decide_eq_true hl), takeBlocks_eq]

theorem askBlock_refuses {m : MemoRec} (hl : s.ss.free.length < 1 + s.cfg.store.floor) : askBlock m s = none := by
  unfold askBlock
  rw [if_neg]
  intro hd
  have : 1 + s.cfg.store.floor ≤ s.ss.free.length := of_decide_eq_true hd
  omega

theorem startRecording_granted (m : MemoRec) (hl : 1 + s.cfg.store.floor ≤ s.ss.free.length) : startRecording m s = { s with
    ss := { s.ss with free := s.ss.free.drop 1 }, cp := s.tellsLow 1
    mi := { s.mi with phase := .recording, current := some { m with blocks := m.blocks ++ s.ss.free.take 1 } } } := by
  unfold startRecording
  dsimp only
  rw [askBlock_grants (by exact hl)]
  dsimp only
  rw [takeBlocks_eq]
  rfl

theorem startRecording_refused (m : MemoRec) (hl : s.ss.free.length < 1 + s.cfg.store.floor) :
    startRecording m s = endMemo .truncated m { s with mi := { s.mi with phase := .recording, current := some m } } := by
  unfold startRecording
  dsimp only
  rw [askBlock_refuses (by exact hl)]

/-- The state in which an accepted memo begins: the decimator cleared (R190, R192). -/
def State.memoBegun (s : State) (n : Nat) : State := { s with mi := { s.mi with
  decimator := {}, samples := [], current := some { shot := n, onVoice := s.cfg.memo.onVoice, start := s.time } } }

theorem startMemo_recording (n : Nat) (hv : s.cfg.memo.onVoice = false) :
    startMemo n s = startRecording { shot := n, onVoice := false, start := s.time } (s.memoBegun n) := by
  unfold startMemo State.memoBegun
  rw [hv]
  rfl

/-- A memo accepted in MANUAL mode: the first block is granted, or the memo ends TRUNCATED at once (R192, R193). -/
theorem startMemo_manual (n : Nat) (hv : s.cfg.memo.onVoice = false) :
    (1 + s.cfg.store.floor ≤ s.ss.free.length → startMemo n s = { s with
      ss := { s.ss with free := s.ss.free.drop 1 }, cp := s.tellsLow 1, mi := { s.mi with
        phase := .recording, decimator := {}, samples := []
        current := some ⟨n, false, 0, s.ss.free.take 1, 0, s.time⟩ } })
    ∧ (s.ss.free.length < 1 + s.cfg.store.floor →
      (startMemo n s).mi.phase = .idle ∧ (startMemo n s).mi.truncated = min (s.mi.truncated + 1) 4294967295) := by
  rw [startMemo_recording n hv]
  refine ⟨fun hl => ?_, fun hl => ?_⟩
  · exact startRecording_granted (s := s.memoBegun n) _ hl
  · rw [startRecording_refused (s := s.memoBegun n) _ hl, endMemo_empty rfl]
    exact ⟨rfl, rfl⟩

/-! ## The statement -/

/-- Settles O56. -/
theorem captionAndMemoCommands : Obligations.CaptionAndMemoCommands := by
  unfold Obligations.CaptionAndMemoCommands
  intro tag n c s ha
  have hset := exec_plain (act := actCaptionSet) tag (n, c) ha
  have hstand := fun x => exec_plain (act := actCaptionStanding) tag x ha
  have taking : s.cp.power = .active → s.taking = true := fun hp => taking_iff.2 ⟨(awake_iff.1 ha).1, hp⟩
  have hstart := fun x (hp : s.cp.power = .active) => exec_active (act := actMemoStart) tag x (taking hp)
  have hstop := exec_plain (act := actMemoStop) tag () ha
  refine ⟨fun hc => ?_, fun h1 h2 => ⟨fun hu => ?_, fun h hu => ⟨fun hc => ?_, fun hc => ?_⟩, ?_⟩, ?_, fun g o => ?_, fun hp hi => ?_,
    fun hp hi hu => ?_, fun hp hi hl => ?_, fun hp hl hi => ?_, fun hp hi h hu => ?_, fun hi => ?_, fun hi hcur => ?_⟩
  · have hr : captionRight c = false := by
      rw [← Bool.not_eq_true, captionRight_iff]
      omega
    refine ⟨hset.trans ?_, (hstand _).trans ?_⟩
    · simp [actCaptionSet, hr, deny]
    · simp [actCaptionStanding, hr, deny]
  · refine hset.trans ?_
    simp [actCaptionSet, captionRight_iff.2 ⟨h1, h2⟩, hu, deny]
  · refine hset.trans ?_
    simp [actCaptionSet, captionRight_iff.2 ⟨h1, h2⟩, hu, hc, ok]
  · obtain ⟨u, hsets⟩ := setCaption_sets (usable_held hu).1 c
    have hact : actCaptionSet (n, c) s = ok [] (setCaption n c s) := by
      simp [actCaptionSet, captionRight_iff.2 ⟨h1, h2⟩, hu, hc]
    rw [hact] at hset
    have hserves : Serves true s (setCaption n c s) := setCaption_serves .refl
    have he := hserves.eq
    refine ⟨setCaption n c s, u, hset, hsets.held, hsets.caption, hsets.urgent, hsets.keep, hsets.raw, hserves.mem,
      by rw [he], by rw [he], by rw [he], by rw [he], fun h0 ht sl => ?_, fun ht hf hag hb hj => ?_, hsets.update,
      hsets.resent.stands, hsets.resent.again⟩
    · obtain ⟨a1, a2, a3⟩ := hsets.quiet h0 ht sl
      exact ⟨a1, a2, a3⟩
    · obtain ⟨⟨b1, b2⟩, b3⟩ := hsets.moved ht hf hag hb hj
      exact ⟨dutyState_eq_none.1 b1, b2, b3⟩
  · refine (hstand _).trans ?_
    rw [← setWaiting_standing _ fun d hd => by cases hd; exact ⟨h1, h2⟩]
    simp [actCaptionStanding, captionRight_iff.2 ⟨h1, h2⟩, ok]
  · refine (hstand _).trans ?_
    rw [← setWaiting_standing _ (fun _ hd => by cases hd)]
    rfl
  · refine (exec_plain (act := actMemoLevel) tag (g, o) ha).trans ?_
    unfold actMemoLevel
    dsimp only
    simp only [memoGains_iff]
    split <;> rfl
  · refine (hstart _ hp).trans ?_
    simp [actMemoStart, hi, deny]
  · refine (hstart _ hp).trans ?_
    simp [actMemoStart, hi, State.memoShot, Option.filter, hu, deny]
  · refine (hstart _ hp).trans ?_
    simp [actMemoStart, hi, State.memoShot, hl, deny]
  · refine (hstart _ hp).trans (Eq.trans ?_ (hstart _ hp).symm)
    simp [actMemoStart, State.memoShot, hl]
  · have hact : actMemoStart (.value n) s = accepted [.u32 n] (startMemo n s) := by
      simp [actMemoStart, hi, State.memoShot, Option.filter, hu]
    have hex := hstart (.value n) hp
    rw [hact] at hex
    refine ⟨startMemo n s, hex, fun hv => ?_, fun hv => (startMemo_manual n hv).1, fun hv => (startMemo_manual n hv).2⟩
    unfold startMemo
    rw [hv]
    rfl
  · refine hstop.trans ?_
    unfold actMemoStop
    rw [hi]
    rfl
  · obtain ⟨m, hm⟩ := Option.ne_none_iff_exists'.1 hcur
    cases hph : s.mi.phase with
    | idle => exact absurd hph hi
    | armed =>
      have hact : actMemoStop () s = ok [] (cancelMemo m s) := by
        unfold actMemoStop
        rw [hph, hm]
      rw [hact] at hstop
      exact ⟨cancelMemo m s, hstop, rfl, rfl, rfl, rfl, fun _ => rfl, fun _ hc => nomatch hc⟩
    | recording =>
      have hact : actMemoStop () s = ok [] (endMemo .stop m s) := by
        unfold actMemoStop
        rw [hph, hm]
      rw [hact] at hstop
      refine ⟨endMemo .stop m s, hstop, (endMemo_atRest .stop m s).1, (endMemo_atRest .stop m s).2, ?_,
        (endMemo_serves .refl).mem, fun hc => (nomatch hc), fun m' _ hm' => ?_⟩
      · exact endMemo_samples .stop m s
      · rw [hm] at hm'
        cases hm'
        rfl

end Sys2Proof.Machine
end

section
/-! The decimator, the levels, and the samples of a memo (R190 to R193). -/

namespace Sys2Proof.Machine

set_option Elab.async false

open Sys2Proof

variable {s t u v : State} {n : Nat} {m : MemoRec} {x : Int}

/-! ## The decimator and the levels -/

theorem run_eq (n : Nat) : ∀ (k j : Nat) (d : Decimator),
    Decimator.run k j n d = (List.range' j k).foldl (fun e i => e.bit (n.testBit i)) d
  | 0, _, _ => rfl
  | k + 1, j, d => by
    rw [List.range'_succ, List.foldl_cons]
    exact run_eq n k (j + 1) _

/-- The crossings of a frame counted over its adjacent pairs (R191). -/
theorem crossingsOf_eq : ∀ l : List Int, crossingsOf l
    = (List.range (l.length - 1)).countP (fun k => decide (l.getD k 0 < 0) != decide (l.getD (k + 1) 0 < 0))
  | [] => rfl
  | [_] => rfl
  | a :: b :: l => by
    have ih := crossingsOf_eq (b :: l)
    show (if decide (a < 0) != decide (b < 0) then 1 else 0) + crossingsOf (b :: l) = _
    rw [ih]
    show _ = (List.range (l.length + 1)).countP _
    rw [List.range_succ_eq_map, List.countP_cons, List.countP_map, Nat.add_comm]
    rfl

theorem clampSample_eq (x : Int) : clampSample x = max (-32767) (min 32767 x) := by
  unfold clampSample clampInt
  omega

theorem clampSample_bounds (x : Int) : -32767 ≤ clampSample x ∧ clampSample x ≤ 32767 := by
  rw [clampSample_eq]
  omega

/-! ## A word of PDM bits -/

theorem closeActivity_stands (hl : s.mi.samples.length < 320) : closeActivity s = s :=
  if_neg (show ¬ s.frameFull = true from fun hd => absurd (of_decide_eq_true hd) (Nat.not_le.2 hl))

theorem exec_memoSample (bits : BitVec 192) (hl : s.mi.samples.length < 320) :
    exec (.memoSample bits) s = .next (pdmWord bits s) := by
  show Host.Outcome.next (pdmWord bits (closeActivity s)) = _
  rw [closeActivity_stands hl]

/-- What a word leaves in the decimator, and its value (R190). -/
def State.decimated (s : State) (bits : BitVec 192) : Int × Decimator := (Decimator.run 192 0 bits.toNat s.mi.decimator).comb

theorem pdmWord_idle (bits : BitVec 192) (hi : s.mi.phase = .idle) : pdmWord bits s = s := if_pos hi

theorem pdmWord_discards (bits : BitVec 192) (hi : s.mi.phase ≠ .idle) (hd : 0 < (s.decimated bits).2.discard) :
    pdmWord bits s = { s with mi := { s.mi with
      decimator := { (s.decimated bits).2 with discard := (s.decimated bits).2.discard - 1 } } } := by
  unfold pdmWord
  rw [if_neg hi]
  exact if_pos hd

/-- The sample that a word gives (R190). -/
def State.sampled (s : State) (bits : BitVec 192) : Int := sampleOf (s.decimated bits).1 s.mi.gain s.mi.offset

theorem pdmWord_takes (bits : BitVec 192) (hi : s.mi.phase ≠ .idle) (hd : (s.decimated bits).2.discard = 0) :
    pdmWord bits s = takeSample (s.sampled bits) { s with mi := { s.mi with decimator := (s.decimated bits).2 } } := by
  unfold pdmWord
  rw [if_neg hi]
  exact if_neg (show ¬ 0 < (s.decimated bits).2.discard by omega)

/-! ## A sample recorded -/

/-- A sample at its place in the recording, and in the frame (R193). -/
def State.written (s : State) (x : Int) (m : MemoRec) : State := { s with
  mem := writeExtent m.blocks (leInt 2 x) (2 * m.samples) s.mem
  mi := { s.mi with samples := s.mi.samples ++ [x], current := some { m with samples := m.samples + 1 } } }

/-- A sample written where a block has room for it: the last of 960,000 ends the memo (R193). -/
theorem recordSample_room (x : Int) (hr : m.samples < 32768 * m.blocks.length) : recordSample x m s
    = if 960000 ≤ m.samples + 1 then endMemo .limit { m with samples := m.samples + 1 } (s.written x m) else s.written x m := by
  have e : withRoom m s = some (m, s) := if_pos hr
  unfold recordSample
  rw [e]
  rfl

/-- A sample that finds the blocks full takes a block (R193). -/
theorem recordSample_grant (x : Int) (hr : 32768 * m.blocks.length ≤ m.samples) (hl : 1 + s.cfg.store.floor ≤ s.ss.free.length) :
    recordSample x m s = if 960000 ≤ m.samples + 1 then
        endMemo .limit { m with samples := m.samples + 1, blocks := m.blocks ++ s.ss.free.take 1 }
          ((takeBlocks 1 s).2.written x { m with blocks := m.blocks ++ s.ss.free.take 1 })
      else (takeBlocks 1 s).2.written x { m with blocks := m.blocks ++ s.ss.free.take 1 } := by
  have e : withRoom m s = askBlock m s := if_neg (show ¬ m.samples < 32768 * m.blocks.length by omega)
  unfold recordSample
  rw [e, askBlock_grants hl]
  rfl

/-- Without a block the memo ends TRUNCATED (R193). -/
theorem recordSample_refused (x : Int) (hr : 32768 * m.blocks.length ≤ m.samples) (hl : s.ss.free.length < 1 + s.cfg.store.floor) :
    recordSample x m s = endMemo .truncated m s := by
  have e : withRoom m s = askBlock m s := if_neg (show ¬ m.samples < 32768 * m.blocks.length by omega)
  unfold recordSample
  rw [e, askBlock_refuses hl]

theorem takeSample_armed (x : Int) (h : s.mi.phase = .armed) :
    takeSample x s = { s with mi := { s.mi with samples := s.mi.samples ++ [x] } } := by
  unfold takeSample
  rw [h]

theorem takeSample_recording (x : Int) (h : s.mi.phase = .recording) (hc : s.mi.current = some m) :
    takeSample x s = recordSample x m s := by
  unfold takeSample
  rw [h, hc]

end Sys2Proof.Machine
end

section
/-! The old memo's readers abandon their work and its blocks go back (R194, step 1). -/

namespace Sys2Proof.Machine

set_option Elab.async false

open Sys2Proof

variable {s t u v : State} {n : Nat} {k : FileKind} {sl : Slot} {x y z : Shot} {m : MemoRec}

/-! ## Slots without a file -/

/-- A step after which a slot that held no file holds none. -/
def StaysIdle (s t : State) : Prop := ∀ sl, (s.slot sl).file = none → (t.slot sl).file = none

theorem StaysIdle.trans (h1 : StaysIdle s t) (h2 : StaysIdle t u) : StaysIdle s u := fun sl h => h2 sl (h1 sl h)

theorem StaysIdle.of_cw (h : t.cw = s.cw) : StaysIdle s t := fun sl hs => by rw [slot_congr_cw h]; exact hs

theorem SameWork.idle (h : SameWork s t) : StaysIdle s t := fun sl hs => (h.file sl).trans hs

theorem modSlot_idle {f : CardSlot → CardSlot} (hf : ∀ c : CardSlot, c.file = none → (f c).file = none) (sl : Slot) (s : State) :
    StaysIdle s (modSlot sl f s) := fun x hx => by
  cases sl <;> cases x <;> first | exact hf _ hx | exact hx

theorem moveJob_idle (s : State) (j : FileJob) : StaysIdle s (moveJob s j) := by
  unfold moveJob
  split
  · intro x hx
    cases x <;> exact hx
  · exact fun _ h => h

theorem foldl_idle {α : Type} {f : State → α → State} (hf : ∀ t a, StaysIdle t (f t a)) :
    ∀ (l : List α) (s : State), StaysIdle s (l.foldl f s)
  | [], _ => fun _ h => h
  | a :: l, s => (hf s a).trans (foldl_idle hf l (f s a))

theorem overflowMove_idle (s : State) : StaysIdle s (overflowMove s) := by
  intro sl h
  cases sl with
  | b => exact (overflowMove_fileB s).trans h
  | a =>
    unfold overflowMove
    extract_lets file s1 s2 s3 s4
    have h1 : s1.cw.a.file = none := abandon_file .a .overflow s
    have h3 : s3.cw.a.file = none := (congrArg (fun c : CardWriter => c.a.file) (foldl_moveWaiting_cw _ s2)).trans
      (foldl_idle moveJob_idle _ s1 .a h1)
    exact ((slotRest_sameWork .b _).file .a).trans h3

theorem slotSettle_idle (sl : Slot) (s : State) : StaysIdle s (slotSettle sl s) := by
  refine (slotRest_sameWork sl s).idle.trans ?_
  unfold slotSettle overflowTest
  split
  · exact overflowMove_idle _
  · exact fun _ h => h

theorem handCard_idle (n : Nat) (k : FileKind) (sl : Slot) (s : State) : StaysIdle s (handCard n k sl s) := by
  unfold handCard
  dsimp only
  split
  · exact fun _ h => h
  · have push : ∀ x u, StaysIdle u (modSlot x (fun c => { c with queue := c.queue ++ [⟨n, k⟩] }) u) := fun x u =>
      modSlot_idle (f := fun c => { c with queue := c.queue ++ [⟨n, k⟩] }) (fun _ h => h) x u
    refine StaysIdle.trans (StaysIdle.trans ?_ (push _ _)) (slotSettle_idle _ _)
    split
    · exact .of_cw rfl
    · exact fun _ h => h

/-! ## A slot abandons the shot's MEMO file -/

/-- The shot's old memo is out of its readers' hands, as far as a step has gone: the record's MEMO and SEND_MEMO duties may
be PENDING again, its card jobs then queued. -/
structure Replaces (n : Nat) (s t : State) (y z : Shot) : Prop where
  held : t.held n = some z
  record : z = { y with duties := z.duties, pins := z.pins, proof := z.proof }
  other : ∀ j, j ≠ .card .memo .a → j ≠ .card .memo .b → j ≠ .send .memo → z.duty j = y.duty j
  card : ∀ sl, z.duty (.card .memo sl) = y.duty (.card .memo sl)
    ∨ z.dutyState (.card .memo sl) = (y.dutyState (.card .memo sl)).map (fun _ => .pending) ∧ ⟨n, .memo⟩ ∈ (t.slot sl).queue
  send : z.duty (.send .memo) = y.duty (.send .memo) ∨ ∀ d, z.duty (.send .memo) = some d → d.state = .pending ∧ d.resume = 0
  queue : ∀ sl, ∀ j ∈ (s.slot sl).queue, j ∈ (t.slot sl).queue
  idle : StaysIdle s t
  memo : MemoStands s t
  overflow : t.cw.overflow = s.cw.overflow
  cfg : t.cfg = s.cfg

theorem Replaces.refl (hy : s.held n = some y) : Replaces n s s y y where
  held := hy
  record := rfl
  other := fun _ _ _ _ => rfl
  card := fun _ => .inl rfl
  send := .inl rfl
  queue := fun _ _ h => h
  idle := fun _ h => h
  memo := .refl s
  overflow := rfl
  cfg := rfl

theorem Replaces.trans (h1 : Replaces n s t x y) (h2 : Replaces n t u y z) : Replaces n s u x z where
  held := h2.held
  record := by rw [h2.record, h1.record]
  other := fun j a b c => (h2.other j a b c).trans (h1.other j a b c)
  card := fun sl => by
    rcases h2.card sl with e2 | ⟨e2, q2⟩
    · rcases h1.card sl with e1 | ⟨e1, q1⟩
      · exact .inl (e2.trans e1)
      · exact .inr ⟨(congrArg (Option.map Duty.state) e2).trans e1, h2.queue sl _ q1⟩
    · refine .inr ⟨e2.trans ?_, q2⟩
      rcases h1.card sl with e1 | ⟨e1, -⟩
      · rw [show y.dutyState (.card .memo sl) = x.dutyState (.card .memo sl) from congrArg (Option.map Duty.state) e1]
      · rw [e1, Option.map_map]
        rfl
  send := by
    rcases h2.send with e2 | e2
    · rw [e2]
      exact h1.send
    · exact .inr e2
  queue := fun sl j hj => h2.queue sl j (h1.queue sl j hj)
  idle := h1.idle.trans h2.idle
  memo := h1.memo.trans h2.memo
  overflow := h2.overflow.trans h1.overflow
  cfg := h2.cfg.trans h1.cfg

theorem Replaces.recordsInto (h : Replaces n s t y z) (hp : s.mi.phase = .recording) (hr : s.recordsInto n = true) :
    t.mi.phase = .recording ∧ t.recordsInto n = true := by
  have e := h.memo.mi (by rw [hp]; decide)
  unfold State.recordsInto at *
  rw [e]
  exact ⟨hp, hr⟩

/-- The tests leave a shot into which a memo records, but for its proof. -/
theorem shotTests_records (hy : s.held n = some y) (hr : s.recordsInto n = true) : (shotTests n s).held n = some y.tested :=
  (shotTests_stands hy (.inr hr)).1

theorem tested_record (y : Shot) : y.tested = { y with proof := y.tested.proof } := by
  unfold Shot.tested
  split <;> rfl

theorem duty_tested (y : Shot) (j : DutyKey) : y.tested.duty j = y.duty j := by
  rw [tested_record]
  rfl

/-- The shot's MEMO duty for a slot PENDING again, its job at the queue's head and the slot's pin dropped (R154). -/
def State.setBack (s : State) (n : Nat) (sl : Slot) : State :=
  dropPin n (slotReader sl) (setDuty n (.card .memo sl) (Duty.into .pending)
    (modSlot sl (fun x => { x with queue := ⟨n, .memo⟩ :: x.queue }) s))

/-- The record of that. -/
def Shot.setBack (y : Shot) (sl : Slot) : Shot := unpinnedBy (slotReader sl) (y.setDuty (.card .memo sl) (Duty.into .pending))

theorem held_setBack (hy : s.held n = some y) (sl : Slot) : (s.setBack n sl).held n = some (y.setBack sl) := by
  have e : (setDuty n (.card .memo sl) (Duty.into .pending)
      (modSlot sl (fun x => { x with queue := ⟨n, .memo⟩ :: x.queue }) s)).held n
      = ((modSlot sl (fun x => { x with queue := ⟨n, .memo⟩ :: x.queue }) s).held n).map (Shot.setDuty (.card .memo sl) (Duty.into .pending)) :=
    held_modHeld_map (f := Shot.setDuty (.card .memo sl) (Duty.into .pending)) (fun _ h => h) _
  unfold State.setBack
  rw [dropPin_eq, held_modHeld_map (f := unpinnedBy (slotReader sl)) (fun _ h => h), e, (away_modSlot n sl _ s).held.trans hy]
  rfl

theorem setBack_cw (n : Nat) (sl : Slot) (s : State) :
    (s.setBack n sl).cw = (modSlot sl (fun x => { x with queue := ⟨n, .memo⟩ :: x.queue }) s).cw := rfl

theorem setBack_mi (n : Nat) (sl : Slot) (s : State) : (s.setBack n sl).mi = s.mi := modSlot_mi s sl _

theorem setBack_overflow (n : Nat) (sl : Slot) (s : State) : (s.setBack n sl).cw.overflow = s.cw.overflow := by cases sl <;> rfl

theorem setBack_idle (n : Nat) (sl : Slot) (s : State) : StaysIdle s (s.setBack n sl) :=
  (modSlot_idle (f := fun x => { x with queue := ⟨n, .memo⟩ :: x.queue }) (fun _ h => h) sl s).trans (.of_cw (setBack_cw n sl s))

theorem setBack_own (n : Nat) (sl : Slot) (s : State) : ⟨n, .memo⟩ ∈ ((s.setBack n sl).slot sl).queue := by
  rw [slot_congr_cw (setBack_cw n sl s), modSlot_slot]
  exact List.mem_cons_self

theorem setBack_queue {j : FileJob} (x : Slot) (hj : j ∈ (s.slot x).queue) (n : Nat) (sl : Slot) : j ∈ ((s.setBack n sl).slot x).queue := by
  rw [slot_congr_cw (setBack_cw n sl s)]
  by_cases hx : x = sl
  · subst hx
    rw [modSlot_slot]
    exact List.mem_cons_of_mem _ hj
  · have : (modSlot sl (fun x => { x with queue := ⟨n, .memo⟩ :: x.queue }) s).slot x = s.slot x := by
      cases sl <;> cases x <;> first | rfl | exact absurd rfl hx
    rw [this]
    exact hj

/-- The duties after it: the slot's MEMO duty PENDING. -/
theorem duty_setBack (y : Shot) (sl : Slot) (j : DutyKey) :
    (y.setBack sl).tested.duty j = if j = .card .memo sl then (y.duty j).map (Duty.into .pending) else y.duty j := by
  rw [duty_tested]
  refine (duty_setDuty (g := Duty.into .pending) (into_key .pending) j).trans ?_
  split
  · rename_i e
    rw [e]
  · rfl

theorem dutyState_setBack (y : Shot) (sl : Slot) :
    (y.setBack sl).tested.dutyState (.card .memo sl) = (y.dutyState (.card .memo sl)).map (fun _ => .pending) := by
  unfold Shot.dutyState
  rw [duty_setBack, if_pos rfl, Option.map_map, Option.map_map]
  exact congrArg (fun g => (y.duty (.card .memo sl)).map g) (funext fun d => into_state .pending d)

theorem writesMemo_iff : s.writesMemo n sl = true ↔ ∃ f, (s.slot sl).file = some f ∧ f.shot = n ∧ f.kind = .memo := by
  unfold State.writesMemo
  cases (s.slot sl).file with
  | none => simp
  | some f => simp

/-- What the abandonment has done before the duty is set back: the file is gone, and what it consumed recorded (R154). -/
structure Abandoned (n : Nat) (sl : Slot) (s t : State) : Prop where
  held : t.held n = s.held n
  memo : MemoStands s t
  queue : ∀ x, (t.slot x).queue = (s.slot x).queue
  overflow : t.cw.overflow = s.cw.overflow
  idle : StaysIdle s t

theorem abandoned_record (n : Nat) (sl : Slot) (f : CardFile) (s : State) :
    Abandoned n sl s (recordFile sl .replaced f (modSlot sl (CardSlot.abandons .replaced) s)) where
  held := ((abandons_goesBy n sl .replaced s).trans (recordFile_goesBy n sl .replaced f _)).away.held
  memo := (modSlot_memo sl (CardSlot.abandons .replaced) s).trans (recordFile_memo sl .replaced f _)
  queue := fun x => by
    have e := modSlot_queue (s := s) (sl := sl) (f := CardSlot.abandons .replaced) (fun _ => rfl) x
    unfold recordFile
    split
    · exact e
    · exact (addRecord_queue sl _ _ x).trans e
  overflow := (recordFile_sameSwitch sl .replaced f _).overflow.trans (by cases sl <;> rfl)
  idle := by
    refine (modSlot_idle (f := CardSlot.abandons .replaced) (fun _ _ => rfl) sl s).trans ?_
    unfold recordFile
    split
    · exact fun _ h => h
    · exact fun x hx => (addRecord_file sl _ _ x).trans hx

theorem recordsInto_congr (h : t.mi = s.mi) (n : Nat) : t.recordsInto n = s.recordsInto n := by
  unfold State.recordsInto
  rw [h]

/-- Where the slot writes the shot's MEMO file, the file is abandoned and its duty PENDING again (R194). -/
theorem replaceFile_replaces (hy : s.held n = some y) (hp : s.mi.phase = .recording) (hr : s.recordsInto n = true) (sl : Slot) :
    (∃ z, Replaces n s (replaceFile n sl s) y z) ∧ (replaceFile n sl s).tp = s.tp
      ∧ ∀ f, (s.slot sl).file = some f → f.shot = n → f.kind = .memo → ((replaceFile n sl s).slot sl).file = none := by
  unfold replaceFile
  by_cases hw : s.writesMemo n sl = true
  · rw [if_pos hw]
    obtain ⟨f, hf, hfn, hfk⟩ := writesMemo_iff.1 hw
    have hgone : ((abandon sl .replaced s).slot sl).file = none := abandon_file sl .replaced s
    have hmemo := abandon_memo sl .replaced s
    have hcfg : (abandon sl .replaced s).cfg = s.cfg := (abandon_serves (w := false) .refl).cfg
    have htp : (abandon sl .replaced s).tp = s.tp := (abandon_serves (w := false) .refl).port_engine.1
    have h1 := abandoned_record n sl f s
    have e : abandon sl .replaced s
        = shotTests n (State.setBack (recordFile sl .replaced f (modSlot sl (CardSlot.abandons .replaced) s)) n sl) := by
      rw [abandon_some hf]
      unfold abandonDuty
      rw [hfn, hfk]
      rfl
    rw [e] at hgone hmemo hcfg htp ⊢
    generalize recordFile sl .replaced f (modSlot sl (CardSlot.abandons .replaced) s) = s1 at *
    have hcw := shotTests_cw n (s1.setBack n sl)
    have hr2 : (s1.setBack n sl).recordsInto n = true :=
      (recordsInto_congr ((setBack_mi n sl s1).trans (h1.memo.mi (by rw [hp]; decide))) n).trans hr
    refine ⟨⟨(y.setBack sl).tested, shotTests_records (held_setBack (h1.held.trans hy) sl) hr2, by rw [tested_record]; rfl,
      fun j ha hb _ => ?_, fun x => ?_, .inl ?_, fun x j hj => ?_, (h1.idle.trans (setBack_idle n sl s1)).trans (.of_cw hcw), hmemo, ?_, hcfg⟩,
      htp, fun _ _ _ _ => hgone⟩
    · rw [duty_setBack, if_neg]
      cases sl
      · exact ha
      · exact hb
    · by_cases hx : x = sl
      · subst hx
        exact .inr ⟨dutyState_setBack y x, by rw [slot_congr_cw hcw]; exact setBack_own n x s1⟩
      · exact .inl (by rw [duty_setBack, if_neg (by simpa using hx)])
    · rw [duty_setBack, if_neg (by simp)]
    · rw [slot_congr_cw hcw]
      exact setBack_queue x (by rw [h1.queue]; exact hj) n sl
    · rw [hcw]
      exact (setBack_overflow n sl s1).trans h1.overflow
  · rw [if_neg hw]
    exact ⟨⟨y, .refl hy⟩, rfl, fun f hf hfn hfk => absurd (writesMemo_iff.2 ⟨f, hf, hfn, hfk⟩) hw⟩

end Sys2Proof.Machine
end

section
/-! The old memo replaced, and the duties of the new one (R194). -/

namespace Sys2Proof.Machine

set_option Elab.async false

open Sys2Proof

variable {s t u v : State} {n : Nat} {k : FileKind} {sl : Slot} {x y z : Shot} {m : MemoRec}

/-! ## A send duty handed to the tether -/

/-- A send duty handed out: its entry queued, or itself deferred; nothing else of the part is concerned (R164, R165). -/
structure Joins (n : Nat) (k : FileKind) (g : Duty → Duty) (s t : State) : Prop where
  held : ∀ y, s.held n = some y → t.held n = some (y.setDuty (.send k) g)
  duty : ∀ d : Duty, (g d).key = d.key ∧ (g d).state = d.state ∧ (g d).resume = d.resume
  cw : t.cw = s.cw
  cfg : t.cfg = s.cfg
  port : t.tp = { s.tp with queue := t.tp.queue, nextOrder := t.tp.nextOrder, deferred := t.tp.deferred }

theorem held_setDuty (hy : s.held n = some y) (j : DutyKey) (g : Duty → Duty) :
    (setDuty n j g s).held n = some (y.setDuty j g) := by
  have e : (setDuty n j g s).held n = (s.held n).map (Shot.setDuty j g) :=
    held_modHeld_map (f := Shot.setDuty j g) (fun _ h => h) s
  rw [e, hy, Option.map_some]

theorem setDuty_self (j : DutyKey) (y : Shot) : y.setDuty j id = y := by
  unfold Shot.setDuty
  simp

theorem joins_same (n : Nat) (k : FileKind) (q : List Entry) (o : Int) (d : Nat) (s : State) :
    Joins n k id s { s with tp := { s.tp with queue := q, nextOrder := o, deferred := d } } where
  held := fun y hy => by
    rw [setDuty_self]
    exact hy
  duty := fun _ => ⟨rfl, rfl, rfl⟩
  cw := rfl
  cfg := rfl
  port := rfl

theorem joinTether_joins (b : Bool) (n : Nat) (k : FileKind) (s : State) : ∃ g : Duty → Duty, Joins n k g s (joinTether b n k s) := by
  have still := joins_same n k s.tp.queue s.tp.nextOrder s.tp.deferred s
  unfold joinTether
  split
  · exact ⟨id, still⟩
  · split
    · exact ⟨id, still⟩
    · split
      · exact ⟨fun d => { d with deferred := true }, fun y hy => held_setDuty hy _ _, fun _ => ⟨rfl, rfl, rfl⟩, rfl, rfl, rfl⟩
      · exact ⟨id, joins_same n k _ _ _ s⟩

/-- A SEND_MEMO duty PENDING again, from offset 0. -/
def backTo0 (d : Duty) : Duty := { d.into .pending with resume := 0 }

theorem backTo0_key (d : Duty) : (backTo0 d).key = d.key := into_key .pending d

/-- The duties of a record whose SEND_MEMO duty is put back and handed out. -/
theorem duty_backTo0 {g : Duty → Duty} (hg : ∀ d, (g d).key = d.key) (y : Shot) (j : DutyKey) :
    ((y.setDuty (.send .memo) backTo0).setDuty (.send .memo) g).duty j
      = if j = .send .memo then (y.duty (.send .memo)).map (fun d => g (backTo0 d)) else y.duty j := by
  rw [duty_setDuty hg, duty_setDuty backTo0_key, duty_setDuty backTo0_key, if_pos rfl, Option.map_map]
  split
  · rfl
  · rfl

/-- The state with the shot's SEND_MEMO transfer aborted and its duty put back (R194). -/
def State.sendsBack (s : State) (n : Nat) (x : Transfer) : State := setDuty n (.send .memo) backTo0 (abortTransfer x .replaced s)

theorem held_sendsBack (hy : s.held n = some y) {x : Transfer} (hn : x.shot = n) :
    (s.sendsBack n x).held n = some ((unpinnedBy .t y).setDuty (.send .memo) backTo0) := by
  refine held_setDuty ?_ _ _
  have e : (abortTransfer x .replaced s).held n = (modHeld n (unpinnedBy .t) s).held n := by rw [← hn]; rfl
  rw [e, held_modHeld_map (f := unpinnedBy .t) (fun _ h => h), hy, Option.map_some]

theorem sendsBack_memo (n : Nat) (x : Transfer) (s : State) : MemoStands s (s.sendsBack n x) := .of_same rfl rfl

theorem sendsBack_port (n : Nat) (x : Transfer) (s : State) : (s.sendsBack n x).tp.phase = .idle
    ∧ (s.sendsBack n x).tp.transfer = none ∧ (s.sendsBack n x).tp.out = s.tp.out ++ [.abort x.id .replaced]
    ∧ (s.sendsBack n x).tp.aborted = min (s.tp.aborted + 1) 4294967295 := ⟨rfl, rfl, rfl, rfl⟩

theorem sendsBack_cw (n : Nat) (x : Transfer) (s : State) : (s.sendsBack n x).cw = s.cw ∧ (s.sendsBack n x).cfg = s.cfg := ⟨rfl, rfl⟩

/-- The shot's current SEND_MEMO transfer is aborted, its duty PENDING again (R194). -/
theorem replaceTransfer_replaces (hy : s.held n = some y) :
    (∃ z, Replaces n s (replaceTransfer n s) y z)
      ∧ ∀ x, s.tp.transfer = some x → x.shot = n → x.kind = .memo → (replaceTransfer n s).tp.phase = .idle
        ∧ (replaceTransfer n s).tp.transfer = none ∧ (replaceTransfer n s).tp.out = s.tp.out ++ [.abort x.id .replaced]
        ∧ (replaceTransfer n s).tp.aborted = min (s.tp.aborted + 1) 4294967295 := by
  unfold replaceTransfer
  cases hx : s.tp.transfer with
  | none => exact ⟨⟨y, .refl hy⟩, fun x hx => nomatch hx⟩
  | some x =>
    dsimp only
    by_cases hn : x.shot = n ∧ x.kind = .memo
    · rw [if_pos hn]
      show (∃ z, Replaces n s (joinTether true n .memo (s.sendsBack n x)) y z) ∧ ∀ x', some x = some x' → _ → _ →
        (joinTether true n .memo (s.sendsBack n x)).tp.phase = .idle ∧ (joinTether true n .memo (s.sendsBack n x)).tp.transfer = none
        ∧ (joinTether true n .memo (s.sendsBack n x)).tp.out = _ ∧ (joinTether true n .memo (s.sendsBack n x)).tp.aborted = _
      have hh := held_sendsBack hy hn.1
      have hm := sendsBack_memo n x s
      obtain ⟨hp1, hp2, hp3, hp4⟩ := sendsBack_port n x s
      obtain ⟨hc1, hc2⟩ := sendsBack_cw n x s
      generalize s.sendsBack n x = s1 at *
      obtain ⟨g, hj⟩ := joinTether_joins true n .memo s1
      have hd := duty_backTo0 (fun d => (hj.duty d).1) (unpinnedBy .t y)
      have hcw := hj.cw.trans hc1
      refine ⟨⟨_, hj.held _ hh, rfl, fun j _ _ hjm => ?_, fun sl => .inl ?_, .inr fun d hds => ?_, fun sl j hjq => ?_, .of_cw hcw,
        hm.trans (joinTether_memo true n .memo s1), by rw [hcw], hj.cfg.trans hc2⟩, fun x' hx' _ _ => ?_⟩
      · rw [hd, if_neg hjm]
        rfl
      · rw [hd, if_neg (by simp)]
        rfl
      · rw [hd, if_pos rfl] at hds
        obtain ⟨d0, -, rfl⟩ := Option.map_eq_some_iff.1 hds
        exact ⟨(hj.duty _).2.1.trans (into_state .pending d0), (hj.duty _).2.2⟩
      · rw [slot_congr_cw hcw]
        exact hjq
      · obtain rfl := Option.some.inj hx'
        rw [hj.port]
        exact ⟨hp1, hp2, hp3, hp4⟩
    · rw [if_neg hn]
      exact ⟨⟨y, .refl hy⟩, fun x' hx' h1 h2 => by cases hx'; exact absurd ⟨h1, h2⟩ hn⟩

/-! ## The old memo -/

/-- The old memo's readers abandon their work, and its blocks join the free list (R194, step 1). -/
theorem replaceMemo_replaces (hy : s.held n = some y) (hp : s.mi.phase = .recording) (hr : s.recordsInto n = true) :
    (y.memo = none → replaceMemo n s = s)
    ∧ ∃ z t, replaceMemo n s = t ∧ Replaces n s t { y with memo := none } z
      ∧ ∀ old, y.memo = some old → (∀ b ∈ old.blocks, b ∈ t.ss.free)
        ∧ (∀ sl f, (s.slot sl).file = some f → f.shot = n → f.kind = .memo → (t.slot sl).file = none)
        ∧ (∀ x, s.tp.transfer = some x → x.shot = n → x.kind = .memo → t.tp.phase = .idle ∧ t.tp.transfer = none
          ∧ t.tp.out = s.tp.out ++ [.abort x.id .replaced] ∧ t.tp.aborted = min (s.tp.aborted + 1) 4294967295) := by
  have hbind : (s.held n).bind (·.memo) = y.memo := by rw [hy]; rfl
  cases hm : y.memo with
  | none =>
    have e : replaceMemo n s = s := by
      unfold replaceMemo
      rw [hbind, hm]
    refine ⟨fun _ => e, y, s, e, ?_, fun _ h => (nomatch h)⟩
    have hyy : ({ y with memo := none } : Shot) = y := by rw [← hm]
    rw [hyy]
    exact .refl hy
  | some old =>
    refine ⟨fun h => (nomatch h), ?_⟩
    have e : replaceMemo n s = giveBlocks old.blocks (modHeld n (fun t => { t with memo := none })
        (replaceTransfer n (replaceFile n .b (replaceFile n .a s)))) := by
      unfold replaceMemo
      rw [hbind, hm]
    rw [e]
    obtain ⟨⟨y1, r1⟩, htp1, hf1⟩ := replaceFile_replaces hy hp hr .a
    obtain ⟨hp1, hr1⟩ := r1.recordsInto hp hr
    have hfb : (replaceFile n .a s).cw.b.file = s.cw.b.file := by
      unfold replaceFile
      split
      · exact abandon_fileB .replaced s
      · rfl
    generalize replaceFile n .a s = s1 at *
    obtain ⟨⟨y2, r2⟩, htp2, hf2⟩ := replaceFile_replaces r1.held hp1 hr1 .b
    generalize replaceFile n .b s1 = s2 at *
    obtain ⟨⟨y3, r3⟩, htr⟩ := replaceTransfer_replaces r2.held
    generalize replaceTransfer n s2 = s3 at *
    have r := (r1.trans r2).trans r3
    have hh : (modHeld n (fun t => { t with memo := none }) s3).held n = some { y3 with memo := none } := by
      rw [held_modHeld_map (f := fun t : Shot => { t with memo := none }) (fun _ h => h) s3, r.held, Option.map_some]
    have eg := giveBlocks_eq old.blocks (modHeld n (fun t => { t with memo := none }) s3)
    refine ⟨{ y3 with memo := none }, _, rfl, ⟨?_, ?_, r.other, fun sl => ?_, r.send, fun sl j hj => ?_, ?_, ?_, ?_, ?_⟩, fun old' ho => ?_⟩
    · rw [eg]
      exact hh
    · rw [r.record]
    · rw [eg]
      exact r.card sl
    · rw [eg]
      exact r.queue sl j hj
    · rw [eg]
      exact r.idle
    · rw [eg]
      exact r.memo.trans (.of_same rfl rfl)
    · rw [eg]
      exact r.overflow
    · rw [eg]
      exact r.cfg
    · obtain rfl := Option.some.inj ho
      rw [eg]
      refine ⟨fun b hb => List.mem_append_right _ hb, fun sl f hf hfn hfk => ?_, fun x hx hxn hxk => ?_⟩
      · cases sl with
        | a => exact r3.idle .a (r2.idle .a (hf1 f hf hfn hfk))
        | b => exact r3.idle .b (hf2 f (hfb.trans hf) hfn hfk)
      · have := htr x (by rw [htp2, htp1]; exact hx) hxn hxk
        rw [htp2, htp1] at this
        exact this

end Sys2Proof.Machine
end

section
/-! A new memo's duties (R194, steps 2 to 4). -/

namespace Sys2Proof.Machine

set_option Elab.async false

open Sys2Proof

variable {s t u v : State} {n : Nat} {k : FileKind} {sl : Slot} {x y z h : Shot} {m : MemoRec} {b : Bool}

/-! ## A card duty put, whatever follows -/

/-- Card duties of the shot are put and handed out: the record but its card duties, the tether port and the memo input stand. -/
structure Hands (n : Nat) (s t : State) (y z : Shot) : Prop where
  held : t.held n = some z
  card : Shot.Recarded y z
  tp : t.tp = s.tp
  memo : MemoStands s t
  idle : StaysIdle s t
  overflow : s.cw.overflow = true → t.cw.overflow = true

theorem Hands.refl (hy : s.held n = some y) : Hands n s s y y := ⟨hy, .refl y, rfl, .refl s, fun _ h => h, id⟩

theorem Hands.trans (h1 : Hands n s t x y) (h2 : Hands n t u y z) : Hands n s u x z :=
  ⟨h2.held, h1.card.trans h2.card, h2.tp.trans h1.tp, h1.memo.trans h2.memo, h1.idle.trans h2.idle,
    fun h => h2.overflow (h1.overflow h)⟩

/-- The duty is put, or is in no state to be. -/
theorem put_cases {j : DutyKey} (hy : s.held n = some y) :
    (∀ d, y.dutyState j = some d → d.isEnded = true)
      ∨ (∃ d, y.dutyState j = some d ∧ d.isEnded = false) ∧ putDuty DutyState.isEnded n j b s = s := by
  by_cases he : ∀ d, y.dutyState j = some d → d.isEnded = true
  · exact .inl he
  · simp only [not_forall] at he
    obtain ⟨d, hd, hn⟩ := he
    have hn' : d.isEnded = false := by simpa using hn
    exact .inr ⟨⟨d, hd, hn'⟩, putDuty_stands hy hd hn'⟩

theorem put_again {j : DutyKey} (he : ∀ d, y.dutyState j = some d → d.isEnded = true) : y.Again j := by
  cases hd : y.dutyState j with
  | none => exact .inl (dutyState_eq_none.1 hd)
  | some d => exact not_again_stands hd (he d hd)

theorem putCard_hands (hy : s.held n = some y) (hk : k ≠ .proof) (sl : Slot) (b : Bool) :
    ∃ z, Hands n s (putDuty DutyState.isEnded n (.card k sl) b s) y z := by
  rcases put_cases (b := b) hy with he | ⟨-, e⟩
  · obtain ⟨⟨z, hz, hr⟩, htp⟩ := putCard_recards (b := b) hy hk he
    refine ⟨z, hz, hr, htp, ?_, ?_, putCard_overflow hy hk he⟩
    · rw [putCard_puts hy hk he]
      exact MemoStands.trans (t := modHeld n (Shot.put (.card k sl) b) s) (.of_same rfl rfl) (handCard_memo n k sl _)
    · rw [putCard_puts hy hk he]
      exact StaysIdle.trans (t := modHeld n (Shot.put (.card k sl) b) s) (.of_cw rfl) (handCard_idle n k sl _)
  · rw [e]
    exact ⟨y, .refl hy⟩

theorem putCards_hands (hk : k ≠ .proof) (b : Bool) : ∀ (l : List Slot) {s : State} {y : Shot}, s.held n = some y →
    ∃ z, Hands n s (l.foldl (fun t sl => putDuty DutyState.isEnded n (.card k sl) b t) s) y z
  | [], _, y, hy => ⟨y, .refl hy⟩
  | sl :: l, _, _, hy => by
    obtain ⟨z, hz⟩ := putCard_hands hy hk sl b
    obtain ⟨w, hw⟩ := putCards_hands hk b l hz.held
    exact ⟨w, hz.trans hw⟩

/-! ## Card duties put without a move -/

/-- The duty is PENDING and its job is queued. -/
def Shot.Queued (y : Shot) (n : Nat) (k : FileKind) (sl : Slot) (s : State) : Prop :=
  y.dutyState (.card k sl) = some .pending ∧ ⟨n, k⟩ ∈ (s.slot sl).queue

/-- A duty that is put again, or is queued already, is queued; the others and what is queued stand. -/
structure Puts1 (n : Nat) (k : FileKind) (l : List Slot) (s t : State) (y z : Shot) : Prop where
  held : t.held n = some z
  other : ∀ j, (∀ sl ∈ l, j ≠ .card k sl) → z.duty j = y.duty j
  queue : ∀ x, ∀ j ∈ (s.slot x).queue, j ∈ (t.slot x).queue
  queued : ∀ sl ∈ l, y.Again (.card k sl) ∨ y.Queued n k sl s → z.Queued n k sl t

theorem putCard_quiet (hy : s.held n = some y) (hk : k ≠ .proof) (hd : sl = .b ∨ s.cw.overflow = false)
    (ht : (putDuty DutyState.isEnded n (.card k sl) b s).cw.overflow = s.cw.overflow) :
    ∃ z, Puts1 n k [sl] s (putDuty DutyState.isEnded n (.card k sl) b s) y z := by
  rcases put_cases (b := b) hy with he | ⟨⟨d, hd, hn⟩, e⟩
  · rw [putCard_puts hy hk he] at ht ⊢
    have hh := held_put hy (.card k sl) b
    have hp : (modHeld n (Shot.put (.card k sl) b) s).dutyOf n (.card k sl) = some .pending := by
      unfold State.dutyOf
      rw [hh, Option.bind_some, dutyState_put, if_pos rfl]
    have hdiv : (modHeld n (Shot.put (.card k sl) b) s).diverts ⟨n, k⟩ sl = false := by
      unfold State.diverts
      rcases hd with rfl | hd
      · rfl
      · rw [show (modHeld n (Shot.put (.card k sl) b) s).cw.overflow = s.cw.overflow from rfl, hd]
        simp
    obtain ⟨c, p, e, hq⟩ := handCard_undiverted hdiv (ht.trans rfl)
    refine ⟨y.put (.card k sl) b, by rw [e]; exact hh, fun j hj => ?_, fun x j hj => ?_, fun x hx _ => ?_⟩
    · rw [duty_put, if_neg (hj sl (List.mem_singleton.2 rfl))]
    · rw [hq]
      exact List.mem_append_left _ hj
    · rw [List.mem_singleton.1 hx]
      refine ⟨by rw [dutyState_put, if_pos rfl], ?_⟩
      rw [hq]
      by_cases hj : ⟨n, k⟩ ∈ ((modHeld n (Shot.put (.card k sl) b) s).slot sl).queue
      · exact List.mem_append_left _ hj
      · rw [if_pos ⟨rfl, hp, hj⟩]
        exact List.mem_append_right _ (List.mem_singleton.2 rfl)
  · rw [e]
    refine ⟨y, hy, fun _ _ => rfl, fun _ _ h => h, fun x hx c => ?_⟩
    rw [List.mem_singleton.1 hx] at c ⊢
    rcases c with c | c
    · rw [c.ended hd] at hn
      cases hn
    · exact c

theorem Shot.Again.congr {j : DutyKey} (h : y.Again j) (e : z.duty j = y.duty j) : z.Again j := by
  have es : z.dutyState j = y.dutyState j := congrArg (Option.map Duty.state) e
  unfold Shot.Again at *
  rw [e, es]
  exact h

theorem Shot.Queued.congr (h : y.Queued n k sl s) (e : z.duty (.card k sl) = y.duty (.card k sl))
    (hq : ∀ j ∈ (s.slot sl).queue, j ∈ (t.slot sl).queue) : z.Queued n k sl t :=
  ⟨(congrArg (Option.map Duty.state) e).trans h.1, hq _ h.2⟩

theorem Puts1.cons {l : List Slot} (h1 : Puts1 n k [sl] s t x y) (h2 : Puts1 n k l t u y z) : Puts1 n k (sl :: l) s u x z where
  held := h2.held
  other := fun j hj => (h2.other j fun x hx => hj x (List.mem_cons_of_mem _ hx)).trans
    (h1.other j fun x hx => by rw [List.mem_singleton.1 hx]; exact hj sl List.mem_cons_self)
  queue := fun x j hj => h2.queue x j (h1.queue x j hj)
  queued := fun i hi c => by
    have c1 : y.Again (.card k i) ∨ y.Queued n k i t := by
      by_cases hsl : i = sl
      · exact .inr (h1.queued i (List.mem_singleton.2 hsl) c)
      · have e := h1.other (.card k i) fun e he hc => hsl (by cases hc; exact List.mem_singleton.1 he)
        exact c.imp (fun c => c.congr e) (fun c => c.congr e (h1.queue i))
    by_cases hil : i ∈ l
    · exact h2.queued i hil c1
    · have hsl : i = sl := (List.mem_cons.1 hi).resolve_right hil
      exact (h1.queued i (List.mem_singleton.2 hsl) c).congr (h2.other _ fun e he hc => hil (by cases hc; exact he)) (h2.queue i)

/-- The duties of several slots put in turn where the overflow switch stays as it is. -/
theorem putCards_quiet (hk : k ≠ .proof) (b : Bool) : ∀ (l : List Slot) {s : State} {y : Shot}, s.held n = some y →
    (∀ sl ∈ l, sl = .b ∨ s.cw.overflow = false) →
    (l.foldl (fun t sl => putDuty DutyState.isEnded n (.card k sl) b t) s).cw.overflow = s.cw.overflow →
    ∃ z, Puts1 n k l s (l.foldl (fun t sl => putDuty DutyState.isEnded n (.card k sl) b t) s) y z
  | [], _, y, hy, _, _ => ⟨y, hy, fun _ _ => rfl, fun _ _ h => h, fun _ h => nomatch h⟩
  | sl :: l, s, y, hy, hd, ht => by
    obtain ⟨w, hw⟩ := putCard_hands hy hk sl b
    obtain ⟨w', hw'⟩ := putCards_hands hk b l hw.held
    have e1 : (putDuty DutyState.isEnded n (.card k sl) b s).cw.overflow = s.cw.overflow := by
      cases ho : s.cw.overflow with
      | true => exact hw.overflow ho
      | false =>
        cases e : (putDuty DutyState.isEnded n (.card k sl) b s).cw.overflow with
        | false => rfl
        | true =>
          have := hw'.overflow e
          rw [List.foldl_cons, this, ho] at ht
          cases ht
    obtain ⟨z, hz⟩ := putCard_quiet hy hk (hd sl List.mem_cons_self) e1
    have hl : ∀ x ∈ l, x = .b ∨ (putDuty DutyState.isEnded n (.card k sl) b s).cw.overflow = false := fun x hx => by
      rw [e1]
      exact hd x (List.mem_cons_of_mem _ hx)
    obtain ⟨z', hz'⟩ := putCards_quiet hk b l hz.held hl (ht.trans e1.symm)
    exact ⟨z', hz.cons hz'⟩

/-- A duty of card A put where the switch may be set by it: it is A's and queued there, or B's and queued there (R152). -/
theorem putCard_aOrB (hy : s.held n = some y) (hk : k ≠ .proof) (h0 : s.cw.overflow = false)
    (ha : y.Again (.card k .a) ∨ y.Queued n k .a s) (hb : y.duty (.card k .b) = none) :
    ∃ z, (putDuty DutyState.isEnded n (.card k .a) b s).held n = some z
      ∧ ((putDuty DutyState.isEnded n (.card k .a) b s).cw.overflow = true →
        z.OnB k ∧ ⟨n, k⟩ ∈ (putDuty DutyState.isEnded n (.card k .a) b s).cw.b.queue)
      ∧ ((putDuty DutyState.isEnded n (.card k .a) b s).cw.overflow = false →
        z.OnA k ∧ ⟨n, k⟩ ∈ (putDuty DutyState.isEnded n (.card k .a) b s).cw.a.queue) := by
  obtain ⟨z, hz⟩ := putCard_hands hy hk .a b
  refine ⟨z, hz.held, fun ht => ?_, fun ht => ?_⟩
  · rcases put_cases (b := b) hy with he | ⟨-, e⟩
    · have hon : (y.put (.card k .a) b).OnA k :=
        ⟨by rw [dutyState_put, if_pos rfl], by rw [dutyState_put, if_neg (by simp)]; exact dutyState_eq_none.2 hb⟩
      have hh := held_put hy (.card k .a) b
      have hzh := hz.held
      rw [putCard_puts hy hk he] at ht hzh ⊢
      by_cases hj : ⟨n, k⟩ ∈ (modHeld n (Shot.put (.card k .a) b) s).cw.a.queue
      · have e : handCard n k .a (modHeld n (Shot.put (.card k .a) b) s) = modHeld n (Shot.put (.card k .a) b) s := if_pos (.inr hj)
        rw [e] at ht
        have : s.cw.overflow = true := ht
        rw [h0] at this
        cases this
      · obtain ⟨⟨w, hw, hwb⟩, hq⟩ := handCard_toB ⟨_, hh, hon⟩ hj ht
        obtain rfl := Option.some.inj (hw.symm.trans hzh)
        exact ⟨hwb, hq⟩
    · rw [e, h0] at ht
      cases ht
  · obtain ⟨w, hw⟩ := putCard_quiet (b := b) hy hk (.inr h0) (ht.trans h0.symm)
    obtain rfl := Option.some.inj (hw.held.symm.trans hz.held)
    obtain ⟨hq1, hq2⟩ := hw.queued .a (List.mem_singleton.2 rfl) ha
    refine ⟨⟨hq1, ?_⟩, hq2⟩
    exact (congrArg (Option.map Duty.state) (hw.other _ (by simp))).trans (dutyState_eq_none.2 hb)

/-! ## The SEND_MEMO duty -/

/-- The duty is PENDING with resume offset 0. -/
def Shot.SendsAnew (y : Shot) : Prop := ∃ d, y.duty (.send .memo) = some d ∧ d.state = .pending ∧ d.resume = 0

/-- SEND_MEMO put: the record's other duties, the slots and the memo input stand. -/
structure SendPut (n : Nat) (s t : State) (y z : Shot) : Prop where
  held : t.held n = some z
  record : z = { y with urgent := z.urgent, duties := z.duties }
  other : ∀ j, j ≠ .send .memo → z.duty j = y.duty j
  port : t.tp.transfer = s.tp.transfer ∧ t.tp.phase = s.tp.phase ∧ t.tp.out = s.tp.out ∧ t.tp.aborted = s.tp.aborted
  cw : t.cw = s.cw
  mi : t.mi = s.mi
  anew : y.Again (.send .memo) ∨ y.SendsAnew → z.SendsAnew

theorem Puts.rest (p : Puts s n y z t) : t.cw = s.cw ∧ t.mi = s.mi ∧ t.tp.phase = s.tp.phase ∧ t.tp.out = s.tp.out
    ∧ t.tp.aborted = s.tp.aborted := by
  refine ⟨?_, ?_, ?_, ?_, ?_⟩ <;> rw [p.eq]

theorem putSendMemo_puts (hy : s.held n = some y) (b : Bool) :
    ∃ z, SendPut n s (putDuty DutyState.isEnded n (.send .memo) b s) y z := by
  rcases put_cases (b := b) hy with he | ⟨⟨d, hd, hn⟩, e⟩
  · obtain ⟨z, hz, -, hd, hown, -, -, htr, -, -⟩ := putSend_puts (b := b) hy (.refl hy) he
    obtain ⟨hcw, hmi, hph, hout, hab⟩ := hz.rest
    refine ⟨z, hz.held hy, hz.record, hd, ⟨htr, hph, hout, hab⟩, hcw, hmi, fun _ => ?_⟩
    · rcases hown with hown | hown
      · exact ⟨_, hown, putBack_state _, putBack_resume _ _ _⟩
      · exact ⟨_, hown, putBack_state (k := .send .memo) (b := b) _, putBack_resume (.send .memo) b _⟩
  · rw [e]
    refine ⟨y, hy, rfl, fun _ _ => rfl, ⟨rfl, rfl, rfl, rfl⟩, rfl, rfl, fun c => ?_⟩
    rcases c with c | c
    · rw [c.ended hd] at hn
      cases hn
    · exact c

end Sys2Proof.Machine
end

section
/-! A memo attached to its shot, and the steps behind its end (R194). -/

namespace Sys2Proof.Machine

set_option Elab.async false

open Sys2Proof

variable {s t u v : State} {n : Nat} {k : FileKind} {sl : Slot} {x y z h w : Shot} {m : MemoRec} {b : Bool}

/-! ## The attachment -/

/-- Whether SEND_MEMO is judged (R194). -/
def Shot.SendsAny (y : Shot) : Prop := ∃ k ∈ [FileKind.raw, .proof, .caption], y.duty (.send k) ≠ none

theorem sendsAny_iff : y.sendsAny = true ↔ y.SendsAny := by
  unfold Shot.sendsAny Shot.SendsAny
  simp only [List.any_eq_true, Option.isSome_iff_ne_none]

theorem sendsAny_congr (h : ∀ j : DutyKey, j.onCard = false → j ≠ .send .memo → z.duty j = y.duty j) : z.SendsAny ↔ y.SendsAny := by
  unfold Shot.SendsAny
  refine exists_congr fun k => and_congr_right fun hk => ?_
  rw [h (.send k) rfl]
  intro c
  cases c
  simp at hk

/-- The duties of a new memo, judged in turn (R194, steps 3 and 4). -/
structure Judges (n : Nat) (s t : State) (y z : Shot) : Prop where
  held : t.held n = some z
  memo : z.memo = y.memo
  port : t.tp.transfer = s.tp.transfer ∧ t.tp.phase = s.tp.phase ∧ t.tp.out = s.tp.out ∧ t.tp.aborted = s.tp.aborted
  mi : s.mi.phase ≠ .armed → t.mi = s.mi
  idle : StaysIdle s t
  overflow : s.cw.overflow = true → t.cw.overflow = true
  quiet : (∀ sl ∈ s.memoTargets, sl = .b ∨ s.cw.overflow = false) → t.cw.overflow = s.cw.overflow → ∀ sl,
    (sl ∈ s.memoTargets → y.Again (.card .memo sl) ∨ y.Queued n .memo sl s → z.Queued n .memo sl t)
    ∧ (sl ∉ s.memoTargets → z.duty (.card .memo sl) = y.duty (.card .memo sl))
  toB : s.memoTargets = [.a] → s.cw.overflow = false → y.Again (.card .memo .a) ∨ y.Queued n .memo .a s →
    y.duty (.card .memo .b) = none →
    (t.cw.overflow = true → z.OnB .memo ∧ ⟨n, .memo⟩ ∈ t.cw.b.queue) ∧ (t.cw.overflow = false → z.OnA .memo ∧ ⟨n, .memo⟩ ∈ t.cw.a.queue)
  sends : y.SendsAny → y.Again (.send .memo) ∨ y.SendsAnew → z.SendsAnew
  stands : ¬ y.SendsAny → z.duty (.send .memo) = y.duty (.send .memo)

/-- SEND_MEMO judged: it is put, or stands where the shot has no other send duty. -/
theorem sendMemo_judges (hy : s.held n = some y) (ht : t = match s.held n with
        | some x => if x.sendsAny then putDuty DutyState.isEnded n (.send .memo) x.urgent s else s
        | none => s) :
    ∃ z, (t.held n = some z ∧ z.memo = y.memo ∧ ∀ j, j ≠ .send .memo → z.duty j = y.duty j)
      ∧ (t.tp.transfer = s.tp.transfer ∧ t.tp.phase = s.tp.phase ∧ t.tp.out = s.tp.out ∧ t.tp.aborted = s.tp.aborted)
      ∧ t.cw = s.cw ∧ t.mi = s.mi
      ∧ (y.SendsAny → y.Again (.send .memo) ∨ y.SendsAnew → z.SendsAnew)
      ∧ (¬ y.SendsAny → z.duty (.send .memo) = y.duty (.send .memo)) := by
  rw [hy] at ht
  dsimp only at ht
  by_cases hs : y.SendsAny
  · rw [if_pos (sendsAny_iff.2 hs)] at ht
    obtain ⟨z, hz⟩ := putSendMemo_puts hy y.urgent
    rw [← ht] at hz
    exact ⟨z, ⟨hz.held, by rw [hz.record], hz.other⟩, hz.port, hz.cw, hz.mi, fun _ => hz.anew, fun c => absurd hs c⟩
  · rw [if_neg (fun c => hs (sendsAny_iff.1 c))] at ht
    rw [ht]
    exact ⟨y, ⟨hy, rfl, fun _ _ => rfl⟩, ⟨rfl, rfl, rfl, rfl⟩, rfl, rfl, fun c => absurd c hs, fun _ => rfl⟩

theorem memoDuties_judges (hy : s.held n = some y) : ∃ z, Judges n s (memoDuties n s) y z := by
  obtain ⟨w, hw⟩ := putCards_hands (k := .memo) (by simp) false s.memoTargets hy
  have hquiet := putCards_quiet (k := .memo) (by simp) false s.memoTargets hy
  have e : ∃ t1, t1 = s.memoTargets.foldl (fun t sl => putDuty DutyState.isEnded n (.card .memo sl) false t) s ∧
      memoDuties n s = match t1.held n with
        | some x => if x.sendsAny then putDuty DutyState.isEnded n (.send .memo) x.urgent t1 else t1
        | none => t1 := ⟨_, rfl, rfl⟩
  obtain ⟨t1, e1, e⟩ := e
  have htoB : s.memoTargets = [.a] → s.cw.overflow = false → y.Again (.card .memo .a) ∨ y.Queued n .memo .a s →
      y.duty (.card .memo .b) = none → ∃ w, t1.held n = some w
        ∧ (t1.cw.overflow = true → w.OnB .memo ∧ ⟨n, .memo⟩ ∈ t1.cw.b.queue)
        ∧ (t1.cw.overflow = false → w.OnA .memo ∧ ⟨n, .memo⟩ ∈ t1.cw.a.queue) := fun ht h0 ha hb => by
    rw [e1, ht]
    exact putCard_aOrB (b := false) (k := .memo) hy (by simp) h0 ha hb
  rw [← e1] at hw hquiet
  obtain ⟨z, ⟨hz, hzm, hzd⟩, hport, hcw, hmi, hsend, hstand⟩ := sendMemo_judges hw.held e
  have hslot := fun x => slot_congr_cw hcw x
  have hsend' : ∀ f, w.duty (.send f) = y.duty (.send f) := fun f => hw.card.duty _ rfl
  have hany : w.SendsAny ↔ y.SendsAny := sendsAny_congr fun j hj _ => hw.card.duty j hj
  rw [hw.tp] at hport
  refine ⟨z, hz, ?_, hport, fun ha => hmi.trans (hw.memo.mi ha), hw.idle.trans (.of_cw hcw), fun h => by rw [hcw]; exact hw.overflow h,
    fun hl ht sl => ?_, fun ha h0 hag hb => ?_, fun hs hag => ?_, fun hs => ?_⟩
  · rw [hzm, hw.card.eq]
  · rw [hcw] at ht
    obtain ⟨w', hw'⟩ := hquiet hl ht
    obtain rfl := Option.some.inj (hw'.held.symm.trans hw.held)
    refine ⟨fun hm hag => ?_, fun hm => ?_⟩
    · exact (hw'.queued sl hm hag).congr (hzd _ (by simp)) (fun j hj => by rw [hslot]; exact hj)
    · exact (hzd _ (by simp)).trans (hw'.other _ fun x hx hc => hm (by cases hc; exact hx))
  · obtain ⟨w', hw', h1, h2⟩ := htoB ha h0 hag hb
    obtain rfl := Option.some.inj (hw'.symm.trans hw.held)
    have hst := fun x => congrArg (Option.map Duty.state) (hzd (.card .memo x) (by simp))
    rw [hcw]
    refine ⟨fun ht => ?_, fun ht => ?_⟩
    · obtain ⟨⟨p, q⟩, r⟩ := h1 ht
      exact ⟨⟨(hst .a).trans p, (hst .b).trans q⟩, r⟩
    · obtain ⟨⟨p, q⟩, r⟩ := h2 ht
      exact ⟨⟨(hst .a).trans p, (hst .b).trans q⟩, r⟩
  · refine hsend (hany.2 hs) (hag.imp (fun c => c.congr (hsend' _)) fun ⟨d, hd, h1⟩ => ⟨d, (hsend' _).trans hd, h1⟩)
  · exact (hstand fun c => hs (hany.1 c)).trans (hsend' _)

end Sys2Proof.Machine
end

section
/-! The steps behind a memo's end: the tests of its shot, and both slots settle (R194). -/

namespace Sys2Proof.Machine

set_option Elab.async false

open Sys2Proof

variable {s t u v : State} {n : Nat} {k : FileKind} {sl : Slot} {x y z h w : Shot} {m : MemoRec} {b : Bool}

theorem slotSettle_overflow (sl : Slot) (h : s.cw.overflow = true) : (slotSettle sl s).cw.overflow = true := by
  rw [slotSettle_still (.inl h), slotRest_overflow]
  exact h

/-- A slot that settles without a move settles between files alone. -/
theorem slotSettle_rests (sl : Slot) (h : (slotSettle sl s).cw.overflow = s.cw.overflow) : slotSettle sl s = slotRest sl s := by
  rcases slotSettle_cases sl s with e | ⟨h1, h2⟩
  · exact e
  · rw [h1, h2] at h
    cases h

/-- The steps behind a memo's end. -/
def State.settled (s : State) (n : Nat) : State := slotSettle .b (slotSettle .a (shotTests n s))

theorem settled_serves (n : Nat) (s : State) : Serves false s (s.settled n) := slotSettle_serves (slotSettle_serves (shotTests_serves .refl))

theorem settled_idle (n : Nat) (s : State) : StaysIdle s (s.settled n) :=
  ((StaysIdle.of_cw (shotTests_cw n s)).trans (slotSettle_idle .a _)).trans (slotSettle_idle .b _)

theorem settled_overflow (n : Nat) (h : s.cw.overflow = true) : (s.settled n).cw.overflow = true :=
  slotSettle_overflow .b (slotSettle_overflow .a (by rw [shotTests_cw]; exact h))

/-- Without a move the slots settle between files alone. -/
theorem settled_rests (ho : (s.settled n).cw.overflow = s.cw.overflow) : s.settled n = slotRest .b (slotRest .a (shotTests n s)) := by
  have h0 : (shotTests n s).cw.overflow = s.cw.overflow := by rw [shotTests_cw]
  have h1 : (slotSettle .a (shotTests n s)).cw.overflow = s.cw.overflow := by
    cases e : s.cw.overflow with
    | true => exact slotSettle_overflow .a (h0.trans e)
    | false =>
      cases e1 : (slotSettle .a (shotTests n s)).cw.overflow with
      | false => rfl
      | true =>
        have : (s.settled n).cw.overflow = true := slotSettle_overflow .b e1
        rw [this, e] at ho
        cases ho
  unfold State.settled at *
  rw [slotSettle_rests .b (ho.trans h1.symm), slotSettle_rests .a (h1.trans h0.symm)]

/-- Without a move a record that is still there has its duties, and the queues stand. -/
theorem settled_quiet (hn : (s.heldShots.map (·.number)).Nodup) (hi : s.mi.phase = .idle) (hy : s.held n = some y)
    (ho : (s.settled n).cw.overflow = s.cw.overflow) (hx : (s.settled n).held n = some x) :
    (∀ j, x.duty j = y.duty j) ∧ ∀ sl, ((s.settled n).slot sl).queue = (s.slot sl).queue := by
  rw [settled_rests ho] at hx ⊢
  rw [(away_slotRest n .b _).held, (away_slotRest n .a _).held] at hx
  have hr : s.recordsInto n = false := by
    unfold State.recordsInto
    rw [hi]
    rfl
  refine ⟨fun j => ?_, fun sl => ?_⟩
  · cases hf : y.freeable with
    | true =>
      rw [(shotTests_frees hy hf hr hn).1] at hx
      cases hx
    | false =>
      rw [(shotTests_stands hy (.inl hf)).1] at hx
      cases hx
      exact duty_tested y j
  · rw [slotRest_queue, slotRest_queue, slot_congr_cw (shotTests_cw n s)]

/-- A duty of card A queued there goes to card B where the move follows (R152). -/
theorem settled_moves (h : s.Has n (Shot.OnA k)) (hj : ⟨n, k⟩ ∈ s.cw.a.queue) (h0 : s.cw.overflow = false)
    (ht : (s.settled n).cw.overflow = true) : (s.settled n).Has n (Shot.OnB k) ∧ ⟨n, k⟩ ∈ (s.settled n).cw.b.queue := by
  have h1 : (slotRest .a (shotTests n s)).Has n (Shot.OnA k) := slotRest_has (shotTests_has (robust_onA k) h n) .a
  have hj1 : ⟨n, k⟩ ∈ (slotRest .a (shotTests n s)).cw.a.queue := by
    have e := slotRest_queue .a .a (shotTests n s)
    rw [slot_congr_cw (shotTests_cw n s)] at e
    exact (congrArg (⟨n, k⟩ ∈ ·) e).mpr hj
  have ho1 : (slotRest .a (shotTests n s)).cw.overflow = false := by rw [slotRest_overflow, shotTests_cw, h0]
  unfold State.settled at *
  have ea : slotSettle .a (shotTests n s) = overflowTest (slotRest .a (shotTests n s)) := rfl
  rw [ea] at ht ⊢
  generalize slotRest .a (shotTests n s) = s1 at *
  by_cases hdue : s1.MoveDue
  · rw [overflowTest_due hdue] at ht ⊢
    obtain ⟨h2, hj2⟩ := overflowMove_moves h1 hj1
    rw [slotSettle_still (.inl (overflowMove_sets s1))]
    refine ⟨slotRest_has h2 .b, ?_⟩
    have e := slotRest_queue .b .b (overflowMove s1)
    exact (congrArg (⟨n, k⟩ ∈ ·) e).mpr hj2
  · rw [overflowTest_undue hdue] at ht
    have hb : ¬ (slotRest .b s1).MoveDue := fun c => hdue (slotRest_b_due.1 c)
    unfold slotSettle at ht
    rw [overflowTest_undue hb, slotRest_overflow, ho1] at ht
    cases ht

end Sys2Proof.Machine
end

section
/-! A recording's end (R193, R194). -/

namespace Sys2Proof.Machine

set_option Elab.async false

open Sys2Proof

variable {s t u v : State} {n : Nat} {k : FileKind} {sl : Slot} {x y z h w : Shot} {m : MemoRec} {b : Bool}

/-- A memo is attached to its shot: the old one's work is given up, and the new one's duties are judged (R194). -/
structure Attached (m : MemoRec) (h : Shot) (s t : State) (v : Shot) : Prop where
  held : t.held m.shot = some v
  memo : v.memo = some ⟨m.blocks, 2 * m.samples⟩
  mi : t.mi = { s.mi with attached := sat32 s.mi.attached }
  old : ∀ old, h.memo = some old → (∀ b ∈ old.blocks, b ∈ t.ss.free)
    ∧ (∀ sl f, (s.slot sl).file = some f → f.shot = m.shot → f.kind = .memo → (t.slot sl).file = none)
    ∧ (∀ x, s.tp.transfer = some x → x.shot = m.shot → x.kind = .memo → t.tp.phase = .idle ∧ t.tp.transfer = none
      ∧ t.tp.out = s.tp.out ++ [.abort x.id .replaced] ∧ t.tp.aborted = min (s.tp.aborted + 1) 4294967295)
  overflow : s.cw.overflow = true → t.cw.overflow = true
  quiet : (∀ sl ∈ s.memoTargets, sl = .b ∨ s.cw.overflow = false) → t.cw.overflow = s.cw.overflow → ∀ sl,
    (sl ∈ s.memoTargets → h.Again (.card .memo sl) → v.Queued m.shot .memo sl t)
    ∧ (sl ∉ s.memoTargets → h.memo = none → v.duty (.card .memo sl) = h.duty (.card .memo sl))
  toB : s.memoTargets = [.a] → s.cw.overflow = false → h.Again (.card .memo .a) → h.duty (.card .memo .b) = none →
    (t.cw.overflow = true → v.OnB .memo ∧ ⟨m.shot, .memo⟩ ∈ t.cw.b.queue)
    ∧ (t.cw.overflow = false → v.OnA .memo ∧ ⟨m.shot, .memo⟩ ∈ t.cw.a.queue)
  sends : h.SendsAny → h.Again (.send .memo) → v.SendsAnew
  stands : ¬ h.SendsAny → h.memo = none → v.duty (.send .memo) = h.duty (.send .memo)

/-- A duty that is to be put again is so behind the old memo's end too, or its job is queued again. -/
theorem Replaces.again (r : Replaces n s t y z) (h : y.Again (.card .memo sl)) :
    z.Again (.card .memo sl) ∨ z.Queued n .memo sl t := by
  rcases r.card sl with e | ⟨e, q⟩
  · exact .inl (h.congr e)
  · cases hz : z.dutyState (.card .memo sl) with
    | none => exact .inl (.inl (dutyState_eq_none.1 hz))
    | some d =>
      rw [hz] at e
      obtain ⟨_, -, rfl⟩ := Option.map_eq_some_iff.1 e.symm
      exact .inr ⟨hz, q⟩

theorem Replaces.absent (r : Replaces n s t y z) (h : y.duty (.card .memo sl) = none) : z.duty (.card .memo sl) = none := by
  rcases r.card sl with e | ⟨e, -⟩
  · exact e.trans h
  · rw [dutyState_eq_none.2 h] at e
    exact dutyState_eq_none.1 e

theorem Replaces.againSend (r : Replaces n s t y z) (h : y.Again (.send .memo)) : z.Again (.send .memo) ∨ z.SendsAnew := by
  rcases r.send with e | e
  · exact .inl (h.congr e)
  · cases hz : z.duty (.send .memo) with
    | none => exact .inl (.inl hz)
    | some d => exact .inr ⟨d, hz, e d hz⟩

theorem memoTargets_congr (hc : t.cfg = s.cfg) (ho : t.cw.overflow = s.cw.overflow) : t.memoTargets = s.memoTargets := by
  unfold State.memoTargets
  rw [hc, ho]

theorem attachMemo_attaches (hh : s.held m.shot = some h) (hp : s.mi.phase = .recording) (hr : s.recordsInto m.shot = true) :
    ∃ v, Attached m h s (attachMemo m s) v := by
  obtain ⟨hsame, z1, t1, e1, r, hold⟩ := replaceMemo_replaces hh hp hr
  have hh2 : (modHeld m.shot (fun t => { t with memo := some ⟨m.blocks, 2 * m.samples⟩ }) t1).held m.shot
      = some { z1 with memo := some ⟨m.blocks, 2 * m.samples⟩ } := by
    rw [held_modHeld_map (f := fun t : Shot => { t with memo := some ⟨m.blocks, 2 * m.samples⟩ }) (fun _ h => h) t1, r.held,
      Option.map_some]
  obtain ⟨v, j⟩ := memoDuties_judges hh2
  have hv : Serves true t1 (memoDuties m.shot (modHeld m.shot (fun t => { t with memo := some ⟨m.blocks, 2 * m.samples⟩ }) t1)) :=
    memoDuties_serves (Serves.refl.entry (fun _ => {}))
  have e : attachMemo m s = { memoDuties m.shot (modHeld m.shot (fun t => { t with memo := some ⟨m.blocks, 2 * m.samples⟩ }) t1) with
      mi := { (memoDuties m.shot (modHeld m.shot (fun t => { t with memo := some ⟨m.blocks, 2 * m.samples⟩ }) t1)).mi with
        attached := sat32 (memoDuties m.shot (modHeld m.shot (fun t => { t with memo := some ⟨m.blocks, 2 * m.samples⟩ }) t1)).mi.attached } } := by
    unfold attachMemo
    rw [e1]
  have htar : (modHeld m.shot (fun t => { t with memo := some ⟨m.blocks, 2 * m.samples⟩ }) t1).memoTargets = s.memoTargets :=
    memoTargets_congr r.cfg r.overflow
  have hqueued : ∀ sl, h.Again (.card .memo sl) → ({ z1 with memo := some ⟨m.blocks, 2 * m.samples⟩ } : Shot).Again (.card .memo sl)
      ∨ ({ z1 with memo := some ⟨m.blocks, 2 * m.samples⟩ } : Shot).Queued m.shot .memo sl
        (modHeld m.shot (fun t => { t with memo := some ⟨m.blocks, 2 * m.samples⟩ }) t1) := fun sl ha => r.again ha
  have hmi1 : (modHeld m.shot (fun t => { t with memo := some ⟨m.blocks, 2 * m.samples⟩ }) t1).mi = s.mi :=
    r.memo.mi (by rw [hp]; decide)
  have ho1 : (modHeld m.shot (fun t => { t with memo := some ⟨m.blocks, 2 * m.samples⟩ }) t1).cw.overflow = s.cw.overflow := r.overflow
  have hcw1 : (modHeld m.shot (fun t => { t with memo := some ⟨m.blocks, 2 * m.samples⟩ }) t1).cw = t1.cw := rfl
  have htp1 : (modHeld m.shot (fun t => { t with memo := some ⟨m.blocks, 2 * m.samples⟩ }) t1).tp = t1.tp := rfl
  have hany : ({ z1 with memo := some ⟨m.blocks, 2 * m.samples⟩ } : Shot).SendsAny ↔ h.SendsAny :=
    sendsAny_congr fun i hi hm => r.other i (ne_onCard hi) (ne_onCard hi) hm
  generalize modHeld m.shot (fun t => { t with memo := some ⟨m.blocks, 2 * m.samples⟩ }) t1 = t2 at *
  have hmi : (memoDuties m.shot t2).mi = s.mi := (j.mi (by rw [hmi1, hp]; decide)).trans hmi1
  generalize memoDuties m.shot t2 = t3 at *
  rw [e]
  refine ⟨v, j.held, j.memo, by rw [hmi], fun old ho => ?_, fun ho => j.overflow (ho1.trans ho), fun hl ht sl => ?_, fun ha h0 hag hb => ?_,
    fun hs hag => ?_, fun hs hm => ?_⟩
  · obtain ⟨hb, hf, htr⟩ := hold old ho
    obtain ⟨l, hl⟩ := hv.free
    refine ⟨fun b hbm => ?_, fun sl f hf' hn hk => ?_, fun x hx hn hk => ?_⟩
    · show b ∈ t3.ss.free
      rw [hl]
      exact List.mem_append_left _ (hb b hbm)
    · exact j.idle sl (by rw [slot_congr_cw hcw1]; exact hf sl f hf' hn hk)
    · obtain ⟨p1, p2, p3, p4⟩ := htr x hx hn hk
      obtain ⟨q1, q2, q3, q4⟩ := j.port
      rw [htp1] at q1 q2 q3 q4
      exact ⟨q2.trans p1, q1.trans p2, q3.trans p3, q4.trans p4⟩
  · obtain ⟨q1, q2⟩ := j.quiet (by rw [htar, ho1]; exact hl) (ht.trans ho1.symm) sl
    rw [htar] at q1 q2
    refine ⟨fun hm hag => q1 hm (hqueued sl hag), fun hm hmem => ?_⟩
    refine (q2 hm).trans ?_
    have hst := hsame hmem
    rw [e1] at hst
    subst hst
    obtain rfl := Option.some.inj (r.held.symm.trans hh)
    rfl
  · exact j.toB (htar.trans ha) (ho1.trans h0) (hqueued .a hag) (r.absent hb)
  · exact j.sends (hany.2 hs) (r.againSend hag)
  · refine (j.stands fun c => hs (hany.1 c)).trans ?_
    have hst := hsame hm
    rw [e1] at hst
    subst hst
    obtain rfl := Option.some.inj (r.held.symm.trans hh)
    rfl

end Sys2Proof.Machine
end

section
/-! Memo samples and activity frames: the statement (R190 to R194). -/

namespace Sys2Proof.Machine

set_option Elab.async false

open Sys2Proof

variable {s t u v : State} {n : Nat} {k : FileKind} {sl : Slot} {x y z h w : Shot} {m : MemoRec} {b : Bool} {r : MemoReason}

/-! ## A memo's end -/

/-- A recording over: its end counted and told, the memo input IDLE (R193, R194). -/
def State.memoOver (s : State) (r : MemoReason) (m : MemoRec) (replaced : Bool) : State :=
  memoIdle (raiseMemoEnd m.shot r (2 * m.samples) replaced m.start
    (if r = .truncated then { s with mi := { s.mi with truncated := sat32 s.mi.truncated } } else s))

theorem endMemo_eq (r : MemoReason) (m : MemoRec) (s : State) : endMemo r m s
    = ((if 0 < m.samples then attachMemo m s else giveBlocks m.blocks s).memoOver r m
      (decide (0 < m.samples) && s.hasMemo m.shot)).settled m.shot := rfl

theorem memoOver_rest (r : MemoReason) (m : MemoRec) (b : Bool) (s : State) : (s.memoOver r m b).ss = s.ss
    ∧ (s.memoOver r m b).cw = s.cw ∧ (s.memoOver r m b).tp = s.tp := by
  unfold State.memoOver memoIdle raiseMemoEnd
  split <;> exact ⟨rfl, rfl, rfl⟩

theorem memoOver_mi (r : MemoReason) (m : MemoRec) (b : Bool) (s : State) : (s.memoOver r m b).mi = { s.mi with
    phase := .idle, current := none, samples := []
    truncated := if r = .truncated then sat32 s.mi.truncated else s.mi.truncated } := by
  unfold State.memoOver memoIdle raiseMemoEnd
  split <;> rfl

theorem memoOver_tells (r : MemoReason) (m : MemoRec) (b : Bool) (s : State) : (s.memoOver r m b).Tells .memoEnd (.num m.shot)
    [.word r.name, .u32 (2 * m.samples), flag b, .u64 m.start, .u64 s.time] := by
  have e : (if r = .truncated then { s with mi := { s.mi with truncated := sat32 s.mi.truncated } } else s).time = s.time := by
    split <;> rfl
  have h := raise_tells .memoEnd (.num m.shot) [.word r.name, .u32 (2 * m.samples), flag b, .u64 m.start, .u64 s.time]
    (if r = .truncated then { s with mi := { s.mi with truncated := sat32 s.mi.truncated } } else s)
  unfold State.memoOver raiseMemoEnd
  rw [e]
  exact h.of_cp rfl

theorem settled_memo (hi : s.mi.phase = .idle) (n : Nat) : (s.settled n).mi = s.mi
    ∧ ∀ sub v, s.Tells .memoEnd sub v → (s.settled n).Tells .memoEnd sub v := by
  have hm : MemoStands s (s.settled n) := endMemo_tail n s
  have hne : s.mi.phase ≠ .armed := by rw [hi]; decide
  exact ⟨hm.mi hne, hm.told hne⟩

theorem attachMemo_unheld (hh : s.held m.shot = none) : attachMemo m s = { s with mi := { s.mi with attached := sat32 s.mi.attached } } := by
  have e1 : replaceMemo m.shot s = s := by
    unfold replaceMemo
    rw [hh]
    rfl
  have e2 : modHeld m.shot (fun t => { t with memo := some ⟨m.blocks, 2 * m.samples⟩ }) s = s := by
    unfold modHeld modEntry
    have : updateFirst (isHeld m.shot) (fun t => { t with memo := some ⟨m.blocks, 2 * m.samples⟩ }) s.ss.table = s.ss.table := updateFirst_none hh
    rw [this]
  have e3 : ∀ l : List Slot, l.foldl (fun t sl => putDuty DutyState.isEnded m.shot (.card .memo sl) false t) s = s := by
    intro l
    induction l with
    | nil => rfl
    | cons sl l ih =>
      have : putDuty DutyState.isEnded m.shot (.card .memo sl) false s = s := by
        unfold putDuty
        rw [hh]
        rfl
      rw [List.foldl_cons, this, ih]
  unfold attachMemo
  dsimp only
  rw [e1, e2]
  have e4 : memoDuties m.shot s = s := by
    unfold memoDuties
    dsimp only
    rw [e3, hh]
  rw [e4]

theorem attachMemo_mi (hp : s.mi.phase = .recording) (hr : s.recordsInto m.shot = true) :
    (attachMemo m s).mi = { s.mi with attached := sat32 s.mi.attached } := by
  cases hh : s.held m.shot with
  | none => rw [attachMemo_unheld hh]
  | some h =>
    obtain ⟨v, ha⟩ := attachMemo_attaches hh hp hr
    exact ha.mi

/-- The memo input behind a recording's end (R193, R194). -/
theorem endMemo_mi (hp : s.mi.phase = .recording) (hr : s.recordsInto m.shot = true) (r : MemoReason) :
    (endMemo r m s).mi = { s.mi with
      phase := .idle, current := none, samples := []
      attached := if 0 < m.samples then sat32 s.mi.attached else s.mi.attached
      truncated := if r = .truncated then sat32 s.mi.truncated else s.mi.truncated } := by
  rw [endMemo_eq, (settled_memo (by rw [memoOver_mi]) _).1, memoOver_mi]
  split
  · rw [attachMemo_mi hp hr]
  · rw [giveBlocks_eq]

theorem endMemo_tells (r : MemoReason) (m : MemoRec) (s : State) : (endMemo r m s).Tells .memoEnd (.num m.shot)
    [.word r.name, .u32 (2 * m.samples), flag (decide (0 < m.samples) && s.hasMemo m.shot), .u64 m.start, .u64 s.time] := by
  have ht : (if 0 < m.samples then attachMemo m s else giveBlocks m.blocks s).time = s.time := by
    split
    · rw [(attachMemo_serves (m := m) (Serves.refl (a := s))).eq]
    · rw [giveBlocks_eq]
  rw [endMemo_eq]
  refine (settled_memo (by rw [memoOver_mi]) _).2 _ _ ?_
  have h := memoOver_tells r m (decide (0 < m.samples) && s.hasMemo m.shot) (if 0 < m.samples then attachMemo m s else giveBlocks m.blocks s)
  rw [ht] at h
  exact h

/-! ## The statement's clauses of a recording's end -/

/-- What a memo's end leaves where the shot is still HELD (R194). -/
structure MemoEnded (m : MemoRec) (h : Shot) (s t : State) (u : Shot) : Prop where
  memo : u.memo = some ⟨m.blocks, 2 * m.samples⟩
  quiet : (∀ sl ∈ s.memoTargets, sl = .b ∨ s.cw.overflow = false) → t.cw.overflow = s.cw.overflow → ∀ sl,
    (sl ∈ s.memoTargets → h.Again (.card .memo sl) → u.Queued m.shot .memo sl t)
    ∧ (sl ∉ s.memoTargets → h.memo = none → u.duty (.card .memo sl) = h.duty (.card .memo sl))
  toB : s.memoTargets = [.a] → s.cw.overflow = false → t.cw.overflow = true → h.Again (.card .memo .a) →
    h.duty (.card .memo .b) = none → u.OnB .memo ∧ ⟨m.shot, .memo⟩ ∈ t.cw.b.queue
  sends : h.SendsAny → h.Again (.send .memo) → u.SendsAnew
  stands : ¬ h.SendsAny → h.memo = none → u.duty (.send .memo) = h.duty (.send .memo)

theorem endMemo_ends (hh : s.held m.shot = some h) (hp : s.mi.phase = .recording) (hr : s.recordsInto m.shot = true)
    (hn : (s.heldShots.map (·.number)).Nodup) (hm : 0 < m.samples) (r : MemoReason) :
    (∀ old, h.memo = some old → (∀ b ∈ old.blocks, b ∈ (endMemo r m s).ss.free)
      ∧ (∀ sl f, (s.slot sl).file = some f → f.shot = m.shot → f.kind = .memo → ((endMemo r m s).slot sl).file = none)
      ∧ (∀ x, s.tp.transfer = some x → x.shot = m.shot → x.kind = .memo → (endMemo r m s).tp.phase = .idle
        ∧ (endMemo r m s).tp.transfer = none ∧ (endMemo r m s).tp.out = s.tp.out ++ [.abort x.id .replaced]
        ∧ (endMemo r m s).tp.aborted = min (s.tp.aborted + 1) 4294967295))
    ∧ ∀ u, (endMemo r m s).held m.shot = some u → MemoEnded m h s (endMemo r m s) u := by
  obtain ⟨v, ha⟩ := attachMemo_attaches hh hp hr
  have hs1 : Serves true s (attachMemo m s) := attachMemo_serves .refl
  have hnod : ((attachMemo m s).heldShots.map (·.number)).Nodup := hs1.nodup hn
  rw [endMemo_eq, if_pos hm]
  generalize attachMemo m s = s1 at *
  obtain ⟨hss, hcw, htp⟩ := memoOver_rest r m (decide (0 < m.samples) && s.hasMemo m.shot) s1
  have hi : (s1.memoOver r m (decide (0 < m.samples) && s.hasMemo m.shot)).mi.phase = .idle := by rw [memoOver_mi]
  generalize s1.memoOver r m (decide (0 < m.samples) && s.hasMemo m.shot) = s2 at *
  have hheld : s2.held m.shot = some v := (held_congr (by rw [hss])).trans ha.held
  have hn2 : (s2.heldShots.map (·.number)).Nodup := by
    unfold State.heldShots at *
    rw [hss]
    exact hnod
  have hserv := settled_serves m.shot s2
  have hslot := fun x => slot_congr_cw hcw x
  refine ⟨fun old ho => ?_, fun u hu => ?_⟩
  · obtain ⟨hb, hf, htr⟩ := ha.old old ho
    obtain ⟨l, hl⟩ := hserv.free
    refine ⟨fun b hbm => ?_, fun sl f hf' hfn hfk => ?_, fun x hx hxn hxk => ?_⟩
    · rw [hl, hss]
      exact List.mem_append_left _ (hb b hbm)
    · exact settled_idle m.shot s2 sl (by rw [hslot]; exact hf sl f hf' hfn hfk)
    · rw [hserv.port_engine.1, htp]
      exact htr x hx hxn hxk
  · obtain ⟨x, hx, hsv⟩ := hserv.held_of hn2 hu
    obtain rfl := Option.some.inj (hx.symm.trans hheld)
    have hother : ∀ j : DutyKey, j.onCard = false → u.duty j = x.duty j := fun j hj => find_carded hj (hsv.duties rfl)
    have hov : s2.cw.overflow = true → (s2.settled m.shot).cw.overflow = true := settled_overflow m.shot
    refine ⟨?_, fun hl ht sl => ?_, fun htar h0 ht hag hb => ?_, fun hs hag => ?_, fun hs hmem => ?_⟩
    · rw [hsv.narrow rfl]
      exact ha.memo
    · have ho1 : s1.cw.overflow = s.cw.overflow := by
        cases e : s.cw.overflow with
        | true => exact ha.overflow e
        | false =>
          cases e1 : s1.cw.overflow with
          | false => rfl
          | true =>
            rw [hov (by rw [hcw]; exact e1), e] at ht
            cases ht
      obtain ⟨hd, hq⟩ := settled_quiet hn2 hi hheld (ht.trans (by rw [hcw, ho1])) hu
      obtain ⟨q1, q2⟩ := ha.quiet hl ho1 sl
      refine ⟨fun hm hag => (q1 hm hag).congr (hd _) fun j hj => ?_, fun hm hmem => (hd _).trans (q2 hm hmem)⟩
      rw [hq, hslot]
      exact hj
    · obtain ⟨q1, q2⟩ := ha.toB htar h0 hag hb
      cases e1 : s1.cw.overflow with
      | true =>
        obtain ⟨⟨b1, b2⟩, hq1⟩ := q1 e1
        have ho2 : s2.cw.overflow = true := by rw [hcw]; exact e1
        obtain ⟨hd, hq⟩ := settled_quiet hn2 hi hheld (ht.trans ho2.symm) hu
        have hds := fun j => congrArg (Option.map Duty.state) (hd j)
        refine ⟨⟨(hds _).trans b1, (hds _).trans b2⟩, ?_⟩
        have e := hq .b
        rw [hslot] at e
        exact (congrArg (⟨m.shot, .memo⟩ ∈ ·) e).mpr hq1
      | false =>
        obtain ⟨hA, hq1⟩ := q2 e1
        obtain ⟨⟨w, hw, hwb⟩, hq⟩ := settled_moves ⟨x, hheld, hA⟩ (by rw [hcw]; exact hq1) (by rw [hcw]; exact e1) ht
        obtain rfl := Option.some.inj (hw.symm.trans hu)
        exact ⟨hwb, hq⟩
    · obtain ⟨d, hd, hst⟩ := ha.sends hs hag
      exact ⟨d, (hother _ rfl).trans hd, hst⟩
    · exact (hother _ rfl).trans (ha.stands hs hmem)

/-! ## Activity frames -/

theorem closeActivity_ends (hl : 320 ≤ s.mi.samples.length) : closeActivity s = endActivity s :=
  if_pos (show s.frameFull = true from decide_eq_true hl)

/-- The state with a full frame judged and emptied (R191). -/
def State.judged (s : State) : State :=
  { s with mi := { s.mi with lastFrame := some (judgeFrame s.cfg.memo s.mi.samples), samples := [] } }

/-- The unvoiced frames in a row behind this one (R193). -/
def State.quiet (s : State) (m : MemoRec) : Nat := if (judgeFrame s.cfg.memo s.mi.samples).voiced then 0 else m.silence + 1

theorem endActivity_idle (h : s.mi.phase = .idle ∨ s.mi.current = none) : endActivity s = s.judged := by
  unfold endActivity
  rcases h with h | h
  · rw [h]
    rfl
  · rw [h]
    cases s.mi.phase <;> rfl

theorem endActivity_armed (hp : s.mi.phase = .armed) (hc : s.mi.current = some m) : endActivity s
    = if (judgeFrame s.cfg.memo s.mi.samples).voiced then voiceStart m s.mi.samples s.judged else s.judged := by
  unfold endActivity
  rw [hp, hc]
  rfl

/-- The state with a recording's count of unvoiced frames. -/
def State.counted (s : State) (m : MemoRec) : State := { s.judged with mi := { s.judged.mi with
  current := some { m with silence := s.quiet m } } }

theorem endActivity_recording (hp : s.mi.phase = .recording) (hc : s.mi.current = some m) : endActivity s
    = if s.cfg.memo.silence ≤ s.quiet m then endMemo .silence { m with silence := s.quiet m } (s.counted m) else s.counted m := by
  unfold endActivity
  rw [hp, hc]
  rfl

/-- A voiced frame starts an ARMED memo's recording with its samples in its first block (R192). -/
theorem voiceStart_granted (l : List Int) (hl : 1 + s.cfg.store.floor ≤ s.ss.free.length) : voiceStart m l s = { s with
    ss := { s.ss with free := s.ss.free.drop 1 }, cp := s.tellsLow 1
    mem := writeExtent (m.blocks ++ s.ss.free.take 1) (l.flatMap (leInt 2)) 0 s.mem
    mi := { s.mi with phase := .recording
                      current := some { m with samples := l.length, blocks := m.blocks ++ s.ss.free.take 1 } } } := by
  unfold voiceStart
  dsimp only
  rw [askBlock_grants (by exact hl)]
  dsimp only
  rw [takeBlocks_eq]
  rfl

theorem voiceStart_refused (l : List Int) (hl : s.ss.free.length < 1 + s.cfg.store.floor) :
    voiceStart m l s = endMemo .truncated m { s with mi := { s.mi with phase := .recording, current := some m } } := by
  unfold voiceStart
  dsimp only
  rw [askBlock_refuses (by exact hl)]

theorem recordsInto_self (hp : s.mi.phase = .recording) (hc : s.mi.current = some m) : s.recordsInto m.shot = true := by
  unfold State.recordsInto
  rw [hp, hc]
  simp

/-- Behind a full frame the frame is judged, and the next one empty (R191). -/
theorem endActivity_judges (s : State) : (endActivity s).mi.lastFrame = some (judgeFrame s.cfg.memo s.mi.samples)
    ∧ (endActivity s).mi.samples = [] := by
  cases hc : s.mi.current with
  | none =>
    rw [endActivity_idle (.inr hc)]
    exact ⟨rfl, rfl⟩
  | some m =>
    cases hp : s.mi.phase with
    | idle =>
      rw [endActivity_idle (.inl hp)]
      exact ⟨rfl, rfl⟩
    | armed =>
      rw [endActivity_armed hp hc]
      split
      · by_cases hl : 1 + s.cfg.store.floor ≤ s.ss.free.length
        · rw [voiceStart_granted (s := s.judged) _ hl]
          exact ⟨rfl, rfl⟩
        · rw [voiceStart_refused (s := s.judged) _ (by exact Nat.lt_of_not_le hl), endMemo_mi rfl (recordsInto_self rfl rfl)]
          exact ⟨rfl, rfl⟩
      · exact ⟨rfl, rfl⟩
    | recording =>
      rw [endActivity_recording hp hc]
      split
      · rw [endMemo_mi (s := s.counted m) hp (recordsInto_self (m := { m with silence := s.quiet m }) hp rfl)]
        exact ⟨rfl, rfl⟩
      · exact ⟨rfl, rfl⟩

end Sys2Proof.Machine
end

section
/-! Memo samples and activity frames: the statement (R8, R22, R153, R190 to R194, R196). -/

namespace Sys2Proof.Machine

set_option Elab.async false

open Sys2Proof

variable {s t u v : State} {n : Nat} {sl : Slot} {h : Shot} {m : MemoRec} {b : Bool} {r : MemoReason}

/-- The card slots that the applied plan gives a MEMO duty for (R194). -/
theorem mem_memoTargets (s : State) (sl : Slot) : sl ∈ s.memoTargets ↔ (match s.cfg.plans.card with
    | .singleA | .split => sl = .a
    | .mirror => True
    | .overflow => sl = if s.cw.overflow then .b else .a
    | .off => False) := by
  unfold State.memoTargets
  cases s.cfg.plans.card with
  | overflow =>
    dsimp only
    split <;> exact List.mem_singleton
  | mirror => cases sl <;> simp
  | singleA | split | off => simp

theorem memoTargets_fixed (h : s.cw.overflow = false ∨ s.cfg.plans.card = .overflow) :
    ∀ sl ∈ s.memoTargets, sl = .b ∨ s.cw.overflow = false := by
  intro sl hsl
  cases ho : s.cw.overflow with
  | false => exact .inr rfl
  | true =>
    have hc : s.cfg.plans.card = .overflow := h.resolve_left (by rw [ho]; simp)
    unfold State.memoTargets at hsl
    rw [hc, ho] at hsl
    exact .inl (List.mem_singleton.1 hsl)

theorem memoTargets_overflow (hc : s.cfg.plans.card = .overflow) (ho : s.cw.overflow = false) : s.memoTargets = [.a] := by
  unfold State.memoTargets
  rw [hc, ho]
  rfl

/-- The shot of a recording that has ended, if it is HELD still, has its memo (R194). -/
theorem endMemo_memo (hp : s.mi.phase = .recording) (hr : s.recordsInto m.shot = true) (hm : 0 < m.samples) (r : MemoReason)
    {u : Shot} (hu : (endMemo r m s).held m.shot = some u) (hn : (s.heldShots.map (·.number)).Nodup) :
    u.memo = some ⟨m.blocks, 2 * m.samples⟩ := by
  obtain ⟨x, hx, -⟩ := (endMemo_serves (r := r) (m := m) (Serves.refl (a := s))).held_of hn hu
  exact ((endMemo_ends hx hp hr hn hm r).2 u hu).memo

/-- A recording's end as the statement has it. -/
theorem endMemo_statement (reason : MemoReason) (m : MemoRec) (h : Shot) (hp : s.mi.phase = .recording)
    (hc : s.mi.current = some m) (hm : 0 < m.samples) (hh : s.held m.shot = some h) :
    let t := endMemo reason m s
    t.mi.phase = .idle ∧ t.mi.current = none ∧ t.mi.attached = min (s.mi.attached + 1) 4294967295
    ∧ t.Tells .memoEnd (.num m.shot) [.word reason.name, .u32 (2 * m.samples), flag h.memo.isSome, .u64 m.start, .u64 s.time] := by
  intro t
  have hmi := endMemo_mi hp (recordsInto_self hp hc) reason
  have ht := endMemo_tells reason m s
  have hmemo : (decide (0 < m.samples) && s.hasMemo m.shot) = h.memo.isSome := by
    unfold State.hasMemo
    rw [hh, decide_eq_true hm]
    rfl
  rw [hmemo] at ht
  refine ⟨?_, ?_, ?_, ht⟩
  · show (endMemo reason m s).mi.phase = _
    rw [hmi]
  · show (endMemo reason m s).mi.current = _
    rw [hmi]
  · show (endMemo reason m s).mi.attached = _
    rw [hmi]
    exact if_pos hm

/-- Settles O57. -/
theorem memoEvents : Obligations.MemoEvents := by
  unfold Obligations.MemoEvents
  refine ⟨fun d n S offset gain c l => ⟨?_, rfl, ?_, ?_⟩, fun bits s => ?_⟩
  · rw [List.range_eq_range']
    exact run_eq n 192 0 d
  · unfold sampleOf
    rw [clampSample_eq, clampSample_eq, clampSample_eq]
  · unfold judgeFrame
    rw [← crossingsOf_eq]
    simp only [Bool.decide_or, Bool.decide_and]
    rfl
  · refine ⟨fun hi hl => ?_, fun hi hl hd => ?_, fun hp hl hd => ?_, fun m hp hc hl hd hr => ⟨fun hs => ?_, fun hs => ?_⟩,
      fun m hp hc hl hd hr => ⟨fun hf hs => ?_, fun hf => ?_⟩, ?_, fun hl => ?_, fun hl => ?_, fun reason m h hp hc hm hh hn => ?_⟩
    · rw [exec_memoSample bits hl, pdmWord_idle bits hi]
    · rw [exec_memoSample bits hl, pdmWord_discards bits hi hd]
      rfl
    · rw [exec_memoSample bits hl, pdmWord_takes bits (by rw [hp]; decide) hd, takeSample_armed _ (by exact hp)]
      rfl
    · rw [exec_memoSample bits hl, pdmWord_takes bits (by rw [hp]; decide) hd, takeSample_recording (m := m) _ (by exact hp) (by exact hc),
        recordSample_room _ hr, if_neg (by omega)]
      rfl
    · have e : exec (.memoSample bits) s = .next (endMemo .limit { m with samples := m.samples + 1 }
          (State.written { s with mi := { s.mi with decimator := (s.decimated bits).2 } } (s.sampled bits) m)) := by
        rw [exec_memoSample bits hl, pdmWord_takes bits (by rw [hp]; decide) hd,
          takeSample_recording (m := m) _ (by exact hp) (by exact hc), recordSample_room _ hr, if_pos hs]
      exact ⟨_, e, (endMemo_atRest _ _ _).1, (endMemo_atRest _ _ _).2, (endMemo_serves .refl).mem, rfl⟩
    · refine ⟨_, ?_, rfl⟩
      rw [exec_memoSample bits hl, pdmWord_takes bits (by rw [hp]; decide) hd,
        takeSample_recording (m := m) _ (by exact hp) (by exact hc), recordSample_grant _ hr (by exact hf), if_neg (by omega), takeBlocks_eq]
      rfl
    · have e : exec (.memoSample bits) s = .next (endMemo .truncated m { s with mi := { s.mi with decimator := (s.decimated bits).2 } }) := by
        rw [exec_memoSample bits hl, pdmWord_takes bits (by rw [hp]; decide) hd,
          takeSample_recording (m := m) _ (by exact hp) (by exact hc), recordSample_refused _ hr (by exact hf)]
      have hmi := endMemo_mi (s := { s with mi := { s.mi with decimator := (s.decimated bits).2 } }) (m := m) hp (recordsInto_self hp hc) .truncated
      have ht := endMemo_tells .truncated m { s with mi := { s.mi with decimator := (s.decimated bits).2 } }
      refine ⟨_, e, rfl, (endMemo_atRest _ _ _).1, (endMemo_atRest _ _ _).2, ?_, ht.imp (fun ⟨x, hx, hk, hv⟩ => ⟨x, hx, hk, ?_⟩) id⟩
      · rw [hmi]
        rfl
      · rw [hv]
        rfl
    · exact clampSample_bounds _
    · show Host.Outcome.next (closeActivity s) = _
      rw [closeActivity_stands hl]
    · have e : exec .activityFrameEnd s = .next (endActivity s) := by
        show Host.Outcome.next (closeActivity s) = _
        rw [closeActivity_ends hl]
      obtain ⟨hf, hs⟩ := endActivity_judges s
      refine ⟨endActivity s, e, hf, hs, fun hp hv => ?_, fun m hp hc hv hfl => ?_, fun m hp hc => ⟨fun hq => ?_, fun hq => ?_⟩⟩
      · rw [hf]
        cases hc : s.mi.current with
        | none => exact endActivity_idle (.inr hc)
        | some m =>
          rw [endActivity_armed hp hc, hv]
          rfl
      · rw [endActivity_armed hp hc, if_pos hv, voiceStart_granted (s := s.judged) _ (by exact hfl)]
        exact ⟨rfl, rfl, rfl, rfl, rfl⟩
      · rw [endActivity_recording hp hc, if_neg (show ¬ s.cfg.memo.silence ≤ s.quiet m from Nat.not_le.2 hq)]
        exact ⟨hp, rfl⟩
      · rw [hf]
        rw [endActivity_recording hp hc, if_pos (show s.cfg.memo.silence ≤ s.quiet m from hq)]
        refine ⟨(endMemo_atRest _ _ _).1, (endMemo_atRest _ _ _).2, fun hm u hu hn => ?_, rfl⟩
        exact endMemo_memo (s := s.counted m) (m := { m with silence := s.quiet m }) hp
          (recordsInto_self (m := { m with silence := s.quiet m }) hp rfl) hm .silence hu hn
    · intro t job again planned sends
      obtain ⟨h1, h2, h3, h4⟩ := endMemo_statement reason m h hp hc hm hh
      obtain ⟨hold, hends⟩ := endMemo_ends hh hp (recordsInto_self hp hc) hn hm reason
      refine ⟨h1, h2, h3, h4, hold, fun u hu => ?_⟩
      have he := hends u hu
      refine ⟨he.memo, fun ht hpl sl => ⟨fun hps hag => ?_, fun hps hmem => ?_⟩, fun h0 ht hpc hag hb => ?_, he.sends, fun hs => he.stands hs⟩
      · exact ((he.quiet (memoTargets_fixed hpl) ht sl).1 ((mem_memoTargets s sl).2 hps) hag)
      · exact (he.quiet (memoTargets_fixed hpl) ht sl).2 (fun c => hps ((mem_memoTargets s sl).1 c)) hmem
      · obtain ⟨⟨b1, b2⟩, b3⟩ := he.toB (memoTargets_overflow hpc h0) h0 ht hag hb
        exact ⟨dutyState_eq_none.1 b1, b2, b3⟩

end Sys2Proof.Machine
end

section
/-! The link-up line, the suspension of a transfer, and its failure (R163, R173 to R175). -/

namespace Sys2Proof.Machine

set_option Elab.async false

open Sys2Proof

variable {s t u v : State} {n : Nat} {k : FileKind} {h y z : Shot} {x : Transfer} {d : Duty}

/-! ## What the tests leave of a shot and of the notices -/

theorem shotTests_told {kd : NoticeKind} (hk : kd ≠ .memoEnd) {sub : Subject} {w : List Wire} (hs : s.Tells kd sub w) (n : Nat) :
    (shotTests n s).Tells kd sub w := by
  have h1 : (proofTest n s).Tells kd sub w := by
    refine hs.of_cp ?_
    unfold proofTest dropProof
    split
    · split
      · split
        · rw [giveBlocks_eq]
          rfl
        · rfl
      · rfl
    · rfl
  have armed : ∀ u : State, u.Tells kd sub w → (abortArmed n u).Tells kd sub w := fun u hu => by
    unfold abortArmed
    split
    · split
      · exact State.Tells.raise (hu.of_cp rfl) fun c => absurd (Prod.mk.inj c).1.symm hk
      · exact hu
    · exact hu
  unfold shotTests freeTest
  split
  · split
    · refine armed _ (h1.of_cp ?_)
      rw [giveBlocks_eq]
      rfl
    · exact h1
  · exact h1

/-- A shot with KEEP stands through the tests, but for its proof. -/
theorem shotTests_kept (hy : s.held n = some y) (hk : y.keep = true) : (shotTests n s).held n = some y.tested :=
  (shotTests_stands hy (.inl (by unfold Shot.freeable; rw [hk]; simp))).1

/-- A shot with a PENDING duty does too. -/
theorem shotTests_pending (hy : s.held n = some y) {j : DutyKey} (hp : y.dutyState j = some .pending) :
    (shotTests n s).held n = some y.tested := (shotTests_stands hy (.inl (not_freeable_of_pending (pending_mem hp)))).1

/-! ## A send duty failed -/

theorem failDuty_tp (n : Nat) (j : DutyKey) (s : State) : (failDuty n j s).tp = s.tp := by
  unfold failDuty
  split
  · rfl
  · dsimp only
    rw [shotTests_tp]
    split <;> rfl

theorem failDuty_told {kd : NoticeKind} (hk : kd ≠ .memoEnd) (hk' : kd ≠ .shotKept) {sub : Subject} {w : List Wire}
    (hs : s.Tells kd sub w) (n : Nat) (j : DutyKey) : (failDuty n j s).Tells kd sub w := by
  unfold failDuty
  split
  · exact hs
  · dsimp only
    refine shotTests_told hk ?_ n
    split
    · exact State.Tells.raise (hs.of_cp rfl) fun c => absurd (Prod.mk.inj c).1.symm hk'
    · exact hs.of_cp rfl

/-- An URGENT shot whose send duty fails is kept, and told so (R13). -/
theorem failDuty_keeps (hy : s.held n = some y) (hu : y.urgent = true) (hd : y.dutyState (.send k) ≠ none) :
    (∃ z, (failDuty n (.send k) s).held n = some z ∧ z.dutyState (.send k) = some .failed ∧ z.keep = true)
      ∧ (failDuty n (.send k) s).Tells .shotKept (.num n) [.word (DutyKey.send k).kindName, .word (DutyKey.send k).targetName] := by
  unfold failDuty
  rw [hy]
  dsimp only
  rw [if_pos (show y.keepsOnFail (.send k) = true from hu)]
  have hh : (modHeld n (fun t => { t with keep := true }) (setDuty n (.send k) (Duty.into .failed) s)).held n
      = some { y.setDuty (.send k) (Duty.into .failed) with keep := true } := by
    rw [held_modHeld_map (f := fun t : Shot => { t with keep := true }) (fun _ h => h), held_setDuty hy, Option.map_some]
  have ht := raise_tells .shotKept (.num n) [.word (DutyKey.send k).kindName, .word (DutyKey.send k).targetName]
    (modHeld n (fun t => { t with keep := true }) (setDuty n (.send k) (Duty.into .failed) s))
  have hr : (Machine.raise .shotKept (.num n) [.word (DutyKey.send k).kindName, .word (DutyKey.send k).targetName]
      (modHeld n (fun t => { t with keep := true }) (setDuty n (.send k) (Duty.into .failed) s))).held n
      = some { y.setDuty (.send k) (Duty.into .failed) with keep := true } := hh
  refine ⟨⟨_, shotTests_kept hr rfl, ?_, by rw [tested_record]⟩, shotTests_told (by decide) ht n⟩
  have e : ({ y.setDuty (.send k) (Duty.into .failed) with keep := true } : Shot).tested.dutyState (.send k)
      = (y.setDuty (.send k) (Duty.into .failed)).dutyState (.send k) := congrArg (Option.map Duty.state) (duty_tested _ _)
  rw [e, dutyState_setDuty (into_key .failed), if_pos rfl]
  obtain ⟨d, hd⟩ := Option.ne_none_iff_exists'.1 (fun c => hd (dutyState_eq_none.2 c))
  rw [hd, Option.map_some, into_state]

/-! ## A transfer's failure -/

/-- The state in which a failed transfer has ended and is told (R174). -/
def State.gaveUp (s : State) (x : Transfer) : State :=
  raise .transferFailed (.num x.shot) [.word x.kind.name, .u16 x.id, .u32 x.acked, .u32 x.total, .word s.tp.phase.name]
    { endTransfer x (sendFrame (.abort x.id .failed) s) with
      tp := { (endTransfer x (sendFrame (.abort x.id .failed) s)).tp with failed := sat32 s.tp.failed } }

theorem failTransfer_eq (x : Transfer) (s : State) :
    failTransfer x s = shotTests x.shot (failDuty x.shot (.send x.kind) (s.gaveUp x)) := rfl

theorem gaveUp_tp (x : Transfer) (s : State) : (s.gaveUp x).tp.phase = .idle ∧ (s.gaveUp x).tp.transfer = none
    ∧ (s.gaveUp x).tp.failed = min (s.tp.failed + 1) 4294967295 ∧ (s.gaveUp x).tp.out = s.tp.out ++ [.abort x.id .failed] :=
  ⟨rfl, rfl, rfl, rfl⟩

theorem gaveUp_held (hy : s.held x.shot = some y) : (s.gaveUp x).held x.shot = some (unpinnedBy .t y) := by
  have e : (s.gaveUp x).held x.shot = (modHeld x.shot (unpinnedBy .t) s).held x.shot := rfl
  rw [e, held_modHeld_map (f := unpinnedBy .t) (fun _ h => h), hy, Option.map_some]

/-- A transfer that fails (R174): the port IDLE, the ABORT sent, and an URGENT shot kept. -/
structure Fails (x : Transfer) (s t : State) : Prop where
  port : t.tp.phase = .idle ∧ t.tp.transfer = none ∧ t.tp.failed = min (s.tp.failed + 1) 4294967295
    ∧ t.tp.out = s.tp.out ++ [.abort x.id .failed]
  told : t.Tells .transferFailed (.num x.shot) [.word x.kind.name, .u16 x.id, .u32 x.acked, .u32 x.total, .word s.tp.phase.name]
  kept : ∀ h, s.held x.shot = some h → h.dutyState (.send x.kind) ≠ none → h.urgent = true →
    (∃ u, t.held x.shot = some u ∧ u.dutyState (.send x.kind) = some .failed ∧ u.keep = true)
    ∧ t.Tells .shotKept (.num x.shot) [.word (DutyKey.send x.kind).kindName, .word (DutyKey.send x.kind).targetName]

theorem failTransfer_fails (x : Transfer) (s : State) : Fails x s (failTransfer x s) := by
  rw [failTransfer_eq]
  refine ⟨?_, ?_, fun h hh hd hu => ?_⟩
  · rw [shotTests_tp, failDuty_tp]
    exact gaveUp_tp x s
  · exact shotTests_told (by decide) (failDuty_told (by decide) (by decide) (raise_tells _ _ _ _) _ _) _
  · obtain ⟨⟨z, hz, hst, hkeep⟩, ht⟩ := failDuty_keeps (k := x.kind) (gaveUp_held hh) hu hd
    refine ⟨⟨z.tested, shotTests_kept hz hkeep, (congrArg (Option.map Duty.state) (duty_tested z _)).trans hst, ?_⟩,
      shotTests_told (by decide) ht _⟩
    rw [tested_record]
    exact hkeep

/-! ## A transfer suspended -/

/-- A duty of a suspended transfer: PENDING, to resume from its acked offset where it was SENDING (R175). -/
def State.suspends (s : State) (x : Transfer) (d : Duty) : Duty :=
  { d.into .pending with resume := if s.tp.phase == .sending then x.acked else d.resume }

theorem suspendTransfer_port (x : Transfer) (s : State) :
    (suspendTransfer x s).tp = { s.tp with phase := .idle, transfer := none } := by
  unfold suspendTransfer
  dsimp only
  rw [shotTests_tp]
  rfl

theorem suspendTransfer_held (hd : s.sendDuty x.shot x.kind = some d) :
    (suspendTransfer x s).sendDuty x.shot x.kind = some (s.suspends x d)
      ∧ (suspendTransfer x s).cp.power = s.cp.power := by
  obtain ⟨y, hy, hyd⟩ := Option.bind_eq_some_iff.1 hd
  have hserv : Serves true s (suspendTransfer x s) := suspendTransfer_serves .refl
  have hh : (endTransfer x (setDuty x.shot (.send x.kind) (s.suspends x) s)).held x.shot
      = some (unpinnedBy .t (y.setDuty (.send x.kind) (s.suspends x))) := by
    have e : (endTransfer x (setDuty x.shot (.send x.kind) (s.suspends x) s)).held x.shot
        = (modHeld x.shot (unpinnedBy .t) (setDuty x.shot (.send x.kind) (s.suspends x) s)).held x.shot := rfl
    rw [e, held_modHeld_map (f := unpinnedBy .t) (fun _ h => h), held_setDuty hy, Option.map_some]
  have hdut : (unpinnedBy .t (y.setDuty (.send x.kind) (s.suspends x))).duty (.send x.kind) = some (s.suspends x d) := by
    have e := duty_setDuty (x := y) (k := .send x.kind) (g := s.suspends x) (into_key .pending) (.send x.kind)
    rw [if_pos rfl, hyd] at e
    exact e
  have hst : (unpinnedBy .t (y.setDuty (.send x.kind) (s.suspends x))).dutyState (.send x.kind) = some .pending := by
    unfold Shot.dutyState
    rw [hdut]
    exact congrArg some (into_state .pending d)
  refine ⟨?_, hserv.power⟩
  have e : suspendTransfer x s = shotTests x.shot (endTransfer x (setDuty x.shot (.send x.kind) (s.suspends x) s)) := rfl
  unfold State.sendDuty
  rw [e, shotTests_pending hh hst, Option.bind_some, duty_tested, hdut]

/-! ## An entry at the head of its class -/

theorem foldl_min_le_mem : ∀ (l : List Int) (o : Int), ∀ i ∈ l, l.foldl min o ≤ i
  | [], _, _, h => nomatch h
  | i :: l, o, j, hj => by
    rcases List.mem_cons.1 hj with rfl | hj
    · exact (foldl_min_le l _).trans (min_le_right o j)
    · exact foldl_min_le_mem l _ j hj

/-- An entry that joins at the head stands ahead of all of its class (R165). -/
theorem headOrder_le (p : Tether) (urgent : Bool) (e : Entry) (he : e ∈ p.queue) (hu : e.urgent = urgent) : headOrder urgent p ≤ e.order := by
  have hm : e.order ∈ (p.queue.filter (fun e => e.urgent == urgent)).map (·.order) :=
    List.mem_map_of_mem (List.mem_filter.2 ⟨he, by simp [hu]⟩)
  unfold headOrder
  cases hl : (p.queue.filter (fun e => e.urgent == urgent)).map (·.order) with
  | nil =>
    rw [hl] at hm
    cases hm
  | cons o l =>
    rw [hl] at hm
    dsimp only
    have hle : l.foldl min o ≤ e.order := by
      rcases List.mem_cons.1 hm with e1 | hm
      · rw [e1]
        exact foldl_min_le l o
      · exact foldl_min_le_mem l o _ hm
    omega

/-- A suspended transfer's entry is the first of its class (R175). -/
theorem joinTether_first (hj : s.MayJoin n k) (hl : s.tp.queue.length < 256) :
    ∃ e ∈ (joinTether true n k s).tp.queue, e.shot = n ∧ e.kind = k
      ∧ ∀ y ∈ (joinTether true n k s).tp.queue, y.urgent = e.urgent → e.order ≤ y.order := by
  rw [joinTether_at hj, if_neg (by omega)]
  refine ⟨_, mem_sortTether.2 (List.mem_append_right _ (List.mem_singleton.2 rfl)), rfl, rfl, fun y hy hu => ?_⟩
  rcases List.mem_append.1 (mem_sortTether.1 hy) with hy | hy
  · exact headOrder_le s.tp _ y hy hu
  · rw [List.mem_singleton.1 hy]

end Sys2Proof.Machine
end

section
/-! Deferred send duties queued as entries leave the queue (R164). -/

namespace Sys2Proof.Machine

set_option Elab.async false

open Sys2Proof

variable {s t u v : State} {n m : Nat} {k j : FileKind} {h y z : Shot} {x : Transfer} {d : Duty} {e : Entry} {g : Duty → Duty}

/-! ## Send duties changed -/

/-- A send duty behind a change of a send duty. -/
theorem sendDuty_setDuty (hg : ∀ d, (g d).key = d.key) (n m : Nat) (k j : FileKind) (s : State) :
    (setDuty n (.send k) g s).sendDuty m j = if m = n ∧ j = k then (s.sendDuty n k).map g else s.sendDuty m j := by
  unfold State.sendDuty
  by_cases hm : m = n
  · subst hm
    cases hy : s.held m with
    | none =>
      have e : (setDuty m (.send k) g s).held m = (s.held m).map (Shot.setDuty (.send k) g) :=
        held_modHeld_map (f := Shot.setDuty (.send k) g) (fun _ h => h) s
      rw [e, hy]
      split <;> rfl
    | some y =>
      rw [held_setDuty hy, Option.bind_some, Option.bind_some, duty_setDuty hg]
      by_cases hj : j = k
      · subst hj
        rw [if_pos rfl, if_pos ⟨rfl, rfl⟩]
      · rw [if_neg (by simpa using hj), if_neg (fun c => hj c.2)]
        rfl
  · have e : (setDuty n (.send k) g s).held m = s.held m := held_modHeld_other (f := Shot.setDuty (.send k) g) hm (fun y hy => by
      have e := (isHeld_iff.1 hy).2
      simp [isHeld, Shot.setDuty, e, Ne.symm hm]) s
    rw [e, if_neg (fun c => hm c.1)]

theorem dutyOf_send (n : Nat) (k : FileKind) (s : State) : s.dutyOf n (.send k) = (s.sendDuty n k).map (·.state) := by
  unfold State.dutyOf State.sendDuty
  cases s.held n with
  | none => rfl
  | some y => rfl

/-! ## Deferred duties queued -/

/-- A duty no longer deferred. -/
def undefer (d : Duty) : Duty := { d with deferred := false }

/-- The state with a duty no longer deferred. -/
def State.undefers (s : State) (p : Nat × FileKind) : State :=
  { setDuty p.1 (.send p.2) undefer s with tp := { s.tp with deferred := s.tp.deferred - 1 } }

theorem queueDeferred_eq (s : State) (p : Nat × FileKind) : queueDeferred s p = joinTether false p.1 p.2 (s.undefers p) := rfl

theorem sendDuty_undefers (s : State) (p : Nat × FileKind) (m : Nat) (j : FileKind) :
    (s.undefers p).sendDuty m j = if m = p.1 ∧ j = p.2 then (s.sendDuty p.1 p.2).map undefer else s.sendDuty m j :=
  sendDuty_setDuty (g := undefer) (fun _ => rfl) p.1 m p.2 j s

theorem undefers_queues (s : State) (p : Nat × FileKind) : Queues s (s.undefers p) := by
  refine ⟨rfl, bare_updateFirst (f := Shot.setDuty (.send p.2) undefer) (fun _ => rfl) _, fun m j => ?_⟩
  unfold State.sendMark
  rw [sendDuty_undefers]
  split
  · rename_i h
    rw [h.1, h.2, Option.map_map]
    rfl
  · rfl

theorem refill_queues (s : State) : Queues s (refill s) := by
  have hall : ∀ (l : List (Nat × FileKind)) (u : State), Queues u (l.foldl queueDeferred u) := by
    intro l
    induction l with
    | nil => exact .refl
    | cons p l ih => exact fun u => ((undefers_queues u p).trans (joinTether_queues p.1 p.2 _)).trans (ih _)
  exact hall _ s

theorem Queues.dutyOf (h : Queues s t) (n : Nat) (k : FileKind) : t.dutyOf n (.send k) = s.dutyOf n (.send k) := by
  rw [dutyOf_mark, dutyOf_mark, h.marks]

/-- What joins the queue is a PENDING duty's entry. -/
theorem joinTether_mem {b : Bool} (he : e ∈ (joinTether b n k s).tp.queue) :
    e ∈ s.tp.queue ∨ e.shot = n ∧ e.kind = k ∧ s.dutyOf n (.send k) = some .pending := by
  unfold joinTether at he
  split at he
  · exact .inl he
  · rename_i h
    have hp : s.dutyOf n (.send k) = some .pending := not_not.1 (not_or.1 h).2
    split at he
    · exact .inl he
    · split at he
      · exact .inl he
      · rcases List.mem_append.1 (mem_sortTether.1 he) with he | he
        · exact .inl he
        · rw [List.mem_singleton.1 he]
          exact .inr ⟨rfl, rfl, hp⟩

/-- A duty that is not PENDING gets no entry. -/
theorem refill_absent (hd : s.dutyOf n (.send k) ≠ some .pending) (ha : ∀ e ∈ s.tp.queue, e.shot = n → e.kind ≠ k) :
    ∀ e ∈ (refill s).tp.queue, e.shot = n → e.kind ≠ k := by
  have hall : ∀ (l : List (Nat × FileKind)) (u : State), u.dutyOf n (.send k) ≠ some .pending →
      (∀ e ∈ u.tp.queue, e.shot = n → e.kind ≠ k) → ∀ e ∈ (l.foldl queueDeferred u).tp.queue, e.shot = n → e.kind ≠ k := by
    intro l
    induction l with
    | nil => exact fun _ _ h => h
    | cons p l ih =>
      intro u hu hq
      have h1 := (undefers_queues u p).trans (joinTether_queues p.1 p.2 _)
      refine ih (queueDeferred u p) (by rw [queueDeferred_eq, h1.dutyOf]; exact hu) fun e he hn hk => ?_
      rcases joinTether_mem (s := u.undefers p) he with he | ⟨e1, e2, e3⟩
      · exact hq e he hn hk
      · rw [(undefers_queues u p).dutyOf, ← e1, ← e2, hn, hk] at e3
        exact hu e3
  exact hall _ s hd ha

/-! ## The order in which deferred duties join -/

/-- A PENDING send duty that meets a test. -/
def Shot.SendsWith (p : Duty → Bool) (g : Shot) (k : FileKind) : Prop := ∃ d, g.duty (.send k) = some d ∧ d.state = .pending ∧ p d = true

theorem mem_pendingSends {p : Duty → Bool} {g : Shot} {q : Nat × FileKind} :
    q ∈ g.pendingSends p ↔ g.number = q.1 ∧ g.SendsWith p q.2 := by
  unfold Shot.pendingSends Shot.SendsWith
  rw [List.mem_filterMap]
  constructor
  · rintro ⟨k, -, hk⟩
    cases hd : g.duty (.send k) with
    | none =>
      rw [hd] at hk
      cases hk
    | some d =>
      rw [hd] at hk
      dsimp only at hk
      split at hk
      · rename_i hc
        cases hk
        obtain ⟨h1, h2⟩ := Bool.and_eq_true_iff.1 hc
        exact ⟨rfl, d, hd, beq_iff_eq.1 h1, h2⟩
      · cases hk
  · rintro ⟨hn, d, hd, hs, hp⟩
    refine ⟨q.2, mem_sendKinds _, ?_⟩
    rw [hd]
    dsimp only
    rw [if_pos (by simp [hs, hp]), hn]

theorem mem_bySends {p : Duty → Bool} {q : Nat × FileKind} :
    q ∈ s.sendsInOrder p ↔ ∃ g ∈ s.heldShots, g.number = q.1 ∧ g.SendsWith p q.2 := by
  have hone : ∀ r : Duty → Bool, q ∈ (bySerial s.heldShots).flatMap (Shot.pendingSends r)
      ↔ ∃ g ∈ s.heldShots, g.number = q.1 ∧ g.SendsWith r q.2 := fun r => by
    rw [List.mem_flatMap]
    exact exists_congr fun g => and_congr (bySerial_perm _).mem_iff mem_pendingSends
  unfold State.sendsInOrder
  rw [List.mem_append, hone, hone]
  constructor
  · rintro (⟨g, hg, hn, d, hd, hs, hp⟩ | ⟨g, hg, hn, d, hd, hs, hp⟩)
    · exact ⟨g, hg, hn, d, hd, hs, (Bool.and_eq_true_iff.1 hp).1⟩
    · exact ⟨g, hg, hn, d, hd, hs, (Bool.and_eq_true_iff.1 hp).1⟩
  · rintro ⟨g, hg, hn, d, hd, hs, hp⟩
    cases hu : d.urgent with
    | true => exact .inl ⟨g, hg, hn, d, hd, hs, by simp [hp, hu]⟩
    | false => exact .inr ⟨g, hg, hn, d, hd, hs, by simp [hp, hu]⟩

/-- A stronger test picks a sublist. -/
theorem pendingSends_sublist {p r : Duty → Bool} (hpr : ∀ d, p d = true → r d = true) (g : Shot) :
    (g.pendingSends p).Sublist (g.pendingSends r) := by
  unfold Shot.pendingSends
  induction sendKinds with
  | nil => exact List.Sublist.refl _
  | cons k ks ih =>
    rw [List.filterMap_cons, List.filterMap_cons]
    cases hd : g.duty (.send k) with
    | none => exact ih
    | some d =>
      dsimp only
      cases hs : d.state == .pending with
      | false =>
        rw [Bool.false_and, Bool.false_and]
        exact ih
      | true =>
        cases hp : p d with
        | true =>
          rw [hpr d hp]
          exact ih.cons_cons _
        | false =>
          cases hr : r d with
          | true => exact ih.cons _
          | false => exact ih

theorem flatMap_sublist {α β : Type} {f g : α → List β} (h : ∀ a, (f a).Sublist (g a)) : ∀ l : List α, (l.flatMap f).Sublist (l.flatMap g)
  | [] => List.Sublist.refl _
  | a :: l => by
    rw [List.flatMap_cons, List.flatMap_cons]
    exact (h a).append (flatMap_sublist h l)

/-- The deferred duties stand in the order of the send duties (R164). -/
theorem deferred_sublist (s : State) : (s.sendsInOrder (·.deferred)).Sublist (allSends (bySerial s.heldShots)) := by
  have e := sendsInOrder_eq s
  unfold allSends
  rw [← e]
  unfold State.sendsInOrder
  refine List.Sublist.append (flatMap_sublist (fun g => pendingSends_sublist (fun d hd => ?_) g) _)
    (flatMap_sublist (fun g => pendingSends_sublist (fun d hd => ?_) g) _)
  · simp only [Bool.and_eq_true] at hd ⊢
    exact ⟨trivial, hd.2⟩
  · simp only [Bool.and_eq_true] at hd ⊢
    exact ⟨trivial, hd.2⟩

end Sys2Proof.Machine
end

section
/-! A transfer starts on the queue's first eligible entry (R164, R165, R167). -/

namespace Sys2Proof.Machine

set_option Elab.async false

open Sys2Proof

variable {s t u v : State} {n m : Nat} {k j : FileKind} {h y z : Shot} {x : Transfer} {d : Duty} {e : Entry} {p : Nat × FileKind}

/-! ## One place in the queue -/

/-- The place of one PENDING duty before another: by class, by the shots' numbers, by kind (R164). -/
def JoinsBefore (p q : Nat × FileKind) (g g' : Shot) (d d' : Duty) : Prop :=
  (d.urgent = true ∧ d'.urgent = false)
    ∨ (d.urgent = d'.urgent ∧ (g.serial < g'.serial ∨ (p.1 = q.1 ∧ kindRank p.2 ≤ kindRank q.2)))

theorem mem_held_of (hg : u.held n = some y) : y ∈ u.heldShots ∧ y.number = n := by
  obtain ⟨h1, h2, h3⟩ := held_mem hg
  exact ⟨List.mem_filter.2 ⟨h1, by simp [h2]⟩, h3⟩

theorem held_of_heldShots (hu : (u.heldShots.map (·.number)).Nodup) (hy : y ∈ u.heldShots) : u.held y.number = some y := by
  obtain ⟨h1, h2⟩ := List.mem_filter.1 hy
  exact held_of_mem hu h1 (beq_iff_eq.1 h2)

theorem classOf_held (hg : u.held p.1 = some y) (hd : y.duty (.send p.2) = some d) (hs : d.state = .pending) :
    classOf (bySerial u.heldShots) p d.urgent :=
  ⟨y, (bySerial_perm _).mem_iff.2 (mem_held_of hg).1, (mem_held_of hg).2, sendsIn_iff.2 ⟨d, hd, hs, rfl⟩⟩

/-- With one place free, the duty that stands before all others joins (R164). -/
theorem refill_one (hu : (u.heldShots.map (·.number)).Nodup) (hl : u.tp.queue.length = 255) (hp : p ∈ u.sendsInOrder (·.deferred))
    (hmin : ∀ q ∈ u.sendsInOrder (·.deferred), ∀ g g' d d', u.held p.1 = some g → u.held q.1 = some g' →
      g.duty (.send p.2) = some d → g'.duty (.send q.2) = some d' → JoinsBefore p q g g' d d') : refill u = queueDeferred u p := by
  have hpw := (allSends_pairwise (l := bySerial u.heldShots) (((bySerial_perm u.heldShots).map (·.number)).nodup_iff.2 hu)
    (bySerial_pairwise _)).sublist (deferred_sublist u)
  have look : ∀ q ∈ u.sendsInOrder (·.deferred), ∃ g d, u.held q.1 = some g ∧ g.duty (.send q.2) = some d ∧ d.state = .pending := by
    intro q hq
    obtain ⟨g, hg, hn, d, hd, hs, -⟩ := mem_bySends.1 hq
    exact ⟨g, d, hn ▸ held_of_heldShots hu hg, hd, hs⟩
  have hhead : ∃ l, u.sendsInOrder (·.deferred) = p :: l := by
    cases hL : u.sendsInOrder (·.deferred) with
    | nil =>
      rw [hL] at hp
      cases hp
    | cons q l =>
      by_cases hqp : q = p
      · exact ⟨l, by rw [hqp]⟩
      · exfalso
        have hq : q ∈ u.sendsInOrder (·.deferred) := by rw [hL]; exact List.mem_cons_self
        obtain ⟨g, d, hg, hd, hs⟩ := look p hp
        obtain ⟨g', d', hg', hd', hs'⟩ := look q hq
        have hbefore := hmin q hq g g' d d' hg hg' hd hd'
        rw [hL] at hpw hp
        have hr := ((List.pairwise_cons.1 hpw).1 p ((List.mem_cons.1 hp).resolve_left (Ne.symm hqp))).2 _ _
          (classOf_held hg' hd' hs') (classOf_held hg hd hs)
        have hmem := fun {y : Shot} {n : Nat} (h : u.held n = some y) => (bySerial_perm u.heldShots).mem_iff.2 (mem_held_of h).1
        rcases hr with ⟨h1, h2⟩ | ⟨h1, -, h2⟩
        · rcases hbefore with ⟨b1, -⟩ | ⟨b1, -⟩
          · rw [b1] at h2
            cases h2
          · rw [b1, h1] at h2
            cases h2
        · obtain ⟨h3, h4⟩ := h2 g' (hmem hg') g (hmem hg) (mem_held_of hg').2 (mem_held_of hg).2
          rcases hbefore with ⟨b1, b2⟩ | ⟨-, b | ⟨b1, b2⟩⟩
          · rw [b1, b2] at h1
            cases h1
          · omega
          · have := h4 b1.symm
            omega
  obtain ⟨l, hL⟩ := hhead
  unfold refill
  rw [hL, hl]
  rfl

/-- The duty that joins: its entry is behind the queue's, and it is deferred no longer (R164). -/
theorem queueDeferred_joins (ha : u.cp.power = .active) (hd : u.sendDuty p.1 p.2 = some d) (hs : d.state = .pending)
    (hl : u.tp.queue.length < 256) (hq : ∀ e ∈ u.tp.queue, ¬ (e.shot = p.1 ∧ e.kind = p.2)) :
    ⟨p.1, p.2, d.urgent, u.tp.nextOrder⟩ ∈ (queueDeferred u p).tp.queue
    ∧ (queueDeferred u p).tp.queue.length = u.tp.queue.length + 1 ∧ (queueDeferred u p).tp.deferred = u.tp.deferred - 1
    ∧ ∀ m j, (queueDeferred u p).sendDuty m j = if m = p.1 ∧ j = p.2 then some (undefer d) else u.sendDuty m j := by
  have hd1 : (u.undefers p).sendDuty p.1 p.2 = some (undefer d) := by
    rw [sendDuty_undefers, if_pos ⟨rfl, rfl⟩, hd]
    rfl
  have hj : (u.undefers p).MayJoin p.1 p.2 := ⟨ha, by rw [dutyOf_send, hd1]; exact congrArg some hs, hq⟩
  rw [queueDeferred_eq, joinTether_room hj hl, hd1]
  refine ⟨mem_sortTether.2 (List.mem_append_right _ (List.mem_singleton.2 rfl)), ?_, rfl, fun m j => ?_⟩
  · show (sortTether _).length = _
    rw [(sortTether_perm _).length_eq, List.length_append]
    rfl
  · show (u.undefers p).sendDuty m j = _
    rw [sendDuty_undefers, hd]
    rfl

/-! ## The offer -/

/-- The transfer that starts on an entry (R167). -/
def State.newTransfer (s : State) (e : Entry) : Transfer :=
  { shot := e.shot, kind := e.kind, urgent := e.urgent, id := (s.tp.ids + 1) % 65536
    total := ((s.held e.shot).map (fun x => x.payload e.kind)).getD 0
    resume := ((s.sendDuty e.shot e.kind).map (·.resume)).getD 0, expires := s.ackDue }

/-- The state with the entry taken and its duty ACTIVE. -/
def State.taken (s : State) (e : Entry) : State :=
  { setDuty e.shot (.send e.kind) (Duty.into .active) s with tp := { s.tp with
    phase := .offering, ids := (s.tp.ids + 1) % 65536, transfer := some (s.newTransfer e)
    queue := s.tp.queue.filter (fun x => !(x.shot == e.shot && x.kind == e.kind)) } }

/-- The state with the transfer offered. -/
def State.offered (s : State) (e : Entry) : State := sendOffer (s.newTransfer e) (s.taken e)

theorem startTransfer_eq (he : s.sendHead = some e) : startTransfer s = refill (s.offered e) := by
  unfold startTransfer
  rw [he]
  rfl

theorem offered_sendDuty (s : State) (e : Entry) (m : Nat) (j : FileKind) : (s.offered e).sendDuty m j
    = if m = e.shot ∧ j = e.kind then (s.sendDuty e.shot e.kind).map (Duty.into .active) else s.sendDuty m j :=
  sendDuty_setDuty (g := Duty.into .active) (into_key .active) e.shot m e.kind j s

theorem offered_held (s : State) (e : Entry) (m : Nat) : (s.offered e).held m
    = if m = e.shot then (s.held e.shot).map (Shot.setDuty (.send e.kind) (Duty.into .active)) else s.held m :=
  find_updateHeld fun _ hx => isHeld_iff.2 (isHeld_iff.1 (find_mem hx).2)

theorem offered_numbers (s : State) (e : Entry) : (s.offered e).heldShots.map (·.number) = s.heldShots.map (·.number) :=
  heldNumbers_modHeld (f := Shot.setDuty (.send e.kind) (Duty.into .active)) (fun _ h => h) s

theorem offered_not_pending (s : State) (e : Entry) : (s.offered e).dutyOf e.shot (.send e.kind) ≠ some .pending := by
  rw [dutyOf_send, offered_sendDuty, if_pos ⟨rfl, rfl⟩, Option.map_map]
  cases s.sendDuty e.shot e.kind with
  | none => exact fun c => nomatch c
  | some d =>
    intro c
    have := (into_state .active d).symm.trans (Option.some.inj c)
    cases this

theorem offered_absent (s : State) (e : Entry) : ∀ y ∈ (s.offered e).tp.queue, y.shot = e.shot → y.kind ≠ e.kind := by
  intro y hy hn hk
  have := (List.mem_filter.1 hy).2
  rw [hn, hk] at this
  simp at this

theorem offered_out (hh : s.held e.shot = some h) : (s.offered e).tp.out = s.tp.out
    ++ [.offer (s.newTransfer e).id e.shot h.burst h.frame e.kind e.urgent (s.newTransfer e).total (s.newTransfer e).resume (h.caption.getD [])] := by
  have ht : (s.taken e).held e.shot = some (h.setDuty (.send e.kind) (Duty.into .active)) := held_setDuty hh _ _
  have e1 : (s.offered e).tp.out = s.tp.out ++ [.offer (s.newTransfer e).id (s.newTransfer e).shot
      (((s.taken e).held (s.newTransfer e).shot).getD {}).burst (((s.taken e).held (s.newTransfer e).shot).getD {}).frame
      (s.newTransfer e).kind (s.newTransfer e).urgent (s.newTransfer e).total (s.newTransfer e).resume
      ((((s.taken e).held (s.newTransfer e).shot).getD {}).caption.getD [])] := rfl
  have es : (s.newTransfer e).shot = e.shot := rfl
  rw [e1, es, ht]
  rfl

/-- Where no duty is deferred, the queue is the one that the entry has left. -/
theorem refill_none (hn : u.sendsInOrder (·.deferred) = []) : refill u = u := by
  unfold refill
  rw [hn, List.take_nil]
  rfl

theorem offered_undeferred (hd : ∀ h ∈ s.heldShots, ∀ d ∈ h.duties, d.deferred = false) (e : Entry) :
    (s.offered e).sendsInOrder (·.deferred) = [] := by
  refine List.eq_nil_iff_forall_not_mem.2 fun q hq => ?_
  obtain ⟨g, hg, -, d, hdg, -, hdef⟩ := mem_bySends.1 hq
  obtain ⟨hgt, hgs⟩ := List.mem_filter.1 hg
  have hmem : d ∈ g.duties := List.mem_of_find?_eq_some hdg
  have ht : g ∈ updateFirst (isHeld e.shot) (Shot.setDuty (.send e.kind) (Duty.into .active)) s.ss.table := hgt
  have hall : ∀ l : List Shot, (∀ h ∈ l, h.state = .held → ∀ d ∈ h.duties, d.deferred = false) →
      ∀ h ∈ updateFirst (isHeld e.shot) (Shot.setDuty (.send e.kind) (Duty.into .active)) l, h.state = .held → ∀ d ∈ h.duties, d.deferred = false := by
    intro l
    induction l with
    | nil => exact fun h => h
    | cons a l ih =>
      intro hl h hh hst d hdm
      unfold updateFirst at hh
      split at hh
      · rcases List.mem_cons.1 hh with rfl | hh
        · obtain ⟨d0, hd0, rfl⟩ := List.mem_map.1 hdm
          have h0 := hl a List.mem_cons_self hst d0 hd0
          split
          · exact h0
          · exact h0
        · exact hl h (List.mem_cons_of_mem _ hh) hst d hdm
      · rcases List.mem_cons.1 hh with rfl | hh
        · exact hl h List.mem_cons_self hst d hdm
        · exact ih (fun h' hh' => hl h' (List.mem_cons_of_mem _ hh')) h hh hst d hdm
  have := hall s.ss.table (fun h hh hst => hd h (List.mem_filter.2 ⟨hh, by simp [hst]⟩)) g ht (beq_iff_eq.1 hgs) d hmem
  cases this.symm.trans hdef

/-! ## A place taken by a deferred duty -/

/-- A PENDING duty behind the offer was one before it, of the same shot. -/
theorem offered_back (hg : (s.offered e).held m = some y) (hd : y.duty (.send j) = some d) (hs : d.state = .pending) :
    ∃ h, s.held m = some h ∧ h.duty (.send j) = some d ∧ h.serial = y.serial := by
  rw [offered_held] at hg
  split at hg
  · rename_i hm
    subst hm
    obtain ⟨h, hh, rfl⟩ := Option.map_eq_some_iff.1 hg
    refine ⟨h, hh, ?_, rfl⟩
    rw [duty_setDuty (g := Duty.into .active) (into_key .active)] at hd
    split at hd
    · obtain ⟨d0, -, rfl⟩ := Option.map_eq_some_iff.1 hd
      rw [into_state] at hs
      cases hs
    · exact hd
  · exact ⟨y, hg, hd, rfl⟩

/-- The queue's length behind the entry that has left it. -/
theorem offered_length (hq : e ∈ s.tp.queue) (hn : (s.tp.queue.map (fun y => (y.shot, y.kind))).Nodup) :
    (s.offered e).tp.queue.length + 1 = s.tp.queue.length := by
  have e1 : (s.offered e).tp.queue = s.tp.queue.filter (fun x => !(x.shot == e.shot && x.kind == e.kind)) := rfl
  have hone : (s.tp.queue.filter (fun x => x.shot == e.shot && x.kind == e.kind)).length = 1 := by
    have hc : (s.tp.queue.map (fun y => (y.shot, y.kind))).count (e.shot, e.kind) = 1 :=
      List.count_eq_one_of_mem hn (List.mem_map_of_mem (f := fun y : Entry => (y.shot, y.kind)) hq)
    rw [List.count_eq_countP, List.countP_map, List.countP_eq_length_filter] at hc
    exact hc
  have hsum := List.length_eq_length_filter_add (l := s.tp.queue) (fun x => x.shot == e.shot && x.kind == e.kind)
  rw [e1]
  omega

end Sys2Proof.Machine
end

section
/-! The tether link, transfers, segments and the ack timer: the statement (R163 to R175, R177, R214). -/

namespace Sys2Proof.Machine

set_option Elab.async false

open Sys2Proof

variable {s t u v : State} {n m : Nat} {k j : FileKind} {h y z : Shot} {x : Transfer} {d : Duty} {e : Entry} {p : Nat × FileKind}

/-! ## The link-up line -/

/-- What a lost link leaves of the transfer in hand (R163, R175). -/
theorem tetherLost_loses (hp : s.tp.phase ≠ .down) : (tetherLost s).tp.phase = .down ∧ (tetherLost s).tp.credits = 0
    ∧ (tetherLost s).tp.transfer = none
    ∧ (tetherLost s).Tells .tetherState (.num 0) [.word "DOWN", .word "LINK_DOWN", .u16 (tetherLost s).tp.queue.length]
    ∧ (s.tp.transfer = none → tetherLost s = { s with
        tp := { s.tp with phase := .down, credits := 0 }
        cp := raiseIn .tetherState (.num 0) [.word "DOWN", .word "LINK_DOWN", .u16 s.tp.queue.length] s.time s.cp })
    ∧ ∀ x d, s.tp.transfer = some x → s.sendDuty x.shot x.kind = some d →
      (∃ u, (tetherLost s).sendDuty x.shot x.kind = some u ∧ u.state = .pending
        ∧ u.resume = if s.tp.phase = .sending then x.acked else d.resume)
      ∧ (s.cp.power = .active → s.tp.queue.length < 256 → (∀ y ∈ s.tp.queue, y.shot = x.shot → y.kind ≠ x.kind) →
        ∃ e ∈ (tetherLost s).tp.queue, e.shot = x.shot ∧ e.kind = x.kind
          ∧ ∀ y ∈ (tetherLost s).tp.queue, y.urgent = e.urgent → e.order ≤ y.order) := by
  unfold tetherLost
  rw [if_neg hp]
  cases hx : s.tp.transfer with
  | none => exact ⟨rfl, rfl, hx, raise_tells _ _ _ _, fun _ => rfl, fun x d h => nomatch h⟩
  | some x =>
    dsimp only
    have hport := suspendTransfer_port x s
    obtain ⟨g, hj⟩ := joinTether_joins true x.shot x.kind (suspendTransfer x s)
    refine ⟨rfl, rfl, ?_, raise_tells _ _ _ _, fun c => (nomatch c), fun x' d hx' hd => ?_⟩
    · refine (joinTether_transfer true x.shot x.kind _).trans ?_
      rw [hport]
    · obtain rfl := Option.some.inj hx'
      obtain ⟨hs, hpow⟩ := suspendTransfer_held hd
      refine ⟨⟨g (s.suspends x d), ?_, (hj.duty _).2.1.trans (into_state .pending d), (hj.duty _).2.2.trans ?_⟩, fun ha hl hab => ?_⟩
      · show (joinTether true x.shot x.kind (suspendTransfer x s)).sendDuty x.shot x.kind = _
        obtain ⟨y, hy, hyd⟩ := Option.bind_eq_some_iff.1 hs
        unfold State.sendDuty
        rw [hj.held y hy, Option.bind_some, duty_setDuty (fun d => (hj.duty d).1), if_pos rfl, hyd]
        rfl
      · show (if s.tp.phase == .sending then x.acked else d.resume) = _
        by_cases hps : s.tp.phase = .sending
        · rw [if_pos (beq_iff_eq.2 hps), if_pos hps]
        · rw [if_neg (by simpa using hps), if_neg hps]
      · have hq : (suspendTransfer x s).tp.queue = s.tp.queue := by rw [hport]
        have hmj : (suspendTransfer x s).MayJoin x.shot x.kind := ⟨hpow.trans ha, by
          rw [dutyOf_send, hs]
          exact congrArg some (into_state .pending d), fun y hy c => hab y (by rw [← hq]; exact hy) c.1 c.2⟩
        exact joinTether_first hmj (by rw [hq]; exact hl)

/-! ## A transfer's start -/

/-- Whether an entry is eligible, as R165 says it. -/
def State.MayBeSent (s : State) (e : Entry) : Prop := match e.kind with
  | .proof => s.dutyOf e.shot .develop = some .done
  | .memo => ¬ (s.mi.phase = .recording ∧ ∃ m, s.mi.current = some m ∧ m.shot = e.shot)
  | _ => True

theorem eligible_iff : s.eligible e = true ↔ s.MayBeSent e := by
  unfold State.eligible State.MayBeSent
  cases e.kind with
  | proof => exact beq_iff_eq
  | memo =>
    dsimp only
    unfold State.recordsInto
    cases s.mi.current with
    | none => simp
    | some m => simp [imp_iff_not_or]
  | raw | caption => simp

theorem sendHead_none (hn : ∀ e ∈ s.tp.queue, ¬ s.MayBeSent e) : s.sendHead = none :=
  List.find?_eq_none.2 fun e he c => hn e he (eligible_iff.1 c)

theorem sendHead_some {front back : List Entry} (hq : s.tp.queue = front ++ e :: back) (he : s.MayBeSent e)
    (hf : ∀ y ∈ front, ¬ s.MayBeSent y) : s.sendHead = some e := by
  unfold State.sendHead
  rw [hq, List.find?_append, List.find?_eq_none.2 fun y hy c => hf y hy (eligible_iff.1 c), Option.none_or,
    List.find?_cons_of_pos (eligible_iff.2 he)]

/-- In a queue in its order no eligible entry stands ahead of the one offered (R165). -/
theorem eligible_ahead {front back : List Entry} {R : Entry → Entry → Prop} (hq : s.tp.queue = front ++ e :: back)
    (hf : ∀ y ∈ front, ¬ s.MayBeSent y) (hp : s.tp.queue.Pairwise R) : ∀ y ∈ s.tp.queue, s.MayBeSent y → y = e ∨ R e y := by
  intro y hy hm
  rw [hq] at hy hp
  rcases List.mem_append.1 hy with hy | hy
  · exact absurd hm (hf y hy)
  · rcases List.mem_cons.1 hy with rfl | hy
    · exact .inl rfl
    · exact .inr ((List.pairwise_cons.1 (List.pairwise_append.1 hp).2.1).1 y hy)

/-- The duty that a full queue's place goes to (R164). -/
structure State.Deferred (s : State) (h : Shot) (k : FileKind) (d : Duty) : Prop where
  held : h ∈ s.heldShots
  duty : h.duty (.send k) = some d
  pending : d.state = .pending
  deferred : d.deferred = true
  absent : (h.number, k) ∉ s.tp.queue.map (fun y => (y.shot, y.kind))

/-- When an entry leaves a full queue, the first deferred duty joins, and the others stay deferred (R164). -/
theorem startTransfer_refills (ha : s.cp.power = .active) (hl : s.tp.queue.length = 256) (he : e ∈ s.tp.queue)
    (hk : (s.tp.queue.map (fun y => (y.shot, y.kind))).Nodup) (hn : (s.heldShots.map (·.number)).Nodup) (hd : s.Deferred h k d)
    (hmin : ∀ h2 k2 d2, h2 ∈ s.heldShots → h2.duty (.send k2) = some d2 → d2.state = .pending → d2.deferred = true →
      s.Deferred h2 k2 d2 ∧ JoinsBefore (h.number, k) (h2.number, k2) h h2 d d2) :
    ⟨h.number, k, d.urgent, s.tp.nextOrder⟩ ∈ (refill (s.offered e)).tp.queue ∧ (refill (s.offered e)).tp.queue.length = 256
      ∧ (refill (s.offered e)).tp.deferred = s.tp.deferred - 1
      ∧ ((refill (s.offered e)).sendDuty h.number k).map (·.deferred) = some false
      ∧ ∀ h2 k2 d2, s.Deferred h2 k2 d2 → h2.number ≠ h.number ∨ k2 ≠ k → (refill (s.offered e)).sendDuty h2.number k2 = some d2 := by
  have hkey : (e.shot, e.kind) ∈ s.tp.queue.map (fun y => (y.shot, y.kind)) := List.mem_map_of_mem (f := fun y : Entry => (y.shot, y.kind)) he
  have hne : ∀ {h2 k2 d2}, s.Deferred h2 k2 d2 → ¬ (h2.number = e.shot ∧ k2 = e.kind) := fun hd2 c =>
    hd2.absent (by rw [c.1, c.2]; exact hkey)
  have hsame : ∀ {h2 k2 d2}, s.Deferred h2 k2 d2 → (s.offered e).sendDuty h2.number k2 = some d2 := fun hd2 => by
    rw [offered_sendDuty, if_neg (hne hd2)]
    unfold State.sendDuty
    rw [held_of_heldShots hn hd2.held]
    exact hd2.duty
  have hnu : ((s.offered e).heldShots.map (·.number)).Nodup := by rw [offered_numbers]; exact hn
  have hlen : (s.offered e).tp.queue.length = 255 := by
    have := offered_length he hk
    omega
  obtain ⟨g, hg, hgd⟩ := Option.bind_eq_some_iff.1 (hsame hd)
  have hone : refill (s.offered e) = queueDeferred (s.offered e) (h.number, k) := by
    refine refill_one hnu hlen (mem_bySends.2 ⟨g, (mem_held_of hg).1, (mem_held_of hg).2, d, hgd, hd.pending, hd.deferred⟩)
      fun q hq g1 g2 d1 d2 hg1 hg2 hd1 hd2 => ?_
    obtain ⟨g3, hg3, hn3, d3, hd3, hp3, hdef3⟩ := mem_bySends.1 hq
    have hg3' := held_of_heldShots hnu hg3
    rw [hn3] at hg3'
    obtain rfl := Option.some.inj (hg2.symm.trans hg3')
    obtain rfl := Option.some.inj (hd2.symm.trans hd3)
    obtain ⟨h2, hh2, hdu2, hser2⟩ := offered_back hg2 hd2 hp3
    obtain ⟨h1, hh1, hdu1, hser1⟩ := offered_back hg hgd hd.pending
    obtain rfl := Option.some.inj (hg1.symm.trans hg)
    obtain rfl := Option.some.inj (hd1.symm.trans hgd)
    obtain rfl := Option.some.inj (hh1.symm.trans (held_of_heldShots hn hd.held))
    obtain ⟨-, hb⟩ := hmin h2 q.2 d2 (mem_held_of hh2).1 hdu2 hp3 hdef3
    have hnum := (mem_held_of hh2).2
    unfold JoinsBefore at *
    rw [← hser1, ← hser2]
    rw [hnum] at hb
    exact hb
  have habs : ∀ y ∈ (s.offered e).tp.queue, ¬ (y.shot = h.number ∧ y.kind = k) := fun y hy c => by
    have hy' : y ∈ s.tp.queue := (List.mem_filter.1 hy).1
    exact hd.absent (List.mem_map.2 ⟨y, hy', Prod.ext c.1 c.2⟩)
  obtain ⟨j1, j2, j3, j4⟩ := queueDeferred_joins (u := s.offered e) (p := (h.number, k)) ha (hsame hd) hd.pending (by omega) habs
  rw [hone]
  refine ⟨j1, by rw [j2, hlen], j3, by rw [j4, if_pos ⟨rfl, rfl⟩]; rfl, fun h2 k2 d2 hd2 hdiff => ?_⟩
  rw [j4, if_neg (fun c => hdiff.elim (fun d => d c.1) (fun d => d c.2))]
  exact hsame hd2

/-- What a transfer's start leaves of the port (R167). -/
theorem startTransfer_offers (e : Entry) (s : State) : (refill (s.offered e)).tp.phase = .offering
    ∧ (refill (s.offered e)).tp.transfer = some (s.newTransfer e) ∧ (refill (s.offered e)).tp.ids = (s.tp.ids + 1) % 65536
    ∧ (refill (s.offered e)).tp.out = (s.offered e).tp.out ∧ (refill (s.offered e)).tp.offers = min (s.tp.offers + 1) 4294967295
    ∧ (refill (s.offered e)).mem = s.mem ∧ (refill (s.offered e)).cp = s.cp := by
  have hq := (refill_queues (s.offered e)).eq
  refine ⟨?_, ?_, ?_, ?_, ?_, ?_, ?_⟩ <;> rw [hq] <;> rfl

/-! ## Segments -/

theorem segData (m : List Host.Cell) (blocks : List Nat) (off n : Nat) : (readRange m blocks off n).length = n
    ∧ ∀ i, i < n → (readRange m blocks off n).getD i 0 = readExtent m blocks (off + i) := by
  unfold readRange
  refine ⟨by rw [List.length_map, List.length_range], fun i hi => ?_⟩
  simp [List.getD, hi]

theorem maySend_of (hx : s.tp.transfer = some x) (hp : s.tp.phase = .sending) (h1 : x.sent < x.total) (h2 : 1 ≤ s.tp.credits)
    (h3 : x.inFlight < 8) (h4 : x.sent + min 16384 (x.total - x.sent) ≤ x.readTo) (h5 : x.captionDue = false) : s.maySend = true := by
  unfold State.maySend
  rw [hx]
  have h3' : x.inFlight < Config.maxInFlight := h3
  have h4' : x.sent + x.segment ≤ x.readTo := h4
  simp [hp, h1, h2, h3', h4', h5]

/-! ## The statement -/

/-- Settles O53. -/
theorem transfers : Obligations.Transfers := by
  unfold Obligations.Transfers
  intro v s line q eligible ahead
  have hlink : exec (.tetherLinkChange v) s = .next (if s.lines.linkUp ≠ v ∧ s.live then linkUpStep line else line) := rfl
  have hlive : s.cp.power = .active → s.live = true := fun h => beq_iff_eq.2 h
  have htimer : ∀ x, s.tp.transfer = some x → exec .ackTimerExpiry s
      = .next (if s.tp.phase.working ∧ x.expires ≤ s.time then ackExpired x s else s) := fun x hx => by
    show execAckTimerExpiry s = _
    unfold execAckTimerExpiry
    rw [hx]
  refine ⟨fun hc => ?_, fun h0 hv ha => ?_, fun h0 hv ha => ?_, fun hc => ?_, fun e front back hi hq he hf => ?_, fun hm => ?_,
    fun x hx hp h1 h2 h3 h4 h5 => ?_, fun hc => ?_, fun x hx hexp ht => ⟨fun hp => ?_, fun hp => ?_⟩, fun x hx hexp ht hp => ?_, fun hc => ?_,
    fun x hx hp hc => ?_, fun f => ?_⟩
  · rw [hlink, if_neg]
    rintro ⟨h1, h2⟩
    exact hc.elim h1 fun h => h (beq_iff_eq.1 h2)
  · subst hv
    rw [if_pos ⟨by rw [h0]; decide, hlive ha⟩] at hlink
    have hup : line.lines.linkUp = true := rfl
    refine ⟨_, hlink, fun hp => ?_, fun hp => ?_⟩
    · rw [linkUpStep_resting (s := line) hp, if_pos hup]
      rfl
    · unfold linkUpStep
      rw [if_pos hup, if_neg (show ¬ line.tp.phase = .down from hp)]
  · subst hv
    rw [if_pos ⟨by rw [h0]; decide, hlive ha⟩] at hlink
    have hdown : linkUpStep line = tetherLost line := if_neg (show ¬ (false = true) by decide)
    rw [hdown] at hlink
    by_cases hp : s.tp.phase = .down
    · have e : tetherLost line = line := if_pos hp
      rw [e] at hlink
      exact ⟨line, hlink, hp, fun _ => rfl, fun c => absurd hp c, fun c => absurd hp c, fun _ _ c => absurd hp c⟩
    · obtain ⟨l1, l2, l3, l4, l5, l6⟩ := tetherLost_loses (s := line) hp
      refine ⟨_, hlink, l1, fun c => absurd c hp, fun _ => ⟨l2, l3, l4⟩, fun _ hx => l5 hx, fun x d _ hx hd => ?_⟩
      obtain ⟨m1, m2⟩ := l6 x d hx hd
      exact ⟨m1, m2 ha⟩
  · have hno : s.mayOffer = false := by
      unfold State.mayOffer
      rcases hc with hc | hc
      · rw [beq_eq_false_iff_ne.2 hc]
        rfl
      · rw [sendHead_none hc]
        exact Bool.and_false _
    show Host.Outcome.next (if s.mayOffer then startTransfer s else s) = _
    rw [hno]
    rfl
  · have hhead := sendHead_some hq he hf
    have hmay : s.mayOffer = true := by
      unfold State.mayOffer
      rw [hhead, hi]
      rfl
    have hex : exec .transferStart s = .next (refill (s.offered e)) := by
      show Host.Outcome.next (if s.mayOffer then startTransfer s else s) = _
      rw [hmay, if_pos rfl, startTransfer_eq hhead]
    obtain ⟨f1, f2, f3, f4, f5, f6, f7⟩ := startTransfer_offers e s
    have hqs := refill_queues (s.offered e)
    have heq : e ∈ s.tp.queue := by rw [show s.tp.queue = _ from hq]; exact List.mem_append_right _ List.mem_cons_self
    refine ⟨_, s.newTransfer e, hex, eligible_ahead hq hf, f1, f2, rfl, rfl, rfl, rfl, f3, rfl, rfl, rfl, rfl, fun h hh => ?_,
      fun d hd => ⟨?_, ?_⟩, refill_absent (offered_not_pending s e) (offered_absent s e), fun hd => ?_, ?_,
      fun h hh => f4.trans (offered_out hh), f5, f6, f7⟩
    · show ((s.held e.shot).map _).getD 0 = _
      rw [hh]
      rfl
    · show ((s.sendDuty e.shot e.kind).map _).getD 0 = _
      rw [hd]
      rfl
    · rw [← dutyOf_send, hqs.dutyOf, dutyOf_send, offered_sendDuty, if_pos ⟨rfl, rfl⟩, hd]
      exact congrArg some (into_state .active d)
    · rw [refill_none (offered_undeferred hd e)]
      rfl
    · intro ha hl hk hn rank deferred h k d hdef hmin
      have hrank : ∀ k, rank k = kindRank k := fun k => by cases k <;> rfl
      have hdd : ∀ {h k d}, deferred h k d → s.Deferred h k d := fun ⟨d1, d2, d3, d4, d5⟩ => ⟨d1, d2, d3, d4, d5⟩
      obtain ⟨r1, r2, r3, r4, r5⟩ := startTransfer_refills (e := e) ha hl heq hk hn (hdd hdef) fun h2 k2 d2 a1 a2 a3 a4 => by
        obtain ⟨b1, b2⟩ := hmin h2 k2 d2 a1 a2 a3 a4
        rw [hrank, hrank] at b2
        exact ⟨hdd b1, b2⟩
      exact ⟨r1, r2, r3, r4, fun h2 k2 d2 hd2 => r5 h2 k2 d2 (hdd hd2)⟩
  · show execSegSend s = _
    unfold execSegSend
    split
    · rw [hm]
      rfl
    · rfl
  · have hd := segData s.mem (((s.held x.shot).map (fun h => h.extent x.kind)).getD []) x.sent (min 16384 (x.total - x.sent))
    refine ⟨readRange s.mem (((s.held x.shot).map (fun h => h.extent x.kind)).getD []) x.sent (min 16384 (x.total - x.sent)), ?_, hd.1,
      fun i hi' => hd.2 i (by rw [hd.1] at hi'; exact hi')⟩
    show execSegSend s = _
    unfold execSegSend
    rw [hx]
    dsimp only
    rw [maySend_of hx hp h1 h2 h3 h4 h5]
    rfl
  · rcases hc with hc | hc
    · show execAckTimerExpiry s = _
      unfold execAckTimerExpiry
      rw [hc]
    · cases hx : s.tp.transfer with
      | none =>
        show execAckTimerExpiry s = _
        unfold execAckTimerExpiry
        rw [hx]
      | some x =>
        rw [htimer x hx, if_neg]
        rintro ⟨-, h2⟩
        have := hc x hx
        omega
  · have e : exec .ackTimerExpiry s = .next (sendOffer { x with timeouts := x.timeouts + 1, expires := s.ackDue }
        (setTransfer (some { x with timeouts := x.timeouts + 1, expires := s.ackDue }) s)) := by
      rw [htimer x hx, if_pos ⟨by rw [hp]; rfl, hexp⟩]
      unfold ackExpired
      dsimp only
      rw [if_neg (show ¬ Config.maxTimeouts ≤ x.timeouts + 1 from Nat.not_le.2 ht), if_pos hp]
    refine ⟨_, e, rfl, hp, rfl, fun h hh => ?_⟩
    have hh' : (setTransfer (some { x with timeouts := x.timeouts + 1, expires := s.ackDue }) s).held x.shot = some h := hh
    unfold sendOffer
    dsimp only
    rw [hh']
    rfl
  · rw [htimer x hx, if_pos ⟨by rw [hp]; rfl, hexp⟩]
    unfold ackExpired
    dsimp only
    rw [if_neg (show ¬ Config.maxTimeouts ≤ x.timeouts + 1 from Nat.not_le.2 ht), if_neg (by rw [hp]; decide)]
    rfl
  · have e : exec .ackTimerExpiry s = .next (failTransfer { x with timeouts := x.timeouts + 1, expires := s.ackDue } s) := by
      rw [htimer x hx, if_pos ⟨by rcases hp with hp | hp <;> rw [hp] <;> rfl, hexp⟩]
      unfold ackExpired
      dsimp only
      rw [if_pos (show Config.maxTimeouts ≤ x.timeouts + 1 from ht)]
    have hfail := failTransfer_fails { x with timeouts := x.timeouts + 1, expires := s.ackDue } s
    obtain ⟨p1, p2, p3, p4⟩ := hfail.port
    have key : ∀ {t : State} {kd : NoticeKind} {sub : Subject} {w : List Wire}, t.Tells kd sub w →
        (∃ y ∈ t.cp.notices, y.key = (kd, sub)) ∨ t.cp.lost = true := fun ht => ht.imp (fun ⟨y, hy, hk, _⟩ => ⟨y, hy, hk⟩) id
    refine ⟨_, e, p1, p2, p3, p4, key hfail.told, fun h hh hd hu => ?_⟩
    obtain ⟨⟨u, k1, k2, k3⟩, k4⟩ := hfail.kept h hh hd hu
    exact ⟨u, k1, k2, k3, key k4⟩
  · show execCaptionUpdate s = _
    unfold execCaptionUpdate
    cases hx : s.tp.transfer with
    | none => rfl
    | some x =>
      dsimp only
      rw [if_neg]
      rintro ⟨h1, h2⟩
      rcases hc x hx with h | h
      · exact h h1
      · rw [h] at h2
        cases h2
  · show execCaptionUpdate s = _
    unfold execCaptionUpdate
    rw [hx]
    dsimp only
    rw [if_pos ⟨hp, hc⟩]
    rfl
  · refine ⟨f.body.1, f.body.2, rfl, ?_⟩
    cases f with
    | offer id shot burst frame kind urgent total resume caption => cases kind <;> cases urgent <;> exact ⟨rfl, rfl⟩
    | seg => exact ⟨rfl, rfl⟩
    | captionUpdate => exact ⟨rfl, rfl⟩
    | abort id reason => cases reason <;> exact ⟨rfl, rfl⟩
    | refused request shot reason => cases reason <;> exact ⟨rfl, rfl⟩
    | notAvailable request shot kind reason =>
      cases kind with
      | none => cases reason <;> exact ⟨rfl, rfl⟩
      | some k => cases k <;> cases reason <;> exact ⟨rfl, rfl⟩

end Sys2Proof.Machine
end

section
/-! The card statement's claim about a failed card duty, and two HELD shots of one number. -/

namespace Sys2Proof.Machine

set_option Elab.async false

open Sys2Proof

/-- A HELD shot of number 1 with one PROOF duty for card A in a state. -/
def proofOnA (st : DutyState) : Shot := { state := .held, number := 1, duties := [{ key := .card .proof .a, state := st }] }

/-- A PROOF file of shot 1 whose next sector would begin a 65th fragment. -/
def brokenFile : CardFile :=
  { shot := 1, kind := .proof, header := [], payload := 32768, sectors := 65, issued := 64
    fragments := List.replicate 64 ⟨0, 1⟩, inHand := 32768 }

/-- Two HELD shots of number 1, the first writing its PROOF file to card A and the second waiting for its proof, and card A
STARVED and final with another shot's job queued, so that the overflow move is due once the file ends. -/
def twinProofs : State :=
  { State.reset with
    cfg := { State.reset.cfg with plans := { State.reset.cfg.plans with card := .overflow } }
    ss := { Store.reset with table := proofOnA .active :: proofOnA .pending :: List.replicate 254 {} }
    cw := { State.reset.cw with
      a := { state := .starved, final := true, extents := [⟨0, 1⟩], queue := [⟨2, .raw⟩], file := some brokenFile } } }

theorem twinProofs_held : twinProofs.held 1 = some (proofOnA .active) := rfl

/-- The failure of the file makes the first shot's duty FAILED; the move, which finds the second shot's PENDING duty by its
number, then turns that failed duty into one of card B. -/
theorem issueWrite_twinProofs : ((issueWrite .a twinProofs).held 1).map (·.dutyState (.card .proof .a)) = some none := by
  decide

/-- Refutes O52: its claim that a file failed at the 65th fragment leaves its duty FAILED does not ask for distinct numbers,
as its claims about completion and faults do. With two HELD shots of one number, a state that R3 rules out, the overflow move
(R152) that the failure brings acts on the failed duty, and the shot has no duty of that target any more. -/
theorem not_cardWrites : ¬ Obligations.CardWrites := by
  intro h
  obtain ⟨-, fragmented, -⟩ := h.1 .a 0 twinProofs
  obtain ⟨t, issued, -, -, -, -, failed, -⟩ :=
    fragmented brokenFile rfl rfl rfl (by decide) (by decide) rfl (by decide) (by decide)
  have ht : issueWrite .a twinProofs = t := by injection issued
  obtain ⟨u, held, hu, -⟩ : ∃ u, t.held 1 = some u ∧ u.dutyState (.card .proof .a) = some .failed ∧ _ := failed (proofOnA .active) twinProofs_held (by decide) (by decide)
  have moved := issueWrite_twinProofs
  rw [ht, held, Option.map_some, hu] at moved
  cases moved

end Sys2Proof.Machine
end
